-- ==== Sys2Proof/Word.lean ====
section
/-! DEFINITION. The word types of the machine and the sparse map that every addressed storage uses (00 R5). -/
namespace Sys2Proof

abbrev Byte := BitVec 8
abbrev Word32 := BitVec 32
abbrev Word64 := BitVec 64
abbrev Word128 := BitVec 128

/-- Storage by number: pairs of key and value; a key that is not listed holds the storage's default value. -/
abbrev SMap (α : Type) := List (Nat × α)

end Sys2Proof
end

