-- ==== Sys2Proof/Config.lean ====
section
/-! DEFINITION. What an implementation of the part fixes, and the free values: constants with no body. -/
namespace Sys2Proof.Config

/-- A built-in special function outside the cases that R270 fixes: firmware bits (log entry 8). -/
opaque sfnBits : Nat → Word32 → Word32
/-- Ed25519 signature with the fused identity key, 64 bytes (18 R448) (log entry 9). -/
opaque identitySign : List Byte → Fin 64 → Byte
/-- Public half of the fused identity key, 32 bytes (18 R448) (log entry 9). -/
opaque identityKey : Fin 32 → Byte
/-- Fused serial number (18 R445) (log entry 9). -/
opaque serial : Word64
/-- SHA-512 of the firmware signing key and the minimum security version, both fused (18 R444) (log entry 9). -/
opaque signingKeyHash : Fin 64 → Byte
opaque minVersion : Nat
/-- SHA-512 of the built-in micro-programs (18 R448, R449, 09 R271) (log entry 9). -/
opaque microHash : Fin 64 → Byte
/-- A unit's 256-byte test log (18 R446 DIAG): unit class, index, byte (log entry 9). -/
opaque diagLog : Nat → Nat → Nat → Byte
/-- A value that the manual does not state for some operands (log entry 17): by place and operands. Places: 0 the bound of a
brick node whose cell range is reversed (12 R340), 1 entry and exit distance of a slab with an infinite operand (14 R382), 2 the
results of a triangle test of a ray with an infinite origin or direction (14 R383), 3 a word that the frame output engine cannot
read (17 R441), 4 the old value of an atomic whose home departed on the way (17 R437), 5 a byte of the window
of a crew that has ended, which a copy to global memory still reads (05 R139, 06 R185), 6 a byte of a task's patch in the patch
area (06 R154). -/
opaque unstated : Nat → List Nat → Word64

/-- How many ticks after the first piece of a misaligned load another piece is read (01 R18, log entry 84): number, piece. -/
opaque pieceDelay : Nat → Nat → Fin 16

end Sys2Proof.Config
end

