-- ==== Sys2Proof/Syntax.lean ====
section
/-! DEFINITION. The syntax: one constructor of Instr for each row of spec/opcode_table.json. Fields of an encoded
instruction carry the names and the raw values of the table's fields; WellFormed.lean bounds them. -/
namespace Sys2Proof

/-- Memory prefix (07 R197): raw OFF, ACQ, REL, NF (FE for scratch), SCOPE, POL (width for scratch). -/
structure MemPfx where
  off : Nat
  acq : Bool
  rel : Bool
  nf : Bool
  scope : Nat
  pol : Nat
  deriving DecidableEq, Repr

/-- Atomic prefix (07 R198). -/
structure AtomPfx where
  vb : Nat
  aop : Nat
  acq : Bool
  rel : Bool
  scope : Nat
  pol : Nat
  w64 : Bool
  scr : Bool
  deriving DecidableEq, Repr

/-- Arithmetic prefix (07 R199). -/
structure ArithPfx where
  rnd : Nat
  pk : Nat
  uns : Bool
  hi : Bool
  sh : Nat
  deriving DecidableEq, Repr

/-- A resident skein: core, crew slot on the core, skeinid. -/
structure Ref where
  core : Nat
  slot : Nat
  sid : Nat
  deriving DecidableEq, Repr

/-- An atomic operation with its operands (10 R287): code AOP, width, data and comparand. -/
structure AtomOp where
  aop : Nat
  w64 : Bool
  data : Word64
  cmp : Word64
  deriving DecidableEq, Repr

/-- A PVL message: the header of R428 and its payload. -/
structure PvlMsg where
  magic : Nat
  version : Nat
  type : Nat
  setid : Nat
  src : Nat
  dst : Nat
  ctx : Nat
  status : Nat
  seq : Nat
  addr : Word64
  len : Nat
  payload : List Byte
  deriving DecidableEq, Repr

/-- The contents of migration traffic (01 R39 to R42); the manual gives no byte layout for it (log entry 21). -/
inductive MigMsg where
  /-- another part asks this home for the page of `va` -/
  | request (va : Word64) (size : Nat)
  /-- a home answers a page request: status of R38, and the home and address to use in place -/
  | answer (va : Word64) (code home addr : Nat)
  /-- the part that asked names the frame it has taken for the page -/
  | frame (va : Word64) (frame : Nat)
  /-- a home hands the page over: new leaf fields (WEXP, MIGC, PIN, WSTAMP), latest lease end, page bytes -/
  | arrive (va : Word64) (frame wexp migc pin wstamp lease : Nat) (data : List (Nat × Byte))
  /-- the page of `va` has a new home -/
  | homeChange (va : Word64) (home addr : Nat)
  /-- a part acknowledges a home change -/
  | ack (va : Word64)
  deriving DecidableEq, Repr

/-- What a PTP message tells the port (17 R435): a Sync message with the offset it shows in ticks, or another message. -/
inductive PtpMsg where
  | sync (offset : Int)
  | other
  deriving DecidableEq, Repr

/-- What a PVL message carries beside its header when the manual gives its payload no byte layout (log entry 21). -/
inductive PvlBody where
  | plain
  | atom (op : AtomOp)
  | mig (b : MigMsg)
  deriving DecidableEq, Repr

/-- A received Ethernet frame by what the part does with it (17 R427). -/
inductive EthFrame where
  | arp (target : Nat)
  | neighbour (target : Nat)
  | echo (target : Nat) (data : List Byte)
  | pvl (udpPort : Nat) (m : PvlMsg) (b : PvlBody)
  | ptp (b : PtpMsg)
  | other
  deriving DecidableEq, Repr

/-- A copy of the firmware with the public key that signed it, its signature and its security version (18 R444). -/
structure FirmwareCopy where
  image : List Byte
  key : List Byte
  sig : List Byte
  version : Nat
  deriving DecidableEq, Repr

/-- What the power-up steps find (18 R444). -/
structure BringUp where
  fuseOk : Bool
  copyA : FirmwareCopy
  copyB : FirmwareCopy
  failedUnit : Option (Nat × Nat)
  channelsOk : Bool
  portsLinked : Nat
  deriving DecidableEq, Repr

/-- One constructor per row of the table of operations and events. -/
inductive Instr where
  /-- R222: Adds two lane registers with 32-bit wrap in every active lane. -/
  | vadd (g d a b : Nat)
  /-- R222: Subtracts two lane registers with 32-bit wrap in every active lane. -/
  | vsub (g d a b : Nat)
  /-- R222: Writes the low 32 bits of the product of two lane registers. -/
  | vmul (x : Option ArithPfx) (g d a b : Nat)
  /-- R222: Writes bits 63:32 of the signed or unsigned product; needs an arithmetic prefix with HI. -/
  | vmulh (x : ArithPfx) (g d a b : Nat)
  /-- R222: Writes the low 32 bits of va times vb plus vd. -/
  | vmad (g d a b : Nat)
  /-- R222: Bitwise AND of two lane registers. -/
  | vand (g d a b : Nat)
  /-- R222: Bitwise OR of two lane registers. -/
  | vor (g d a b : Nat)
  /-- R222: Bitwise XOR of two lane registers. -/
  | vxor (g d a b : Nat)
  /-- R222: Shifts a lane register left by vb[4:0]. -/
  | vshl (g d a b : Nat)
  /-- R222: Shifts a lane register right logically by vb[4:0]. -/
  | vshr (g d a b : Nat)
  /-- R222: Shifts a lane register right arithmetically by vb[4:0]. -/
  | vsar (g d a b : Nat)
  /-- R222: Writes the smaller of two lane values, signed or with UNS unsigned. -/
  | vmin (x : Option ArithPfx) (g d a b : Nat)
  /-- R222: Writes the larger of two lane values, signed or with UNS unsigned. -/
  | vmax (x : Option ArithPfx) (g d a b : Nat)
  /-- R222: Writes va plus vb shifted left by the prefix's SH. -/
  | vlea (x : Option ArithPfx) (g d a b : Nat)
  /-- R222: Adds a sign-extended 7-bit immediate to a lane register. -/
  | vaddi (g d a i : Nat)
  /-- R222: Writes a sign-extended 14-bit immediate to a lane register. -/
  | vimm (g d i : Nat)
  /-- R223: Copies a lane register. -/
  | vmov (g d a : Nat)
  /-- R223: Writes the absolute value of a signed lane value modulo 2^32. -/
  | vabs (g d a : Nat)
  /-- R223: Writes the number of one bits of a lane value. -/
  | vpopc (g d a : Nat)
  /-- R223: Writes the leading-zero count of a lane value. -/
  | vclz (g d a : Nat)
  /-- R223: Writes bits 31:0 of a uniform register into every active lane. -/
  | vbcast (g d a : Nat)
  /-- R223: Writes the low 32 bits of a special register 0x00 to 0x7F, or the lane number, into lanes. -/
  | movsVector (g d a : Nat)
  /-- R223: Sign-extends the low byte of a lane value. -/
  | vcvtiI32I8 (g d a : Nat)
  /-- R223: Sign-extends the low half of a lane value. -/
  | vcvtiI32I16 (g d a : Nat)
  /-- R223: Zero-extends the low byte of a lane value. -/
  | vcvtiN32N8 (g d a : Nat)
  /-- R223: Zero-extends the low half of a lane value. -/
  | vcvtiN32N16 (g d a : Nat)
  /-- R223: Saturates a signed lane value to int8, sign-extended. -/
  | vcvtiI8I32 (g d a : Nat)
  /-- R223: Saturates a signed lane value to int16, sign-extended. -/
  | vcvtiI16I32 (g d a : Nat)
  /-- R223: Saturates an unsigned lane value to 255. -/
  | vcvtiN8N32 (g d a : Nat)
  /-- R223: Saturates an unsigned lane value to 65,535. -/
  | vcvtiN16N32 (g d a : Nat)
  /-- R261: Floating-point addition, scalar FP32 or packed pairs, with the chosen rounding. -/
  | fadd (x : Option ArithPfx) (g d a b : Nat)
  /-- R261: Floating-point subtraction with the chosen rounding. -/
  | fsub (x : Option ArithPfx) (g d a b : Nat)
  /-- R261: Floating-point multiplication with the chosen rounding. -/
  | fmul (x : Option ArithPfx) (g d a b : Nat)
  /-- R261: Fused multiply-add va times vb plus vd with one rounding. -/
  | ffma (x : Option ArithPfx) (g d a b : Nat)
  /-- R262: IEEE minimumNumber of two floating-point values. -/
  | fmin (x : Option ArithPfx) (g d a b : Nat)
  /-- R262: IEEE maximumNumber of two floating-point values. -/
  | fmax (x : Option ArithPfx) (g d a b : Nat)
  /-- R263: Compares FP32 lane values and writes the result into a predicate bit. -/
  | fcmp (g c p a b : Nat)
  /-- R261: Multiplies a floating-point value by two to a signed integer power. -/
  | fscale (x : Option ArithPfx) (g d a b : Nat)
  /-- R266: Converts between floating-point and integer formats with rounding and flags. -/
  | fcvt (x : Option ArithPfx) (g d a t s : Nat)
  /-- R264: Rounds a floating-point value to an integer value in its format. -/
  | fround (x : Option ArithPfx) (g d a : Nat)
  /-- R264: Writes a class mask for each floating-point element. -/
  | fclass (x : Option ArithPfx) (g d a : Nat)
  /-- R267: Interval addition with outward rounding. -/
  | iadd (g d a b : Nat)
  /-- R267: Interval subtraction with outward rounding. -/
  | isub (g d a b : Nat)
  /-- R267: Interval multiplication with outward rounding. -/
  | imul (g d a b : Nat)
  /-- R267: Interval division, whole line when the divisor holds zero. -/
  | idiv (g d a b : Nat)
  /-- R267: Interval minimum. -/
  | imin (g d a b : Nat)
  /-- R267: Interval maximum. -/
  | imax (g d a b : Nat)
  /-- R267: Hull of two intervals, ignoring empty operands. -/
  | ihull (g d a b : Nat)
  /-- R267: Interval square. -/
  | isq (g d a : Nat)
  /-- R267: Interval square root. -/
  | isqrt (g d a : Nat)
  /-- R267: Interval absolute value. -/
  | iabs (g d a : Nat)
  /-- R270: Evaluates a built-in special function on the function unit. -/
  | sfn (g d a f : Nat)
  /-- R274: Evaluates the table of a loadable special-function slot. -/
  | sfnSlot (g d a s : Nat)
  /-- R226: ANDs two predicates in the active lanes. -/
  | pand (g d a b : Nat)
  /-- R226: ORs two predicates in the active lanes. -/
  | por (g d a b : Nat)
  /-- R226: XORs two predicates in the active lanes. -/
  | pxor (g d a b : Nat)
  /-- R226: Inverts a predicate in the active lanes. -/
  | pnot (g d a : Nat)
  /-- R227: Sets predicate bits of active lanes from a uniform register. -/
  | pmovgToPredicate (g p x : Nat)
  /-- R227: Writes a predicate masked by the active lanes into a uniform register. -/
  | pmovgToUniform (g p x : Nat)
  /-- R228: Reads a register from a fixed source lane. -/
  | shflIdx (g d a n : Nat)
  /-- R228: Reads a register from the lane n below. -/
  | shflUp (g d a n : Nat)
  /-- R228: Reads a register from the lane n above. -/
  | shflDown (g d a n : Nat)
  /-- R228: Reads a register from the lane whose number is XORed with n. -/
  | shflXor (g d a n : Nat)
  /-- R228: Reads a register from a per-lane source lane given in vb. -/
  | shflIdxRegister (g d a b : Nat)
  /-- R229: Sets a predicate in active lanes when any active lane's predicate is set. -/
  | voteAny (g d a : Nat)
  /-- R229: Sets a predicate in active lanes when every active lane's predicate is set. -/
  | voteAll (g d a : Nat)
  /-- R229: Sets a predicate in active lanes when no active lane's predicate is set. -/
  | voteNone (g d a : Nat)
  /-- R229: Writes the active lanes' predicate bits into a uniform register. -/
  | voteBallot (g d a : Nat)
  /-- R230: Writes the reduction over all active lanes into every active lane. -/
  | vred (g d a o t : Nat)
  /-- R230: Writes the inclusive prefix reduction over active lanes. -/
  | vscan (g d a o t : Nat)
  /-- R224: Selects va or vb per lane by the guard predicate. -/
  | vsel (g d a b : Nat)
  /-- R225: Compares integer lane values and writes a predicate bit. -/
  | vsetp (g c p a b : Nat)
  /-- R284: Loads one byte per lane, zero-extended. -/
  | vldN8 (x : Option MemPfx) (g d a b : Nat)
  /-- R284: Loads two bytes per lane, zero-extended. -/
  | vldN16 (x : Option MemPfx) (g d a b : Nat)
  /-- R284: Loads 32 bits per lane from global memory. -/
  | vld (x : Option MemPfx) (g d a b s : Nat)
  /-- R284: Loads 64 bits per lane into an even register pair. -/
  | vldN64 (x : Option MemPfx) (g d a b s : Nat)
  /-- R284: Stores one byte per lane. -/
  | vstN8 (x : Option MemPfx) (g v a b : Nat)
  /-- R284: Stores two bytes per lane. -/
  | vstN16 (x : Option MemPfx) (g v a b : Nat)
  /-- R284: Stores 32 bits per lane, parking bytes for ABSENT pages. -/
  | vst (x : Option MemPfx) (g v a b s : Nat)
  /-- R284: Stores 64 bits per lane from an even register pair. -/
  | vstN64 (x : Option MemPfx) (g v a b s : Nat)
  /-- R287: Performs one atomic read-modify-write per lane; always paired with an atomic prefix. -/
  | vatom (x : AtomPfx) (g d a b s : Nat)
  /-- R289: Makes one page request per lane and writes its status code. -/
  | pgreq (x : Option MemPfx) (g d a b : Nat)
  /-- R288: Reads scratch bytes per lane into registers. -/
  | sld (x : Option MemPfx) (g d a b : Nat)
  /-- R55: Consuming scratch load that waits until all touched granules are full. -/
  | sldFe (x : MemPfx) (g d a b : Nat)
  /-- R55: Consuming scratch load that reads full granules and empties them in one step. -/
  | sldFeClr (x : MemPfx) (g d a b : Nat)
  /-- R288: Writes scratch bytes per lane, with .fe setting granules full. -/
  | sst (x : Option MemPfx) (g v a b : Nat)
  /-- R288: Sets empty every granule touched by each lane's byte range. -/
  | sclr (x : Option MemPfx) (g v a b : Nat)
  /-- R290: Samples an image described by a tensor shape record by interpolation. -/
  | smp (g d a b : Nat)
  /-- R290: Performs a trilinear brick-pool fetch with gradient. -/
  | smpPool (g d a b : Nat)
  /-- R231: Uniform addition. -/
  | gadd (d a b w : Nat)
  /-- R231: Uniform subtraction. -/
  | gsub (d a b w : Nat)
  /-- R231: Uniform multiplication, low bits. -/
  | gmul (d a b w : Nat)
  /-- R231: Uniform signed multiplication, high bits. -/
  | gmulh (d a b w : Nat)
  /-- R231: Uniform unsigned multiplication, high bits. -/
  | gmulhN (d a b w : Nat)
  /-- R231: Uniform signed division without trap. -/
  | gdiv (d a b w : Nat)
  /-- R231: Uniform unsigned division without trap. -/
  | gdivN (d a b w : Nat)
  /-- R231: Uniform signed remainder. -/
  | grem (d a b w : Nat)
  /-- R231: Uniform unsigned remainder. -/
  | gremN (d a b w : Nat)
  /-- R231: Uniform bitwise AND. -/
  | gand (d a b w : Nat)
  /-- R231: Uniform bitwise OR. -/
  | gor (d a b w : Nat)
  /-- R231: Uniform bitwise XOR. -/
  | gxor (d a b w : Nat)
  /-- R231: Uniform shift left by a register amount. -/
  | gshl (d a b w : Nat)
  /-- R231: Uniform logical shift right by a register amount. -/
  | gshr (d a b w : Nat)
  /-- R231: Uniform arithmetic shift right by a register amount. -/
  | gsar (d a b w : Nat)
  /-- R231: Uniform signed minimum. -/
  | gmin (d a b w : Nat)
  /-- R231: Uniform unsigned minimum. -/
  | gminN (d a b w : Nat)
  /-- R231: Uniform signed maximum. -/
  | gmax (d a b w : Nat)
  /-- R231: Uniform unsigned maximum. -/
  | gmaxN (d a b w : Nat)
  /-- R231: Uniform population count. -/
  | gpopc (d a w : Nat)
  /-- R231: Uniform leading-zero count. -/
  | gclz (d a w : Nat)
  /-- R231: Selects G[ga] when G[gd] is non-zero, else G[gb]. -/
  | gsel (d a b : Nat)
  /-- R231: Writes 1 or 0 by an integer comparison of two uniform registers. -/
  | gcmp (d a b w c : Nat)
  /-- R232: Adds a sign-extended 12-bit immediate to a uniform register. -/
  | gaddi (d a w i : Nat)
  /-- R232: Uniform AND with a sign- or zero-extended immediate. -/
  | gandi (d a v i : Nat)
  /-- R232: Uniform OR with a sign- or zero-extended immediate. -/
  | gori (d a v i : Nat)
  /-- R232: Uniform XOR with a sign- or zero-extended immediate. -/
  | gxori (d a v i : Nat)
  /-- R232: Uniform shift left by an immediate. -/
  | gshli (d a w n : Nat)
  /-- R232: Uniform logical shift right by an immediate. -/
  | gshri (d a w n : Nat)
  /-- R232: Uniform arithmetic shift right by an immediate. -/
  | gsari (d a w n : Nat)
  /-- R232: Writes 1 or 0 by comparing a uniform register with an 8-bit immediate. -/
  | gcmpi (d a w c i : Nat)
  /-- R232: Writes a sign-extended 20-bit immediate times 4,096. -/
  | ghi (d i : Nat)
  /-- R233: Moves the issuing frontier entry to the target. -/
  | bru (o : Nat)
  /-- R233: Branches the entry when a comparison of two uniform registers holds. -/
  | bcc (c a b o : Nat)
  /-- R233: Branches the whole entry when any lane's predicate is set. -/
  | bvoteAny (g o : Nat)
  /-- R233: Branches the whole entry when every lane's predicate is set. -/
  | bvoteAll (g o : Nat)
  /-- R233: Branches the whole entry when no lane's predicate is set. -/
  | bvoteNone (g o : Nat)
  /-- R233: Divergent branch splitting the entry into target and fall-through. -/
  | br (g o : Nat)
  /-- R241: Divergent branch that sends the smaller side to a basket as records. -/
  | brx (g n o : Nat)
  /-- R233: Writes the link into g63 and moves the entry to the target. -/
  | call (o : Nat)
  /-- R233: Moves the entry to the address in a uniform register. -/
  | ret (a : Nat)
  /-- R233: Jumps to a register target and writes the link into gd. -/
  | jmpg (d a : Nat)
  /-- R234: Ends the guarded lanes; the skein ends when no lane remains. -/
  | exit (g : Nat)
  /-- R184: Ends the guarded lanes, freeing the skein's resources at once via the retirement tracker. -/
  | tail (g : Nat)
  /-- R236: Restarts the skein's age and lets another entry issue next. -/
  | yield
  /-- R237: Opens a melded region with the path mask from a predicate. -/
  | meld (p : Nat)
  /-- R237: Closes the melded region. -/
  | mend
  /-- R238: Maps a melded register name to a vector register in one path table. -/
  | mmap (p i v : Nat)
  /-- R178: Opens a wide bracket holding every non-exited lane. -/
  | wopen
  /-- R178: Closes the wide bracket and returns lanes to their entries. -/
  | wclose
  /-- R240: Ends the guarded lanes, writing a spawn record for each into the spawn area. -/
  | spawn (g n o : Nat)
  /-- R243: Arrives at a crew or level barrier and waits for its release. -/
  | bar (l b : Nat)
  /-- R243: Makes the skein's arrival at a barrier and continues. -/
  | barArrive (l b : Nat)
  /-- R243: Waits for the phase of the skein's latest barrier arrival, then acquires. -/
  | barWait (l b : Nat)
  /-- R244: Waits until each outstanding-operation count is at or below its threshold. -/
  | waitc (l s c t : Nat)
  /-- R115: Release fence of a scope, reporting a pending deferred store fault. -/
  | fenceRel (s : Nat)
  /-- R116: Acquire fence raising the skein's acquire floor. -/
  | fenceAcq (s : Nat)
  /-- R116: Release fence followed by an acquire fence. -/
  | fenceAr (s : Nat)
  /-- R246: Reads a special register into a uniform register. -/
  | movs (d n : Nat)
  /-- R246: Writes a uniform register to a special register under its access code. -/
  | movsw (a n : Nat)
  /-- R247: Writes GANG from a mask of skeinids. -/
  | gang (a : Nat)
  /-- R257: Writes selected FMODE fields from an immediate. -/
  | cfgmode (r e f c : Nat)
  /-- R249: Does nothing and counts as one issue. -/
  | nop
  /-- R249: Raises the software trap with a code. -/
  | trap (c : Nat)
  /-- R249: Raises the breakpoint trap with a code. -/
  | brk (c : Nat)
  /-- R418: Leaves handler mode and restores the held frontier at epc. -/
  | eret
  /-- R250: Stops issue in every skein of the crew and reports it halted. -/
  | halt
  /-- R275: Checks a slot table and installs it in every function unit of the part. -/
  | sfload (a s : Nat)
  /-- R251: Appends a launch record to a queue ring from the device. -/
  | launch (a b c : Nat)
  /-- R251: Appends a launch record, waiting while the ring is full. -/
  | launchWait (a b c : Nat)
  /-- R252: Waits until the crew's CHILDREN count is zero. -/
  | lwait
  /-- R285: Uniform load from global memory, sign- or zero-extended. -/
  | gld (x : Option MemPfx) (d a b z s : Nat)
  /-- R285: Uniform store to global memory. -/
  | gst (x : Option MemPfx) (d a b z : Nat)
  /-- R287: One uniform atomic read-modify-write on global memory or scratch. -/
  | gatom (x : Option MemPfx) (d a b o w s : Nat)
  /-- R295: Copies LEN bytes between global memory and scratch. -/
  | cpyLin (a b c o : Nat)
  /-- R296: Loads or stores one box of a tensor shape record. -/
  | cpyShape (a b c o : Nat)
  /-- R298: Gathers indexed global rows into scratch. -/
  | cpyGather (a b c o : Nat)
  /-- R298: Scatters scratch rows to indexed global rows. -/
  | cpyScatter (a b c o : Nat)
  /-- R300: Reads a source once and writes it into the windows of masked cluster crews. -/
  | cpyMcast (a b c o : Nat)
  /-- R300: Adds scratch elements into another cluster crew's scratch elementwise. -/
  | cpyRadd (a b c o : Nat)
  /-- R301: Decodes an entropy-coded weight stream into scratch. -/
  | cpyDec (a b c o : Nat)
  /-- R297: Dequantises an MX-block tensor box into BF16 in scratch. -/
  | cpyDeq (a b c o : Nat)
  /-- R302: Scans and packs a dense vector into a packed activation vector, trapping on overrun. -/
  | cpyPack (a b c o : Nat)
  /-- R303: Checks and expands a packed activation vector into dense scratch. -/
  | cpyUnpack (a b c o : Nat)
  /-- R295: Remote put of bytes to a global destination on another part. -/
  | cpyPut (a b c o : Nat)
  /-- R295: Remote get of bytes from a global source on another part. -/
  | cpyGet (a b c o : Nat)
  /-- R299: Computes a tile signature and stores the box only when it differs from the slot. -/
  | cpySig (a b c o : Nat)
  /-- R304: Stores a barrier object's EXPECT and clears its other fields. -/
  | binit (a b o : Nat)
  /-- R304: Release fence then one arrival of a given count on a barrier object. -/
  | barrive (a b o : Nat)
  /-- R304: Acquire-polls a barrier object's phase until the flip condition holds. -/
  | bwait (a b o : Nat)
  /-- R304: One acquire read of a barrier object's phase, writing 1 or 0. -/
  | btest (d a b o : Nat)
  /-- R306: Release fence then invalidation of record-cache entries of the context. -/
  | shfence (a : Nat)
  /-- R309: Checks an operand map and writes it into a tile register. -/
  | tmap (t g : Nat)
  /-- R314: Dense matrix product accumulated into an accumulator region. -/
  | mma (a t u g o : Nat)
  /-- R316: Structured-sparse matrix product with 2:4 or 4:8 metadata. -/
  | mmas (a t u g s o : Nat)
  /-- R322: Cluster matrix product executed once all 16 crews issue it. -/
  | cmma (a t u g : Nat)
  /-- R325: Installs an accumulator handle and zeroes its region unless KEEP. -/
  | accz (a g : Nat)
  /-- R325: Installs a handle and loads the region from scratch through a map. -/
  | accin (a t g : Nat)
  /-- R327: Writes a region to scratch through the fused epilogue. -/
  | accout (a t g o : Nat)
  /-- R325: Copies one accumulator region into another. -/
  | accmov (a s : Nat)
  /-- R279: Writes per-row sum, sum of squares, mean and variance. -/
  | trowSum (a b c o : Nat)
  /-- R280: Writes per-row maximum, its index and NaN count. -/
  | trowMax (a b c o : Nat)
  /-- R281: Writes each row's soft maximum with flags. -/
  | trowSmax (a b c o : Nat)
  /-- R282: Writes each row normalised by mean and variance. -/
  | trowNorm (a b c o : Nat)
  /-- R343: Marches the selected lanes' rays through a field program in affine mode. -/
  | march (k p q o : Nat)
  /-- R343: Marches the selected lanes' rays through a field program in interval mode. -/
  | marchIv (k p q o : Nat)
  /-- R355: Resumes stopped marches from continuation records with resolved call bounds. -/
  | mresume (k p q o : Nat)
  /-- R359: Evaluates a field program over a tile box and writes a pressed program. -/
  | fprep (d s q o : Nat)
  /-- R382: Tests a ray against the four child boxes of a hierarchy node. -/
  | boxt (k m : Nat)
  /-- R383: Tests a ray against a triangle record exactly. -/
  | trit (k m : Nat)
  /-- R384: Pushes a value onto a per-lane short stack, spilling to memory. -/
  | stkpush (k s m : Nat)
  /-- R384: Pops a value from a per-lane short stack, refilling from memory. -/
  | stkpop (k s m : Nat)
  /-- R390: Rasterises triangles into a depth tile and spawns pixel-shader records. -/
  | draw (r t g o : Nat)
  /-- R386: Performs a depth test and optional write per lane on a depth tile. -/
  | depthw (k t m : Nat)
  /-- R369: Bins a particle array into a neighbour grid. -/
  | nbin (a b c o : Nat)
  /-- R372: Streams pair records within the cutoff into a scratch ring. -/
  | npairs (a b c o : Nat)
  /-- R378: Reads a grid record field with a device-scope acquire load. -/
  | nstat (d a b : Nat)
  /-- R40: After a successful copy the home commits the move, updating leaves, TLBs and window fields. -/
  | migrationCommit (id : Nat)
  /-- R42: Once all parts acknowledged and gtime passed L+25, the old frame returns to the frame stack. -/
  | frameFree (id : Nat)
  /-- R34: Parked stores to a page are performed in order when the page becomes LOCAL or REMOTE. -/
  | parkedStorePerform (n : Nat)
  /-- R36: A parked store waiting 2^RTEXP ticks fails with cause 0x04. -/
  | parkedStoreTimeout (n : Nat)
  /-- R105: A store reaches its home and receives a completion time. -/
  | homeStore (n : Nat)
  /-- R55: A waiting consuming load proceeds when all its granules are full. -/
  | consumingLoadProceed (r : Ref)
  /-- R57: A consuming load waiting 2^EXP clocks raises trap 0x0D. -/
  | fullEmptyStall (r : Ref)
  /-- R128: An asynchronous operation's arrival updates a barrier object's count, status and phase. -/
  | arrival (id : Nat)
  /-- R137: When npairs ends it makes a closing arrival that always flips the phase. -/
  | npairsClosingArrival (id : Nat)
  /-- R311: The matrix sequencer starts the next queued operation in arrival order. -/
  | sequencerOpStart (core : Nat)
  /-- R169: A gang or cluster latch that never completes raises barrier-stall cause 0x04. -/
  | gangLatchTimeout (r : Ref)
  /-- R372: npairs writes the next pair record when its ring slot is empty and sets it full. -/
  | pairRecordEmit (id : Nat)
  /-- R149: At a merge point the patches are applied in task order and the barrier releases. -/
  | merge (launch level : Nat)
  /-- R161: Skeins waiting at a level barrier observe the flip and acquire. -/
  | levelBarrierRelease (r : Ref)
  /-- R163: A crew or level barrier wait lasting 2^BSTALL clocks raises trap 0x0C. -/
  | barrierStallTimeout (r : Ref)
  /-- R180: A spawn or brx waiting for room 2^BSTALL clocks raises trap 0x0C cause 0x03. -/
  | spawnWaitTimeout (r : Ref)
  /-- R304: A bwait lasting 2^BSTALL clocks raises trap 0x0C cause 0x05. -/
  | bwaitTimeout (r : Ref)
  /-- R164: A crew waiting at a wide barrier or lwait is pre-empted when its core is needed. -/
  | preemptWaitingCrew (core slot : Nat)
  /-- R181: A filling basket's timer expires and the basket becomes Ready. -/
  | basketTimerExpiry (core slot n : Nat)
  /-- R182: The oldest Ready basket launches a skein of up to 32 records when a slot is free. -/
  | basketLaunch (core slot : Nat)
  /-- R183: A skein with all lanes exited frees its registers once loads returned and stores have completion times. -/
  | skeinEnd (r : Ref)
  /-- R184: A retirement tracker entry is freed when its stores have completion times and copies arrived. -/
  | retirementEntryFree (n : Nat)
  /-- R185: A crew ends when its skeins, records, tracker entries and operations are done. -/
  | crewEnd (core slot : Nat)
  /-- R399: An open queue takes its head record when dependencies hold and checks it. -/
  | takeRecord (queue : Nat)
  /-- R405: After 100 µs unplaced, a PREEMPT queue's unit pre-empts lower-priority crews. -/
  | priorityPreemption (queue : Nat)
  /-- R408: A pending mailbox append is made when ring space appears. -/
  | mailboxPendingAppend (ctx n : Nat)
  /-- R413: A pending deferred trap is taken at the skein's next instruction boundary. -/
  | deferredTrapTake (r : Ref)
  /-- R419: When gtime passes S + 2^WDEXP every skein of the launch takes trap 0x14. -/
  | watchdogTrap (launch : Nat)
  /-- R419: When gtime passes S + 2^(WDEXP+1) the context is killed. -/
  | watchdogKill (launch : Nat)
  /-- R426: Writing CTXTRAP.KILL kills the context, ending crews and dropping its operations. -/
  | kill (ctx : Nat)
  /-- R394: At each frame start the engine sends the committed buffer or substitutes. -/
  | frameStart (stream : Nat)
  /-- R394: When a frame slot ends the engine arrives on RELEASE with n = 16. -/
  | frameSlotEnd (stream : Nat)
  /-- R436: A peer unacknowledged for the PEERTO period is declared departed. -/
  | peerTimeout (dev : Nat)
  /-- R138: A page request made by an asynchronous operation that has waited 2^RTEXP ticks ends and the page becomes failing. -/
  | pageRequestTimeout (n : Nat)
  /-- R244: An asynchronous operation that counts into no object ends, with its writes performed, and leaves its skein's count. -/
  | asyncOperationEnd (id : Nat)
  /-- R8: A write to a privileged-view register without behaviour of its own takes effect under its access code. -/
  | registerWrite (idx : Nat) (val : Word64)
  /-- R29: GO with KIND 00 starts invalidation of one page's TLB and L1 entries. -/
  | xltinvPage (val : Word64)
  /-- R29: GO with KIND 01 starts invalidation of every entry of one context. -/
  | xltinvContext (val : Word64)
  /-- R29: GO with KIND 10 starts invalidation of every entry of every context. -/
  | xltinvAll (val : Word64)
  /-- R28: Invalidation finishes; GO reads 0 and XLTDONE holds the latest completion time. -/
  | xltinvComplete
  /-- R44: Writing pushes a 64 KiB frame onto the frame stack, releasing waiting requests. -/
  | frmgive64 (val : Word64)
  /-- R44: Writing pushes a 2 MiB frame onto the frame stack, releasing waiting requests. -/
  | frmgive2m (val : Word64)
  /-- R118: An atomic is performed indivisibly at its home and returns the old value. -/
  | homeAtomic (at_ : Nat) (op : AtomOp)
  /-- R108: A home reads a sector for a load and grants a lease. -/
  | homeRead (core ctx : Nat) (va : Word64)
  /-- R73: The memory controller reads and corrects every line at least once every 24 hours. -/
  | memoryScrub (line : Nat)
  /-- R404: The launch manager places a unit of crews on a fitting core or cluster. -/
  | placeUnit
  /-- R421: A crew is stopped at instruction boundaries, drained, saved to a slot and freed. -/
  | preemptCrew (core slot : Nat)
  /-- R425: A saved crew is restored on a fitting core or cluster. -/
  | restoreCrew (n : Nat)
  /-- R397: CMD OPEN reads and keeps a queue record and opens the queue. -/
  | qctlOpen (val : Word64)
  /-- R397: CMD CLOSE stops taking records and refuses later appends. -/
  | qctlClose (val : Word64)
  /-- R397: CMD RESET zeroes a closed queue's manager fields and discards untaken records. -/
  | qctlReset (val : Word64)
  /-- R427: A received frame is handled as IP, ARP, neighbour discovery, ICMP, PVL or PTP, or dropped. -/
  | ethernetFrame (port : Nat) (f : EthFrame)
  /-- R398: A PVL message appends a 256-byte launch record to a queue. -/
  | enq (m : PvlMsg)
  /-- R432: A PVL message reads LEN bytes at an address and answers with the data. -/
  | read (m : PvlMsg)
  /-- R432: A PVL message writes its payload at an address and returns the completion time. -/
  | write (m : PvlMsg)
  /-- R430: A PVL response answers one outstanding request named by its SEQ. -/
  | resp (m : PvlMsg)
  /-- R429: A PVL message writes its payload and triggers a mailbox. -/
  | mbox (m : PvlMsg)
  /-- R295: A PVL remote put writes bytes from another part's cpy. -/
  | put (m : PvlMsg)
  /-- R295: A PVL remote get reads bytes for another part's cpy. -/
  | get (m : PvlMsg)
  /-- R429: A PVL message performs an atomic at this home. -/
  | atom (m : PvlMsg) (op : AtomOp)
  /-- R39: A PVL message carries page-migration and home-change traffic. -/
  | mig (m : PvlMsg) (b : MigMsg)
  /-- R436: A PVL message announces a device's departure; members apply R43. -/
  | leave (m : PvlMsg)
  /-- R446: A PVL management message carries a management command. -/
  | mgmt (m : PvlMsg)
  /-- R435: A PTP message is timestamped and disciplines gtime. -/
  | ptpMessage (b : PtpMsg)
  /-- R435: No Sync message for 2 s clears SYNCED and the part leaves the set. -/
  | syncTimeout
  /-- R438: FABCTL JOIN announces the part to every valid peer. -/
  | join (val : Word64)
  /-- R438: When every peer has acknowledged, JOINED is set. -/
  | joinComplete
  /-- R436: FABCTL LEAVE makes the part leave the fabric set. -/
  | fabctlLeave (val : Word64)
  /-- R444: Power-up runs fuse read, firmware check, self-test, training and release, or enters the safe state. -/
  | powerOn (b : BringUp)
  /-- R446: Returns MGSTAT, ERRCNT and the serial number. -/
  | status (src : Nat)
  /-- R446: Returns the failing bring-up step and unit. -/
  | selftest (src : Nat)
  /-- R446: Returns a unit's 256-byte test log. -/
  | diag (src unit idx : Nat)
  /-- R446: Reads a register of the privileged view by index. -/
  | regread (src idx : Nat)
  /-- R446: Writes a register of the privileged view by index, from the host only. -/
  | regwrite (src idx : Nat) (val : Word64)
  /-- R448: Returns a signed attestation report over a nonce. -/
  | attest (src : Nat) (nonce : List Byte)
  /-- R449: Returns the present manifest of a context and launch record. -/
  | manifest (src ctx rec : Nat)
  /-- R449: Returns the lowest manifest field index that differs from a stored manifest. -/
  | compare (src ctx rec : Nat) (stored : List Byte)
  /-- R250: Ends the halt of a halted crew. -/
  | resume (src ctx crew : Nat)
  /-- R446: Returns the last fatal fault record of a context. -/
  | fatalrec (src ctx : Nat)
  /-- R447: Configures an output stream from a given frame start. -/
  | stream (src : Nat) (cfg : List Byte)
  /-- R447: Returns an output stream's present configuration. -/
  | streamq (src n : Nat)
  /-- R452: The core clock is lowered or raised by power and temperature limits. -/
  | clockThrottle (power temp : Nat)
  /-- R452: At 115 °C every context is killed, streams stop and the part enters the safe state. -/
  | overtempShutdown (temp : Nat)
  /-- R102: Global time advances by one tick in every agent's copy of the count. -/
  | globalTimeTick
  deriving DecidableEq, Repr

end Sys2Proof
end

