-- ==== Sys2Proof/Machine/State.lean ====
section
/-! DEFINITION. The state of the part, as plain data, the faults and refusals, and the state right after reset. -/
namespace Sys2Proof.Machine

/-- A frontier entry (06 R170, 07 R204). A mask of zero stands for "no entry". -/
structure Entry where
  pc : Word64 := 0
  mask : Word32 := 0
  lift : Nat := 0
  lifted : Bool := false
  parked : Bool := false
  suspended : Bool := false
  burst : Nat := 0
  deriving DecidableEq, Repr

/-- The state of the melded region (06 R175). -/
inductive MeldSt where
  | closed
  | mapping
  | opened
  deriving DecidableEq, Repr

/-- Melded region: path mask, address of meld, words since meld, rename tables (06 R175, R176, 07 R204). -/
structure Meld where
  st : MeldSt := .closed
  path : Word32 := 0
  addr : Word64 := 0
  words : Nat := 0
  ta : List Nat := []
  tb : List Nat := []
  deriving DecidableEq, Repr

/-- What a trap reports (16 R411, R414, R415). -/
structure TrapInfo where
  code : Nat
  cause : Nat := 0
  lane : Nat := 0xFF
  addr : Word64 := 0
  info0 : Word64 := 0
  info1 : Word64 := 0
  deferred : Bool := false
  /-- epc is the instruction plus 4: software trap, breakpoint, fence and merge reports (R411) -/
  after : Bool := false
  deriving DecidableEq, Repr

/-- What trap entry holds aside (16 R417): frontier, the trapping entry's place in it, melded state, bracket record. -/
structure Held where
  frontier : List Entry
  mask : Word32
  meld : Meld
  bracket : Option (Word64 × Word32)
  deriving DecidableEq, Repr

/-- A barrier arrival of the skein that it has not yet waited out (08 R243). `gen` is the generation or flip count at the
arrival. `at_` is the address of a full form that stands there. -/
structure BarArrival where
  level : Nat
  b : Nat
  gen : Nat
  at_ : Option Word64
  deriving DecidableEq, Repr

/-- The instruction that a skein waits in (06 R189): where, since which clock, how far it has come, whether to retry. -/
structure WaitRec where
  pc : Word64
  since : Nat
  /-- 0 other, 1 barrier, 2 consuming load, 3 spawn or brx, 4 latch, 5 bwait, 6 lwait, 7 launch.wait, 8 tail, 9 pgreq, 10 an atomic on its
  way to another part: stage 1, or 2 when that part has gone (17 R437) -/
  kind : Nat
  stage : Nat := 0
  asleep : Bool := true
  /-- the timeout exponent that was set when the wait began (R58, R173) -/
  exp : Nat := 0
  /-- the granules a consuming load waits for, or level and number of the barrier awaited; its place among the waits (02 R55) -/
  grans : List Nat := []
  order : Nat := 0
  /-- what pgreq has received so far: page and code, 8 for a home that has not answered (10 R289); of an atomic on its way, the address
  and the home of each lane's word -/
  codes : List (Nat × Nat) := []
  deriving DecidableEq, Repr

/-- A resident skein (06 R152, R153, R165, R186; 07 R201, R203; 16 R424). -/
structure Skein where
  uid : Nat := 0
  sid : Nat := 0
  role : Nat := 0
  slot : Nat := 0
  regs : Nat := 0
  tile16 : Bool := false
  prio : Nat := 0
  basket : Bool := false
  v : SMap Word32 := []
  g : SMap Word64 := []
  p : SMap Word32 := []
  t : SMap Word128 := []
  a : SMap Word64 := []
  gang : Word64 := 0
  gangIssues : Nat := 0
  fmode : Word64 := 0
  /-- the entry that issues -/
  e : Entry := {}
  /-- the other entries -/
  rest : List Entry := []
  /-- set by yield: the entry to leave out of the next choice (08 R236) -/
  yielded : Option Word64 := none
  meld : Meld := {}
  bracket : Option (Word64 × Word32) := none
  floor : Nat := 0
  hCrew : Nat := 0
  hCluster : Nat := 0
  hDevice : Nat := 0
  hFabric : Nat := 0
  lastRead : Nat := 0
  lastG : Nat := 0
  epc : Word64 := 0
  frec : Word64 := 0
  handler : Bool := false
  held : Option Held := none
  pending : List TrapInfo := []
  arrivals : List BarArrival := []
  /-- launching records of a basket skein: lane and record index (06 R182) -/
  laneRecs : List (Nat × Nat) := []
  lastIssue : Nat := 0
  since : Nat := 0
  wait : Option WaitRec := none
  /-- issue nothing until gtime passes it (16 R417, 04 R124) -/
  hold : Nat := 0
  /-- the hold came from trap entry: raise the acquire floor when it ends -/
  holdFloor : Bool := false
  /-- the store of its fault record, while that has no completion time yet (16 R417) -/
  holdOn : Option Nat := none
  /-- the next read of its registers, frontier or accumulator handles meets an uncorrectable error, or this many single-bit errors
  (05 R141, 16 R411, log entry 10) -/
  fileBad : Bool := false
  fileSoft : Nat := 0
  deriving DecidableEq, Repr

/-- A role entry of a launch record (06 R155). -/
structure RoleRec where
  skeins : Nat := 0
  regs : Nat := 0
  mode : Nat := 0
  b3 : Nat := 0
  entryOff : Nat := 0
  deriving DecidableEq, Repr

/-- A level entry (06 R156). -/
structure LevelRec where
  size : Nat := 0
  domain : Nat := 0
  scope : Nat := 0
  res : Nat := 0
  barrier : Word64 := 0
  deriving DecidableEq, Repr

/-- A dependency entry (06 R157). -/
structure DepRec where
  obj : Word64 := 0
  flips : Nat := 0
  res : Nat := 0
  deriving DecidableEq, Repr

/-- A launch record (06 R154); reserved fields are kept so that they can be checked. -/
structure LaunchRec where
  entry : Word64 := 0
  flags : Nat := 0
  alloc : Nat := 0
  gx : Nat := 0
  gy : Nat := 0
  gz : Nat := 0
  res28 : Nat := 0
  roles : List RoleRec := []
  levels : List LevelRec := []
  deps : List DepRec := []
  seed : Word64 := 0
  merges : Word64 := 0
  patchBase : Word64 := 0
  cap : Nat := 0
  res236 : Nat := 0
  done : Word64 := 0
  args : Word64 := 0
  deriving DecidableEq, Repr

/-- A crew-barrier counter (06 R162): who arrived, generation, the clock at which a lane first stood there, the time of
the latest release. -/
structure CrewBar where
  arrived : List Nat := []
  gen : Nat := 0
  /-- skeins with lanes that stand at a wait or full form, the clock of the first, the timeout exponent then set (R163) -/
  standers : List Nat := []
  stand : Option Nat := none
  exp : Nat := 0
  relTime : Nat := 0
  /-- the barrier instruction at which a lane stood first -/
  addr : Word64 := 0
  deriving DecidableEq, Repr

/-- The crew's latest arrival at a level barrier (06 R161): skeins whose fence is done, arrivals made, clock of the latest. -/
structure LevelArr where
  level : Nat
  fenced : List Nat := []
  made : Nat := 0
  /-- since when the stall timer runs, with the timeout exponent then set -/
  clock : Option Nat := none
  exp : Nat := 0
  /-- flip count of the object before the latest arrival -/
  flips : Nat := 0
  /-- the barrier instruction of the latest arrival or stand -/
  addr : Word64 := 0
  deriving DecidableEq, Repr

/-- A spawn record (06 R179) by its index in the area; `started` once a lane of a basket skein runs from it. -/
structure SpawnRec where
  idx : Nat
  order : Nat
  carry : List Word32
  entry : Word64
  ncarry : Nat
  kind : Nat
  skein : Nat
  lane : Nat
  extra : List Byte
  started : Bool := false
  deriving DecidableEq, Repr

inductive BasketSt where
  | empty
  | filling
  | ready
  deriving DecidableEq, Repr

/-- A basket (06 R181): its key and timer; its records are the unstarted records of the area with its key. -/
structure Basket where
  st : BasketSt := .empty
  key : Word64 := 0
  timer : Nat := 0
  deriving DecidableEq, Repr

/-- A byte of a patch (05 R145): plain, or part of a merged word with operation, width and type. -/
inductive PatchByte where
  | plain (v : Byte)
  | merged (word : Nat) (aop : Nat) (size : Nat) (operand : Word64)
  deriving DecidableEq, Repr

/-- A deferred store fault of a crew (01 R36, 16 R415). -/
structure DefStore where
  cause : Nat
  va : Word64
  pc : Word64
  sid : Nat
  /-- the store instruction that failed; one store is reported once -/
  ins : Nat := 0
  deriving DecidableEq, Repr

/-- A resident crew (06 R152 to R154, R179 to R186; 07 R203; 16 R423). -/
structure Crew where
  live : Bool := false
  uid : Nat := 0
  ctx : Nat := 0
  core : Nat := 0
  slot : Nat := 0
  launch : Nat := 0
  queue : Nat := 0
  tx : Nat := 0
  ty : Nat := 0
  tz : Nat := 0
  t : Nat := 0
  lrec : LaunchRec := {}
  mergeRanges : List (Nat × Nat) := []
  win : SMap Byte := []
  fe : List Nat := []
  winBad : List Nat := []
  acc : SMap Word32 := []
  accBad : List Nat := []
  /-- words of the window and of the accumulators with a single-bit error (02 R53, R61) -/
  winSoft : List Nat := []
  accSoft : List Nat := []
  bars : SMap CrewBar := []
  levelArrs : List LevelArr := []
  recs : List SpawnRec := []
  recCount : Nat := 0
  baskets : SMap Basket := []
  children : Nat := 0
  halted : Bool := false
  defStores : List DefStore := []
  patch : SMap PatchByte := []
  cmmaCount : Nat := 0
  placedAt : Nat := 0
  fused : Bool := false
  /-- launch time S of its launch: no L1 sector fetched before it answers (06 R157) -/
  startAt : Nat := 0
  /-- clocks that its ended skeins were resident since the last charge (15 R402) -/
  ran : Nat := 0
  /-- the time after which every byte its skeins stored is seen everywhere (06 R185) -/
  hor : Nat := 0
  /-- it was restored from a save slot: its fences wait for every parked store of the crew (01 R37) -/
  restored : Bool := false
  deriving DecidableEq, Repr

structure CrewRec where
  crew : Crew
  skeins : List Skein
  deriving DecidableEq, Repr

/-- A store at or on the way to its home (04 R105, R106): number in issue order, who, where, its bytes by home address. -/
structure Store where
  sn : Nat
  /-- the number that the stores of one instruction share -/
  ins : Nat := 0
  uid : Nat
  cuid : Nat
  core : Nat
  ctx : Nat
  /-- device number of the home when it is not this part; 255 the host -/
  remote : Option Nat
  line : Nat
  cells : List (Nat × Byte)
  /-- completion time, once given -/
  c : Nat := 0
  /-- cluster-scope completion time in a fused cluster (02 R69) -/
  cc : Nat := 0
  /-- who else wrote it than a store or atomic of the skein, 0 for none: an operation, a launch whose level objects or merge it belongs to, an
  append, a trigger or a message -/
  op : Nat := 0
  /-- its first byte, its instruction and its skein, for a deferred store fault (17 R437) -/
  va : Nat := 0
  pc : Word64 := 0
  sid : Nat := 0
  /-- effective cache policy bit 1: its line is first to evict in the L2 (01 R24) -/
  first : Bool := false
  /-- SEQ of the WRITE messages to the host that are not yet answered; none before they are sent (17 R432) -/
  sent : Option (List Nat) := none
  deriving DecidableEq, Repr

/-- A parked store: one line of one store instruction in an ABSENT page (01 R33 to R36); bytes by virtual address. -/
structure Parked where
  sn : Nat
  ins : Nat := 0
  uid : Nat
  cuid : Nat
  core : Nat
  ctx : Nat
  sid : Nat
  pc : Word64
  page : Nat
  size : Nat
  cells : List (Nat × Byte)
  since : Nat
  first : Bool := false
  deriving DecidableEq, Repr

/-- A leaf of the translation tree (01 R21), with the physical address of the entry. -/
structure Leaf where
  pa : Nat
  wver : Nat
  addr : Nat
  wstamp : Nat
  pin : Bool
  wexp : Nat
  migc : Nat
  home : Nat
  nomig : Bool
  cpol : Nat
  resid : Nat
  priv : Bool
  x : Bool
  w : Bool
  rd : Bool
  size : Nat
  deriving DecidableEq, Repr

/-- A cluster TLB entry (01 R25). -/
structure TlbEnt where
  cluster : Nat
  ctx : Nat
  base : Nat
  size : Nat
  leaf : Leaf
  /-- latest completion time of a store translated under the entry (R29) -/
  done : Nat := 0
  deriving DecidableEq, Repr

/-- A valid L1 sector (02 R62, 04 R108, R109). -/
structure Sector where
  core : Nat
  ctx : Nat
  va16 : Nat
  pa16 : Nat
  fetch : Nat
  lease : Nat
  upd : List Nat := []
  deriving DecidableEq, Repr

/-- A line of a core's instruction cache with the bytes it was filled with (02 R64). -/
structure CodeLine where
  core : Nat
  ctx : Nat
  line : Nat
  bytes : List Byte
  deriving DecidableEq, Repr

/-- A line of the L2 (02 R70), named by its physical address / 64; `first`: allocated as first to evict. -/
structure L2Line where
  line : Nat
  first : Bool
  deriving DecidableEq, Repr

/-- A brick of a core's brick partition (02 R65): its tag, its home address, and its lease; `upd` as in `Sector`. -/
structure BrickEnt where
  core : Nat
  ctx : Nat
  pool : Nat
  at_ : List Nat
  va : Nat
  key : Nat
  fetch : Nat
  lease : Nat
  upd : List Nat := []
  deriving DecidableEq, Repr

/-- A page request in progress (01 R38, R39). -/
structure PageReq where
  id : Nat
  ctx : Nat
  page : Nat
  size : Nat
  home : Nat
  since : Nat
  needFrame : Bool
  /-- the frame taken for the arriving page, once taken -/
  frame : Option Nat := none
  /-- uid of the skein whose pgreq waits for the answer, 0 for none -/
  asker : Nat := 0
  deriving DecidableEq, Repr

/-- An asynchronous operation, or a merge, that waits for a page since a time (05 R138, R149). -/
structure PageWait where
  id : Nat
  op : Nat
  ctx : Nat
  page : Nat
  size : Nat
  since : Nat
  deriving DecidableEq, Repr

/-- A page that fails for an operation or a merge (05 R138, R149), with the cause of R36: 1 refused or invalid, 2 home left, 4 timed
out; 5 stands for FIXED. -/
structure FailPage where
  op : Nat
  page : Nat
  size : Nat
  cause : Nat
  deriving DecidableEq, Repr

/-- A move of a page that this part serves as home, and its forwarding entry (01 R39 to R42). -/
structure Migration where
  id : Nat
  ctx : Nat
  page : Nat
  size : Nat
  /-- the frame here, and the address of the page's table entry -/
  old : Nat
  pa : Nat
  dst : Nat
  /-- the frame at the destination, once it has named it -/
  frame : Option Nat := none
  lease : Nat
  committed : Bool
  acks : List Nat
  /-- the attempt under way, WVER when its copy began, and whether the page is in hold (R39) -/
  attempt : Nat := 0
  ver : Option Nat := none
  held : Bool := false
  deriving DecidableEq, Repr

/-- An arrival on an object in memory that the home answered RETRY (01 R39): byte count, status bits, first indexed error, closing arrival. -/
structure HeldArr where
  ctx : Nat
  addr : Word64
  n : Nat
  st : Nat
  idx : Option (Bool × Nat) := none
  closing : Bool := false
  deriving DecidableEq, Repr

/-- Homes, caches and stores on their way (04 R104 to R109, 01 R25, R33, 02 R62, R72, R73). -/
structure Homes where
  mem : List Host.Cell := []
  memBad : List Nat := []
  inflight : List Store := []
  timed : List Store := []
  lineC : SMap Nat := []
  lineE : SMap Nat := []
  /-- the latest lease end granted on a line (01 R41) -/
  lineL : SMap Nat := []
  /-- pages that arrived by migration: frame base, size, earliest completion time (R41) -/
  pageL : List (Nat × Nat × Nat) := []
  l1 : List Sector := []
  /-- brick partitions, least recently used first (02 R65) -/
  bricks : List BrickEnt := []
  /-- instruction caches (02 R64) -/
  code : List CodeLine := []
  /-- lines held in the L2, oldest first (02 R70) -/
  l2 : List L2Line := []
  /-- memory words with a single-bit error (02 R73) -/
  soft : List Nat := []
  parked : List Parked := []
  /-- arrivals that a home in hold answered RETRY, oldest first (01 R39) -/
  arrs : List HeldArr := []
  tlb : List TlbEnt := []
  deriving DecidableEq, Repr

/-- The XLTINV command in progress (01 R28, R29), page requests, migrations. -/
structure Xlate where
  inv : Option Word64 := none
  reqs : List PageReq := []
  /-- codes for pgreq instructions that wait for them: skein, context, page, code (R38) -/
  answers : List (Nat × Nat × Nat × Nat) := []
  /-- requests of other parts that this home answers later: device, context, page (R39, R44) -/
  asked : List (Nat × Nat × Nat) := []
  migs : List Migration := []
  waits : List PageWait := []
  failing : List FailPage := []
  deriving DecidableEq, Repr

/-- A queue of the launch manager (15 R396, R397): what OPEN read and kept. -/
structure Queue where
  n : Nat
  opened : Bool := false
  ring : Word64 := 0
  size : Nat := 0
  prio : Nat := 0
  ctx : Nat := 0
  flags : Nat := 0
  enqmask : List Byte := []
  quantum : Nat := 0
  /-- what the manager writes into bytes 56 to 103 of the record; no store by software to those bytes acts on it (R398) -/
  deficit : Int := 0
  head : Nat := 0
  tail : Nat := 0
  charged : Nat := 0
  refused : Nat := 0
  errCode : Nat := 0
  errIdx : Nat := 0
  /-- uid of the launch taken last -/
  last : Nat := 0
  /-- which unit at its front has fitted nowhere, and since when (R405) -/
  stuck : Option (Nat × Nat × Nat) := none
  /-- the queue's launches in the order of their records: appended by which crew and index (R252) -/
  parents : List (Nat × Nat) := []
  /-- the clock of the latest append, and its place in the order of appends of one clock (R398) -/
  lastApp : Option (Nat × List Nat) := none
  deriving DecidableEq, Repr

/-- A launch taken by the manager (15 R399), until it ends (06 R185). -/
structure Launch where
  uid : Nat
  queue : Nat
  ctx : Nat
  lrec : LaunchRec
  start : Nat
  mergeRanges : List (Nat × Nat)
  nextUnit : Nat := 0
  /-- completion time of the level objects, which gtime passes before any crew starts (06 R160) -/
  ready : Nat := 0
  /-- the latest completion time of a merge's stores that came after the merge (05 R149) -/
  mergeC : Nat := 0
  crewsLeft : Nat
  parent : Option Nat := none
  /-- uids of its crews, and the time after which every byte that its ended crews stored is seen everywhere (06 R185) -/
  crews : List Nat := []
  hor : Nat := 0
  wdTrapped : Bool := false
  /-- tasks' patches of crews that have ended, for the merge at the end (05 R149) -/
  patches : List (Nat × SMap PatchByte) := []
  /-- level arrivals waiting at a merge point: level and task numbers -/
  mergeArr : List (Nat × Nat) := []
  /-- levels whose merge is done and from which time the skeins may be released, with the traps they take if any -/
  merged : List (Nat × Nat × List TrapInfo) := []
  deriving DecidableEq, Repr

/-- A crew saved by pre-emption (16 R421 to R425) and the save slot it holds. -/
structure Saved where
  crewRec : CrewRec
  slot : Nat
  /-- crews of one cluster instance carry one group number -/
  group : Nat
  /-- what the skeins waited for of a crew that waited at wide barriers, in lwait or in launch.wait: 1, level and number; 6; or 7, queue
  and skein uid. It is restored when one such wait is over (06 R164) -/
  waits : List (Nat × Nat × Nat) := []
  deriving DecidableEq, Repr

/-- A retirement tracker entry (06 R184): what a skein ended by tail leaves behind. -/
structure Tracker where
  n : Nat
  uid : Nat
  cuid : Nat
  core : Nat
  deriving DecidableEq, Repr

/-- A trigger of a mailbox entry with what the manager read of the table when it occurred (15 R407, R408). -/
structure MboxTrig where
  ctx : Nat
  n : Nat
  addr : Nat
  /-- the time that must pass before RECORD is read, and the stores that still lack theirs: `Store.op`, 0 for none -/
  time : Nat
  op : Nat := 0
  queue : Nat
  record : Nat
  /-- its append waits for room in the ring -/
  pending : Bool := false
  deriving DecidableEq, Repr

/-- The arrival on DONE of a launch that has ended: it covers every byte that the launch's crews stored (06 R185). -/
structure DoneRec where
  uid : Nat
  ctx : Nat
  va : Word64
  crews : List Nat
  hor : Nat
  deriving DecidableEq, Repr

structure Sched where
  queues : List Queue := []
  launches : List Launch := []
  saved : List Saved := []
  tracker : List Tracker := []
  /-- round-robin pointer of each priority level (R403) -/
  ptr : SMap Nat := []
  /-- launch.wait waiters of full rings, oldest first: queue, skein uid (R398) -/
  waiters : List (Nat × Nat) := []
  /-- waiters whose queue was closed while they waited: they end with DENIED (R397) -/
  denied : List Nat := []
  /-- triggers of mailboxes, oldest first (R408) -/
  mbox : List MboxTrig := []
  /-- launches that have ended and whose arrival on DONE is still to be made (06 R185) -/
  dones : List DoneRec := []
  /-- contexts of failed stores whose crew is gone (01 R36) -/
  orphans : List Nat := []
  /-- appends made whose slots still wait for their completion times: queue, index, time, and `Store.op` of the slot's stores (R398) -/
  appends : List (Nat × Nat × Nat × Nat) := []
  deriving DecidableEq, Repr

/-- The barrier object of an operation (05 R127). -/
inductive Obj where
  | none
  | scr (off : Nat)
  | va (a : Word64)
  deriving DecidableEq, Repr

/-- The asynchronous operations (05 R136). -/
inductive OpKind where
  | cpy (mode : Nat)
  | mma
  | mmas
  | cmma
  | accz
  | accin
  | accout
  | accmov
  | trow (mode : Nat)
  | march (iv : Bool)
  | mresume
  | fprep
  | draw
  | nbin
  | npairs
  deriving DecidableEq, Repr

/-- An asynchronous operation from issue to its end: who issued it, what it captured, how far it is. -/
structure Op where
  id : Nat
  uid : Nat
  cuid : Nat
  core : Nat
  slot : Nat
  ctx : Nat
  sid : Nat
  kind : OpKind
  obj : Obj
  args : List Word64 := []
  recs : List (List Byte) := []
  tiles : List Word128 := []
  handles : List Word64 := []
  index : List Nat := []
  lanes : Word32 := 0
  lane : SMap Word32 := []
  fmode : Word64 := 0
  /-- bytes counted (05 R136) -/
  count : Nat := 0
  /-- gang members that count the operation: skein uids -/
  members : List Nat := []
  /-- crews that take part, by uid, each with the bytes counted there (mcast); the crews of the instance (cmma) -/
  targets : List (Nat × Nat) := []
  /-- ranges of virtual global space written, once performed -/
  wrote : List (Nat × Nat) := []
  started : Bool := false
  performed : Bool := false
  /-- status bits found -/
  status : Nat := 0
  /-- first indexed error: kind bit and index (R135) -/
  errIdx : Option (Bool × Nat) := none
  /-- time that must pass before the arrival (R128) -/
  due : Nat := 0
  /-- progress of a streaming operation -/
  pos : Nat := 0
  /-- global stores still to be made once those already made have their completion times: address and bytes (10 R299) -/
  later : List (Nat × List Byte) := []
  /-- its unit has taken it up (15 R410) -/
  taken : Bool := false
  /-- the issuing skein's acquire floor at issue (12 R351, 13 R375) -/
  floor : Nat := 0
  deriving DecidableEq, Repr

/-- A gang's rendezvous latch (06 R169): crew, GANG value, issue number, members entered with their operation. -/
structure Latch where
  cuid : Nat
  gang : Word64
  issue : Nat
  entered : List (Nat × Op)
  deriving DecidableEq, Repr

/-- A cluster latch (11 R322): launch, instance of the cluster level, issue number, crews entered with their operation. -/
structure ClusterLatch where
  launch : Nat
  inst : Nat
  issue : Nat
  entered : List (Nat × Op)
  deriving DecidableEq, Repr

/-- A record cache entry (10 R305): core, context, address, contents. -/
structure CachedRec where
  core : Nat
  ctx : Nat
  addr : Nat
  bytes : List Byte
  deriving DecidableEq, Repr

/-- An 8 × 8 × 8 block product of an operation: quadrant, block of rows in the quarter, block of columns, block of K. -/
structure ArrayFault where
  op : Nat
  quad : Nat
  row : Nat
  col : Nat
  k : Nat
  deriving DecidableEq, Repr

structure Engines where
  ops : List Op := []
  latches : List Latch := []
  clatches : List ClusterLatch := []
  cache : List CachedRec := []
  /-- installed loadable special functions (09 R272): slot, table bytes -/
  slots : SMap (List Byte) := []
  /-- block products that fail their residue check twice (05 R143, log entry 10) -/
  arrayBad : List ArrayFault := []
  /-- the requester that each unit looks at first: after power-up number 0 (15 R410) -/
  turn : SMap Nat := []
  deriving DecidableEq, Repr

/-- A request outstanding to a peer (17 R430). -/
structure OutReq where
  peer : Nat
  seq : Nat
  /-- when it was sent -/
  since : Nat
  deriving DecidableEq, Repr

/-- One frame of a stream as it is sent (17 R439, R441): its number, the frame it was taken from, whether it stands in
for another, RTP timestamp, payload type, source, sender type NL, legs (port, address, UDP port), pixel words row by row. -/
structure FrameOut where
  stream : Nat
  frame : Nat
  source : Nat
  substitute : Bool
  rtp : Nat
  pt : Nat
  ssrc : Nat
  nl : Bool
  legs : List (Nat × Nat × Nat)
  pixels : List Nat
  deriving DecidableEq, Repr

/-- What the part sends (17 R427 to R433, R441; 18 R446): the model's own record of outputs. -/
inductive Output where
  /-- a message, with the peer's ports, IPv6 address and UDP port (R433) -/
  | pvl (m : PvlMsg) (ports addr udp : Nat)
  | arpReply (port addr : Nat)
  | neighbourReply (port addr : Nat)
  | echoReply (port : Nat) (data : List Byte)
  | frame (f : FrameOut)
  /-- messages of a sender from this SEQ on are asked for again (R431) -/
  | again (dst seq : Nat)
  | mgmt (dst cmd status : Nat) (data : List Byte)
  | halted (crew : Nat) (ctx : Nat)
  deriving DecidableEq, Repr

/-- A frame whose slot is in progress: when it ends, and the object that the engine arrives on then, as the stream record stood at the start
(14 R394). -/
structure FrameSlot where
  frame : Nat
  ends : Nat
  ctx : Nat
  release : Word64
  deriving DecidableEq, Repr

/-- An output stream (18 R447, 17 R439 to R443). -/
structure Stream where
  n : Nat
  /-- the configuration in effect -/
  cfg : List Byte := []
  /-- configurations accepted and not yet in effect, oldest first, each with the first frame to which it applies -/
  pending : List (Nat × List Byte) := []
  /-- the next frame to start -/
  next : Nat := 0
  /-- the start time that gtime has reached, and whether the frame that starts then was committed before it -/
  sample : Option (Nat × Bool) := none
  /-- the most recently committed frame -/
  last : Option Nat := none
  /-- the frames whose slot is in progress -/
  slots : List FrameSlot := []
  deriving DecidableEq, Repr

/-- A READ sent to the host for an access to a host page (17 R432): the skein or operation that made it, its SEQ, home
address and length, and the status of the answer once it is there. -/
structure HostRead where
  who : Nat
  /-- the access of a skein it belongs to: when the skein issued before, and where it stands -/
  stamp : Nat := 0
  seq : Nat
  key : Nat
  len : Nat
  status : Option Nat := none
  deriving DecidableEq, Repr

/-- A message that writes a host page, performed but not answered: its stores are on their way to the host under `op`; their latest completion
time so far, and the status of a refusal (17 R430 to R432). -/
structure Owed where
  msg : PvlMsg
  op : Nat
  time : Nat := 0
  status : Nat := 0
  deriving DecidableEq, Repr

structure Fabric where
  /-- next SEQ to send to a peer, next SEQ expected from it (R431) -/
  seqNext : SMap Nat := []
  seqExp : SMap Nat := []
  /-- latest completion time of a peer's writes (R431) -/
  writeC : SMap Nat := []
  reqs : List OutReq := []
  hostReads : List HostRead := []
  /-- messages that have arrived ahead of their turn or wait for gtime (R431) -/
  inbox : List (PvlMsg × PvlBody) := []
  owed : List Owed := []
  /-- peers that have left (R436), and peers known to be members (log entry 22) -/
  departed : List Nat := []
  present : List Nat := []
  /-- announcements of a JOIN not yet acknowledged (R438) -/
  joinWait : List (Nat × Nat) := []
  lastSync : Nat := 0
  /-- ticks still to be slewed, ticks since the last adjustment, whether the one step was made (R435) -/
  slew : Int := 0
  slewCnt : Nat := 0
  stepped : Bool := false
  streams : List Stream := []
  /-- frames and messages dropped, which management counts (R427, R428) -/
  drops : Nat := 0
  out : List Output := []
  deriving DecidableEq, Repr

/-- A MANIFEST or COMPARE whose launch record lies in a host page: it is answered once the host has answered the READs (18 R449, 17 R432):
who asks, context and record, for COMPARE the stored manifest, and the message, if one brought the command. -/
structure MgmtWait where
  src : Nat
  ctx : Nat
  va : Nat
  stored : Option (List Byte) := none
  msg : Option PvlMsg := none
  deriving DecidableEq, Repr

/-- The management processor (18 R444 to R449). -/
structure Mgmt where
  safe : Bool := false
  /-- the step of the power-up sequence that failed, 0 for none -/
  failedStep : Nat := 0
  /-- class and place of the unit that failed its self-test -/
  failedUnit : Option (Nat × Nat) := none
  /-- the power-up in progress: what its steps find (R444) -/
  bring : Option BringUp := none
  /-- SHA-512 of the firmware that the boot ROM accepted (R448, R449) -/
  firmware : List Byte := List.replicate 64 0#8
  /-- the measurement value (R448) -/
  mv : List Byte := List.replicate 64 0#8
  /-- last fatal fault record of each context (16 R417) -/
  fatal : SMap (List Byte) := []
  /-- commands that wait for the host -/
  waits : List MgmtWait := []
  deriving DecidableEq, Repr

/-- Whose turn the next step is (the model's own, log entry 5). -/
inductive Beat where
  | issue
  | event
  | tick
  deriving DecidableEq, Repr

/-- The machine. `k` is the skein that issues, `peers` the other skeins of its crew `crew`, `others` the other crews. -/
structure State where
  k : Skein := {}
  peers : List Skein := []
  crew : Crew := {}
  others : List CrewRec := []
  gtime : Nat := 0
  clocks : Nat := 0
  /-- the privileged view (18 R450) by index; an unlisted index holds its reset value -/
  preg : SMap Word64 := []
  hm : Homes := {}
  xl : Xlate := {}
  sch : Sched := {}
  en : Engines := {}
  fab : Fabric := {}
  mgt : Mgmt := {}
  /-- contexts whose code is privileged (log entry 3) -/
  privCtx : List Nat := []
  /-- the addresses configured at the ports: port, address (17 R427) -/
  netAddrs : List (Nat × Nat) := []
  /-- model's own: events named in advance, whose turn it is, positions of the rotations, counters -/
  schedule : List Instr := []
  beat : Beat := .issue
  quad : Nat := 8191
  rot : Nat := 0
  seqNo : Nat := 0
  ids : Nat := 0
  /-- model's own: what the free values of Config are applied to -/
  free : Nat := 0
  deriving DecidableEq, Repr

/-- The machine's only stop. -/
inductive Fault where
  /-- 02 R72: a walk, a table or a register names a physical address at or above 2^38 of this part, which names no memory.
  Raised by every access to physical memory. Safe: the model stops where the manual gives no value. -/
  | noSuchMemory
  deriving DecidableEq, Repr

inductive Refusal where
  /-- The instruction has no meaning yet; raised by exec only. Safe. -/
  | notModelled (mnemonic : String)
  deriving DecidableEq, Repr

/-- The part right after reset (18 R444, R450): no crew resident, registers at their reset values, memory unlisted. -/
def State.reset : State := {}

end Sys2Proof.Machine
end

