-- ==== Sys2Proof/Machine/Base.lean ====
section
/-! DEFINITION. Sparse storage, lane masks, bit fields, and the named reads and writes of every register class. -/
namespace Sys2Proof.Machine

abbrev Out := Host.Outcome State Fault Refusal

/-! ### Sparse storage -/

def mget {α : Type} (d : α) : SMap α → Nat → α
  | [], _ => d
  | (k', v) :: m, k => if k' = k then v else mget d m k

def mins {α : Type} (k : Nat) (v : α) : SMap α → SMap α
  | [] => [(k, v)]
  | (k', v') :: m => if k < k' then (k, v) :: (k', v') :: m else (k', v') :: mins k v m

def mdel {α : Type} (k : Nat) : SMap α → SMap α
  | [] => []
  | (k', v') :: m => if k' = k then mdel k m else (k', v') :: mdel k m

/-- Writes key `k`; a value equal to the default removes the entry, so that equal storages are equal lists. -/
def mset {α : Type} [DecidableEq α] (d : α) (m : SMap α) (k : Nat) (v : α) : SMap α :=
  if v = d then mdel k m else mins k v (mdel k m)

/-- Canonical form: keys strictly rising, no value equal to the default. -/
def mwf {α : Type} [DecidableEq α] (d : α) : SMap α → Bool
  | [] => true
  | (k, v) :: m => decide (v ≠ d) && m.all (fun e => decide (k < e.1)) && mwf d m

/-- The canonical form of memory; an unlisted byte reads as zero (log entry 2). -/
def Memory.wf (m : List Host.Cell) : Bool := mwf 0#8 m

/-! ### Numbers and fields -/

/-- Bits hi..lo of a number. -/
def nb (w hi lo : Nat) : Nat := (w / 2 ^ lo) % 2 ^ (hi + 1 - lo)
def nbit (w i : Nat) : Bool := w.testBit i

def b2 (b : Bool) : Nat := if b then 1 else 0

/-- A field of `n` bits read as a signed number. -/
def sxt (n x : Nat) : Int := if x % 2 ^ n < 2 ^ (n - 1) then ((x % 2 ^ n : Nat) : Int) else ((x % 2 ^ n : Nat) : Int) - ((2 ^ n : Nat) : Int)

/-- The address field sum modulo 2^64 (07 R194). -/
def wrap64 (x : Int) : Nat := (x % (2 ^ 64 : Int)).toNat

def w64 (n : Nat) : Word64 := BitVec.ofNat 64 n
def w32 (n : Nat) : Word32 := BitVec.ofNat 32 n

/-- `n` bytes of a number, least significant first (00 R5). -/
def toBytes : Nat → Nat → List Byte
  | 0, _ => []
  | n + 1, x => BitVec.ofNat 8 (x % 256) :: toBytes n (x / 256)

def ofBytes : List Byte → Nat
  | [] => 0
  | b :: l => b.toNat + 256 * ofBytes l

/-- The number in `n` bytes of a byte list from offset `o`; a byte past the end counts zero. -/
def leAt (l : List Byte) (o n : Nat) : Nat := ofBytes ((l.drop o).take n)

/-! ### Lanes -/

def laneOn (m : Word32) (L : Nat) : Bool := m.getLsbD L

def laneList : List Nat := List.range 32

/-- The lanes of a mask in ascending order. -/
def lanesOf (m : Word32) : List Nat := laneList.filter (laneOn m)

def maskOf (f : Nat → Bool) : Word32 :=
  laneList.foldl (fun m L => if f L then m ||| (1#32 <<< L) else m) 0#32

/-! ### The register classes (07 R201) -/

/-- Every non-exited lane (06 R170). -/
def liveMask (k : Skein) : Word32 := k.rest.foldl (fun m x => m ||| x.mask) k.e.mask

/-- The register that field value `n` names in lane `L` (06 R176). -/
def ren (k : Skein) (L n : Nat) : Nat :=
  if k.meld.st = .closed ∨ n < 112 then n
  else (if laneOn k.meld.path L then k.meld.tb else k.meld.ta).getD (n - 112) n

def getV (v : SMap Word32) (n L : Nat) : Word32 := mget 0#32 v (32 * n + L)

/-- Writes register `dst L` of each lane of `act`. -/
def putV (act : Word32) (dst : Nat → Nat) (f : Nat → Word32) (v : SMap Word32) : SMap Word32 :=
  laneList.foldl (fun m L => if laneOn act L then mset 0#32 m (32 * dst L + L) (f L) else m) v

/-- V[n][L] as named by an operand field. -/
def rdV (k : Skein) (n L : Nat) : Word32 := getV k.v (ren k L n) L

/-- V[n][L] ← f L for each lane of `act`. -/
def wrV (act : Word32) (n : Nat) (f : Nat → Word32) (k : Skein) : Skein :=
  { k with v := putV act (fun L => ren k L n) f k.v }

/-- The 64-bit operand of a pair n, n + 1 (07 R202, 06 R176). -/
def rdV2 (k : Skein) (n L : Nat) : Word64 := getV k.v (ren k L n + 1) L ++ getV k.v (ren k L n) L

def wrV2 (act : Word32) (n : Nat) (f : Nat → Word64) (k : Skein) : Skein :=
  let lo := putV act (fun L => ren k L n) (fun L => (f L).extractLsb' 0 32) k.v
  { k with v := putV act (fun L => ren k L n + 1) (fun L => (f L).extractLsb' 32 32) lo }

/-- g0 reads zero (07 R201). -/
def rdG (k : Skein) (n : Nat) : Word64 := if n = 0 then 0#64 else mget 0#64 k.g n
def wrG (n : Nat) (x : Word64) (k : Skein) : Skein := if n = 0 then k else { k with g := mset 0#64 k.g n x }

/-- p0 reads all ones (07 R201). -/
def rdP (k : Skein) (n : Nat) : Word32 := if n = 0 then 0xFFFFFFFF#32 else mget 0#32 k.p n
def wrP (n : Nat) (x : Word32) (k : Skein) : Skein := if n = 0 then k else { k with p := mset 0#32 k.p n x }

def rdT (k : Skein) (n : Nat) : Word128 := mget 0#128 k.t n
def wrT (n : Nat) (x : Word128) (k : Skein) : Skein := { k with t := mset 0#128 k.t n x }
def rdA (k : Skein) (n : Nat) : Word64 := mget 0#64 k.a n
def wrA (n : Nat) (x : Word64) (k : Skein) : Skein := { k with a := mset 0#64 k.a n x }

/-- The lanes a guard selects: P[p] or its complement (07 R195). -/
def guardLanes (k : Skein) (g : Nat) : Word32 := if g < 8 then rdP k g else ~~~ (rdP k (g - 8))

/-- ACTIVE (00 R10, 07 R195). -/
def active (k : Skein) (g : Nat) : Word32 := k.e.mask &&& guardLanes k g

/-- Bits of the lanes of `act` from `x`, the others from `old`. -/
def blend (act x old : Word32) : Word32 := (act &&& x) ||| (~~~ act &&& old)

/-! ### The privileged view (18 R450) -/

/-- Reset values of the privileged view that are not zero (18 R450, 17 R434, 06 R173, 04 R110, 09 R255).
Those of a context stand at State.reset; no event creates a context (log entry 102). -/
def pregReset (i : Nat) : Word64 :=
  if i = 0x18 then 0xB8A50000#64
  else if i = 0x1A then 0x00FF0000#64
  else if 0x1000 ≤ i ∧ i < 0x1800 then
    match (i - 0x1000) % 8 with
    | 1 => 256#64
    | 2 => 0x0000100018000400#64
    | 3 => 0x1100#64
    | _ => 0#64
  else 0#64

def preg (s : State) (i : Nat) : Word64 := mget (pregReset i) s.preg i
def setPreg (i : Nat) (x : Word64) (s : State) : State := { s with preg := mset (pregReset i) s.preg i x }

/-- Index of register `f` of context `c` (18 R450). -/
def ctxReg (c f : Nat) : Nat := 0x1000 + 8 * c + f

def ctxFest (s : State) (c : Nat) : Nat := nb (preg s (ctxReg c 0)).toNat 4 0
def ctxLease (s : State) (c : Nat) : Nat := nb (preg s (ctxReg c 1)).toNat 14 0
def ctxLift (s : State) (c : Nat) : Nat := nb (preg s (ctxReg c 2)).toNat 15 0
def ctxBstall (s : State) (c : Nat) : Nat := nb (preg s (ctxReg c 2)).toNat 28 24
def ctxBtimer (s : State) (c : Nat) : Nat := nb (preg s (ctxReg c 2)).toNat 47 32
def ctxHand (s : State) (c : Nat) : Word64 := preg s (ctxReg c 5)
def ctxTrap (s : State) (c : Nat) : Nat := (preg s (ctxReg c 6)).toNat

/-- The device number of this part in its fabric set (17 R434, PVLCFG.DEVNO). -/
def ownDev (s : State) : Nat := nb (preg s 0x18).toNat 15 8

/-- ERRCNT.UNCORR rises, saturating (18 R451). -/
def countUncorr (n : Nat) (s : State) : State :=
  let x := (preg s 0x21).toNat
  setPreg 0x21 (w64 (min (nb x 63 32 + n) (2 ^ 32 - 1) * 2 ^ 32 + nb x 31 0)) s

/-- ERRCNT.CORR rises, saturating (18 R451). -/
def countCorr (n : Nat) (s : State) : State :=
  let x := (preg s 0x21).toNat
  setPreg 0x21 (w64 (nb x 63 32 * 2 ^ 32 + min (nb x 31 0 + n) (2 ^ 32 - 1))) s

/-- Compute is enabled: step 5 of the power-up sequence is reached (18 R444). -/
def computeOn (s : State) : Bool := decide (nb (preg s 0x20).toNat 3 0 = 4)

/-- Privilege is a property of the context (log entry 3). -/
def isPriv (s : State) : Bool := s.privCtx.contains s.crew.ctx

def clusterOf (core : Nat) : Nat := core / 16

/-! ### Every skein of the part -/

/-- Applies `f` to the skein with this uid wherever it is resident. -/
def modSkein (uid : Nat) (f : Skein → Skein) (s : State) : State :=
  let g := fun k : Skein => if k.uid = uid then f k else k
  { s with k := g s.k, peers := s.peers.map g, others := s.others.map fun c => { c with skeins := c.skeins.map g } }

/-- Applies `f` to a skein wherever it is, resident or saved. -/
def modSkeinAll (uid : Nat) (f : Skein → Skein) (s : State) : State :=
  let g := fun k : Skein => if k.uid = uid then f k else k
  let s1 := modSkein uid f s
  { s1 with sch := { s1.sch with saved := s1.sch.saved.map fun r => { r with crewRec := { r.crewRec with skeins := r.crewRec.skeins.map g } } } }

/-- Applies `f` to the crew with this uid. -/
def modCrew (uid : Nat) (f : Crew → Crew) (s : State) : State :=
  let g := fun c : Crew => if c.uid = uid then f c else c
  { s with crew := g s.crew, others := s.others.map fun c => { c with crew := g c.crew } }

/-- Applies `f` to a crew wherever it is, resident or saved. -/
def modCrewAll (uid : Nat) (f : Crew → Crew) (s : State) : State :=
  let g := fun r : Saved => if r.crewRec.crew.uid = uid then { r with crewRec := { r.crewRec with crew := f r.crewRec.crew } } else r
  let s1 := modCrew uid f s
  { s1 with sch := { s1.sch with saved := s1.sch.saved.map g } }

/-- The skein in focus and its crew, as a record; a crew none of whose skeins is resident has an idle skein in focus. -/
def focusRec (s : State) : CrewRec := { crew := s.crew, skeins := (s.k :: s.peers).filter fun k => decide (k.uid ≠ 0) }

/-- Every resident crew; the idle focus at reset is none. -/
def allCrews (s : State) : List CrewRec := (if s.crew.live then [focusRec s] else []) ++ s.others

/-- The state with this list of resident crews and the first skein of the first in focus. -/
def withCrews (l : List CrewRec) (s : State) : State :=
  match l with
  | [] => { s with k := {}, peers := [], crew := {}, others := [] }
  | c :: l' => { s with k := c.skeins.headD {}, peers := c.skeins.drop 1, crew := c.crew, others := l' }

def findCrew (p : Crew → Bool) : List CrewRec → Option (CrewRec × List CrewRec)
  | [] => none
  | c :: l =>
    if p c.crew then some (c, l)
    else match findCrew p l with
      | some (d, r) => some (d, c :: r)
      | none => none

def findSkein (p : Skein → Bool) : List Skein → Option (Skein × List Skein)
  | [] => none
  | c :: l =>
    if p c then some (c, l)
    else match findSkein p l with
      | some (d, r) => some (d, c :: r)
      | none => none

/-- Puts the crew in `slot` of `core` in focus. -/
def focusCrew (core slot : Nat) (s : State) : Option State :=
  match findCrew (fun c => decide (c.core = core) && decide (c.slot = slot)) (allCrews s) with
  | some (c, l) => some (withCrews (c :: l) s)
  | none => none

/-- Puts the named skein in focus. -/
def focusOn (r : Ref) (s : State) : Option State :=
  match focusCrew r.core r.slot s with
  | none => none
  | some s' =>
    match findSkein (fun k => decide (k.uid ≠ 0) && decide (k.sid = r.sid)) (s'.k :: s'.peers) with
    | some (k, l) => some { s' with k := k, peers := l }
    | none => none

/-! ### Launch records: tasks, levels and units of placement (06 R154, R156, R159, 15 R401) -/

/-- The level entry of level `l` (06 R156). -/
def levelRec (r : LaunchRec) (l : Nat) : LevelRec := r.levels.getD (l - 3) {}

def taskCount (r : LaunchRec) : Nat := r.gx * r.gy * r.gz
/-- The levels in use, from level 3. -/
def usedLevels (r : LaunchRec) : List LevelRec := r.levels.takeWhile fun l => decide (l.size ≠ 0)
/-- Tasks in one instance of level `l`. -/
def levelTasks (r : LaunchRec) (l : Nat) : Nat := (List.range (l - 2)).foldl (fun m i => m * (levelRec r (3 + i)).size) 1
/-- Tasks in one instance of the highest level in use whose domain is `d`; none without such a level. -/
def domainTasks (r : LaunchRec) (d : Nat) : Option Nat :=
  (((List.range (usedLevels r).length).map (3 + ·)).filter fun l => decide ((levelRec r l).domain = d)).getLast?.map (levelTasks r)

def coreTasks (r : LaunchRec) : Nat := (domainTasks r 2).getD 1
/-- Crews of a unit of placement (R401). -/
def unitTasks (r : LaunchRec) : Nat := (domainTasks r 3).getD (coreTasks r)
def unitCount (r : LaunchRec) : Nat := taskCount r / unitTasks r

end Sys2Proof.Machine
end

