-- ==== Sys2Proof/Machine/Fp.lean ====
section
/-! DEFINITION. Floating-point formats, exact values, rounding with flags and draws, and the arithmetic built on them
(03 R81 to R83, 09 R258 to R262, R264, R266). -/
namespace Sys2Proof.Machine

/-- A format: exponent and fraction widths, bias, and how its all-ones exponent is read: 0 IEEE, 1 E4M3, 2 E2M1. -/
structure Fmt where
  w : Nat
  f : Nat
  bias : Nat
  kind : Nat := 0
  deriving DecidableEq, Repr

def fp32 : Fmt := { w := 8, f := 23, bias := 127 }
def fp16 : Fmt := { w := 5, f := 10, bias := 15 }
def bf16 : Fmt := { w := 8, f := 7, bias := 127 }
def e4m3 : Fmt := { w := 4, f := 3, bias := 7, kind := 1 }
def e5m2 : Fmt := { w := 5, f := 2, bias := 15 }
def e2m1 : Fmt := { w := 2, f := 1, bias := 1, kind := 2 }

def fmtBits (F : Fmt) : Nat := 1 + F.w + F.f
def signBit (F : Fmt) : Nat := 2 ^ (F.w + F.f)

/-- The pattern of +∞ where the format has one. -/
def infCode (F : Fmt) : Nat := (2 ^ F.w - 1) * 2 ^ F.f

/-- The largest finite magnitude's pattern (03 R83). -/
def maxCode (F : Fmt) : Nat :=
  if F.kind = 1 then 0x7E else if F.kind = 2 then 7 else infCode F - 1

/-- The canonical NaN (03 R82). -/
def nanCode (F : Fmt) : Nat :=
  if F.kind = 1 then 0x7F else if F.kind = 2 then 0 else infCode F + 2 ^ (F.f - 1)

/-- An exact value: NaN, an infinity, or a sign and a ratio n / d with d > 0. -/
inductive Fx where
  | nan
  | inf (neg : Bool)
  | fin (neg : Bool) (n d : Nat)
  deriving DecidableEq, Repr

/-- A magnitude pattern m · 2^q as a ratio. -/
def ratio (neg : Bool) (m : Nat) (q : Int) : Fx :=
  if 0 ≤ q then .fin neg (m * 2 ^ q.toNat) 1 else .fin neg m (2 ^ (-q).toNat)

/-- The value of a pattern (03 R81). -/
def fdec (F : Fmt) (x : Nat) : Fx :=
  let neg := nbit x (F.w + F.f)
  let e := nb x (F.w + F.f - 1) F.f
  let m := x % 2 ^ F.f
  let top := e = 2 ^ F.w - 1
  if top ∧ F.kind = 0 then (if m = 0 then .inf neg else .nan)
  else if top ∧ F.kind = 1 ∧ m = 7 then .nan
  else if e = 0 then ratio neg m (1 - (F.bias : Int) - F.f)
  else ratio neg (2 ^ F.f + m) ((e : Int) - F.bias - F.f)

inductive Rm where
  | rn
  | rz
  | ru
  | rd
  | sr
  deriving DecidableEq, Repr

/-- The codes of R199 and R254; code 000 is the default and is resolved by the caller. -/
def rmOf (c : Nat) : Rm :=
  match c with
  | 2 => .rz
  | 3 => .ru
  | 4 => .rd
  | 5 => .sr
  | _ => .rn

/-- Flag bits of FMODE (09 R254). -/
def flNX : Nat := 1
def flUF : Nat := 2
def flOF : Nat := 4
def flDZ : Nat := 8
def flNV : Nat := 16
def flIN : Nat := 32

/-- floor(log2 (n / d)) for n, d > 0. -/
def ilog (n d : Nat) : Int :=
  let p : Int := (Nat.log2 n : Int) - (Nat.log2 d : Int)
  let ge : Bool := if 0 ≤ p then decide (d * 2 ^ p.toNat ≤ n) else decide (d ≤ n * 2 ^ (-p).toNat)
  if ge then p else p - 1

/-- Whether a quotient m with remainder r over D moves away from zero. -/
def roundsUp (m : Rm) (neg : Bool) (q r D draw : Nat) : Bool :=
  match m with
  | .rn => decide (D < 2 * r) || (decide (2 * r = D) && decide (q % 2 = 1))
  | .rz => false
  | .ru => !neg && decide (r ≠ 0)
  | .rd => neg && decide (r ≠ 0)
  | .sr => decide (draw * D < r * 2 ^ 32)

def withSign (F : Fmt) (neg : Bool) (c : Nat) : Nat := if neg then signBit F + c else c

/-- What an overflow writes (09 R258). -/
def overflowCode (F : Fmt) (m : Rm) (e4sat neg : Bool) : Nat :=
  if F.kind = 1 then (if e4sat then withSign F neg 0x7E else 0x7F)
  else if F.kind = 2 then withSign F neg 7
  else match m with
    | .rz => withSign F neg (maxCode F)
    | .ru => if neg then withSign F true (maxCode F) else infCode F
    | .rd => if neg then withSign F true (infCode F) else maxCode F
    | _ => withSign F neg (infCode F)

/-- round(x, m) of a non-zero ratio, with the flags OF, UF and NX (09 R258, R260). -/
def roundRatio (F : Fmt) (m : Rm) (e4sat : Bool) (draw : Nat) (neg : Bool) (n d : Nat) : Nat × Nat :=
  let emin : Int := 1 - (F.bias : Int)
  let p := ilog n d
  let q : Int := max p emin - F.f
  let N := if 0 ≤ q then n else n * 2 ^ (-q).toNat
  let D := if 0 ≤ q then d * 2 ^ q.toNat else d
  let base := (q - (emin - F.f)).toNat * 2 ^ F.f
  let m' : Rm := if m = .sr ∧ (maxCode F < base + N / D ∨ (maxCode F = base + N / D ∧ N % D ≠ 0)) then .rn else m
  let up := roundsUp m' neg (N / D) (N % D) D draw
  let code := base + N / D + b2 up
  if maxCode F < code then (overflowCode F m' e4sat neg, flOF + flNX)
  else
    let nx := decide (N % D ≠ 0)
    let uf := nx && decide (p < emin)
    (withSign F neg code, (if nx then flNX else 0) + (if uf then flUF else 0))

/-- round of any exact value; an infinity stays where the format has one, else it is an overflow (09 R258, R266). -/
def fround (F : Fmt) (m : Rm) (e4sat : Bool) (draw : Nat) (x : Fx) : Nat × Nat :=
  match x with
  | .nan => (nanCode F, 0)
  | .inf neg => if F.kind = 0 then (withSign F neg (infCode F), 0) else (overflowCode F m e4sat neg, flOF + flNX)
  | .fin neg n d => if n = 0 then (withSign F neg 0, 0) else roundRatio F m e4sat draw neg n d

/-- round to the integer grid: magnitude and whether it is inexact. -/
def roundToInt (m : Rm) (draw : Nat) (neg : Bool) (n d : Nat) : Nat × Bool :=
  (n / d + b2 (roundsUp m neg (n / d) (n % d) d draw), decide (n % d ≠ 0))

/-! ### Exact arithmetic -/

def fxNeg (x : Fx) : Fx :=
  match x with
  | .nan => .nan
  | .inf s => .inf (!s)
  | .fin s n d => .fin (!s) n d

def fxAbs (x : Fx) : Fx :=
  match x with
  | .nan => .nan
  | .inf _ => .inf false
  | .fin _ n d => .fin false n d

def sgnNum (neg : Bool) (n : Nat) : Int := if neg then -(n : Int) else n

/-- The exact sum of two finite values; the sign of an exact zero is `z` unless both are zeros of one sign (09 R261). -/
def addFin (z : Bool) (s1 : Bool) (n1 d1 : Nat) (s2 : Bool) (n2 d2 : Nat) : Fx :=
  let i := sgnNum s1 n1 * (d2 : Int) + sgnNum s2 n2 * (d1 : Int)
  if i = 0 then .fin (if n1 = 0 ∧ n2 = 0 ∧ s1 = s2 then s1 else z) 0 1
  else .fin (decide (i < 0)) i.natAbs (d1 * d2)

/-- a + b; none stands for ∞ − ∞. `z` is the sign of a cancelled zero. -/
def fxAdd (z : Bool) (a b : Fx) : Option Fx :=
  match a, b with
  | .nan, _ => some .nan
  | _, .nan => some .nan
  | .inf s, .inf t => if s = t then some (.inf s) else none
  | .inf s, .fin _ _ _ => some (.inf s)
  | .fin _ _ _, .inf t => some (.inf t)
  | .fin s n d, .fin t m e => some (addFin z s n d t m e)

/-- a · b; none stands for 0 · ∞. -/
def fxMul (a b : Fx) : Option Fx :=
  match a, b with
  | .nan, _ => some .nan
  | _, .nan => some .nan
  | .inf s, .inf t => some (.inf (s != t))
  | .inf s, .fin t m _ => if m = 0 then none else some (.inf (s != t))
  | .fin s n _, .inf t => if n = 0 then none else some (.inf (s != t))
  | .fin s n d, .fin t m e => some (.fin (s != t) (n * m) (d * e))

/-- a · 2^e, with e held inside a range beyond which every format's result is the same. -/
def fxScale (a : Fx) (e : Int) : Fx :=
  match a with
  | .fin s n d =>
    let e' := max (-2000) (min 2000 e)
    if 0 ≤ e' then .fin s (n * 2 ^ e'.toNat) d else .fin s n (d * 2 ^ (-e').toNat)
  | x => x

/-- a < b of two values that are not NaN. -/
def fxLt (a b : Fx) : Bool :=
  match a, b with
  | .nan, _ => false
  | _, .nan => false
  | .inf s, .inf t => s && !t
  | .inf s, .fin _ _ _ => s
  | .fin _ _ _, .inf t => !t
  | .fin s n d, .fin t m e => decide (sgnNum s n * (e : Int) < sgnNum t m * (d : Int))

def fxEq (a b : Fx) : Bool :=
  match a, b with
  | .nan, _ => false
  | _, .nan => false
  | .inf s, .inf t => s == t
  | .fin s n d, .fin t m e => decide (sgnNum s n * (e : Int) = sgnNum t m * (d : Int))
  | _, _ => false

def fxLe (a b : Fx) : Bool := fxLt a b || fxEq a b
def fxIsNan (a : Fx) : Bool := match a with | .nan => true | _ => false
def fxIsInf (a : Fx) : Bool := match a with | .inf _ => true | _ => false
def fxIsZero (a : Fx) : Bool := match a with | .fin _ n _ => decide (n = 0) | _ => false
def fxSign (a : Fx) : Bool := match a with | .inf s => s | .fin s _ _ => s | .nan => false
def fxZero : Fx := .fin false 0 1
def fxOfInt (i : Int) : Fx := .fin (decide (i < 0)) i.natAbs 1

/-- Smaller and larger of two non-NaN values. -/
def fxMin (a b : Fx) : Fx := if fxLt b a then b else a
def fxMax (a b : Fx) : Fx := if fxLt a b then b else a

/-- The rounded result of an exact operation, NaN with NV where the operation is undefined (09 R260, R261). -/
def finish (F : Fmt) (m : Rm) (draw : Nat) (x : Option Fx) : Nat × Nat :=
  match x with
  | none => (nanCode F, flNV)
  | some y => fround F m true draw y

/-- fadd, fsub, fmul, ffma, fscale on patterns (09 R261). -/
def fpAdd (F : Fmt) (m : Rm) (draw a b : Nat) : Nat × Nat := finish F m draw (fxAdd (decide (m = .rd)) (fdec F a) (fdec F b))
def fpSub (F : Fmt) (m : Rm) (draw a b : Nat) : Nat × Nat := finish F m draw (fxAdd (decide (m = .rd)) (fdec F a) (fxNeg (fdec F b)))
def fpMul (F : Fmt) (m : Rm) (draw a b : Nat) : Nat × Nat := finish F m draw (fxMul (fdec F a) (fdec F b))
def fpFma (F : Fmt) (m : Rm) (draw a b c : Nat) : Nat × Nat :=
  if fxIsNan (fdec F a) || fxIsNan (fdec F b) || fxIsNan (fdec F c) then (nanCode F, 0)
  else match fxMul (fdec F a) (fdec F b) with
    | none => (nanCode F, flNV)
    | some x => finish F m draw (fxAdd (decide (m = .rd)) x (fdec F c))
def fpScale (F : Fmt) (m : Rm) (draw a : Nat) (e : Int) : Nat × Nat := finish F m draw (some (fxScale (fdec F a) e))

/-- minimumNumber and maximumNumber with −0 below +0 (09 R262). -/
def fpMin (F : Fmt) (a b : Nat) : Nat :=
  let x := fdec F a
  let y := fdec F b
  if fxIsNan x && fxIsNan y then nanCode F
  else if fxIsNan x then b else if fxIsNan y then a
  else if fxLt x y then a else if fxLt y x then b
  else if fxSign x then a else b
def fpMax (F : Fmt) (a b : Nat) : Nat :=
  let x := fdec F a
  let y := fdec F b
  if fxIsNan x && fxIsNan y then nanCode F
  else if fxIsNan x then b else if fxIsNan y then a
  else if fxLt x y then b else if fxLt y x then a
  else if fxSign x then b else a

/-- fcmp (09 R263, 07 R210). -/
def fpCmp (F : Fmt) (c a b : Nat) : Bool :=
  let x := fdec F a
  let y := fdec F b
  let un := fxIsNan x || fxIsNan y
  match c with
  | 0 => fxEq x y
  | 1 => un || !fxEq x y
  | 2 => fxLt x y
  | 3 => !un && fxLe x y
  | 4 => fxLt y x
  | 5 => !un && fxLe y x
  | 6 => !un
  | _ => un

/-- fround on the integer grid, in the format (09 R264). -/
def fpRoundInt (F : Fmt) (m : Rm) (draw a : Nat) : Nat × Nat :=
  match fdec F a with
  | .nan => (nanCode F, 0)
  | .inf _ => (a, 0)
  | .fin s n d =>
    if n = 0 then (a, 0)
    else
      let r := roundToInt m draw s n d
      let y := fround F .rz true 0 (.fin s r.1 1)
      (y.1, if r.2 then flNX else 0)

/-- fclass (09 R264). -/
def fpClass (F : Fmt) (a : Nat) : Nat :=
  match fdec F a with
  | .nan => 256
  | .inf s => if s then 1 else 128
  | .fin s n _ =>
    if n = 0 then (if s then 8 else 16)
    else if nb a (F.w + F.f - 1) F.f = 0 then (if s then 4 else 32)
    else (if s then 2 else 64)

/-- The formats of fcvt's indices 0 to 5 (07 R206). -/
def cvtFmt (i : Nat) : Fmt :=
  match i with
  | 0 => fp32
  | 1 => fp16
  | 2 => bf16
  | 3 => e4m3
  | 4 => e5m2
  | _ => e2m1

/-- The source value of fcvt: formats 0 to 5, i32, n32 (09 R266). -/
def cvtSrc (i x : Nat) : Fx :=
  if i = 6 then fxOfInt (sxt 32 x)
  else if i = 7 then .fin false (x % 2 ^ 32) 1
  else fdec (cvtFmt i) (x % 2 ^ fmtBits (cvtFmt i))

def cvtInt (signed : Bool) (m : Rm) (draw : Nat) (x : Fx) : Nat × Nat :=
  let lo : Int := if signed then -(2 ^ 31) else 0
  let hi : Int := if signed then 2 ^ 31 - 1 else 2 ^ 32 - 1
  match x with
  | .nan => (0, flNV)
  | .inf s => (((if s then lo else hi) % 2 ^ 32).toNat, flNV)
  | .fin s n d =>
    let r := roundToInt m draw s n d
    let k := sgnNum s r.1
    if k < lo then ((lo % 2 ^ 32).toNat, flNV) else if hi < k then ((hi % 2 ^ 32).toNat, flNV)
    else ((k % 2 ^ 32).toNat, if r.2 then flNX else 0)

/-- fcvt (09 R266). -/
def fpCvt (dst src : Nat) (m : Rm) (e4sat : Bool) (draw x : Nat) : Nat × Nat :=
  let v := cvtSrc src x
  if dst = 6 then cvtInt true m draw v
  else if dst = 7 then cvtInt false m draw v
  else match v with
    | .nan => (nanCode (cvtFmt dst), if dst = 5 then flNV else 0)
    | _ => fround (cvtFmt dst) m e4sat draw v

/-- The draw of the counter-based generator (09 R259). -/
def mix (z : Nat) : Nat :=
  let z1 := ((z ^^^ (z >>> 31)) * 0x9E6C63D0676A9A99) % 2 ^ 64
  let z2 := ((z1 ^^^ (z1 >>> 29)) * 0xD3A2646CAB315D25) % 2 ^ 64
  z2 ^^^ (z2 >>> 32)
def drawBits (seed stream idx : Nat) : Nat := (mix (mix (seed * 2 ^ 32 + stream) ^^^ idx)) % 2 ^ 32

/-- floor(√n), by Newton steps from above. -/
def isqrtStep : Nat → Nat → Nat → Nat
  | 0, _, x => x
  | k + 1, n, x => let y := (x + n / x) / 2; if x ≤ y then x else isqrtStep k n y
def isqrt (n : Nat) : Nat := if n = 0 then 0 else isqrtStep (Nat.log2 n + 4) n (2 ^ (Nat.log2 n / 2 + 1))

/-- A ratio that rounds, under every mode and format here, as the square root of n / d. -/
def sqrtRatio (n d : Nat) : Nat × Nat :=
  let N := n * d * 4 ^ 200
  let s := isqrt N
  if s * s = N then (s, d * 2 ^ 200) else (2 * s + 1, d * 2 ^ 201)

def fxSqrt (x : Fx) : Fx :=
  match x with
  | .fin false n d => let r := sqrtRatio n d; .fin false r.1 r.2
  | .fin true 0 _ => .fin true 0 1
  | .inf false => .inf false
  | _ => .nan

end Sys2Proof.Machine
end

