-- ==== Sys2Proof/Machine/Mem.lean ====
section
/-! DEFINITION. Homes, translation, leases, loads and stores of the virtual global space (01, 02 R62 to R73, 04). -/
namespace Sys2Proof.Machine

/-- Why an instruction does not complete with its own effect: a trap, a wait (with the state to wait in), or a fault. -/
inductive Stop where
  | trap (t : TrapInfo)
  | wait (s : State) (kind stage : Nat)
  | bad (f : Fault)

abbrev Res (α : Type) := Except Stop α

def trapAt (code cause : Nat) (lane : Nat := 0xFF) (addr : Nat := 0) : Stop :=
  .trap { code := code, cause := cause, lane := lane, addr := w64 addr }

/-! ### Physical memory -/

/-- Addresses of local memory are their physical addresses; device `d`'s memory (255 the host) is kept beyond (01 R30). -/
def devKey (d pa : Nat) : Nat := (d + 1) * 2 ^ 48 + pa % 2 ^ 48
def keyDev (key : Nat) : Option Nat := if key < 2 ^ 48 then none else some (key / 2 ^ 48 - 1)

/-- δ between an agent of this part and the home of an address (04 R103). -/
def deltaOf (key : Nat) : Nat := match keyDev key with | none => 2 | some _ => 25

/-- The value of a byte at its home now (04 R106). -/
def memByte (s : State) (key : Nat) : Byte := mget 0#8 s.hm.mem key

/-- `n` bytes at a home as a number, least significant first. -/
def memNat (s : State) (key n : Nat) : Nat := ofBytes ((List.range n).map fun i => memByte s (key + i))

/-- 02 R72: a local physical range that names no memory. -/
def physOk (pa n : Nat) : Bool := decide (pa + n ≤ 2 ^ 38)

def physRead (s : State) (pa n : Nat) : Res Nat :=
  if physOk pa n then .ok (memNat s pa n) else .error (.bad .noSuchMemory)

def setBytes (m : List Host.Cell) (key : Nat) : List Byte → List Host.Cell
  | [] => m
  | b :: l => setBytes (mset 0#8 m key b) (key + 1) l

def setCells (m : List Host.Cell) (cells : List (Nat × Byte)) : List Host.Cell :=
  cells.foldl (fun m c => mset 0#8 m c.1 c.2) m

def modHm (f : Homes → Homes) (s : State) : State := { s with hm := f s.hm }

/-- The part's own engines write physical memory at once: table entries, queue records, frame stacks, save slots. -/
def physWrite (pa : Nat) (l : List Byte) (s : State) : State := modHm (fun h => { h with mem := setBytes h.mem pa l }) s

/-! ### Messages to peers (17 R428, R431) -/

def emit (o : Output) (s : State) : State := { s with fab := { s.fab with out := s.fab.out ++ [o] } }

/-- The header of a message to device `dst`, with the next SEQ for it. -/
def mkMsg (s : State) (type dst ctx : Nat) (addr : Word64) (payload : List Byte) : PvlMsg :=
  { magic := 0x5650, version := 1, type := type, setid := nb (preg s 0x18).toNat 63 32, src := ownDev s, dst := dst, ctx := ctx,
    status := 0, seq := mget 0 s.fab.seqNext dst, addr := addr, len := payload.length, payload := payload }

def peerBase (s : State) : Nat := nb (preg s 0x19).toNat 47 13 * 8192

/-- A field of a device's peer table entry. A table at or above 2^38 names no memory, and with it no peer (02 R72, 17 R433). -/
def peerField (s : State) (d off n : Nat) : Nat := if physOk (peerBase s) 8192 then memNat s (peerBase s + 32 * d + off) n else 0

/-- The ports that are enabled: those of PVLCFG.PORTEN; in the safe state every port carries the management channel (17 R434, 18 R445, log
entry 100). -/
def portsOn (s : State) : Nat := if s.mgt.safe then 15 else nb (preg s 0x18).toNat 3 0

/-- A message as it leaves: over one of the enabled ports that may carry traffic to the peer, to its address and UDP port (17 R433, R434). -/
def toPeer (s : State) (m : PvlMsg) : Output :=
  .pvl m (Nat.land (nb (peerField s m.dst 16 1) 3 0) (portsOn s)) (peerField s m.dst 0 16) (peerField s m.dst 18 2)

/-- Every message but a response waits for its acknowledgement (17 R430, R436). LEN of a READ is the length asked for. -/
def sendMsgLen (type dst ctx : Nat) (addr : Word64) (payload : List Byte) (len : Nat) (s : State) : State :=
  let m := { mkMsg s type dst ctx addr payload with len := len }
  let r : OutReq := { peer := dst, seq := m.seq, since := s.gtime }
  emit (toPeer s m) { s with fab := { s.fab with seqNext := mset 0 s.fab.seqNext dst (m.seq + 1), reqs := s.fab.reqs ++ [r] } }

def sendMsg (type dst ctx : Nat) (addr : Word64) (payload : List Byte) (s : State) : State := sendMsgLen type dst ctx addr payload payload.length s

/-- The FLAGS.V bit of a device's peer table entry (17 R433). -/
def peerValid (s : State) (d : Nat) : Bool := nbit (peerField s d 17 1) 0
def joined (s : State) : Bool := nbit (preg s 0x1A).toNat 4

/-- A device that can be asked for a page: the host, or a member of the set. -/
def inSet (s : State) (d : Nat) : Bool := peerValid s d && !s.fab.departed.contains d && (decide (d = 255) || joined s)

/-! ### Home slices, channels and the L2 (02 R70, R71) -/

/-- The home slice of a physical address (02 R71). -/
def homeSlice (pa : Nat) : Nat := [6, 12, 18, 24, 30, 36, 42].foldl (fun x lo => x ^^^ nb pa (lo + 5) lo) 0

/-- The memory channel that backs a line of local memory (02 R71). -/
def memChannel (pa : Nat) : Nat := homeSlice pa / 2

/-- Two lines compete for the sixteen ways of one set: same slice, same set of the slice (log entry 14). -/
def sameL2Set (a b : Nat) : Bool := decide (homeSlice (64 * a) = homeSlice (64 * b)) && decide (a / 64 % 4096 = b / 64 % 4096)

/-- The list with room for one more line in the set of `line`: the oldest line allocated as first to evict goes, else the
oldest (02 R70). -/
def evictL2 (line : Nat) (l : List L2Line) : List L2Line :=
  let set := l.filter fun x => sameL2Set line x.line
  if set.length < 16 then l
  else match set.find? (·.first) <|> set.head? with
    | some v => l.erase v
    | none => l

/-- The words with a single-bit error in a line are corrected and counted (02 R73). -/
def correctLine (line : Nat) (s : State) : State :=
  let hits := (s.hm.soft.filter fun w => decide (w / 8 = line)).length
  if hits = 0 then s else countCorr hits (modHm (fun h => { h with soft := h.soft.filter fun w => decide (w / 8 ≠ line) }) s)

/-- An access reaches the L2 at the home slice of a local line: a line that is not held is filled whole, and words of it with an uncorrectable
error are counted, but for those that the access itself consumes and counts, `used` (02 R70, R73). Lines of other homes are not
held (R70). -/
def l2Access (first : Bool) (line : Nat) (s : State) (used : Nat → Bool := fun _ => false) : State :=
  if 2 ^ 42 ≤ line then s
  else
    let s1 := correctLine line s
    if s1.hm.l2.any (fun x => decide (x.line = line)) then s1
    else countUncorr (s1.hm.memBad.filter fun w => decide (w / 8 = line) && !used w).length
      (modHm (fun h => { h with l2 := evictL2 line h.l2 ++ [{ line := line, first := first }] }) s1)

/-! ### Completion times (04 R105, R106) -/

def lineOf (key : Nat) : Nat := key / 64

/-- The floor of R41 for a line. -/
def pageFloor (s : State) (key : Nat) : Nat :=
  s.hm.pageL.foldl (fun m p => if p.1 ≤ key ∧ key < p.1 + p.2.1 then max m p.2.2 else m) 0

/-- The completion time a home gives a store or atomic that arrives now. -/
def completion (s : State) (line : Nat) : Nat :=
  match keyDev (64 * line) with
  | some 255 => s.gtime + 25
  | _ => max (max (s.gtime + 16) (mget 0 s.hm.lineE line)) (max (mget 0 s.hm.lineC line) (pageFloor s (64 * line)))

/-- A store or atomic raises its skein's horizons (04 R114). -/
def raiseHorizons (fused : Bool) (c d cc : Nat) (k : Skein) : Skein :=
  { k with
    hCrew := max k.hCrew (c + d), hDevice := max k.hDevice (c + d), hFabric := max k.hFabric (c + 25),
    hCluster := max k.hCluster (if fused then cc + 2 else c + d) }

def pageBytes (size : Nat) : Nat :=
  match size with
  | 0 => 2 ^ 16
  | 1 => 2 ^ 21
  | _ => 2 ^ 30

/-- A home address lies in the page of a leaf. -/
def keyIn (l : Leaf) (key : Nat) : Bool :=
  let base := if l.resid = 1 then devKey l.home l.addr else l.addr
  decide (l.resid ≠ 2) && decide (base ≤ key) && decide (key < base + pageBytes l.size)

/-- A home address lies in a page that is in hold: stores and atomics to it are answered RETRY (01 R39). -/
def heldPage (s : State) (key : Nat) : Bool := s.xl.migs.any fun m => m.held && !m.committed && decide (m.old ≤ key) && decide (key < m.old + pageBytes m.size)

/-- WVER of a page that is being copied out rises with each store and atomic its home performs (01 R21, R39). -/
def countWrites (line : Nat) (s : State) : State :=
  s.xl.migs.foldl (fun s m =>
    if m.committed = false ∧ m.ver.isSome ∧ m.old ≤ 64 * line ∧ 64 * line < m.old + pageBytes m.size
    then physWrite (m.pa + 14) (toBytes 2 ((memNat s (m.pa + 14) 2 + 1) % 2 ^ 16)) s else s) s

/-- The writer of stores that belong to nothing that waits for them. -/
def otherOp : Nat := 2 ^ 70

/-- A store that was on its way has its completion time: what waits for it, an operation, a launch, an append, a trigger or a message, does so
until that time (05 R128, R149, 06 R160, 15 R398, R408, 17 R430). -/
def raiseDue (st : Store) (c : Nat) (s : State) : State :=
  let t := c + deltaOf (64 * st.line)
  if st.op = 0 then s
  else { s with
    en := { s.en with ops := s.en.ops.map fun o => if o.id = st.op then { o with due := max o.due t } else o },
    sch := { s.sch with
      launches := s.sch.launches.map (fun l => if l.uid = st.op then { l with ready := max l.ready c } else if 2 ^ 64 + l.uid = st.op then { l with mergeC := max l.mergeC c } else l),
      appends := s.sch.appends.map (fun a => if a.2.2.2 = st.op then (a.1, a.2.1, max a.2.2.1 c, a.2.2.2) else a),
      mbox := s.sch.mbox.map fun m => if m.op = st.op then { m with time := max m.time t } else m },
    fab := { s.fab with owed := s.fab.owed.map fun w => if w.op = st.op then { w with time := max w.time c } else w } }

/-- The skein whose fault record the store is issues nothing until gtime has passed its completion time and δ (16 R417). -/
def endRecord (st : Store) (c : Nat) (k : Skein) : Skein :=
  if k.holdOn = some st.sn then { k with hold := max k.hold (c + deltaOf (64 * st.line)), holdOn := none } else k

/-- A launch ends with its last crew, and its arrival on DONE waits for the stores of crews that have ended (06 R185). -/
def raiseLaunch (cuid t : Nat) (s : State) : State :=
  let l := s.sch.launches.map fun l => if l.crews.contains cuid then { l with hor := max l.hor t } else l
  let d := s.sch.dones.map fun d => if d.crews.contains cuid then { d with hor := max d.hor t } else d
  { s with sch := { s.sch with launches := l, dones := d } }

/-- The home accepts a store: it receives its completion time and takes effect then. A word with an uncorrectable error stays bad
(log entry 104). -/
def homeAccept (st : Store) (s : State) : State :=
  let c := completion s st.line
  let h := s.hm
  let mark := fun e : TlbEnt =>
    if e.cluster = clusterOf st.core ∧ e.ctx = st.ctx ∧ keyIn e.leaf (64 * st.line) then { e with done := max e.done c } else e
  let s1 := { s with hm := { h with timed := h.timed ++ [{ st with c := c }], lineC := mset 0 h.lineC st.line c, tlb := h.tlb.map mark } }
  let s2 := l2Access st.first st.line (countWrites st.line s1)
  let s3 := if st.uid = 0 then s2 else modSkeinAll st.uid (fun k => endRecord st c (raiseHorizons (decide (st.cc ≠ 0)) c (deltaOf (64 * st.line)) st.cc k)) s2
  if st.cuid = 0 then s3 else raiseLaunch st.cuid (c + 25) (modCrewAll st.cuid (fun x => { x with hor := max x.hor (c + 25) }) s3)

/-- The writer's own copy of the bytes it sent last to `key`, or another's of its fused cluster (04 R111, R121). -/
def pendingByte (sees : Store → Bool) (key : Nat) : List Store → Option Byte
  | [] => none
  | st :: l =>
    match pendingByte sees key l with
    | some b => some b
    | none => if sees st then (st.cells.find? (fun c => decide (c.1 = key))).map (·.2) else none

/-- The byte after every store and atomic that has reached the home (04 R106: what an atomic reads). -/
def finalByte (s : State) (key : Nat) : Byte := (pendingByte (fun _ => true) key s.hm.timed).getD (memByte s key)

/-- `n` bytes as the home's order leaves them, every store accepted so far included. -/
def finalNat (s : State) (key n : Nat) : Nat := ofBytes ((List.range n).map fun i => finalByte s (key + i))

/-! ### A page at a new address (01 R39, R40) -/

/-- Where a home address lies after the page of `n` bytes at `old` moved to `new`. -/
def rekey (old new n key : Nat) : Nat := if old ≤ key ∧ key < old + n then new + (key - old) else key

def rekeyStore (old new n : Nat) (st : Store) : Store :=
  let line := lineOf (rekey old new n (64 * st.line))
  if line = st.line then st
  else { st with line := line, cells := st.cells.map (fun c => (rekey old new n c.1, c.2)), remote := keyDev (64 * line) }

def rekeyMap {α : Type} (unit old new n : Nat) (m : SMap α) : SMap α :=
  m.foldl (fun acc e => let k := rekey (old / unit) (new / unit) (n / unit) e.1; mins k e.2 (mdel k acc)) []

/-- The page's bytes, its stores not yet performed, leases, times and cached copies go by the new address; whatever stood there
before is gone. Copies under lease go on answering (01 R41). A frame of this part at or above 2^38 takes no bytes (02 R72). -/
def movePage (old new n : Nat) (s : State) : State :=
  let inOld := fun (key : Nat) => decide (old ≤ key) && decide (key < old + n)
  let inNew := fun (key : Nat) => decide (new ≤ key) && decide (key < new + n)
  let key := rekey old new n
  modHm (fun h =>
    let bytes := if physOk new n || (keyDev new).isSome then (h.mem.filter fun c => inOld c.1).map fun c => (key c.1, c.2) else []
    let rest := h.mem.filter fun c => !inOld c.1 && !inNew c.1
    { h with
      mem := setCells rest bytes, memBad := (h.memBad.filter fun w => !inNew (8 * w)).map fun w => key (8 * w) / 8,
      soft := (h.soft.filter fun w => !inNew (8 * w)).map fun w => key (8 * w) / 8,
      inflight := h.inflight.map (rekeyStore old new n), timed := h.timed.map (rekeyStore old new n),
      lineC := rekeyMap 64 old new n (h.lineC.filter fun e => !inNew (64 * e.1)), lineE := rekeyMap 64 old new n (h.lineE.filter fun e => !inNew (64 * e.1)),
      lineL := rekeyMap 64 old new n (h.lineL.filter fun e => !inNew (64 * e.1)),
      pageL := h.pageL.map (fun p => (key p.1, p.2)), l1 := h.l1.map (fun x => { x with pa16 := key (16 * x.pa16) / 16 }),
      bricks := h.bricks.map (fun b => { b with key := key b.key }), l2 := h.l2.filter fun x => !inOld (64 * x.line) }) s

/-- A store that was on its way reaches its home. -/
def arriveHome (st : Store) (s : State) : State :=
  raiseDue st (completion s st.line) (homeAccept st (modHm (fun h => { h with inflight := h.inflight.filter fun x => decide (x.sn ≠ st.sn) }) s))

/-- Moves one in-flight store to its home. -/
def deliver (sn : Nat) (s : State) : State :=
  match s.hm.inflight.find? (fun st => decide (st.sn = sn)) with
  | none => s
  | some st => arriveHome st s

/-- A store of the part reaches its home at once. It stays on its way where the home is the host, where the home holds the page and answers
RETRY (01 R39), and behind an earlier one of its sender to the line (04 R107). -/
def sendStore (st : Store) (s : State) : State :=
  if st.remote = some 255 ∨ heldPage s (64 * st.line) ∨ s.hm.inflight.any (fun x => decide (x.uid = st.uid) && decide (x.line = st.line)) then
    modHm (fun h => { h with inflight := h.inflight ++ [st] }) s
  else homeAccept st s

/-- The distinct quotients of the keys by `d`, in order of first appearance. -/
def quotients (d : Nat) (cells : List (Nat × Byte)) : List Nat :=
  cells.foldl (fun l c => if l.contains (c.1 / d) then l else l ++ [c.1 / d]) []

/-- Bytes written by none of the skein's stores and atomics, one store per line of their homes: the manager's, messages', events'. -/
def sendCells (op ctx : Nat) (vaOf : Nat → Nat) (cells : List (Nat × Byte)) (s : State) : State :=
  (quotients 64 cells).foldl (fun s line =>
    sendStore { sn := s.seqNo, uid := 0, cuid := 0, core := 0, ctx := ctx, remote := keyDev (64 * line), line := line,
                cells := cells.filter (fun c => decide (c.1 / 64 = line)), op := op, va := vaOf line } { s with seqNo := s.seqNo + 1 }) s

/-- Moves the skein's in-flight stores to one line to their home, in program order (04 R107). -/
def deliverLine (uid line : Nat) (s : State) : State :=
  (s.hm.inflight.filter fun st => decide (st.uid = uid) && decide (st.line = line)).foldl (fun s st => deliver st.sn s) s

/-! ### Translation (01 R15 to R25) -/

inductive Acc where
  | read
  | write
  | atomic
  | exec
  deriving DecidableEq, Repr

/-- A context entry (01 R20). -/
structure CtxEnt where
  root : Nat
  rtexp : Nat
  mwexp : Nat
  nomig : Bool
  deriving DecidableEq, Repr

/-- The context's entry, none when invalid or malformed. -/
def ctxEntry (s : State) (ctx : Nat) : Res (Option CtxEnt) := do
  let x ← physRead s (nb (preg s 0).toNat 47 12 * 4096 + 16 * ctx) 16
  let root := nb x 111 64
  let ok := nbit x 0 && decide (nb x 127 112 = 0) && decide (nb x 63 37 = 0) && decide (nb x 31 13 = 0) &&
    decide (nb x 7 2 = 0) && decide (16 ≤ nb x 12 8) && decide (nb x 12 8 ≤ 28) && decide (root % 2 ^ 17 = 0)
  pure (if ok then some { root := root, rtexp := nb x 36 32, mwexp := nb x 12 8, nomig := nbit x 1 } else none)

def leafOf (pa e : Nat) : Leaf :=
  { pa := pa, wver := nb e 127 112, addr := nb e 111 64, wstamp := nb e 63 32, pin := nbit e 31, wexp := nb e 30 28,
    migc := nb e 27 24, home := nb e 23 16, nomig := nbit e 15, cpol := nb e 13 12, resid := nb e 11 10,
    priv := nbit e 9, x := nbit e 8, w := nbit e 7, rd := nbit e 6, size := nb e 5 4 }

def leafNat (l : Leaf) : Nat :=
  l.wver * 2 ^ 112 + l.addr * 2 ^ 64 + l.wstamp * 2 ^ 32 + b2 l.pin * 2 ^ 31 + l.wexp * 2 ^ 28 + l.migc * 2 ^ 24 +
    l.home * 2 ^ 16 + b2 l.nomig * 2 ^ 15 + l.cpol * 2 ^ 12 + l.resid * 2 ^ 10 + b2 l.priv * 2 ^ 9 + b2 l.x * 2 ^ 8 +
    b2 l.w * 2 ^ 7 + b2 l.rd * 2 ^ 6 + l.size * 2 ^ 4 + 3

/-- The index bits of a level (01 R19). -/
def levelIdx (level va : Nat) : Nat :=
  match level with
  | 4 => nb va 55 43
  | 3 => nb va 42 30
  | 2 => nb va 29 21
  | _ => nb va 20 16

/-- Alignment of the table that a pointer at this level names. -/
def nextAlign (level : Nat) : Nat :=
  match level with
  | 4 => 2 ^ 17
  | 3 => 2 ^ 13
  | _ => 2 ^ 9

/-- The walk from a table (01 R22): a leaf, or the cause of a protection trap. Structural in the level. -/
def walkFrom (s : State) (va : Nat) : Nat → Nat → Res (Except Nat Leaf)
  | 0, _ => .ok (.error 2)
  | level + 1, base => do
    let lv := level + 1
    let pa := base + 16 * levelIdx lv va
    let e ← physRead s pa 16
    if !nbit e 0 then pure (.error 1)
    else if nbit e 14 || decide (nb e 3 2 ≠ 0) then pure (.error 2)
    else if !nbit e 1 then
      if lv = 1 ∨ nb e 111 64 % nextAlign lv ≠ 0 ∨ nb e 127 112 ≠ 0 ∨ nb e 63 2 ≠ 0 then pure (.error 2)
      else walkFrom s va level (nb e 111 64)
    else
      let l := leafOf pa e
      if lv = 4 ∨ l.size + 1 ≠ lv then pure (.error 2)
      else if l.resid = 3 ∨ l.addr % pageBytes l.size ≠ 0 then pure (.error 2)
      else if l.size = 2 ∧ l.resid = 2 then pure (.error 2)
      else if l.resid = 0 ∧ 2 ^ 38 ≤ l.addr then pure (.error 2)
      else pure (.ok l)

def walk (s : State) (ctx va : Nat) : Res (Except Nat Leaf) := do
  match ← ctxEntry s ctx with
  | none => pure (.error 7)
  | some ce => walkFrom s va 4 ce.root

/-- The leaf for an address in a context: from the cluster TLB, or walked and then held there (01 R25). -/
def leafFor (s : State) (cluster ctx va : Nat) : Res (Except Nat Leaf × State) := do
  match s.hm.tlb.find? (fun t => decide (t.cluster = cluster) && decide (t.ctx = ctx) && decide (t.base ≤ va) && decide (va < t.base + t.size)) with
  | some t => pure (.ok t.leaf, s)
  | none =>
    match ← walk s ctx va with
    | .error c => pure (.error c, s)
    | .ok l =>
      let n := pageBytes l.size
      let ent : TlbEnt := { cluster := cluster, ctx := ctx, base := va / n * n, size := n, leaf := l }
      let mine := s.hm.tlb.filter fun t => decide (t.cluster = cluster)
      let rest := s.hm.tlb.filter fun t => decide (t.cluster ≠ cluster)
      let kept := if mine.length < 4096 then mine else mine.drop 1
      pure (.ok l, modHm (fun h => { h with tlb := rest ++ kept ++ [ent] }) s)

/-- Removes a page's TLB entries on every cluster. -/
def dropTlb (ctx va n : Nat) (s : State) : State :=
  modHm (fun h => { h with tlb := h.tlb.filter fun t => !(decide (t.ctx = ctx) && decide (t.base < va + n) && decide (va < t.base + t.size)) }) s

/-- Writes a leaf back to its table entry and drops the TLB entries for the page. -/
def putLeaf (ctx va : Nat) (l : Leaf) (s : State) : State :=
  dropTlb ctx (va / pageBytes l.size * pageBytes l.size) (pageBytes l.size) (physWrite l.pa (toBytes 16 (leafNat l)) s)

/-- Canonical: bits [63:55] all equal (01 R15). -/
def canonical (va : Nat) : Bool := decide (nb va 63 55 = 0) || decide (nb va 63 55 = 511)

/-- The address check of a range (01 R16): cause and first offending byte. -/
def rangeCheck (va n : Nat) : Option (Nat × Nat) :=
  if !canonical va then some (1, va)
  else if 2 ^ 64 < va + n then some (3, 2 ^ 64)
  else if !canonical (va + n - 1) then some (2, 2 ^ 55)
  else none

/-- An access cut at 64 KiB boundaries: start and length of each part. -/
def granules (va n : Nat) : List (Nat × Nat) :=
  (List.range ((va + n - 1) / 65536 - va / 65536 + 1)).map fun i =>
    let st := max va ((va / 65536 + i) * 65536)
    (st, min (va + n) ((va / 65536 + i + 1) * 65536) - st)

/-- A part of an access with its home address, or ABSENT; `leaf` is the page's leaf. -/
structure Span where
  va : Nat
  len : Nat
  key : Nat
  absent : Bool
  leaf : Leaf
  deriving DecidableEq, Repr

/-- Where the byte at `va` under a leaf lies: in local memory, or under the key of the device a REMOTE leaf names (01 R30), also when that
is this part's own number (log entry 103). -/
def keyOf (l : Leaf) (va : Nat) : Nat :=
  let a := l.addr + va % pageBytes l.size
  if l.resid = 1 then devKey l.home a else a

def spanOf (l : Leaf) (g : Nat × Nat) : Span := { va := g.1, len := g.2, key := keyOf l g.1, absent := decide (l.resid = 2), leaf := l }

/-- The permission causes in the order of R23; host pages take no atomic (R46 cause 0x08). -/
def permCause (priv : Bool) (acc : Acc) (sp : List Span) : Option (Nat × Nat) :=
  let first := fun (c : Nat) (p : Span → Bool) => (sp.find? p).map fun x => (c, x.va)
  let need := fun (b : Bool) (c : Nat) (p : Span → Bool) => if b then first c p else none
  (need (!priv) 6 (fun x => x.leaf.priv)) <|>
  (need (decide (acc = .read) || decide (acc = .atomic)) 3 (fun x => !x.leaf.rd)) <|>
  (need (decide (acc = .write) || decide (acc = .atomic)) 4 (fun x => !x.leaf.w)) <|>
  (need (decide (acc = .exec)) 5 (fun x => !x.leaf.x)) <|>
  (need (decide (acc = .atomic)) 8 (fun x => decide (x.leaf.resid = 1) && decide (x.leaf.home = 255)))

/-- Walks every part of an access: the spans, or the first walk cause with its address. -/
def walkSpans (cluster ctx : Nat) : List (Nat × Nat) → State → Res (Except (Nat × Nat) (List Span) × State)
  | [], s => .ok (.ok [], s)
  | g :: l, s => do
    let (r, s1) ← leafFor s cluster ctx g.1
    match r with
    | .error c => pure (.error (c, g.1), s)
    | .ok leaf =>
      let (r2, s2) ← walkSpans cluster ctx l s1
      match r2 with
      | .error e => pure (.error e, s)
      | .ok sp => pure (.ok (spanOf leaf g :: sp), s2)

/-- The checks of R15 to R23 and R47 on one access, before residency: spans, or trap code, cause and address. -/
def checkAccess (priv : Bool) (cluster ctx : Nat) (acc : Acc) (va n : Nat) (s : State) :
    Res (Except (Nat × Nat × Nat) (List Span) × State) := do
  match rangeCheck va n with
  | some (c, a) => pure (.error (5, c, a), s)
  | none =>
    if acc = .atomic ∧ va % n ≠ 0 then pure (.error (8, 1, va), s)
    else if !priv ∧ nb va 63 55 = 511 then pure (.error (6, 6, va), s)
    else
      let (r, s1) ← walkSpans cluster ctx (granules va n) s
      match r with
      | .error (c, a) => pure (.error (6, c, a), s)
      | .ok sp =>
        match permCause priv acc sp with
        | some (c, a) => pure (.error (6, c, a), s)
        | none => pure (.ok sp, s1)

/-! ### Leases and the L1 (04 R108, R109, 02 R62, R65) -/

/-- The L1 that answers for a core: its own, or its cluster's when fused. -/
def sameL1 (fused : Bool) (a b : Nat) : Bool := if fused then decide (clusterOf a = clusterOf b) else decide (a = b)

/-- A sector that answers a plain load of skein `k` of the crew in focus. -/
def hitSector (s : State) (va16 : Nat) : Option Sector :=
  s.hm.l1.find? fun x =>
    sameL1 s.crew.fused x.core s.crew.core && decide (x.ctx = s.crew.ctx) && decide (x.va16 = va16) && decide (s.gtime < x.lease) &&
      decide (s.k.floor ≤ x.fetch) && decide (s.crew.startAt ≤ x.fetch) && (s.crew.fused || x.upd.all fun u => decide (u = s.k.uid))

/-- Every sector of an access answered by L1: its spans without translation (01 R25). -/
def l1Spans (s : State) (va n : Nat) : Option (List Span) :=
  (List.range ((va + n - 1) / 16 - va / 16 + 1)).foldr (fun i acc =>
    match acc, hitSector s (va / 16 + i) with
    | some l, some x =>
      let st := max va ((va / 16 + i) * 16)
      some ({ va := st, len := min (va + n) ((va / 16 + i + 1) * 16) - st, key := x.pa16 * 16 + st % 16, absent := false,
              leaf := leafOf 0 0 } :: l)
    | _, _ => none) (some [])

/-- A home grants a lease on a sector's line to an L1 at distance `dl` (04 R108): its end, none when it would be over. -/
def leaseFor (ctx key16 dl : Nat) (s : State) : Option Nat :=
  let next := s.hm.timed.foldl (fun m st => if st.line = key16 / 4 ∧ s.gtime < st.c then (match m with | none => some st.c | some x => some (min x st.c)) else m) (none : Option Nat)
  let len := s.gtime + ctxLease s ctx
  let L := match next with | none => len | some c => min len (c - dl)
  if keyDev (16 * key16) = some 255 ∨ L ≤ s.gtime then none else some L

/-- A lease that ends at `L` joins those granted on the line, with its margin `dl` (04 R108, 01 R41). -/
def recordLease (key16 L dl : Nat) (s : State) : State :=
  modHm (fun h => { h with lineE := mset 0 h.lineE (key16 / 4) (max (mget 0 h.lineE (key16 / 4)) (L + dl)),
                           lineL := mset 0 h.lineL (key16 / 4) (max (mget 0 h.lineL (key16 / 4)) L) }) s

/-- The ways of the L1 that a launch's brick partition takes (02 R65, 06 R154). -/
def brickWays (c : Crew) : Nat := nb c.lrec.flags 3 2

/-- The ways that the L1 of a core keeps: the resident crew with the largest partition decides (log entry 14). -/
def l1Ways (s : State) (core : Nat) : Nat := 8 - (allCrews s).foldl (fun m c => if c.crew.core = core then max m (brickWays c.crew) else m) 0

/-- The tag of a sector's line. -/
def lineTag (x : Sector) : Nat × Nat := (x.ctx, x.va16 / 4)

/-- The lines of a core's set VA[12:6], oldest first. -/
def setTags (core va16 : Nat) (l : List Sector) : List (Nat × Nat) :=
  l.foldl (fun a y => if y.core = core ∧ y.va16 / 4 % 128 = va16 / 4 % 128 ∧ !a.contains (lineTag y) then a ++ [lineTag y] else a) []

/-- Installs a sector: an older copy of its physical line in the same L1 under another tag goes first (01 R27), and a full set
gives up its oldest lines (02 R62, log entry 14). -/
def installSector (fused : Bool) (ways : Nat) (x : Sector) (l : List Sector) : List Sector :=
  let stays := fun y : Sector =>
    !sameL1 fused y.core x.core ||
      (if lineTag y = lineTag x then decide (y.pa16 / 4 = x.pa16 / 4) && decide (y.va16 ≠ x.va16) else decide (y.pa16 / 4 ≠ x.pa16 / 4))
  let l1 := l.filter stays
  let tags := setTags x.core x.va16 l1
  let gone := if tags.contains (lineTag x) then [] else tags.take (tags.length + 1 - ways)
  l1.filter (fun y => !(decide (y.core = x.core) && gone.contains (lineTag y))) ++ [x]

/-- The bricks that a core's partition holds: eight for each way it takes (02 R65). -/
def brickRoom (core : Nat) (s : State) : Nat := 8 * (8 - l1Ways s core)

/-- The L1 of a core keeps no more lines and bricks than its ways hold, whose division between them goes with the crews that are resident:
the oldest lines of each set, and the bricks used least recently, go (00 R4, 02 R62, R65, log entry 14). -/
def fitL1 (core : Nat) (s : State) : State :=
  let ways := l1Ways s core
  modHm (fun h =>
    let tags := fun y : Sector => setTags core y.va16 h.l1
    let mine := h.bricks.filter fun b => decide (b.core = core)
    let gone := mine.take (mine.length - brickRoom core s)
    { h with l1 := h.l1.filter (fun y => !(decide (y.core = core) && ((tags y).take ((tags y).length - ways)).contains (lineTag y))),
             bricks := h.bricks.filter fun b => !gone.contains b }) s

/-- A home read of one sector for a load of context `ctx` whose L1 copy lies at `core` grants a lease (04 R108, 01 R27). -/
def grant (fused : Bool) (core ctx va16 key16 : Nat) (s : State) : State :=
  let dl := deltaOf (16 * key16)
  match leaseFor ctx key16 dl s with
  | none => s
  | some L =>
    let sec : Sector := { core := core, ctx := ctx, va16 := va16, pa16 := key16, fetch := s.gtime, lease := L }
    recordLease key16 L dl (modHm (fun h => { h with l1 := installSector fused (l1Ways s core) sec h.l1 }) s)

/-- A lease to an L1 of another part (04 R104, R108): the home records its end; the sector stands in that part. LEN is that of this part's
CTXLEASE for the context that the message names (log entry 113). -/
def grantFar (ctx key16 : Nat) (s : State) : State :=
  match leaseFor ctx key16 25 s with
  | none => s
  | some L => recordLease key16 L 25 s

/-- The crews for which a cluster is kept in fused mode: those that run there, and pre-empted ones that ran there last (02 R68). -/
def fusedCrews (core : Nat) (s : State) : List Crew :=
  ((allCrews s).map (·.crew) ++ s.sch.saved.map (·.crewRec.crew)).filter fun c => c.fused && decide (clusterOf c.core = clusterOf core)

/-- A core's cluster is in fused mode. -/
def fusedOn (s : State) (core : Nat) : Bool := !(fusedCrews core s).isEmpty

/-- Every L1 line of a cluster is invalidated on entry to and exit from fused mode (02 R68). -/
def dropCluster (core : Nat) (s : State) : State := modHm (fun h => { h with l1 := h.l1.filter fun x => decide (clusterOf x.core ≠ clusterOf core) }) s

/-- A crew has left the core: the cluster of a fused launch's last one leaves fused mode, and the L1 takes back the crew's ways. -/
def leaveCore (c : Crew) (s : State) : State := fitL1 c.core (if c.fused && !fusedOn s c.core then dropCluster c.core s else s)

/-- The core whose slice holds a line in a fused cluster (02 R68), or the core itself. -/
def sliceCore (fused : Bool) (core va : Nat) : Nat := if fused then 16 * clusterOf core + (nb va 9 6 ^^^ nb va 13 10 ^^^ nb va 17 14) else core

/-- What a plain load does to the L1: every touched sector that does not answer is read at its home, through the L2. -/
def touchSectors (pol : Nat) (sp : Span) (s : State) : State :=
  if sp.absent then s
  else
    let p := Nat.lor pol sp.leaf.cpol
    let f := s.crew.fused
    (List.range ((sp.va + sp.len - 1) / 16 - sp.va / 16 + 1)).foldl (fun s i =>
      if nbit p 0 then l2Access (nbit p 1) ((sp.key / 16 + i) / 4) s
      else match hitSector s (sp.va / 16 + i) with
        | some _ => s
        | none => grant f (sliceCore f s.crew.core (16 * (sp.va / 16 + i))) s.crew.ctx (sp.va / 16 + i) (sp.key / 16 + i)
            (l2Access (nbit p 1) ((sp.key / 16 + i) / 4) s)) s

/-! ### Values a load returns (04 R111, R121, 05 R146) -/

/-- Where a load may be answered: at the homes only, by the L1 too, or by the slice of a fused cluster that holds the line under
lease (04 R109, R117, R121). -/
inductive View where
  | home
  | l1
  | slice
  deriving DecidableEq, Repr

/-- The copy that answers a load's byte: the sector of the L1 under R109, or the one in the slice of the byte's address, under lease; else the
home answers (04 R109, R117, R121). -/
def copyAt (v : View) (s : State) (va key : Nat) : Option Sector :=
  match v with
  | .home => none
  | .l1 => (hitSector s (va / 16)).filter fun x => decide (x.pa16 = key / 16)
  | .slice => s.hm.l1.find? fun x => decide (x.core = sliceCore true s.crew.core va) && decide (x.ctx = s.crew.ctx) && decide (x.va16 = va / 16) &&
      decide (x.pa16 = key / 16) && decide (s.gtime < x.lease)

/-- The stores that a load of the skein in focus sees at time `t` before their completion times: its own, and, answered from the copy `x` of
a fused cluster, those written into that copy (04 R111, R121). -/
def seesStore (x : Option Sector) (s : State) (t : Nat) (st : Store) : Bool :=
  (decide (st.c = 0) || decide (t < st.c)) &&
    ((decide (st.uid = s.k.uid) && decide (st.op = 0)) ||
      (s.crew.fused && decide (st.cc ≠ 0) && decide (clusterOf st.core = clusterOf s.crew.core) && x.any fun x => decide (x.fetch ≤ st.cc) && decide (t < x.lease)))

/-- The value of a byte at its home at a time `t` not before now (04 R106). -/
def byteAt (s : State) (t key : Nat) : Byte := (pendingByte (fun st => decide (st.c ≤ t)) key s.hm.timed).getD (memByte s key)

/-- The byte that a load of the skein in focus returns whose read time is `d` ticks from now, answered by the home or from the copy `x`. -/
def viewKey (s : State) (key : Nat) (x : Option Sector := none) (d : Nat := 0) : Byte :=
  match pendingByte (seesStore x s (s.gtime + d)) key (s.hm.timed ++ s.hm.inflight) with
  | some b => b
  | none => byteAt s (s.gtime + d) key

/-- A merge range of the crew's launch holds the byte (05 R144). -/
def inMerge (c : Crew) (va : Nat) : Bool := c.mergeRanges.any fun r => decide (r.1 ≤ va) && decide (va < r.1 + r.2)

/-- The integer or floating operation of an atomic on `8 * n`-bit words (10 R287). -/
def atomicOp (aop n old d cmp : Nat) : Nat :=
  let m := 2 ^ (8 * n)
  let lt := fun a b : Nat => decide (sxt (8 * n) a < sxt (8 * n) b)
  match aop with
  | 0 => (old + d) % m
  | 1 => Nat.land old d
  | 2 => Nat.lor old d
  | 3 => Nat.xor old d
  | 4 => if lt d old then d else old
  | 5 => min old d
  | 6 => if lt old d then d else old
  | 7 => max old d
  | 8 => d
  | 9 => if old = cmp then d else old
  | 10 => (fpAdd fp32 .rn 0 old d).1
  | 11 => fpMin fp32 old d
  | _ => fpMax fp32 old d

/-- The snapshot word that a merged byte's operation applies to: the bytes of memory around it. -/
def snapWord (s : State) (va key word n : Nat) : Nat :=
  ofBytes ((List.range n).map fun i => viewKey s (key + word + i - va))

/-- The task's view of a byte (05 R146, R147). -/
def viewByte (s : State) (va key : Nat) (x : Option Sector := none) (d : Nat := 0) : Byte :=
  if inMerge s.crew va then
    match s.crew.patch.find? (fun e => decide (e.1 = va)) with
    | some (_, .plain b) => b
    | some (_, .merged word aop n y) => BitVec.ofNat 8 (atomicOp aop n (snapWord s va key word n) y.toNat 0 / 256 ^ (va - word))
    | none => viewKey s key x d
  else viewKey s key x d

/-- The home addresses that the task's view of a byte is made from: none for a plain byte of the patch (05 R146). -/
def viewKeys (s : State) (va key : Nat) : List Nat :=
  if inMerge s.crew va then
    match s.crew.patch.find? (fun e => decide (e.1 = va)) with
    | some (_, .plain _) => []
    | some (_, .merged word _ n _) => (List.range n).map fun i => key + word + i - va
    | none => [key]
  else [key]

/-- The copy that answers a byte of a span; a page that bypasses the L1 is answered by its home (01 R24). -/
def spanCopy (v : View) (s : State) (sp : Span) (i : Nat) : Option Sector := if nbit sp.leaf.cpol 0 then none else copyAt v s (sp.va + i) (sp.key + i)

/-- The bytes of a span; `dl` gives the ticks from now to a byte's read time. -/
def spanBytes (s : State) (v : View) (dl : Nat → Nat) (sp : Span) : List Byte :=
  if sp.absent then List.replicate sp.len 0#8
  else (List.range sp.len).map fun i => viewByte s (sp.va + i) (sp.key + i) (spanCopy v s sp i) (dl (sp.va + i))

/-! ### The pieces of a misaligned access (01 R18) -/

/-- The largest power of two up to 2^m that divides `a` and is at most `n`. -/
def pieceLen : Nat → Nat → Nat → Nat
  | 0, _, _ => 1
  | m + 1, a, n => if a % 2 ^ (m + 1) = 0 ∧ 2 ^ (m + 1) ≤ n then 2 ^ (m + 1) else pieceLen m a n

/-- The number of the piece of an access of `n` bytes at `va` in which byte `b` lies; the fuel is `n`. -/
def pieceNo : Nat → Nat → Nat → Nat → Nat
  | 0, _, _, _ => 0
  | f + 1, va, n, b => if b < va + pieceLen 3 va n then 0 else 1 + pieceNo f (va + pieceLen 3 va n) (n - pieceLen 3 va n) b

/-- How long after now a byte of a lane's access is read: each piece after the first of a misaligned load of at most 8 bytes has
a read time of its own, less than 16 ticks later (01 R18, 04 R111, log entry 84). -/
def readDelay (s : State) (lane va n b : Nat) : Nat :=
  if va % n = 0 ∨ 8 < n then 0
  else match pieceNo n va n b with
    | 0 => 0
    | p + 1 => (Config.pieceDelay s.free (32 * p + lane)).val

/-- The latest read time of a lane's access, in ticks from now. -/
def lastDelay (s : State) (lane va n : Nat) : Nat := (List.range n).foldl (fun m i => max m (readDelay s lane va n (va + i))) 0

/-! ### Loads (10 R284, R285) -/

/-- The core's hold buffer, or the crew's parked stores anywhere, hold back loads of a page (01 R35, 04 R124). -/
def holdsPage (s : State) (va : Nat) : Bool :=
  s.hm.parked.any fun p =>
    decide (p.ctx = s.crew.ctx) && (decide (p.core = s.crew.core) || decide (p.cuid = s.crew.uid)) && decide (p.page ≤ va) && decide (va < p.page + p.size)

/-- One lane's piece of a load after the checks: lane, its spans, or a fault. -/
structure LaneAcc where
  lane : Nat
  spans : List Span
  fault : Option (Nat × Nat × Nat)
  /-- answered by the L1 -/
  hit : Bool := false
  deriving DecidableEq, Repr

/-- Checks every lane (R15 to R23), lanes in ascending order. `byL1` lets the L1 answer without translation. -/
def checkLanes (acc : Acc) (byL1 : Bool) (n : Nat) : List (Nat × Nat) → State → Res (List LaneAcc × State)
  | [], s => .ok ([], s)
  | (L, va) :: l, s => do
    match (if byL1 then (match rangeCheck va n with | none => l1Spans s va n | some _ => none) else none) with
    | some sp =>
      let (r, s1) ← checkLanes acc byL1 n l s
      pure ({ lane := L, spans := sp, fault := none, hit := true } :: r, s1)
    | none =>
      let (x, s1) ← checkAccess (isPriv s) (clusterOf s.crew.core) s.crew.ctx acc va n s
      let (r, s2) ← checkLanes acc byL1 n l s1
      match x with
      | .error f => pure ({ lane := L, spans := [], fault := some f } :: r, s2)
      | .ok sp => pure ({ lane := L, spans := sp, fault := none } :: r, s2)

/-- The first ABSENT byte of a lane's piece. -/
def absentAt (a : LaneAcc) : Option Nat := (a.spans.find? (·.absent)).map (·.va)

/-- The first faulting lane, counting ABSENT pages as cause `absCause` of the residency trap when it is given (01 R47). -/
def laneFault (absCause : Option Nat) : List LaneAcc → Option Stop
  | [] => none
  | a :: l =>
    match a.fault, absCause, absentAt a with
    | some (c, z, va), _, _ => some (trapAt c z a.lane va)
    | none, some z, some va => some (trapAt 7 z a.lane va)
    | none, _, _ => laneFault absCause l

/-- All checks of an access up to residency; only loads wait for parked stores (01 R31, R35, R47). -/
def resolve (acc : Acc) (byL1 : Bool) (absCause : Option Nat) (n : Nat) (lanes : List (Nat × Nat)) (s : State) :
    Res (List LaneAcc × State) := do
  let (r, s1) ← checkLanes acc byL1 n lanes s
  if acc = .read ∧ r.any (fun a => a.spans.any fun sp => holdsPage s sp.va) then
    match laneFault none r with
    | some t => .error t
    | none => .error (.wait s 0 0)
  else
    match laneFault absCause r with
    | some t => .error t
    | none => pure (r, s1)

/-- The first byte that an access consumes from a word with an uncorrectable error (02 R73, 05 R146). -/
def badWord (s : State) (a : LaneAcc) : Option Nat :=
  a.spans.findSome? fun sp =>
    if sp.absent then none
    else (List.range sp.len).findSome? fun i =>
      if (viewKeys s (sp.va + i) (sp.key + i)).any (fun k => s.hm.memBad.contains (k / 8)) then some (sp.va + i) else none

/-! ### Reads of host pages (17 R432) -/

/-- The ranges of host memory among the spans of an access, at most 4,096 bytes each: address, home address, length. -/
def hostParts (sp : List Span) : List (Nat × Nat × Nat) :=
  (sp.filter fun x => !x.absent && decide (keyDev x.key = some 255)).flatMap fun x =>
    (List.range ((x.len + 4095) / 4096)).map fun i => (x.va + 4096 * i, x.key + 4096 * i, min 4096 (x.len - 4096 * i))

/-- Who reads: a skein with the instruction it is in, or an operation. -/
abbrev Reader := Nat × Nat

def skeinReader (k : Skein) : Reader := (k.uid, k.lastIssue * 2 ^ 64 + k.e.pc.toNat)

def hostRead (s : State) (r : Reader) (key len : Nat) : Option HostRead :=
  s.fab.hostReads.find? fun x => decide (x.who = r.1) && decide (x.stamp = r.2) && decide (x.key = key) && decide (x.len = len)

/-- One READ to the host, unless it is already on its way or answered with OK; what an earlier instruction had read is forgotten. -/
def askHost (r : Reader) (ctx : Nat) (s : State) (x : Nat × Nat × Nat) : State :=
  let send := fun s : State =>
    let h : HostRead := { who := r.1, stamp := r.2, seq := mget 0 s.fab.seqNext 255, key := x.2.1, len := x.2.2 }
    let kept := s.fab.hostReads.filter fun y => !(decide (y.who = r.1) && (decide (y.stamp ≠ r.2) || (decide (y.key = h.key) && decide (y.len = h.len))))
    sendMsgLen 2 255 ctx (w64 x.1) [] x.2.2 { s with fab := { s.fab with hostReads := kept ++ [h] } }
  match hostRead s r x.2.1 x.2.2 with
  | none => send s
  | some y => if y.status.any (fun c => decide (c ≠ 0)) then send s else s

/-- The host's answers to a reader that is over are forgotten. -/
def dropHostReads (who : Nat) (s : State) : State := { s with fab := { s.fab with hostReads := s.fab.hostReads.filter fun y => decide (y.who ≠ who) } }

def hostStatus (r : Reader) (s : State) (x : Nat × Nat × Nat) : Option Nat := (hostRead s r x.2.1 x.2.2).bind (·.status)

/-- The accesses of the skein in focus to host pages are answered, or the instruction waits for the answers; an answer of UNCORR
is an uncorrectable error (17 R430, R432). -/
def hostReady (r : List LaneAcc) (s : State) : Res State :=
  let me := skeinReader s.k
  let parts := r.flatMap fun a => hostParts a.spans
  match r.find? (fun a => (hostParts a.spans).any fun x => decide (hostStatus me s x = some 5)) with
  | some a => .error (trapAt 17 1 a.lane ((hostParts a.spans).headD (0, 0, 0)).1)
  | none => if parts.all (fun x => decide (hostStatus me s x = some 0)) then .ok s else .error (.wait (parts.foldl (askHost me s.crew.ctx) s) 0 0)

/-- The bytes of each lane and whether the lane is marked absent; the state after the read. -/
structure Loaded where
  lane : Nat
  absent : Bool
  bytes : List Byte
  deriving DecidableEq, Repr

/-- The bytes of one lane of a load. -/
def laneData (v : View) (n : Nat) (s : State) (a : LaneAcc) : Loaded :=
  let va := (a.spans.headD { va := 0, len := 0, key := 0, absent := false, leaf := leafOf 0 0 }).va
  let dl := fun b => if a.hit then 0 else readDelay s a.lane va n b
  if (absentAt a).isSome then { lane := a.lane, absent := true, bytes := List.replicate n 0#8 }
  else { lane := a.lane, absent := false, bytes := (a.spans.map (spanBytes s v dl)).flatten }

/-- The latest read time of a load, in ticks from now. -/
def loadDelay (n : Nat) (lanes : List (Nat × Nat)) (r : List LaneAcc) (s : State) : Nat :=
  (lanes.zip r).foldl (fun m x => if x.2.hit then m else max m (lastDelay s x.1.1 x.1.2 n)) 0

/-- A load of `n` bytes per lane: ACQ, no-fault and cache policy as given; `cl`: an acquire of cluster scope (10 R284, 04 R117). -/
def loadLanes (acq nf : Bool) (pol n : Nat) (lanes : List (Nat × Nat)) (s : State) (cl : Bool := false) : Res (List Loaded × State) := do
  let by1 := !acq && !nbit pol 0
  let v : View := if by1 then .l1 else if acq && cl then .slice else .home
  let (r, s1) ← resolve .read by1 (if nf then none else some 1) n lanes s
  let s2 ← hostReady r s1
  match r.findSome? (fun a => (badWord s a).map fun va => trapAt 17 1 a.lane va) with
  | some t => .error t
  | none =>
    let out := r.map (laneData v n s2)
    let t := s2.gtime + loadDelay n lanes r s2
    let s3 := r.foldl (fun s a => if (absentAt a).isSome then s else a.spans.foldl (fun s sp => touchSectors (if by1 then pol else Nat.lor pol 1) sp s) s) s2
    let k := s3.k
    let k1 := if lanes.isEmpty then k else { k with lastRead := max k.lastRead t, floor := if acq then max k.floor t else k.floor }
    pure (out, { s3 with k := k1, free := s3.free + 1 })

/-! ### Stores (04 R105, R107, 01 R26, R33) -/

/-- A store updates the issuing core's L1 copies (01 R26). -/
def updateL1 (cells : List (Nat × Byte)) (s : State) : State :=
  let f := fun x : Sector =>
    if sameL1 s.crew.fused x.core s.crew.core && cells.any (fun c => decide (c.1 / 16 = x.pa16)) && !x.upd.contains s.k.uid
    then { x with upd := s.k.uid :: x.upd } else x
  let g := fun x : BrickEnt =>
    if x.core = s.crew.core ∧ cells.any (fun c => decide (x.key ≤ c.1) && decide (c.1 < x.key + 1024)) ∧ !x.upd.contains s.k.uid
    then { x with upd := s.k.uid :: x.upd } else x
  modHm (fun h => { h with l1 := h.l1.map f, bricks := h.bricks.map g }) s

/-- Sectors and bricks of the issuing core that hold a stored address under an older translation are dropped. -/
def dropStale (cells : List (Nat × Nat)) (s : State) : State :=
  let stale := fun x : Sector =>
    sameL1 s.crew.fused x.core s.crew.core && decide (x.ctx = s.crew.ctx) && cells.any fun c => decide (c.1 / 16 = x.va16) && decide (c.2 / 16 ≠ x.pa16)
  let old := fun b : BrickEnt =>
    decide (b.core = s.crew.core) && decide (b.ctx = s.crew.ctx) && cells.any fun c => decide (b.va ≤ c.1) && decide (c.1 < b.va + 1024) && decide (c.2 ≠ b.key + (c.1 - b.va))
  modHm (fun h => { h with l1 := h.l1.filter (fun x => !stale x), bricks := h.bricks.filter fun b => !old b }) s

/-- A slice of the crew's fused cluster holds the line under lease (02 R69). -/
def sliceHolds (line : Nat) (s : State) : Bool :=
  s.crew.fused && s.hm.l1.any fun x => decide (clusterOf x.core = clusterOf s.crew.core) && decide (x.pa16 / 4 = line) && decide (s.gtime < x.lease)

/-- The bytes of a list of cells, the later of two at one address standing, in address order. -/
def lastCells (cells : List (Nat × Byte)) : SMap Byte := cells.foldl (fun m c => mins c.1 c.2 (mdel c.1 m)) []

/-- Sends the bytes of one store instruction, `ins`, to their homes, one store per line. A slice that holds the line writes it now, which is
the store's cluster-scope completion time (02 R69, 04 R114, log entry 85). -/
def sendStores (ins : Nat) (first : Bool) (vaOf : Nat → Nat) (cells : List (Nat × Byte)) (s : State) : State :=
  let m := lastCells cells
  let s0 := updateL1 m s
  (quotients 64 m).foldl (fun s1 line =>
    let held := sliceHolds line s
    let st : Store := { sn := s1.seqNo, ins := ins, uid := s.k.uid, cuid := s.crew.uid, core := s.crew.core, ctx := s.crew.ctx,
                        remote := keyDev (64 * line), line := line, cells := m.filter (fun c => decide (c.1 / 64 = line)),
                        cc := if held then s.gtime else 0, va := vaOf line, pc := s.k.e.pc, sid := s.k.sid, first := first }
    let k := if held then { s1.k with hCluster := max s1.k.hCluster (s.gtime + 2) } else s1.k
    { s1 with k := k, seqNo := s1.seqNo + 1, hm := { s1.hm with inflight := s1.hm.inflight ++ [st] } }) s0

def mputAny {α : Type} (m : SMap α) (k : Nat) (v : α) : SMap α := mins k v (mdel k m)

/-- Stores bytes into the patch: other bytes of merged words they touch become plain with the task's view (05 R147). -/
def patchStore (cells : List (Nat × Nat × Byte)) (s : State) : State :=
  let words := cells.filterMap fun c => match s.crew.patch.find? (fun e => decide (e.1 = c.1)) with
    | some (_, .merged w _ n _) => some (w, n, c.1, c.2.1)
    | _ => none
  let p1 := words.foldl (fun p w => (List.range w.2.1).foldl (fun p i =>
    mputAny p (w.1 + i) (.plain (viewByte s (w.1 + i) (w.2.2.2 + (w.1 + i) - w.2.2.1)))) p) s.crew.patch
  let p2 := cells.foldl (fun p c => mputAny p c.1 (.plain c.2.2)) p1
  { s with crew := { s.crew with patch := p2 } }

end Sys2Proof.Machine
end

