-- ==== Sys2Proof/Machine/Pages.lean ====
section
/-! DEFINITION. Page requests, frame stacks, parked stores, and the store and atomic operations of a skein
(01 R33 to R45, 04 R118, 05 R146, R147, 10 R284, R287). -/
namespace Sys2Proof.Machine

/-! ### Frame stacks (01 R44) -/

def frmIdx (size : Nat) : Nat := if size = 0 then 8 else 9
def frmCount (s : State) (size : Nat) : Nat := nb (preg s (frmIdx size)).toNat 60 48
def frmBase (s : State) (size : Nat) : Nat := nb (preg s (frmIdx size)).toNat 47 15 * 32768

/-- The register with another COUNT and EMPTY bit. -/
def frmWith (s : State) (size count : Nat) (empty : Bool) : State :=
  setPreg (frmIdx size) (w64 (frmBase s size + count * 2 ^ 48 + b2 empty * 2 ^ 61)) s

def frmEmpty (s : State) (size : Nat) : Bool := nbit (preg s (frmIdx size)).toNat 61

/-- The stack lies in local memory (02 R72). -/
def frmOk (s : State) (size : Nat) : Bool := physOk (frmBase s size) 32768

def pushFrame (size frame : Nat) (s : State) : State :=
  let n := frmCount s size
  physWrite (frmBase s size + 8 * n) (toBytes 8 frame) (frmWith s size (n + 1) (frmEmpty s size))

def popFrame (size : Nat) (s : State) : Option (Nat × State) :=
  let n := frmCount s size
  if n = 0 ∨ !frmOk s size then none else some (memNat s (frmBase s size + 8 * (n - 1)) 8, frmWith s size (n - 1) (frmEmpty s size))

/-! ### Parked stores (01 R33 to R36) -/

/-- A crew is resident or saved. -/
def crewExists (s : State) (cuid : Nat) : Bool :=
  (allCrews s).any (fun c => decide (c.crew.uid = cuid)) || s.sch.saved.any fun r => decide (r.crewRec.crew.uid = cuid)

/-- A store of a crew has failed; entries of one store instruction are reported once. A crew that has ended has no skein left, and its
context is to be killed (01 R36). -/
def reportStore (ctx cuid : Nat) (d : DefStore) (s : State) : State :=
  if cuid = 0 then s
  else if !crewExists s cuid then { s with sch := { s.sch with orphans := if s.sch.orphans.contains ctx then s.sch.orphans else s.sch.orphans ++ [ctx] } }
  else modCrewAll cuid (fun c => if d.ins ≠ 0 ∧ c.defStores.any (fun x => decide (x.ins = d.ins)) then c else { c with defStores := c.defStores ++ [d] }) s

/-- Discards the parked stores that `p` selects and reports them to their crews. -/
def failParked (cause : Nat) (p : Parked → Bool) (s : State) : State :=
  let bad := s.hm.parked.filter p
  let s1 := modHm (fun h => { h with parked := h.parked.filter fun x => !p x }) s
  bad.foldl (fun s x => reportStore x.ctx x.cuid { cause := cause, va := w64 ((x.cells.headD (0, 0#8)).1), pc := x.pc, sid := x.sid, ins := x.ins } s) s1

/-- The leaf of a page, when its walk succeeds. -/
def leafAt (s : State) (ctx va : Nat) : Option Leaf := match walk s ctx va with | .ok (.ok l) => some l | _ => none

/-- The home address of a byte in a context, whatever its permissions; none when it has none. -/
def keyAt (s : State) (ctx va : Nat) : Option Nat :=
  match leafAt s ctx va with
  | some l => if l.resid = 2 then none else some (keyOf l va)
  | none => none

/-- One parked store leaves the hold buffer and is performed at the page's home (01 R34), where `sendStore` keeps it behind those that its
skein sent to the line earlier. -/
def performParked (p : Parked) (l : Leaf) (s : State) : State :=
  let cells := p.cells.map fun c => (keyOf l c.1, c.2)
  let line := lineOf (cells.headD (0, 0#8)).1
  let st : Store := { sn := p.sn, ins := p.ins, uid := p.uid, cuid := p.cuid, core := p.core, ctx := p.ctx, remote := keyDev (64 * line), line := line,
                      cells := cells, va := (p.cells.headD (0, 0#8)).1, pc := p.pc, sid := p.sid, first := p.first || nbit l.cpol 1 }
  let s1 := modHm (fun h => { h with parked := h.parked.filter fun q => decide (q.sn ≠ p.sn) }) s
  sendStore st s1

/-- The parked stores of a page are performed in the order in which they parked, or fail because its leaf has lost W or RD
(01 R34, R36). -/
def performPage (ctx page : Nat) (s : State) : State :=
  match leafAt s ctx page with
  | none => s
  | some l =>
    let mine := fun p : Parked => decide (p.ctx = ctx) && decide (p.page ≤ page) && decide (page < p.page + p.size)
    if l.resid = 2 then s
    else if !l.rd || !l.w then failParked 3 mine s
    else (s.hm.parked.filter mine).foldl (fun s p => performParked p l s) s

/-! ### Page requests (01 R38, R39) -/

def modXl (f : Xlate → Xlate) (s : State) : State := { s with xl := f s.xl }

/-- Zero-fills a frame: every byte of it reads zero. A frame at or above 2^38 names no memory, and no walk finds the page in it (01 R22, 02
R72). -/
def zeroFrame (frame n : Nat) (s : State) : State :=
  if !physOk frame n then s else modHm (fun h => { h with mem := h.mem.filter fun c => !(decide (frame ≤ c.1) && decide (c.1 < frame + n)) }) s

/-- Makes a page of this part's own creation LOCAL in a frame. -/
def createPage (ctx va : Nat) (l : Leaf) (frame : Nat) (s : State) : State :=
  performPage ctx va (putLeaf ctx va { l with resid := 0, addr := frame } (zeroFrame frame (pageBytes l.size) s))

def reqFor (s : State) (ctx va : Nat) : Option PageReq :=
  s.xl.reqs.find? fun r => decide (r.ctx = ctx) && decide (r.page ≤ va) && decide (va < r.page + pageBytes r.size)

def dropReq (id : Nat) (s : State) : State := modXl (fun x => { x with reqs := x.reqs.filter fun r => decide (r.id ≠ id) }) s

/-- One page request: the status code as far as this part can tell, and the request started. Code 8 stands for "the home
has been asked and has not answered". -/
def pageRequest (priv : Bool) (ctx va asker : Nat) (s : State) : Res (Nat × State) := do
  match ← ctxEntry s ctx with
  | none => pure (7, s)
  | some ce =>
    match ← walkFrom s va 4 ce.root with
    | .error _ => pure (7, s)
    | .ok l =>
      if !l.rd || (l.priv && !priv) then pure (7, s)
      else if l.resid = 0 then pure (0, s)
      else if (reqFor s ctx va).isSome then pure (2, s)
      else if l.size = 2 ∨ l.nomig ∨ ce.nomig then pure (4, s)
      else
        let n := pageBytes l.size
        let page := va / n * n
        let req : PageReq := { id := s.ids + 1, ctx := ctx, page := page, size := l.size, home := l.home, since := s.gtime, needFrame := true, asker := asker }
        if l.resid = 2 ∧ l.home = ownDev s then
          if l.addr ≠ 0 then pure (1, createPage ctx page l l.addr s)
          else match popFrame l.size s with
            | some (f, s1) => pure (1, createPage ctx page l f s1)
            | none =>
              let s1 := setPreg (frmIdx l.size) (preg s (frmIdx l.size) ||| w64 (2 ^ 61)) s
              pure (1, modXl (fun x => { x with reqs := x.reqs ++ [{ req with asker := 0 }] }) { s1 with ids := s.ids + 1 })
        else if !inSet s l.home then pure (5, s)
        else
          let s1 := sendMsg 9 l.home ctx (w64 page) [] s
          pure (8, modXl (fun x => { x with reqs := x.reqs ++ [{ req with needFrame := false }] }) { s1 with ids := s.ids + 1 })

/-- The cause with which stores fail that a request for the page is refused for: 2 when its home has left the set (01 R36, R43). -/
def refusalCause (ctx page : Nat) (s : State) : Nat :=
  match leafAt s ctx page with
  | some l => if s.fab.departed.contains l.home then 2 else 1
  | none => 1

/-- The page request a parked store makes; a refusal fails the stores at once (01 R36). -/
def parkRequest (priv : Bool) (ctx page size : Nat) (s : State) : Res State := do
  let (c, s1) ← pageRequest priv ctx page 0 s
  pure (if c = 5 ∨ c = 7 then failParked (refusalCause ctx page s) (fun p => decide (p.ctx = ctx) && decide (p.page = page) && decide (p.size = size)) s1 else s1)

/-! ### Stores of a skein -/

/-- One byte of a store: address, home, page when ABSENT, value. -/
structure StCell where
  va : Nat
  key : Nat
  page : Option (Nat × Nat)
  byte : Byte
  deriving DecidableEq, Repr

def stCells (data : Nat → List Byte) (va0 : Nat) (a : LaneAcc) : List StCell :=
  (a.spans.map fun sp => (List.range sp.len).map fun i =>
    let pg := if sp.absent then some (sp.va / pageBytes sp.leaf.size * pageBytes sp.leaf.size, pageBytes sp.leaf.size) else none
    { va := sp.va + i, key := sp.key + i, page := pg, byte := (data a.lane).getD (sp.va + i - va0) 0#8 : StCell }).flatten

/-- Entries of the hold buffer that a store needs: one for each line in an ABSENT page (01 R33). -/
def parkLines (cells : List StCell) : List (Nat × Nat × Nat) :=
  cells.foldl (fun l c => match c.page with
    | some p => if l.any (fun x => decide (x.1 = c.va / 64)) then l else l ++ [(c.va / 64, p)]
    | none => l) []

def park (first : Bool) (ins : Nat) (cells : List StCell) (x : Nat × Nat × Nat) (s : State) : State :=
  let mine := (cells.filter fun c => c.page.isSome && decide (c.va / 64 = x.1)).map fun c => (c.va, c.byte)
  let p : Parked := { sn := s.seqNo, ins := ins, uid := s.k.uid, cuid := s.crew.uid, core := s.crew.core, ctx := s.crew.ctx, sid := s.k.sid, pc := s.k.e.pc,
                      page := x.2.1, size := x.2.2, cells := lastCells mine, since := s.gtime, first := first }
  { s with seqNo := s.seqNo + 1, hm := { s.hm with parked := s.hm.parked ++ [p] } }

def requestAll : List (Nat × Nat) → State → Res State
  | [], s => .ok s
  | p :: l, s => do
    let s1 ← parkRequest (isPriv s) s.crew.ctx p.1 p.2 s
    requestAll l s1

/-- The lane and byte at which accesses to a merge range bring the patch past CAP granules (05 R146, 16 R415). -/
def patchOverflow (cap : Nat) : List (Nat × Nat) → List Nat → Option (Nat × Nat)
  | [], _ => none
  | (lane, va) :: l, seen =>
    if seen.contains (va / 16) then patchOverflow cap l seen
    else if cap ≤ seen.length then some (lane, va)
    else patchOverflow cap l (seen ++ [va / 16])

/-- The granules that a patch holds, in the order of their addresses. -/
def patchHeld (p : SMap PatchByte) : List Nat := p.foldl (fun l e => if l.contains (e.1 / 16) then l else l ++ [e.1 / 16]) []

/-- The trap of a full patch, if these accesses raise it. -/
def overflowTrap (c : Crew) (l : List (Nat × Nat)) : Option Stop :=
  (patchOverflow c.lrec.cap l (patchHeld c.patch)).map fun x => trapAt 15 1 x.1 x.2

/-- Parked stores of the context to pages that these addresses name, which can be accessed, are performed first (01 R34, 04 R107). -/
def performParkedOn (vas : List Nat) (s : State) : State :=
  (s.hm.parked.filter fun p => decide (p.ctx = s.crew.ctx) && vas.any fun va => decide (p.page ≤ va) && decide (va < p.page + p.size)).foldl
    (fun s p => performPage p.ctx p.page s) s

/-- The patch of a task lies at PATCHBASE + 32·CAP·t (06 R154). What an entry holds is not stated: of the entries in use those in mapped
pages hold free values after a change (log entry 95). -/
def patchWords (s : State) : List (Nat × Byte) :=
  let base := s.crew.lrec.patchBase.toNat + 32 * s.crew.lrec.cap * s.crew.t
  (List.range (patchHeld s.crew.patch).length).flatMap fun i =>
    match keyAt s s.crew.ctx (base + 32 * i) with
    | some key => if physOk key 32 || (keyDev key).isSome then (List.range 32).map fun j => (key + j, BitVec.ofNat 8 (Config.unstated 6 [s.free, 32 * i + j]).toNat) else []
    | none => []

/-- The patch of the crew in focus has changed. -/
def notePatch (s : State) : State := modHm (fun h => { h with mem := setCells h.mem (patchWords s) }) { s with free := s.free + 1 }

/-- A store of `n` bytes per lane, lanes in ascending order (10 R284, R285). -/
def storeLanes (n : Nat) (lanes : List (Nat × Nat)) (data : Nat → List Byte) (s : State) (pol : Nat := 0) : Res State := do
  let (r, s1) ← checkLanes .write false n lanes s
  match laneFault none r with
  | some t => .error t
  | none =>
    let byLane := List.zipWith (fun a l => (a.lane, stCells data l.2 a)) r lanes
    let cells := byLane.flatMap (·.2)
    let marked := byLane.flatMap fun x => (x.2.filter fun c => inMerge s.crew c.va).map fun c => (x.1, c.va)
    let inP := cells.filter fun c => inMerge s.crew c.va
    let out := cells.filter fun c => !inMerge s.crew c.va
    let s2 := if inP = [] then s1 else notePatch (patchStore (inP.map fun c => (c.va, c.key, c.byte)) s1)
    match overflowTrap s1.crew marked with
    | some t => .error t
    | none =>
      let need := parkLines out
      let held := (s.hm.parked.filter fun p => decide (p.core = s.crew.core)).length
      if need ≠ [] ∧ 64 < held + need.length then .error (.wait s 0 0)
      else
        let vaOf := fun line => ((out.find? fun c => decide (c.key / 64 = line)).map (·.va)).getD 0
        let here := out.filter fun c => c.page.isNone
        let first := nbit pol 1 || r.any fun a => a.spans.any fun sp => nbit sp.leaf.cpol 1
        let s3 := sendStores s2.seqNo first vaOf (here.map fun c => (c.key, c.byte)) (dropStale (here.map fun c => (c.va, c.key)) (performParkedOn (here.map (·.va)) s2))
        let s4 := need.foldl (fun s x => park (nbit pol 1) s2.seqNo out x s) s3
        let pages := need.foldl (fun l x => if l.contains x.2 then l else l ++ [x.2]) ([] : List (Nat × Nat))
        requestAll pages s4

/-! ### Atomics of a skein (10 R287, 04 R118) -/

structure AtLane where
  lane : Nat
  va : Nat
  data : Nat
  cmp : Nat
  deriving DecidableEq, Repr

/-- An atomic that a patch can hold: add, min and max on 32 bits, add on 64 (05 R146). -/
def mergeAtomic (aop n : Nat) : Bool := (decide (n = 4) && (decide (aop = 0) || (decide (4 ≤ aop) && decide (aop ≤ 7)) || decide (10 ≤ aop))) || (decide (n = 8) && decide (aop = 0))

/-- One merge atomic on the patch: the old value and the new state (05 R146, R147). -/
def patchAtomic (aop n : Nat) (va key data : Nat) (s : State) : Nat × State :=
  let range := (List.range n).map fun i => va + i
  let old := ofBytes (range.map fun a => viewByte s a (key + a - va))
  let at_ := range.map fun a => (s.crew.patch.find? (fun e => decide (e.1 = a))).map (·.2)
  let put := fun (f : Nat → PatchByte) (p : SMap PatchByte) => range.foldl (fun p a => mputAny p a (f a)) p
  if at_.all (·.isNone) then
    (old, { s with crew := { s.crew with patch := put (fun _ => .merged va aop n (w64 data)) s.crew.patch } })
  else if at_.all (fun (x : Option PatchByte) => match x with | some (.merged w o m _) => decide (w = va) && decide (o = aop) && decide (m = n) | _ => false) then
    let x := match at_.headD none with | some (.merged _ _ _ x) => x.toNat | _ => 0
    (old, { s with crew := { s.crew with patch := put (fun _ => .merged va aop n (w64 (atomicOp aop n x data 0))) s.crew.patch } })
  else
    let new := toBytes n (atomicOp aop n old data 0)
    (old, patchStore (range.map fun a => (a, key + a - va, new.getD (a - va) 0#8)) s)

/-- The word of one lane: its home address. -/
def atKey (a : LaneAcc) : Nat := match a.spans with | sp :: _ => sp.key | [] => 0

/-- Performs the lanes of an atomic at their homes in ascending order: old values, bytes written. -/
def atomicRun (s : State) (aop n : Nat) : List (AtLane × Nat) → SMap Byte → List (Nat × Nat) × SMap Byte
  | [], m => ([], m)
  | (x, key) :: l, m =>
    let old := ofBytes ((List.range n).map fun i => match m.find? (fun e => decide (e.1 = key + i)) with | some (_, b) => b | none => finalByte s (key + i))
    let new := toBytes n (atomicOp aop n old x.data x.cmp)
    let m1 := (List.range n).foldl (fun m i => mputAny m (key + i) (new.getD i 0#8)) m
    let r := atomicRun s aop n l m1
    ((x.lane, old) :: r.1, r.2)

/-- The bytes an atomic wrote, one completion time per line (04 R105). -/
def acceptAtomics (first : Bool) (m : SMap Byte) (s : State) : State :=
  (quotients 64 m).foldl (fun s line =>
    let st : Store := { sn := s.seqNo, uid := s.k.uid, cuid := s.crew.uid, core := s.crew.core, ctx := s.crew.ctx,
                        remote := keyDev (64 * line), line := line, cells := m.filter (fun c => decide (c.1 / 64 = line)),
                        first := first }
    homeAccept st { s with seqNo := s.seqNo + 1 }) s

/-- The latest completion time given on the lines of these bytes. -/
def lastC (m : SMap Byte) (s : State) : Nat := (quotients 64 m).foldl (fun t line => max t (mget 0 s.hm.lineC line)) 0

/-! Atomics on words of other parts (17 R437) -/

/-- How far the atomic that the skein is in has come on its way to other parts: 0 not sent, 1 sent, 2 its home has departed. -/
def flightStage (s : State) : Nat := match s.k.wait with | some w => if w.kind = 10 ∧ w.pc = s.k.e.pc then w.stage else 0 | none => 0

/-- The skein has an atomic on its way. -/
def onTheWay (k : Skein) : Bool := k.wait.any fun w => decide (w.kind = 10)

/-- The words at other parts: address and home. -/
def farWords (l : List (Nat × Nat)) : List (Nat × Nat) := l.filterMap fun x => (keyDev x.2).map fun d => (x.1, d)

/-- An atomic sets out to the other parts that it has words at, and its skein waits for it; it arrives when the instruction is tried
again. -/
def setOut (words : List (Nat × Nat)) (s : State) : Res State :=
  if farWords words = [] ∨ flightStage s ≠ 0 then .ok s
  else .error (.wait { s with k := { s.k with wait := some { pc := s.k.e.pc, since := s.clocks, kind := 10, stage := 1, codes := farWords words } } } 10 1)

/-- The old value of a word whose home has departed is a free value (log entry 17). -/
def lostWord (n lane : Nat) (s : State) : Nat := (Config.unstated 4 [s.free, lane]).toNat % 2 ^ (8 * n)

/-- An atomic of `n` bytes per lane: the old value of each lane (10 R287). A lane whose home departed on the way has failed, and gets a free
value (17 R437). -/
def atomicLanes (aop n : Nat) (acq : Bool) (lanes : List AtLane) (s : State) (pol : Nat := 0) : Res (List (Nat × Nat) × State) := do
  let (r, s1) ← resolve .atomic false (if flightStage s = 2 then none else some 3) n (lanes.map fun x => (x.lane, x.va)) s
  let hit := lanes.filter fun x => (List.range n).any fun i => inMerge s.crew (x.va + i)
  match (if mergeAtomic aop n then [] else hit) with
  | x :: _ => .error (trapAt 14 2 x.lane (((List.range n).map (x.va + ·)).find? (inMerge s.crew) |>.getD x.va))
  | [] =>
    match r.findSome? (fun a => (badWord s a).map fun va => trapAt 17 1 a.lane va) with
    | some t => .error t
    | none =>
      let lost := (lanes.zip r).filter fun y => (absentAt y.2).isSome
      let pairs := (lanes.zip r).filter fun y => (absentAt y.2).isNone
      let step := fun (acc : List (Nat × Nat) × State) (y : AtLane × LaneAcc) =>
        let p := patchAtomic aop n y.1.va (atKey y.2) y.1.data acc.2
        (acc.1 ++ [(y.1.lane, p.1)], p.2)
      let pres := (pairs.filter fun y => inMerge s.crew y.1.va).foldl step ([], s1)
      match overflowTrap s1.crew (hit.map fun x => (x.lane, x.va)) with
      | some t => .error t
      | none =>
        let todo := (pairs.filter fun y => !inMerge s.crew y.1.va).map fun y => (y.1, atKey y.2)
        if todo.any (fun y => heldPage s y.2) then .error (.wait s 0 0)
        else
          let _ ← setOut (todo.map fun y => (y.1.va, y.2)) s
          let s2 := todo.foldl (fun s y => deliverLine s.k.uid (lineOf y.2) s) (performParkedOn (todo.map (·.1.va)) (if hit = [] then pres.2 else notePatch pres.2))
          let res := atomicRun s2 aop n todo []
          let first := nbit pol 1 || r.any fun a => a.spans.any fun sp => nbit sp.leaf.cpol 1
          let s3 := acceptAtomics first res.2 s2
          let c := max (lastC res.2 s3) (if hit.isEmpty then 0 else s.gtime)
          let k := s3.k
          let k1 := if lanes.isEmpty then k else { k with lastRead := max k.lastRead c, floor := if acq then max k.floor c else k.floor }
          pure (pres.1 ++ res.1 ++ lost.map (fun y => (y.1.lane, lostWord n y.1.lane s)), { s3 with k := k1, free := s3.free + 1 })

/-! ### Outstanding accesses and fences (04 R115, R116, 08 R244) -/

/-- Every earlier store and atomic of the skein has a completion time; at cluster scope that of a fused cluster's slice serves
(02 R69). -/
def storesDone (scope : Nat) (s : State) : Bool :=
  s.hm.inflight.all (fun st => decide (st.uid ≠ s.k.uid) || (decide (scope = 2) && decide (st.cc ≠ 0))) && s.hm.parked.all fun p => decide (p.uid ≠ s.k.uid)

/-- After restore a fence waits for every parked store of the crew (01 R37). -/
def crewParked (s : State) : Bool := s.hm.parked.any fun p => decide (p.cuid = s.crew.uid) && s.crew.restored

/-- H[S] (04 R114). -/
def horizon (k : Skein) (scope : Nat) : Nat :=
  match scope with
  | 0 => 0
  | 1 => k.hCrew
  | 2 => k.hCluster
  | 3 => k.hDevice
  | _ => k.hFabric

/-- A release fence of scope S has nothing left to wait for; loads and scratch accesses are always done at issue. -/
def releaseDone (scope : Nat) (s : State) : Bool :=
  decide (scope = 0) || (storesDone scope s && !crewParked s && decide (horizon s.k scope < s.gtime))

/-- release(K, S) as part of an instruction: it ends, or the instruction waits (04 R115). -/
def release (scope : Nat) (s : State) : Res State := if releaseDone scope s then .ok s else .error (.wait s 0 0)

/-- The acquire fence (04 R116). -/
def acquire (s : State) : State := { s with k := { s.k with floor := max s.k.floor s.k.lastRead } }

end Sys2Proof.Machine
end

