-- ==== Sys2Proof/Machine/Ops.lean ====
section
/-! DEFINITION. The shared operations of every instruction: moving the frontier on (06 R170 to R172), choosing the entry
that issues, taking a trap and returning from it (16 R411 to R418), killing a context (16 R426), arriving on a barrier
object (05 R128), and turning the result of a meaning into an outcome. -/
namespace Sys2Proof.Machine

/-! ### The frontier (06 R170 to R172) -/

/-- Another entry's lift counter rises by one, unless it is suspended (06 R172, R178). -/
def bump (e : Entry) : Entry := if e.suspended then e else { e with lift := min 65535 (e.lift + 1) }

/-- Merges into `x` every entry that stands at its address (06 R170). -/
def absorb (x : Entry) : List Entry → Entry × List Entry
  | [] => (x, [])
  | y :: l =>
    if y.pc = x.pc ∧ y.suspended = false ∧ x.suspended = false then
      absorb { pc := x.pc, mask := x.mask ||| y.mask, lift := min x.lift y.lift } l
    else
      let r := absorb x l
      (r.1, y :: r.2)

/-- Merges the entries of a frontier; the fuel is its length. -/
def mergeAll : Nat → List Entry → List Entry
  | 0, l => l
  | _, [] => []
  | n + 1, x :: l => let r := absorb x l; r.1 :: mergeAll n r.2

def eligible (e : Entry) : Bool := !e.parked && !e.suspended

/-- The entry a lift falls on: highest counter at or above LIFT, then lowest address (06 R172). -/
def liftPick (lim : Nat) (l : List Entry) : Option Entry :=
  l.foldl (fun m e =>
    if eligible e && decide (lim ≤ e.lift) then
      match m with
      | none => some e
      | some b => if b.lift < e.lift ∨ (b.lift = e.lift ∧ e.pc.toNat < b.pc.toNat) then some e else m
    else m) none

/-- Lifts an entry when none is lifted and no melded region or bracket is open (06 R172). -/
def liftStep (lim : Nat) (k : Skein) (l : List Entry) : List Entry :=
  if k.meld.st ≠ .closed ∨ k.bracket.isSome ∨ l.any (·.lifted) then l
  else match liftPick lim l with
    | none => l
    | some b => l.map fun e => if e.pc = b.pc ∧ e.suspended = false then { e with lifted := true, burst := 0 } else e

/-- The issuing entry after its issue: counter zero, and its burst one issue further or ended (06 R172). -/
def issued (ends : Bool) (openMeld : Bool) (e : Entry) : Entry :=
  let b := e.burst + 1
  if e.lifted && !(ends || (!openMeld && decide (64 ≤ b))) then { e with lift := 0, burst := b }
  else { e with lift := 0, lifted := false, burst := 0 }

/-- An entry parked at a barrier that has come to hold every non-exited lane issues the barrier again (06 R163, R170; log
entry 82). -/
def unparkSole : List Entry → List Entry
  | [x] => [if x.suspended then x else { x with parked := false }]
  | l => l

/-- The frontier after an issue: `parts` stand in place of the issuing entry. `ends`: the instruction ends a burst. -/
def settle (ends : Bool) (parts : List Entry) (s : State) : State :=
  let k := s.k
  let ps := (parts.map (issued ends (decide (k.meld.st ≠ .closed)))).filter fun e => decide (e.mask ≠ 0#32)
  let all := ps ++ k.rest.map bump
  let l := liftStep (ctxLift s s.crew.ctx) k (unparkSole (mergeAll all.length all))
  { s with k := { k with e := l.headD {}, rest := l.drop 1, wait := none, yielded := none, lastIssue := s.clocks } }

/-- A permitted instruction inside a melded region: its words count, and Mapping becomes Open (06 R175). -/
def meldOn (len : Nat) (m : Meld) : Meld :=
  match m.st with
  | .closed => m
  | _ => { m with st := .opened, words := m.words + len }

/-- The instruction of `len` words ends and its entry goes on to the next word. -/
def retire (len : Nat) (s : State) : State :=
  let s1 := { s with k := { s.k with meld := meldOn len s.k.meld } }
  settle false [{ s.k.e with pc := s.k.e.pc + w64 (4 * len) }] s1

def lowestPc (l : List Entry) : Option Entry :=
  l.foldl (fun (m : Option Entry) (e : Entry) => match m with | none => some e | some b => if e.pc.toNat < b.pc.toNat then some e else m) none

/-- The entry that issues next: the one that the skein waits in, after yield the lowest other, a lifted one, the lowest (06 R171, 08 R236);
parked entries count when `parked` is set (16 R417). -/
def pickEntry (parked : Bool) (k : Skein) : Option Entry :=
  let all := (k.e :: k.rest).filter fun e => decide (e.mask ≠ 0#32)
  if k.meld.st ≠ .closed then all.head?
  else
    let ok := all.filter fun e => !e.suspended && (parked || !e.parked)
    let stalled := k.wait.bind fun w => ok.find? fun e => decide (e.pc = w.pc)
    let other := k.yielded.bind fun p => lowestPc (ok.filter fun e : Entry => decide (e.pc ≠ p))
    stalled <|> other <|> ok.find? (·.lifted) <|> lowestPc ok

/-- Puts the chosen entry in the issuing place. -/
def choose (parked : Bool) (k : Skein) : Option Skein :=
  (pickEntry parked k).map fun e =>
    let l := (k.e :: k.rest).filter fun x => decide (x.mask ≠ 0#32) && !(decide (x.pc = e.pc) && decide (x.mask = e.mask))
    { k with e := e, rest := l }

/-! ### Killing a context (16 R426) -/

/-- A launch that a crew counted has ended (08 R252). -/
def childEnded (uid : Nat) (s : State) : State := modCrewAll uid (fun c => { c with children := c.children - 1 }) s

/-- The queue record of queue `n` (15 R396). -/
def queueRec (s : State) (n : Nat) : Nat := nb (preg s 0x10).toNat 47 22 * 2 ^ 22 + 256 * n

/-- The appends of a closed or reset queue that were not taken, with the crews that made them. -/
def untaken (q : Queue) : List (Nat × Nat) := q.parents.filter fun p => decide (q.head ≤ p.2)

/-- The launch manager's stores: bytes of physical memory with a completion time; none where no memory is (02 R72). -/
def mgrWrite (pa : Nat) (l : List Byte) (s : State) : State :=
  if physOk pa l.length then sendCells otherOp 0 (fun _ => 0) ((List.range l.length).zip l |>.map fun c => (pa + c.1, c.2)) s else s

/-- A number in physical memory as the manager finds it: its own stores included that a home still holds off (01 R39). -/
def mgrNat (s : State) (pa n : Nat) : Nat :=
  ofBytes ((List.range n).map fun i => (pendingByte (fun st => decide (st.op = otherOp)) (pa + i) s.hm.inflight).getD (finalByte s (pa + i)))

def findQueue (s : State) (n : Nat) : Option Queue := s.sch.queues.find? fun q => decide (q.n = n)
def openQueue (s : State) (n : Nat) : Option Queue := s.sch.queues.find? fun q => decide (q.n = n) && q.opened
def modSch (f : Sched → Sched) (s : State) : State := { s with sch := f s.sch }
def modQueue (n : Nat) (f : Queue → Queue) (s : State) : State := modSch (fun x => { x with queues := x.queues.map fun q => if q.n = n then f q else q }) s


/-! What the manager writes of a queue: its own value, and the bytes of the record (R396 to R398). -/

def setDeficit (n : Nat) (x : Int) (s : State) : State := mgrWrite (queueRec s n + 56) (toBytes 8 (wrap64 x)) (modQueue n (fun q => { q with deficit := x }) s)
def setHead (n x : Nat) (s : State) : State := mgrWrite (queueRec s n + 64) (toBytes 8 x) (modQueue n (fun q => { q with head := x }) s)
def setTail (n x : Nat) (s : State) : State := mgrWrite (queueRec s n + 72) (toBytes 8 x) (modQueue n (fun q => { q with tail := x }) s)
def setCharged (n x : Nat) (s : State) : State := mgrWrite (queueRec s n + 80) (toBytes 8 x) (modQueue n (fun q => { q with charged := x }) s)
def setRefused (n x : Nat) (s : State) : State := mgrWrite (queueRec s n + 88) (toBytes 4 x) (modQueue n (fun q => { q with refused := x }) s)
def setErr (n code idx : Nat) (s : State) : State :=
  mgrWrite (queueRec s n + 96) (toBytes 8 idx) (mgrWrite (queueRec s n + 92) (toBytes 1 code) (modQueue n (fun q => { q with errCode := code, errIdx := idx }) s))

/-- The skeins that wait in launch.wait: resident ones, and those of a crew that was pre-empted in such a wait (06 R164). -/
def isWaiter (s : State) (uid : Nat) : Bool :=
  ((allCrews s).any fun c => c.skeins.any fun k => decide (k.uid = uid) && (match k.wait with | some w => decide (w.kind = 7) | none => false)) ||
    s.sch.saved.any fun r => r.waits.any fun w => decide (w.1 = 7) && decide (w.2.2 = uid)

/-- The skein's wait in launch.wait is over. -/
def dropWaiter (uid : Nat) (s : State) : State :=
  modSch (fun x => { x with waiters := x.waiters.filter (fun w => decide (w.2 ≠ uid)), denied := x.denied.filter fun u => decide (u ≠ uid) }) s

/-- A queue closes: launch.wait instructions that wait on it end with DENIED (R397). -/
def closeQueue (n : Nat) (s : State) : State :=
  let mine := s.sch.waiters.filter fun w => decide (w.1 = n)
  modSch (fun x => { x with denied := x.denied ++ (mine.map (·.2)).filter (isWaiter s), waiters := x.waiters.filter fun w => decide (w.1 ≠ n) })
    (modQueue n (fun q => { q with opened := false }) s)

def sumOf {α : Type} (f : α → Nat) (l : List α) : Nat := l.foldl (fun n x => n + f x) 0

/-- sat(x, int64). -/
def satInt64 (x : Int) : Int := max (-(2 ^ 63)) (min (2 ^ 63 - 1) x)

/-- A crew is charged to its queue when it ends, is pre-empted or is killed (15 R402). -/
def chargeCrew (c : CrewRec) (s : State) : State :=
  match findQueue s c.crew.queue with
  | none => s
  | some q =>
    let n := (c.crew.ran + sumOf (fun k : Skein => s.clocks - k.since) c.skeins) / 64
    setCharged q.n ((q.charged + n) % 2 ^ 64) (setDeficit q.n (satInt64 (q.deficit - n)) s)

/-- The debt, but no credit, of a queue with no untaken record, no unplaced unit and no resident crew (15 R403). -/
def settleDeficit (n : Nat) (s : State) : State :=
  match findQueue s n with
  | none => s
  | some q =>
    let busy := (allCrews s).any (fun c => decide (c.crew.queue = n)) || s.sch.launches.any (fun l => decide (l.queue = n) && decide (l.nextUnit < unitCount l.lrec)) || decide (q.head < q.tail)
    if busy || decide (q.deficit ≤ 0) then s else setDeficit n 0 s

/-- What the translation and the fabric keep for a context and its operations. -/
def forgetContext (ctx : Nat) (ops : List Nat) (s : State) : State :=
  let merge := s.sch.launches.filterMap (fun l => if l.ctx = ctx then some (2 ^ 64 + l.uid) else none) ++ s.sch.dones.filterMap fun d => if d.ctx = ctx then some (2 ^ 65 + d.uid) else none
  let gone := ops ++ merge ++ ((allCrews s).filter fun c => decide (c.crew.ctx = ctx)).flatMap fun c => c.skeins.map (·.uid)
  { s with
    xl := { s.xl with answers := s.xl.answers.filter (fun a => decide (a.2.1 ≠ ctx)), waits := s.xl.waits.filter (fun w => decide (w.ctx ≠ ctx)),
                      failing := s.xl.failing.filter fun f => !gone.contains f.op },
    fab := { s.fab with hostReads := s.fab.hostReads.filter fun h => !gone.contains h.who } }

/-- Every crew of the context ends, charged; its operations, launches and parked stores are dropped, its queues closed. A cluster that
loses its last fused crew leaves fused mode (02 R68). -/
def kill (ctx kcode : Nat) (s0 : State) : State :=
  let charged := ((allCrews s0).filter fun c => decide (c.crew.ctx = ctx)).foldl (fun s c => chargeCrew c s) s0
  let s := forgetContext ctx ((s0.en.ops.filter fun o => decide (o.ctx = ctx)).map (·.id)) charged
  let crews := (allCrews s).filter fun c => decide (c.crew.ctx ≠ ctx)
  let mine := s.sch.launches.filter fun l => decide (l.ctx = ctx)
  let qs := s.sch.queues.filter fun q => decide (q.ctx = ctx)
  let lost := qs.map untaken
  let gone := (((allCrews s).map (·.crew)) ++ s.sch.saved.map (·.crewRec.crew)).filter fun c => decide (c.ctx = ctx)
  let s1 := withCrews crews s
  let sch := { s1.sch with
    dones := s1.sch.dones.filter (fun d => decide (d.ctx ≠ ctx)), orphans := s1.sch.orphans.filter (fun c => decide (c ≠ ctx)), launches := s1.sch.launches.filter (fun l => decide (l.ctx ≠ ctx)),
    saved := s1.sch.saved.filter (fun r => decide (r.crewRec.crew.ctx ≠ ctx)) }
  let live := crews.map (·.crew.uid) ++ sch.saved.map (·.crewRec.crew.uid)
  let en := { s1.en with
    ops := s1.en.ops.filter (fun o => decide (o.ctx ≠ ctx)),
    latches := s1.en.latches.filter (fun l => live.contains l.cuid),
    clatches := s1.en.clatches.filter (fun l => sch.launches.any fun x => decide (x.uid = l.launch)),
    cache := s1.en.cache.filter (fun c => decide (c.ctx ≠ ctx)) }
  let sch2 := { sch with tracker := sch.tracker.filter (fun t => live.contains t.cuid) }
  let s2 := { s1 with sch := sch2, en := en, hm := { s1.hm with parked := s1.hm.parked.filter (fun p => decide (p.ctx ≠ ctx)), arrs := s1.hm.arrs.filter fun x => decide (x.ctx ≠ ctx) } }
  let s3 := mine.foldl (fun s l => match l.parent with | some u => childEnded u s | none => s) s2
  let s4 := lost.flatten.foldl (fun s p => childEnded p.1 s) s3
  let s5 := qs.foldl (fun s q => modQueue q.n (fun q => { q with parents := [] }) (closeQueue q.n s)) s4
  let s6 := s5.sch.queues.foldl (fun s q => settleDeficit q.n s) s5
  let old := ctxTrap s6 ctx
  setPreg (ctxReg ctx 6) (w64 (nb old 63 16 * 2 ^ 16 + kcode * 256 + 128 + nb old 5 0)) (gone.foldl (fun s c => leaveCore c s) s6)

/-! ### Taking a trap (16 R411 to R417) -/

/-- FR(K) (16 R416). -/
def recordAddr (s : State) : Nat := nb (ctxTrap s s.crew.ctx) 47 23 * 2 ^ 23 + 64 * (64 * s.crew.core + s.k.slot)

/-- epc on entry (16 R411). -/
def trapEpc (t : TrapInfo) (k : Skein) : Word64 := if t.after then k.e.pc + 4#64 else k.e.pc

/-- The fault record (16 R414). -/
def recordBytes (pair fatal : Bool) (t : TrapInfo) (s : State) : List Byte :=
  let k := s.k
  let flags := b2 t.deferred + 2 * b2 pair + 4 * b2 fatal + 8 * b2 k.handler
  let pc := if t.deferred then trapEpc t k else k.e.pc
  toBytes 1 t.code ++ toBytes 1 t.cause ++ toBytes 1 flags ++ toBytes 1 t.lane ++ toBytes 4 k.e.mask.toNat ++
    toBytes 8 (trapEpc t k).toNat ++ toBytes 8 pc.toNat ++ toBytes 8 t.addr.toNat ++ toBytes 8 t.info0.toNat ++
    toBytes 8 t.info1.toNat ++ toBytes 8 s.gtime ++ toBytes 2 k.sid ++ toBytes 2 s.crew.core ++ toBytes 1 s.crew.ctx ++ toBytes 3 0

/-- Where the record's bytes go, whatever the page's permissions; none when the page is not LOCAL or REMOTE. -/
def recordKey (s : State) : Option Nat :=
  match leafFor s (clusterOf s.crew.core) s.crew.ctx (recordAddr s) with
  | .ok (.ok l, _) => if l.resid = 2 then none else some (keyOf l (recordAddr s))
  | _ => none

/-- The conditions of R417 under which a trap is fatal. -/
def isFatal (t : TrapInfo) (s : State) : Bool :=
  (decide (t.code = 17) && decide (t.cause = 2)) || (s.k.handler && !t.deferred) || decide (nb (ctxHand s s.crew.ctx).toNat 63 2 = 0) ||
    decide (nb (ctxTrap s s.crew.ctx) 47 23 = 0) || (recordKey s).isNone

/-- The record's bytes go out as one 64-byte store of the skein to their home (17 R432 for a host page). -/
def storeRecord (b : List Byte) (key : Nat) (s : State) : State :=
  sendStore { sn := s.seqNo, uid := s.k.uid, cuid := s.crew.uid, core := s.crew.core, ctx := s.crew.ctx, remote := keyDev key, line := lineOf key,
              cells := (List.range 64).zip b |>.map fun c => (key + c.1, c.2), va := recordAddr s, pc := s.k.epc, sid := s.k.sid } { s with seqNo := s.seqNo + 1 }

/-- The skein holds its frontier, melded state and bracket aside and stands at the handler (16 R417); a wait in launch.wait is over (15
R397). `sn` is the store of its record, whose completion time ends the hold. -/
def standAtHandler (sn : Nat) (t : TrapInfo) (s : State) : State :=
  let k := s.k
  let held : Held := { frontier := k.e :: k.rest, mask := k.e.mask, meld := k.meld, bracket := k.bracket }
  dropWaiter k.uid { s with k := { k with
    held := some held, e := { pc := ctxHand s s.crew.ctx &&& ~~~ 3#64, mask := liveMask k }, rest := [], meld := {}, bracket := none,
    epc := trapEpc t k &&& ~~~ 3#64, frec := w64 (recordAddr s), handler := true, wait := none, yielded := none, holdOn := some sn, holdFloor := true } }

/-- enter(K, record) (16 R417). -/
def enterHandler (pair : Bool) (t : TrapInfo) (key : Nat) (s : State) : State :=
  storeRecord (recordBytes pair false t s) key (standAtHandler s.seqNo t s)

/-- The management processor's copy of a context's last fatal record (R417). -/
def keepFatal (pair : Bool) (t : TrapInfo) (s : State) : State :=
  { s with mgt := { s.mgt with fatal := mputAny s.mgt.fatal s.crew.ctx (recordBytes pair true t s) } }

/-- A trap of the skein in focus: its handler, or the end of its context (16 R417). -/
def takeTrap (pair : Bool) (t : TrapInfo) (s0 : State) : State :=
  let s := if t.code = 17 then countUncorr 1 s0 else s0
  match (if isFatal t s then none else recordKey s) with
  | some key => enterHandler pair t key s
  | none => kill s.crew.ctx t.code (keepFatal pair t s)

/-- Return from the handler (16 R418). -/
def leaveHandler (s : State) : State :=
  match s.k.held with
  | none => { s with k := { s.k with handler := false, frec := 0 } }
  | some h =>
    let k := s.k
    let live := liveMask k
    let back := match h.frontier with
      | [] => []
      | e :: l => (if e.pc = k.epc then e else { e with pc := k.epc, parked := false }) :: l
    let kept := (back.map fun e => { e with mask := e.mask &&& live }).filter fun e => decide (e.mask ≠ 0#32)
    let l := unparkSole (mergeAll kept.length kept)
    { s with k := { k with handler := false, frec := 0, held := none, e := l.headD {}, rest := l.drop 1, meld := h.meld,
                           bracket := h.bracket, wait := none } }

/-! ### Results of a meaning -/

/-- The timeout exponent of a wait: CTXFEST for a consuming load, else BSTALL (02 R58, 06 R173). -/
def waitExp (kind : Nat) (s : State) : Nat := if kind = 2 then ctxFest s s.crew.ctx else ctxBstall s s.crew.ctx

/-- The skein waits in its instruction: nothing issues, and the instruction is tried again (06 R171, R189). -/
def beginWaitOn (kind stage : Nat) (grans : List Nat) (s : State) : State :=
  let new : WaitRec := { pc := s.k.e.pc, since := s.clocks, kind := kind, stage := stage, exp := waitExp kind s, grans := grans, order := s.seqNo }
  let w : WaitRec := match s.k.wait with
    | some o => if o.pc = s.k.e.pc ∧ o.kind = kind then { o with stage := stage, asleep := true } else new
    | none => new
  { s with k := { s.k with wait := some w }, seqNo := s.seqNo + 1 }

def beginWait (kind stage : Nat) (s : State) : State := beginWaitOn kind stage [] s

/-- The outcome of an instruction: its next state, or the trap it takes, or its wait, or the machine's fault. -/
def conclude (pair : Bool) (s : State) (r : Res State) : Out :=
  match r with
  | .ok s' => .next s'
  | .error (.trap t) => .next (takeTrap pair t s)
  | .error (.wait s' kind stage) => .next (beginWait kind stage s')
  | .error (.bad f) => .fault f

/-! ### Barrier objects (05 R126 to R135) -/

/-- What an arrival does to the 16 bytes of an object: count n, status bits, first indexed error, closing arrival. -/
def arriveNat (old n st : Nat) (idx : Option (Bool × Nat)) (closing : Bool) : Nat :=
  let expect := nb old 31 0
  let arrived := nb old 63 32
  let phase := nb old 95 64
  let status0 := Nat.lor (nb old 127 96) st
  let status1 := match idx with
    | some (kind, i) => if nbit status0 15 then status0
                        else Nat.lor (status0 % 2 ^ 16 % 2 ^ 14 + 2 ^ 15 + b2 kind * 2 ^ 14) (min i 0xFFFF * 2 ^ 16)
    | none => status0
  let n' := if closing then expect - arrived else n
  let flips := closing || decide (expect = 0) || decide (expect ≤ arrived + n')
  let passed := !closing && flips && decide (expect < arrived + n')
  let status2 := if passed then Nat.lor status1 0x1000 else status1
  let phase2 := if flips then ((phase / 2 + 1) % 2 ^ 31) * 2 + (1 - phase % 2) else phase
  let arrived2 := if flips then 0 else (arrived + n') % 2 ^ 32
  expect + arrived2 * 2 ^ 32 + phase2 * 2 ^ 64 + status2 * 2 ^ 96

def putRange {α : Type} [DecidableEq α] (d : α) (m : SMap α) (o : Nat) : List α → SMap α
  | [] => m
  | b :: l => putRange d (mset d m o b) (o + 1) l

def winNat (c : Crew) (o n : Nat) : Nat := ofBytes ((List.range n).map fun i => mget 0#8 c.win (o + i))

/-- The home address of an object in a context, as an asynchronous operation or the manager finds it after issue. -/
def objKey (s : State) (ctx : Nat) (a : Word64) : Option Nat :=
  match walk s ctx a.toNat with
  | .ok (.ok l) => if l.resid = 2 ∨ (l.resid = 1 ∧ l.home = 255) then none else some (keyOf l a.toNat)
  | _ => none

/-- A 16-byte update of an object at its home, as an atomic (05 R128): of a skein, or, with no `uid`, of the part itself. -/
def rmwObject (uid cuid core ctx key : Nat) (f : Nat → Nat) (s : State) : State :=
  let old := ofBytes ((List.range 16).map fun i => finalByte s (key + i))
  let cells := (List.range 16).zip (toBytes 16 (f old)) |>.map fun c => (key + c.1, c.2)
  homeAccept { sn := s.seqNo, uid := uid, cuid := cuid, core := core, ctx := ctx, remote := keyDev key, line := lineOf key, cells := cells,
               op := if uid = 0 then otherOp else 0 } { s with seqNo := s.seqNo + 1 }

/-- The object lies in a page that its home has in hold, which answers an arrival RETRY (01 R39). -/
def objHeld (s : State) (ctx : Nat) (a : Word64) : Bool := match objKey s ctx a with | some key => heldPage s key | none => false

/-- The words of an object of which one has an uncorrectable error, which counts as zero and is told in STATUS by the bit UEOPND (05 R142). -/
def goodWords (bad : Nat → Bool) (old : Nat) : Nat := (if bad 0 then 0 else old % 2 ^ 64) + (if bad 1 then 0 else old / 2 ^ 64) * 2 ^ 64
def badWords (bad : Nat → Bool) : Nat := ([0, 1].filter bad).length

/-- One arrival at the home of an object; a bad word reads as zero and sets UEOPND (log entry 116). -/
def arriveKey (ctx key n st : Nat) (idx : Option (Bool × Nat)) (closing : Bool) (s : State) : State :=
  let bad := fun i => s.hm.memBad.contains (key / 8 + i)
  countUncorr (badWords bad) (rmwObject 0 0 0 ctx key (fun o => arriveNat (goodWords bad o) n (if badWords bad = 0 then st else Nat.lor st 2) idx closing) s)

/-- One arrival on an object in memory. One that the home answers RETRY is made again later, in the order of the arrivals (01 R39). -/
def arriveVa (ctx : Nat) (a : Word64) (n st : Nat) (idx : Option (Bool × Nat)) (closing : Bool) (s : State) : State :=
  if objHeld s ctx a ∨ s.hm.arrs.any (fun x => decide (x.ctx = ctx) && decide (x.addr = a)) then
    modHm (fun h => { h with arrs := h.arrs ++ [{ ctx := ctx, addr := a, n := n, st := st, idx := idx, closing := closing }] }) s
  else match objKey s ctx a with
    | none => s
    | some key => arriveKey ctx key n st idx closing s

/-- The arrivals that were answered RETRY are made again. -/
def retryArrivals (s : State) : State :=
  s.hm.arrs.foldl (fun s x => arriveVa x.ctx x.addr x.n x.st x.idx x.closing s) (modHm (fun h => { h with arrs := [] }) s)

/-- One arrival on an object in the window of the crew with this uid; a bad word reads as zero and sets UEOPND (log entry 116). -/
def arriveScr (cuid off n st : Nat) (idx : Option (Bool × Nat)) (closing : Bool) (s : State) : State :=
  match (allCrews s).find? fun c => decide (c.crew.uid = cuid) with
  | none => s
  | some c =>
    let bad := fun i => c.crew.winBad.contains (off / 8 + i)
    let soft := fun w => decide (w = off / 8) || decide (w = off / 8 + 1)
    let new := arriveNat (goodWords bad (winNat c.crew off 16)) n (if badWords bad = 0 then st else Nat.lor st 2) idx closing
    let s1 := modCrew cuid (fun c => { c with win := putRange 0#8 c.win off (toBytes 16 new), winSoft := c.winSoft.filter fun w => !soft w }) s
    countUncorr (badWords bad) (if c.crew.winSoft.any soft then countCorr (c.crew.winSoft.filter soft).length s1 else s1)

end Sys2Proof.Machine
end

