-- ==== Sys2Proof/Machine/Operands.lean ====
section
/-! DEFINITION. The issue checks that an instruction's operand fields undergo (06 R166, 07 R201, R202, R211; 06 R174 to R178),
the address forms (07 R194), and the accesses to scratch (01 R13, 02 R50 to R57). -/
namespace Sys2Proof.Machine

/-- What the checks of R211 need to know of an instruction: words, lane-set register fields with their widths, blocks of
vector registers named by uniform-set fields (first, count), tile registers, fields that must be even, privilege cause,
whether it is forbidden in a melded region and whether it needs the full skein. -/
structure Req where
  len : Nat := 1
  vs : List (Nat × Nat) := []
  blocks : List (Nat × Nat) := []
  tiles : List Nat := []
  even : List Nat := []
  priv : Nat := 0
  noMeld : Bool := false
  full : Bool := false
  /-- divergent control: not inside a bracket -/
  noBracket : Bool := false
  /-- spawn and brx look at the bracket before the melded region (08 R242) -/
  bracketFirst : Bool := false
  /-- a store or an atomic, which a full count of stores holds back (08 R244) -/
  stores : Bool := false
  /-- vector registers read without a field that names them (first, count) -/
  reads : List (Nat × Nat) := []
  /-- runs of registers from the one that a lane-set field names, of any alignment (first, count) -/
  runs : List (Nat × Nat) := []
  deriving DecidableEq, Repr

def ill (cause : Nat) : Option TrapInfo := some { code := 1, cause := cause }

/-- A field names a melded register. -/
def melded (k : Skein) (n : Nat) : Bool := decide (k.meld.st ≠ .closed) && decide (112 ≤ n)

/-- The rename tables of the paths that have lanes in the issuing entry (06 R175, R176). -/
def livePaths (k : Skein) : List (List Nat) :=
  (if k.e.mask &&& ~~~ k.meld.path ≠ 0#32 then [k.meld.ta] else []) ++ (if k.e.mask &&& k.meld.path ≠ 0#32 then [k.meld.tb] else [])

/-- Check 10: registers within the allotment (06 R166, 07 R201). -/
def chkRegs (r : Req) (k : Skein) : Option TrapInfo :=
  if r.vs.any (fun x => !melded k x.1 && decide (k.regs ≤ x.1)) || r.runs.any (fun x => !melded k x.1 && decide (k.regs < x.1 + x.2)) || r.blocks.any (fun x => decide (k.regs < x.1 + x.2)) ||
     r.tiles.any (fun t => decide (8 ≤ t) && !k.tile16) then ill 4 else none

/-- Check 11: pairs, quads and even fields (07 R202). -/
def chkAlign (r : Req) (k : Skein) : Option TrapInfo :=
  if (decide (k.meld.st = .closed) && r.vs.any fun x => decide (x.1 % x.2 ≠ 0)) || r.even.any (fun n => decide (n % 2 ≠ 0)) then ill 8 else none

/-- The checks of a melded region (06 R175 to R177): forbidden, too long, misaligned pair, register beyond the allotment; each path's
table counts (log entry 28). A forbidden instruction is tested before the limit (log entry 29). -/
def chkMeld (r : Req) (k : Skein) : Option TrapInfo :=
  if k.meld.st = .closed then none
  else if r.noMeld then some { code := 3, cause := 1 }
  else if 1024 ≤ k.meld.words + r.len then some { code := 3, cause := 4 }
  else if r.vs.any (fun x => !melded k x.1 && decide (x.1 % x.2 ≠ 0)) then some { code := 3, cause := 5 }
  else
    let ms := r.vs.filter fun x => melded k x.1
    let ns := (r.vs ++ r.runs).filter fun x => melded k x.1
    let paths := [k.meld.ta, k.meld.tb]
    let at_ := fun (t : List Nat) (i : Nat) => t.getD i 0
    if ms.any (fun x => decide ((x.1 - 112) % x.2 ≠ 0) || paths.any fun t =>
        decide (at_ t (x.1 - 112) % x.2 ≠ 0) || (List.range x.2).any fun j => decide (at_ t (x.1 - 112 + j) ≠ at_ t (x.1 - 112) + j))
    then some { code := 3, cause := 5 }
    else if ns.any (fun x => paths.any fun t => decide (k.regs < at_ t (x.1 - 112) + x.2)) then some { code := 3, cause := 6 }
    else none

/-- The full-skein rule and the rules of a bracket (06 R174, R178). -/
def chkPartial (r : Req) (k : Skein) : Option TrapInfo :=
  if r.noBracket ∧ k.bracket.isSome then some { code := 4, cause := 2 }
  else if r.full ∧ k.bracket.isNone ∧ k.e.mask ≠ liveMask k then some { code := 4, cause := 1 }
  else none

/-- Checks 8, 10 and 11 of R211, then melded regions, then partial masks. Divergent control checks its bracket first (R242). -/
def check (r : Req) (s : State) : Option TrapInfo :=
  (if r.priv ≠ 0 ∧ !isPriv s then some { code := 2, cause := r.priv } else none) <|>
  chkRegs r s.k <|> chkAlign r s.k <|>
  (if r.bracketFirst then chkPartial r s.k <|> chkMeld r s.k else chkMeld r s.k <|> chkPartial r s.k)

/-- The store instructions of a skein that still wait for a completion time (08 R244). -/
def storeCount (s : State) : Nat :=
  let ins := ((s.hm.inflight.filter fun x => decide (x.uid = s.k.uid)).map (·.ins)) ++ ((s.hm.parked.filter fun x => decide (x.uid = s.k.uid)).map (·.ins))
  (ins.foldl (fun l i => if l.contains i then l else l ++ [i]) ([] : List Nat)).length

/-- The registers that a field names, as runs: through the rename tables in a melded region. -/
def namedRegs (k : Skein) (x : Nat × Nat) : List (Nat × Nat) := if melded k x.1 then (livePaths k).map fun t => (t.getD (x.1 - 112) 0, x.2) else [x]

/-- Registers 12 to 15 of the blocks of marches that still write them (12 R351). -/
def heldBlocks (s : State) : List Nat :=
  (s.en.ops.filter fun o => decide (o.uid = s.k.uid) && !o.performed && (match o.kind with | .march _ | .mresume => true | _ => false)).map fun o =>
    (o.args.getD 2 0#64).toNat + 12

/-- The instruction reads or writes a register that a march holds. -/
def heldHit (r : Req) (s : State) : Bool :=
  let l := ((r.vs ++ r.runs).map (namedRegs s.k)).flatten ++ r.blocks ++ r.reads
  (heldBlocks s).any fun b => l.any fun x => decide (x.1 < b + 4) && decide (b < x.1 + x.2)

/-- An instruction that passes its issue checks and then acts. -/
def issue (r : Req) (s : State) (f : State → Res State) : Out :=
  conclude (decide (r.len = 2)) s (
    match check r s with
    | some t => .error (.trap t)
    | none => if (r.stores && decide (255 ≤ storeCount s)) || heldHit r s then .error (.wait s 0 0) else f s)

/-- An instruction whose effect never stops: it acts on the skein and goes on to the next word. -/
def simple (r : Req) (s : State) (f : State → State) : Out := issue r s fun s => .ok (retire r.len (f s))

/-- A lane-set computation: register vd of each lane of ACTIVE receives `f L` (08 R220). -/
def laneOp (r : Req) (g d : Nat) (f : Skein → Nat → Word32) (s : State) : Out :=
  simple r s fun s => { s with k := wrV (active s.k g) d (f s.k) s.k }

/-- A uniform computation into G[gd]. -/
def unifOp (d : Nat) (f : Skein → Word64) (s : State) : Out :=
  simple {} s fun s => { s with k := wrG d (f s.k) s.k }

/-! ### Addresses (07 R194, 10 R285) -/

def offOf (x : Option MemPfx) : Int := match x with | some m => sxt 16 m.off | none => 0
def acqOf (x : Option MemPfx) : Bool := match x with | some m => m.acq | none => false
def relOf (x : Option MemPfx) : Bool := match x with | some m => m.rel | none => false
def nfOf (x : Option MemPfx) : Bool := match x with | some m => m.nf | none => false
def scopeOf (x : Option MemPfx) : Nat := match x with | some m => m.scope | none => 0
def polOf (x : Option MemPfx) : Nat := match x with | some m => m.pol | none => 0

/-- The exact sum of an LM address: G[gb] + sext(V[va][L])·k + sext(OFF). -/
def laneSum (k : Skein) (a b scale : Nat) (off : Int) (L : Nat) : Int :=
  ((rdG k b).toNat : Int) + (rdV k a L).toInt * scale + off

/-- The virtual addresses of the lanes of ACTIVE, in ascending lane order. -/
def laneAddrs (k : Skein) (act : Word32) (a b scale : Nat) (off : Int) : List (Nat × Nat) :=
  (lanesOf act).map fun L => (L, wrap64 (laneSum k a b scale off L))

/-! ### Scratch (01 R13, 02 R50 to R57) -/

/-- The window's size in bytes. -/
def winSize (c : Crew) : Nat := 4096 * nb c.lrec.alloc 6 0

/-- The exact offset of each lane of ACTIVE with the length it touches. -/
def scrAddrs (k : Skein) (act : Word32) (a b : Nat) (off : Int) (len : Nat → Nat) : List (Nat × Int × Nat) :=
  (lanesOf act).map fun L => (L, laneSum k a b 1 off L, len L)

/-- The first byte of a range outside 0 to W - 1. -/
def scrBad (W : Nat) (o : Int) (n : Nat) : Option Int :=
  if n = 0 then none else if o < 0 ∨ (W : Int) ≤ o then some o else if (W : Int) < o + n then some W else none

/-- The scratch-bound trap of the lowest lane that leaves the window (01 R13). -/
def scrCheck (W : Nat) : List (Nat × Int × Nat) → Option Stop
  | [] => none
  | (L, o, n) :: l =>
    match scrBad W o n with
    | some x => some (.trap { code := 9, cause := 1, lane := L, addr := w64 (wrap64 x) })
    | none => scrCheck W l

/-- The granules that a range touches (02 R54). -/
def granulesOf (o n : Nat) : List Nat := if n = 0 then [] else (List.range ((o + n - 1) / 16 - o / 16 + 1)).map (o / 16 + ·)

def winByte (c : Crew) (o : Nat) : Byte := mget 0#8 c.win o
def winBytes (c : Crew) (o n : Nat) : List Byte := (List.range n).map fun i => winByte c (o + i)

/-- The full/empty bits are kept as the rising list of full granules. -/
def insNat (x : Nat) : List Nat → List Nat
  | [] => [x]
  | y :: l => if x < y then x :: y :: l else if x = y then y :: l else y :: insNat x l
def setFull (gs : List Nat) (c : Crew) : Crew := { c with fe := gs.foldl (fun l g => insNat g l) c.fe }
def setEmpty (gs : List Nat) (c : Crew) : Crew := { c with fe := c.fe.filter fun g => !gs.contains g }
def isFull (c : Crew) (g : Nat) : Bool := c.fe.contains g

/-- Writes bytes of the window; a word with an uncorrectable error stays bad (log entry 104). -/
def putWin (o : Nat) (l : List Byte) (c : Crew) : Crew := { c with win := putRange 0#8 c.win o l }

/-- An engine's write: data, then every granule it touches full (02 R54). -/
def engineWin (o : Nat) (l : List Byte) (c : Crew) : Crew := setFull (granulesOf o l.length) (putWin o l c)

/-- A word with an uncorrectable error among a lane's bytes (02 R53). -/
def winBadAt (c : Crew) (o n : Nat) : Option Nat := ((List.range n).find? fun i => c.winBad.contains ((o + i) / 8)).map (o + ·)

def winUncorr (c : Crew) : List (Nat × Int × Nat) → Option Stop
  | [] => none
  | (L, o, n) :: l =>
    match winBadAt c o.toNat n with
    | some x => some (trapAt 17 1 L x)
    | none => winUncorr c l

/-- Words of the window with a single-bit error among the bytes read are corrected and counted (02 R53). -/
def correctScr (l : List (Nat × Int × Nat)) (s : State) : State :=
  let hit := fun w : Nat => l.any fun x => decide (x.2.1.toNat < 8 * w + 8) && decide (8 * w < x.2.1.toNat + x.2.2)
  let k := (s.crew.winSoft.filter hit).length
  if k = 0 then s else countCorr k { s with crew := { s.crew with winSoft := s.crew.winSoft.filter fun w => !hit w } }

/-- `f` over lanes; where it traps in a lane, the lanes below that one go through all of `g` first, and the first trap in lane order is
the instruction's (01 R47). -/
def lowestFirst {α β : Type} (f : List Nat → State → Res α) (g : List Nat → State → Res β) (lanes : List Nat) (s : State) : Res α :=
  match f lanes s with
  | .error (.trap t) => (match g (lanes.filter fun L => decide (L < t.lane)) s with | .error e => .error e | .ok _ => .error (.trap t))
  | r => r

/-- The object of a barrier instruction or operation checked as an atomic of 16 bytes (05 R127). -/
def checkObj (scr : Bool) (a : Word64) (s : State) : Res State :=
  if scr then
    if a.toNat % 16 ≠ 0 then .error (trapAt 8 1 0xFF a.toNat)
    else if winSize s.crew < a.toNat + 16 then .error (trapAt 9 1 0xFF (if a.toNat < winSize s.crew then winSize s.crew else a.toNat))
    else .ok s
  else do
    let (_, s1) ← resolve .atomic false (some 3) 16 [(0xFF, a.toNat)] s
    pure s1

/-- The home address of an object that passed its check. -/
def objHome (a : Word64) (s : State) : Res (Nat × State) := do
  let (r, s1) ← resolve .atomic false (some 3) 16 [(0xFF, a.toNat)] s
  pure (match r with | x :: _ => atKey x | [] => 0, s1)

end Sys2Proof.Machine
end

