-- ==== Sys2Proof/Machine/Flags.lean ====
section
/-! DEFINITION. FMODE: its fields, its sticky flags, the rounding of an instruction and the draws (09 R254 to R260). -/
namespace Sys2Proof.Machine

def fmSeed (f : Word64) : Nat := nb f.toNat 63 32
def fmCtr (f : Word64) : Nat := nb f.toNat 31 16
def fmSat (f : Word64) : Bool := nbit f.toNat 12
def fmRnd (f : Word64) : Nat := nb f.toNat 10 8

/-- ORs flags into FMODE (09 R256). -/
def orFlags (fl : Nat) (f : Word64) : Word64 := f ||| w64 (fl % 64)

/-- A write of FMODE: reserved bits stay zero, DRND keeps its value on a reserved code (09 R254). -/
def writeFmode (x old : Word64) : Word64 :=
  let n := x.toNat
  let r := nb n 10 8
  let r' := if r = 0 ∨ 6 ≤ r then nb old.toNat 10 8 else r
  w64 (nb n 63 16 * 2 ^ 16 + nb n 12 12 * 2 ^ 12 + r' * 2 ^ 8 + nb n 5 0)

/-- The RND code of an instruction (07 R199, 09 R258). -/
def rndOf (x : Option ArithPfx) (f : Word64) : Nat :=
  let c := match x with | some p => p.rnd | none => 0
  if c = 0 then fmRnd f else c

def pkOf (x : Option ArithPfx) : Nat := match x with | some p => p.pk | none => 0
def unsOf (x : Option ArithPfx) : Bool := match x with | some p => p.uns | none => false
def shOf (x : Option ArithPfx) : Nat := match x with | some p => p.sh | none => 0
def pfxLen {α : Type} (x : Option α) : Nat := match x with | some _ => 2 | none => 1

/-- The draw of a lane and half (09 R259). -/
def laneDraw (s : State) (L h : Nat) : Nat :=
  drawBits (fmSeed s.k.fmode) (fmCtr s.k.fmode) ((s.crew.t % 2 ^ 52) * 2 ^ 12 + 64 * s.k.sid + 2 * L + h)

/-- The draw counter after an issue under sr (09 R259). -/
def stepCtr (sr : Bool) (f : Word64) : Word64 :=
  if sr then w64 (nb f.toNat 63 32 * 2 ^ 32 + ((fmCtr f + 1) % 2 ^ 16) * 2 ^ 16 + nb f.toNat 15 0) else f

/-- The flags raised by the lanes of ACTIVE, together. -/
def unionFlags (act : Word32) (f : Nat → Nat) : Nat := (lanesOf act).foldl (fun m L => Nat.lor m (f L)) 0

/-- A floating-point lane operation: result and flags of each lane of ACTIVE, the draw counter under sr. -/
def floatOp (r : Req) (g d : Nat) (sr : State → Bool) (f : State → Nat → Nat × Nat) (s : State) : Out :=
  simple r s fun s =>
    let act := active s.k g
    let k1 := wrV act d (fun L => w32 (f s L).1) s.k
    { s with k := { k1 with fmode := stepCtr (sr s) (orFlags (unionFlags act fun L => (f s L).2) s.k.fmode) } }

/-- The format of PK: 0 FP32, 1 a BF16 pair, 2 an FP16 pair (07 R199). -/
def pkFmt (pk : Nat) : Fmt := match pk with | 0 => fp32 | 1 => bf16 | _ => fp16

/-- Applies an element operation to one FP32 value or to both halves; `h` is the half. -/
def perElem (pk : Nat) (f : Nat → Nat × Nat) : Nat × Nat :=
  if pk = 0 then f 0
  else
    let lo := f 0
    let hi := f 1
    (lo.1 + hi.1 * 2 ^ 16, Nat.lor lo.2 hi.2)

/-- Element `h` of a register value. -/
def elem (pk h x : Nat) : Nat := if pk = 0 then x else nb x (16 * h + 15) (16 * h)

end Sys2Proof.Machine
end

