-- ==== Sys2Proof/Machine/LaneMem.lean ====
section
/-! DEFINITION. Lane and uniform loads and stores, atomics, scratch accesses, page requests (10 R284 to R289). -/
namespace Sys2Proof.Machine

/-- An acquire load of cluster scope reads the slice of a fused cluster that holds the line, every other one the home (04 R117, R121). -/
def clusterAcq (x : Option MemPfx) : Bool := decide (scopeOf x = 2)

/-- .rel: a release fence of the scope comes first (04 R117). -/
def relFirst (rel : Bool) (scope : Nat) (s : State) : Res State := if rel then release scope s else .ok s

/-- The bytes that lane `L` loaded; zero in a marked lane. -/
def laneBytes (r : List Loaded) (L : Nat) : List Byte := ((r.find? fun x => decide (x.lane = L)).map (·.bytes)).getD []

def markedLanes (r : List Loaded) : Word32 := maskOf fun L => r.any fun x => decide (x.lane = L) && x.absent

/-- p7 loses the bits of the marked lanes (01 R32). -/
def clearP7 (m : Word32) (k : Skein) : Skein := wrP 7 (rdP k 7 &&& ~~~ m) k

/-- A lane load of `n` bytes; offsets scaled by `scale` (R284). -/
def laneLoad (x : Option MemPfx) (g d a b n scale : Nat) (s : State) : Out :=
  issue { len := pfxLen x, vs := [(d, if n = 8 then 2 else 1), (a, 1)] } s fun s => do
    let s1 ← relFirst (relOf x) (scopeOf x) s
    let act := active s1.k g
    let (r, s2) ← loadLanes (acqOf x) (nfOf x) (polOf x) n (laneAddrs s1.k act a b scale (offOf x)) s1 (clusterAcq x)
    let val := fun L => ofBytes (laneBytes r L)
    let k1 := if n = 8 then wrV2 act d (fun L => w64 (val L)) s2.k else wrV act d (fun L => w32 (val L)) s2.k
    pure (retire (pfxLen x) { s2 with k := clearP7 (markedLanes r) k1 })

def execVldN8 (x : Option MemPfx) (g d a b : Nat) (s : State) : Out := laneLoad x g d a b 1 1 s
def execVldN16 (x : Option MemPfx) (g d a b : Nat) (s : State) : Out := laneLoad x g d a b 2 1 s
def execVld (x : Option MemPfx) (g d a b z : Nat) (s : State) : Out := laneLoad x g d a b 4 (if z = 1 then 4 else 1) s
def execVldN64 (x : Option MemPfx) (g d a b z : Nat) (s : State) : Out := laneLoad x g d a b 8 (if z = 1 then 8 else 1) s

/-- A lane store of `n` bytes (R284). -/
def laneStore (x : Option MemPfx) (g v a b n scale : Nat) (s : State) : Out :=
  issue { len := pfxLen x, vs := [(v, if n = 8 then 2 else 1), (a, 1)], stores := true } s fun s => do
    let s1 ← relFirst (relOf x) (scopeOf x) s
    let act := active s1.k g
    let data := fun L => toBytes n (if n = 8 then (rdV2 s1.k v L).toNat else (rdV s1.k v L).toNat)
    let s2 ← storeLanes n (laneAddrs s1.k act a b scale (offOf x)) data s1 (polOf x)
    pure (retire (pfxLen x) s2)

def execVstN8 (x : Option MemPfx) (g v a b : Nat) (s : State) : Out := laneStore x g v a b 1 1 s
def execVstN16 (x : Option MemPfx) (g v a b : Nat) (s : State) : Out := laneStore x g v a b 2 1 s
def execVst (x : Option MemPfx) (g v a b z : Nat) (s : State) : Out := laneStore x g v a b 4 (if z = 1 then 4 else 1) s
def execVstN64 (x : Option MemPfx) (g v a b z : Nat) (s : State) : Out := laneStore x g v a b 8 (if z = 1 then 8 else 1) s

/-! ### Uniform loads and stores (R285) -/

def unifAddr (x : Option MemPfx) (k : Skein) (a b : Nat) : Nat := wrap64 ((rdG k a).toNat + (rdG k b).toNat + offOf x)

def execGld (x : Option MemPfx) (d a b z e : Nat) (s : State) : Out :=
  issue { len := pfxLen x } s fun s => do
    let s1 ← relFirst (relOf x) (scopeOf x) s
    let n := 2 ^ z
    let (r, s2) ← loadLanes (acqOf x) (nfOf x) (polOf x) n [(0xFF, unifAddr x s1.k a b)] s1 (clusterAcq x)
    let v := ofBytes (laneBytes r 0xFF)
    let y := if e = 1 then BitVec.ofInt 64 (sxt (8 * n) v) else w64 v
    let k1 := if r.any (·.absent) then clearP7 s2.k.e.mask s2.k else s2.k
    pure (retire (pfxLen x) { s2 with k := wrG d y k1 })

def execGst (x : Option MemPfx) (d a b z : Nat) (s : State) : Out :=
  issue { len := pfxLen x, stores := true } s fun s => do
    let s1 ← relFirst (relOf x) (scopeOf x) s
    let s2 ← storeLanes (2 ^ z) [(0xFF, unifAddr x s1.k a b)] (fun _ => toBytes (2 ^ z) (rdG s1.k d).toNat) s1 (polOf x)
    pure (retire (pfxLen x) s2)

/-! ### Scratch atomics (R287): at the bank, lanes in ascending order -/

/-- Alignment, then the window, of each lane in ascending order (01 R13, R17, R47). -/
def scrAtCheck (W n : Nat) : List (Nat × Int) → Option Stop
  | [] => none
  | (L, o) :: l =>
    if o % (n : Int) ≠ 0 then some (.trap { code := 8, cause := 1, lane := L, addr := w64 (wrap64 o) })
    else match scrCheck W [(L, o, n)] with
      | some t => some t
      | none => scrAtCheck W n l

def scrAtRun (aop n : Nat) : List AtLane → Crew → List (Nat × Nat) × Crew
  | [], c => ([], c)
  | x :: l, c =>
    let old := winNat c x.va n
    let r := scrAtRun aop n l (putWin x.va (toBytes n (atomicOp aop n old x.data x.cmp)) c)
    ((x.lane, old) :: r.1, r.2)

/-- A load or consuming access at the bank: its read time is now (04 R106, R117). -/
def bankRead (acq : Bool) (s : State) : State :=
  { s with k := { s.k with lastRead := max s.k.lastRead s.gtime, floor := if acq then max s.k.floor s.gtime else s.k.floor } }

/-- Lanes with their exact scratch offsets, data and comparands. -/
def scrAtomic (aop n : Nat) (acq : Bool) (lanes : List (Nat × Int × Nat × Nat)) (s : State) : Res (List (Nat × Nat) × State) := do
  match scrAtCheck (winSize s.crew) n (lanes.map fun x => (x.1, x.2.1)) with
  | some t => .error t
  | none =>
    match winUncorr s.crew (lanes.map fun x => (x.1, x.2.1, n)) with
    | some t => .error t
    | none =>
      let r := scrAtRun aop n (lanes.map fun x => { lane := x.1, va := x.2.1.toNat, data := x.2.2.1, cmp := x.2.2.2 : AtLane }) s.crew
      pure (r.1, if lanes.isEmpty then s else bankRead acq (correctScr (lanes.map fun x => (x.1, x.2.1, n)) { s with crew := r.2 }))

def oldOf (r : List (Nat × Nat)) (L : Nat) : Nat := ((r.find? fun x => decide (x.1 = L)).map (·.2)).getD 0

def execVatom (x : AtomPfx) (g d a b z : Nat) (s : State) : Out :=
  let w := if x.w64 then 2 else 1
  let n := 4 * w
  issue { len := 2, vs := [(d, w), (a, 1), (x.vb, w)], stores := true } s fun s => do
    let s1 ← relFirst x.rel x.scope s
    let act := active s1.k g
    let val := fun (r L : Nat) => if x.w64 then (rdV2 s1.k r L).toNat else (rdV s1.k r L).toNat
    let (r, s2) ←
      if x.scr then
        scrAtomic x.aop n x.acq ((lanesOf act).map fun L => (L, laneSum s1.k a b 1 0 L, val x.vb L, val d L)) s1
      else
        atomicLanes x.aop n x.acq
          ((laneAddrs s1.k act a b (if z = 1 then n else 1) 0).map fun p => { lane := p.1, va := p.2, data := val x.vb p.1, cmp := val d p.1 : AtLane }) s1 x.pol
    let k1 := if x.w64 then wrV2 act d (fun L => w64 (oldOf r L)) s2.k else wrV act d (fun L => w32 (oldOf r L)) s2.k
    pure (retire 2 { s2 with k := k1 })

def execGatom (x : Option MemPfx) (d a b o w z : Nat) (s : State) : Out :=
  let n := if w = 1 then 8 else 4
  issue { len := pfxLen x, stores := true } s fun s => do
    let s1 ← relFirst (relOf x) (scopeOf x) s
    let low := fun (y : Word64) => y.toNat % 2 ^ (8 * n)
    let sum : Int := (rdG s1.k a).toNat + offOf x
    let (r, s2) ←
      if z = 1 then scrAtomic o n (acqOf x) [(0xFF, sum, low (rdG s1.k b), low (rdG s1.k d))] s1
      else atomicLanes o n (acqOf x) [{ lane := 0xFF, va := wrap64 sum, data := low (rdG s1.k b), cmp := low (rdG s1.k d) }] s1 (polOf x)
    pure (retire (pfxLen x) { s2 with k := wrG d (w64 (oldOf r 0xFF)) s2.k })

/-! ### Scratch loads and stores (R288) -/

/-- The width of a scratch access in registers (07 R197). -/
def scrW (x : Option MemPfx) : Nat := 2 ^ polOf x

/-- Registers d .. d + w - 1 of each lane receive 4 bytes each. -/
def wrWide (act : Word32) (d w : Nat) (f : Nat → List Byte) (k : Skein) : Skein :=
  (List.range w).foldl (fun k' j => { k' with v := putV act (fun L => ren k L d + j) (fun L => w32 (leAt (f L) (4 * j) 4)) k'.v }) k

def rdWide (k : Skein) (d w L : Nat) : List Byte :=
  ((List.range w).map fun j => toBytes 4 (getV k.v (ren k L d + j) L).toNat).flatten

def scrLanes (x : Option MemPfx) (k : Skein) (act : Word32) (a b : Nat) : List (Nat × Int × Nat) :=
  scrAddrs k act a b (offOf x) fun _ => 4 * scrW x

def offsetOf (l : List (Nat × Int × Nat)) (L : Nat) : Nat := ((l.find? fun x => decide (x.1 = L)).map fun x => x.2.1.toNat).getD 0

def execSld (x : Option MemPfx) (g d a b : Nat) (s : State) : Out :=
  issue { len := pfxLen x, vs := [(d, scrW x), (a, 1)] } s fun s => do
    let s1 ← relFirst (relOf x) (scopeOf x) s
    let act := active s1.k g
    let l := scrLanes x s1.k act a b
    match scrCheck (winSize s1.crew) l with
    | some t => .error t
    | none =>
      match winUncorr s1.crew l with
      | some t => .error t
      | none =>
        let s2 := if l.isEmpty then s1 else bankRead (acqOf x) (correctScr l s1)
        pure (retire (pfxLen x) { s2 with k := wrWide act d (scrW x) (fun L => winBytes s1.crew (offsetOf l L) (4 * scrW x)) s2.k })

/-- The union of the granules of every lane (02 R55). -/
def unionGrans (l : List (Nat × Int × Nat)) : List Nat :=
  l.foldl (fun acc x => (granulesOf x.2.1.toNat x.2.2).foldl (fun a g => insNat g a) acc) []

/-- A skein of the crew that began waiting earlier for an overlapping set that is wholly full now goes first (02 R55). -/
def earlierWaiter (s : State) (gr : List Nat) : Bool :=
  match s.k.wait with
  | some w => decide (w.kind = 2) && s.peers.any fun p => match p.wait with
      | some v => decide (v.kind = 2) && decide (v.order < w.order) && v.grans.any gr.contains && v.grans.all (isFull s.crew)
      | none => false
  | none => false

/-- sld.fe and sld.fe.clr (02 R55): it waits until every granule of S is full. -/
def consume (clr : Bool) (x : MemPfx) (g d a b : Nat) (s : State) : Out :=
  issue { len := 2, vs := [(d, scrW (some x)), (a, 1)] } s fun s => do
    let s1 ← relFirst x.rel x.scope s
    let act := active s1.k g
    let l := scrLanes (some x) s1.k act a b
    match scrCheck (winSize s1.crew) l with
    | some t => .error t
    | none =>
      let gr := unionGrans l
      if !gr.all (isFull s1.crew) || earlierWaiter s1 gr then .error (.wait (beginWaitOn 2 0 gr s1) 2 0)
      else
        match winUncorr s1.crew l with
        | some t => .error t
        | none =>
          let s2 := if l.isEmpty then s1 else bankRead x.acq (correctScr l s1)
          let k1 := wrWide act d (scrW (some x)) (fun L => winBytes s1.crew (offsetOf l L) (4 * scrW (some x))) s2.k
          pure (retire 2 { s2 with k := k1, crew := if clr then setEmpty gr s2.crew else s2.crew })

def execSldFe (x : MemPfx) (g d a b : Nat) (s : State) : Out := consume false x g d a b s
def execSldFeClr (x : MemPfx) (g d a b : Nat) (s : State) : Out := consume true x g d a b s

def execSst (x : Option MemPfx) (g v a b : Nat) (s : State) : Out :=
  issue { len := pfxLen x, vs := [(v, scrW x), (a, 1)], stores := true } s fun s => do
    let s1 ← relFirst (relOf x) (scopeOf x) s
    let act := active s1.k g
    let l := scrLanes x s1.k act a b
    match scrCheck (winSize s1.crew) l with
    | some t => .error t
    | none =>
      let c := l.foldl (fun c y => putWin y.2.1.toNat (rdWide s1.k v (scrW x) y.1) c) s1.crew
      pure (retire (pfxLen x) { s1 with crew := if nfOf x then setFull (unionGrans l) c else c })

def execSclr (x : Option MemPfx) (g v a b : Nat) (s : State) : Out :=
  issue { len := pfxLen x, vs := [(v, 1), (a, 1)], stores := true } s fun s => do
    let s1 ← relFirst (relOf x) (scopeOf x) s
    let act := active s1.k g
    let l := scrAddrs s1.k act a b (offOf x) fun L => (rdV s1.k v L).toNat
    match scrCheck (winSize s1.crew) l with
    | some t => .error t
    | none => pure (retire (pfxLen x) { s1 with crew := setEmpty (unionGrans l) s1.crew })

/-! ### Page requests (R289, 01 R38) -/

/-- The address checks of pgreq: cause 0x01 of the address trap, then the upper half. -/
def pgCheck (priv : Bool) : List (Nat × Nat) → Option Stop
  | [] => none
  | (L, va) :: l =>
    if !canonical va then some (trapAt 5 1 L va)
    else if !priv && decide (nb va 63 55 = 511) then some (trapAt 6 6 L va)
    else pgCheck priv l

/-- The page that holds an address: its number in pages of its own size, its address by which answers go; an address without a
leaf stands for its 64 KiB. -/
def pageOf (s : State) (ctx va : Nat) : Nat :=
  match leafAt s ctx va with
  | some l => va / pageBytes l.size * pageBytes l.size
  | none => va / 65536 * 65536

/-- The code of the page at `page`: one received before, the home's answer to the skein, or a new request's. -/
def pgPage (page va : Nat) (codes : List (Nat × Nat)) (s : State) : Res (Nat × State) :=
  let ctx := s.crew.ctx
  match codes.find? (fun c => decide (c.1 = page)) with
  | some (_, 8) =>
    match s.xl.answers.find? (fun a => decide (a.1 = s.k.uid) && decide (a.2.1 = ctx) && decide (a.2.2.1 = page)) with
    | some a => .ok (a.2.2.2, modXl (fun x => { x with answers := x.answers.erase a }) s)
    | none => .ok (8, s)
  | some (_, c) => .ok (c, s)
  | none =>
    let old := fun a : Nat × Nat × Nat × Nat => decide (a.1 = s.k.uid) && decide (a.2.1 = ctx) && decide (a.2.2.1 = page)
    pageRequest (isPriv s) ctx va s.k.uid (modXl (fun x => { x with answers := x.answers.filter fun a => !old a }) s)

/-- The codes of the lanes in ascending order; lanes of one page receive the code of the lowest. -/
def pgLanes (codes : List (Nat × Nat)) : List (Nat × Nat) → State → Res (List (Nat × Nat) × List (Nat × Nat) × State)
  | [], s => .ok ([], codes, s)
  | (L, va) :: l, s => do
    let page := pageOf s s.crew.ctx va
    let (c, s1) ← pgPage page va codes s
    let (r, cs, s2) ← pgLanes ((page, c) :: codes.filter fun x => decide (x.1 ≠ page)) l s1
    pure ((L, c) :: r, cs, s2)

/-- pgreq waits while a home has not answered: the skein keeps the codes it has. -/
def pgWait (codes : List (Nat × Nat)) (s : State) : State :=
  let s1 := beginWait 9 1 s
  { s1 with k := { s1.k with wait := s1.k.wait.map fun w => { w with codes := codes } } }

def execPgreq (x : Option MemPfx) (g d a b : Nat) (s : State) : Out :=
  issue { len := pfxLen x, vs := [(d, 1), (a, 1)] } s fun s => do
    let act := active s.k g
    let l := laneAddrs s.k act a b 1 (offOf x)
    match pgCheck (isPriv s) l with
    | some t => .error t
    | none =>
      let had := match s.k.wait with | some w => if w.pc = s.k.e.pc ∧ w.kind = 9 then w.codes else [] | none => []
      let (r, codes, s1) ← pgLanes had l s
      if codes.any (fun c => decide (c.2 = 8)) then .error (.wait (pgWait codes s1) 9 1)
      else pure (retire (pfxLen x) { s1 with k := wrV act d (fun L => w32 (((r.find? fun o => decide (o.1 = L)).map (·.2)).getD 0)) s1.k })

end Sys2Proof.Machine
end

