-- ==== Sys2Proof/Machine/Control.lean ====
section
/-! DEFINITION. Control transfer, ends of lanes, melded regions, wide brackets, spawn and baskets
(06 R170 to R184, 08 R233 to R242). -/
namespace Sys2Proof.Machine

/-- Control that a melded region forbids. -/
def ctl : Req := { noMeld := true }
/-- Divergent control: neither in a melded region nor in a bracket. -/
def divCtl : Req := { noMeld := true, noBracket := true }

/-- The target of a branch word with an offset of `n` bits, counted in words (07 R194). -/
def target (n o : Nat) (pc : Word64) : Word64 := pc + BitVec.ofInt 64 (4 * sxt n o)

/-- The whole entry moves to `t` (06 R170). -/
def moveTo (t : Word64) (s : State) : State := settle true [{ s.k.e with pc := t }] s

def execBru (o : Nat) (s : State) : Out := issue ctl s fun s => .ok (moveTo (target 16 o s.k.e.pc) s)

/-- bcc's conditions (07 R210). -/
def bccCond (c : Nat) (a b : Word64) : Bool :=
  match c with
  | 0 => decide (a = b)
  | 1 => decide (a ≠ b)
  | 2 => a.slt b
  | 3 => !a.slt b
  | 4 => a.ult b
  | _ => !a.ult b

def execBcc (c a b o : Nat) (s : State) : Out :=
  issue ctl s fun s => .ok (moveTo (if bccCond c (rdG s.k a) (rdG s.k b) then target 10 o s.k.e.pc else s.k.e.pc + 4#64) s)

/-- bvote: M' is M under the guard's predicate (R233). -/
def bvote (g o : Nat) (f : Word32 → Word32 → Bool) (s : State) : Out :=
  issue ctl s fun s => .ok (moveTo (if f (active s.k g) s.k.e.mask then target 16 o s.k.e.pc else s.k.e.pc + 4#64) s)

def execBvoteAny (g o : Nat) (s : State) : Out := bvote g o (fun x _ => decide (x ≠ 0#32)) s
def execBvoteAll (g o : Nat) (s : State) : Out := bvote g o (fun x m => decide (x = m)) s
def execBvoteNone (g o : Nat) (s : State) : Out := bvote g o (fun x _ => decide (x = 0#32)) s

/-- E splits into the taken lanes at the target and the others at pc + 4 (R233). -/
def execBr (g o : Nat) (s : State) : Out :=
  issue divCtl s fun s =>
    let t := active s.k g
    .ok (settle true [{ s.k.e with pc := target 16 o s.k.e.pc, mask := t }, { s.k.e with pc := s.k.e.pc + 4#64, mask := s.k.e.mask &&& ~~~ t }] s)

def execCall (o : Nat) (s : State) : Out :=
  issue ctl s fun s => .ok (moveTo (target 16 o s.k.e.pc) { s with k := wrG 63 (s.k.e.pc + 4#64) s.k })

/-- A register target must be a multiple of 4 (07 R190). -/
def aligned (t : Word64) : Bool := decide (t.toNat % 4 = 0)

def execRet (a : Nat) (s : State) : Out :=
  issue ctl s fun s =>
    let t := rdG s.k a
    if aligned t then .ok (moveTo t s) else .error (trapAt 8 2 0xFF t.toNat)

def execJmpg (d a : Nat) (s : State) : Out :=
  issue ctl s fun s =>
    let t := rdG s.k a
    if aligned t then .ok (moveTo t { s with k := wrG d (s.k.e.pc + 4#64) s.k }) else .error (trapAt 8 2 0xFF t.toNat)

/-! ### Crew barriers as far as an ending skein touches them (06 R161, R162) -/

/-- The counted skeins: of roles other than the basket role, not ended. -/
def countedSkeins (s : State) : List Skein := (s.k :: s.peers).filter fun k => decide (k.uid ≠ 0) && !k.basket && decide (liveMask k ≠ 0#32)

/-- Releases a crew barrier once every counted skein has arrived; lanes parked in an incomplete entry stand on. -/
def releaseBar (s : State) (b : CrewBar) : CrewBar :=
  let ks := s.k :: s.peers
  let kept := b.standers.filter fun i => ks.any fun k => decide (k.sid = i) && decide (liveMask k ≠ 0#32)
  if b.arrived ≠ [] ∧ (countedSkeins s).all (fun k => b.arrived.contains k.sid) then
    let still := kept.filter fun i => ks.any fun k => decide (k.sid = i) && (match k.wait with | some w => !(decide (w.kind = 1) && decide (w.stage = 0)) | none => true)
    { b with arrived := [], gen := b.gen + 1, standers := still, stand := if still.isEmpty then none else b.stand, relTime := s.gtime }
  else { b with standers := kept, stand := if kept.isEmpty then none else b.stand }

def checkBars (s : State) : State :=
  let bars := (List.range 4).foldl (fun m i => mset {} m i (releaseBar s (mget {} m i))) s.crew.bars
  { s with crew := { s.crew with bars := bars } }

/-- The instance of level `l` that task `t` belongs to (06 R159). -/
def instanceOf (r : LaunchRec) (l t : Nat) : Nat := t / ((List.range (l - 2)).foldl (fun m i => m * (levelRec r (3 + i)).size) 1)

/-- The address of the crew's level object. -/
def levelObj (c : Crew) (l : Nat) : Word64 := (levelRec c.lrec l).barrier + w64 (16 * instanceOf c.lrec l c.t)

/-- A level barrier of a deterministic launch that is a merge point (05 R144): scope device or fabric. -/
def isMergeLevel (c : Crew) (l : Nat) : Bool := nbit c.lrec.flags 0 && decide (3 ≤ (levelRec c.lrec l).scope)

def setLevelArr (x : LevelArr) (c : Crew) : Crew := { c with levelArrs := (c.levelArrs.filter fun y => decide (y.level ≠ x.level)) ++ [x] }
def getLevelArr (c : Crew) (l : Nat) : LevelArr := (c.levelArrs.find? fun y => decide (y.level = l)).getD { level := l }

/-- The flip count of an object in memory, as an acquire read finds it now. -/
def flipsOf (s : State) (ctx : Nat) (a : Word64) : Nat :=
  match objKey s ctx a with
  | some key => nb (memNat s (key + 8) 4) 31 1
  | none => 0

/-- The flip count after every arrival that has reached the home. -/
def flipsLast (s : State) (ctx : Nat) (a : Word64) : Nat :=
  match objKey s ctx a with
  | some key => nb (ofBytes ((List.range 4).map fun i => finalByte s (key + 8 + i))) 31 1
  | none => 0

/-- The crew makes its level arrival once every counted skein has fenced (R161 step 2). At a merge point the launch manager
gathers the tasks' arrivals first (05 R149). -/
def levelCheck (l : Nat) (s : State) : State :=
  let a := getLevelArr s.crew l
  if a.fenced ≠ [] ∧ (countedSkeins s).all (fun k => a.fenced.contains k.sid) then
    let obj := levelObj s.crew l
    let fl := flipsLast s s.crew.ctx obj
    let a' : LevelArr := { level := l, fenced := [], made := a.made + 1, clock := some s.clocks, exp := ctxBstall s s.crew.ctx, flips := fl, addr := a.addr }
    let s1 := { s with crew := setLevelArr a' s.crew }
    if isMergeLevel s.crew l then
      let f := fun x : Launch => if x.uid = s.crew.launch then { x with mergeArr := x.mergeArr ++ [(l, s.crew.t)] } else x
      { s1 with sch := { s1.sch with launches := s1.sch.launches.map f } }
    else arriveVa s.crew.ctx obj 16 0 none false s1
  else s

def checkLevels (s : State) : State := [3, 4, 5, 6, 7].foldl (fun s l => levelCheck l s) s

/-! ### Ends of lanes (06 R182 to R184, 08 R234) -/

/-- The spawn records of a basket skein's ended lanes are freed (06 R182). -/
def freeLaneRecs (ended : Word32) (s : State) : State :=
  let gone := (s.k.laneRecs.filter fun p => laneOn ended p.1).map (·.2)
  { s with k := { s.k with laneRecs := s.k.laneRecs.filter fun p => !laneOn ended p.1 }
           crew := { s.crew with recs := s.crew.recs.filter fun r => !gone.contains r.idx } }

/-- What the end of a skein's last lane does to the barriers of its crew. -/
def skeinOver (s : State) : State := if liveMask s.k = 0#32 then checkLevels (checkBars s) else s

/-- The lanes `x` of E end; the others stand at `pc`. -/
def endLanes (x : Word32) (pc : Word64) (s : State) : State :=
  skeinOver (settle true [{ s.k.e with pc := pc, mask := s.k.e.mask &&& ~~~ x }] (freeLaneRecs x s))

def execExit (g : Nat) (s : State) : Out :=
  issue divCtl s fun s => .ok (endLanes (active s.k g) (s.k.e.pc + 4#64) s)

/-- Takes the skein in focus out of its crew; the next skein of the crew comes into focus. -/
def removeSkein (s : State) : State :=
  { s with k := s.peers.headD {}, peers := s.peers.drop 1, crew := { s.crew with ran := s.crew.ran + (s.clocks - s.k.since) } }

/-- tail: the skein's registers and slot are free at once; a tracker entry keeps what is outstanding (06 R184). -/
def execTail (g : Nat) (s : State) : Out :=
  issue divCtl s fun s =>
    let s1 := endLanes (active s.k g) (s.k.e.pc + 4#64) s
    if liveMask s1.k ≠ 0#32 then .ok s1
    else if 32 ≤ (s.sch.tracker.filter fun t => decide (t.core = s.crew.core)).length then .error (.wait s 8 0)
    else
      let t : Tracker := { n := s1.ids + 1, uid := s1.k.uid, cuid := s1.crew.uid, core := s1.crew.core }
      .ok (removeSkein { s1 with ids := s1.ids + 1, sch := { s1.sch with tracker := s1.sch.tracker ++ [t] } })

def execYield (s : State) : Out :=
  issue ctl s fun s =>
    let s1 := retire 1 s
    .ok { s1 with k := { s1.k with yielded := some s1.k.e.pc, lastIssue := s.clocks } }

/-! ### Melded regions (06 R175, R176, 08 R237, R238) -/

def meldTrap (c : Nat) : Stop := .trap { code := 3, cause := c }
def identityTable : List Nat := (List.range 16).map (112 + ·)

/-- The limit of 1,024 words past meld (R175). -/
def meldLong (k : Skein) : Bool := decide (k.meld.st ≠ .closed) && decide (1024 ≤ k.meld.words + 1)

def execMeld (p : Nat) (s : State) : Out :=
  conclude false s (
    if meldLong s.k then .error (meldTrap 4)
    else if s.k.meld.st ≠ .closed then .error (meldTrap 3)
    else
      let m : Meld := { st := .mapping, path := s.k.e.mask &&& rdP s.k p, addr := s.k.e.pc, words := 0, ta := identityTable, tb := identityTable }
      .ok (settle false [{ s.k.e with pc := s.k.e.pc + 4#64 }] { s with k := { s.k with meld := m } }))

def execMend (s : State) : Out :=
  conclude false s (
    if meldLong s.k then .error (meldTrap 4)
    else if s.k.meld.st = .closed then .error (meldTrap 3)
    else .ok (settle false [{ s.k.e with pc := s.k.e.pc + 4#64 }] { s with k := { s.k with meld := {} } }))

def execMmap (p i v : Nat) (s : State) : Out :=
  conclude false s (
    if meldLong s.k then .error (meldTrap 4)
    else if s.k.meld.st ≠ .mapping then .error (meldTrap 2)
    else if s.k.regs ≤ v then .error (meldTrap 6)
    else
      let m := s.k.meld
      let m' := if p = 1 then { m with tb := m.tb.set i v, words := m.words + 1 } else { m with ta := m.ta.set i v, words := m.words + 1 }
      .ok (settle false [{ s.k.e with pc := s.k.e.pc + 4#64 }] { s with k := { s.k with meld := m' } }))

/-! ### Wide brackets (06 R178, 08 R239) -/

/-- The other entries are suspended at the issue of wopen itself, so that it raises no counter of theirs (log entry 87). -/
def execWopen (s : State) : Out :=
  issue ctl s fun s =>
    if s.k.bracket.isSome then .error (.trap { code := 4, cause := 3 })
    else
      let all := liveMask s.k
      let k1 := { s.k with bracket := some (s.k.e.pc, s.k.e.mask), rest := s.k.rest.map fun e => { e with suspended := true } }
      .ok (settle false [{ s.k.e with pc := s.k.e.pc + 4#64, mask := all }] { s with k := k1 })

/-- The other entries are no longer suspended at the issue of wclose itself, which raises their counters (log entry 87). -/
def execWclose (s : State) : Out :=
  issue ctl s fun s =>
    match s.k.bracket with
    | none => .error (.trap { code := 4, cause := 4 })
    | some (_, m) =>
      let k1 := { s.k with bracket := none, rest := s.k.rest.map fun e => { e with suspended := false } }
      .ok (settle false [{ s.k.e with pc := s.k.e.pc + 4#64, mask := m &&& s.k.e.mask }] { s with k := k1 })

/-! ### Spawn records and baskets (06 R179 to R182) -/

def spawnUnits (c : Crew) : Nat := nb c.lrec.alloc 20 16
def areaSize (c : Crew) : Nat := 32 * spawnUnits c
def hasBaskets (c : Crew) : Bool := nbit c.lrec.flags 10
def basketRole (c : Crew) : RoleRec := c.lrec.roles.getD (nb c.lrec.flags 9 8) {}

/-- The unstarted records of a key, oldest first. -/
def basketRecs (c : Crew) (key : Word64) : List SpawnRec := c.recs.filter fun r => !r.started && decide (r.entry = key)

/-- The basket that takes a key: the one that holds it, or the lowest-numbered empty one. -/
def basketFor (c : Crew) (key : Word64) : Option Nat :=
  match (List.range 16).find? (fun i => let b : Basket := mget {} c.baskets i; decide (b.st ≠ .empty) && decide (b.key = key)) with
  | some i => some i
  | none => (List.range 16).find? fun i => let b : Basket := mget {} c.baskets i; decide (b.st = .empty)

/-- The lowest free record index of the area. -/
def freeRec (c : Crew) : Nat := ((List.range (areaSize c)).find? fun i => c.recs.all fun r => decide (r.idx ≠ i)).getD 0

/-- Adds one record; its basket starts filling, or is Ready with 32. -/
def addRec (btimer clocks : Nat) (r : SpawnRec) (c : Crew) : Crew :=
  let c1 := { c with recs := c.recs ++ [{ r with idx := freeRec c, order := c.recCount }], recCount := c.recCount + 1 }
  match basketFor c r.entry with
  | none => c1
  | some i =>
    let b : Basket := mget {} c.baskets i
    let b1 : Basket := if b.st = .empty then { st := .filling, key := r.entry, timer := clocks + btimer } else b
    let b2 : Basket := if 32 ≤ (basketRecs c1 r.entry).length then { b1 with st := .ready } else b1
    { c1 with baskets := mset {} c.baskets i b2 }

/-- More than three quarters of the area are in use: every Filling basket is forced (R181). -/
def forceFull (c : Crew) : Crew :=
  if 3 * areaSize c < 4 * c.recs.length then
    let f := fun (m : SMap Basket) (i : Nat) =>
      let b : Basket := mget {} m i
      mset {} m i (if b.st = .filling then { b with st := .ready } else b)
    { c with baskets := (List.range 16).foldl f c.baskets }
  else c

/-- No basket is free: the non-empty basket whose first record is oldest is forced (R181). -/
def forceOldest (c : Crew) : Crew :=
  match c.recs.find? (fun r => !r.started) with
  | none => c
  | some r =>
    match basketFor c r.entry with
    | none => c
    | some i =>
      let b : Basket := mget {} c.baskets i
      { c with baskets := mset {} c.baskets i (if b.st = .filling then { b with st := .ready } else b) }

/-- R180's traps, in order. -/
def spawnTrap (n : Nat) (s : State) : Option TrapInfo :=
  if !hasBaskets s.crew || decide ((basketRole s.crew).regs < n) then ill 5 else if s.k.regs < n then ill 4 else none

/-- The record of a lane: kind, entry, carried registers. -/
def laneRec (kind n : Nat) (entry : Word64) (extra : List Byte) (k : Skein) (L : Nat) : SpawnRec :=
  { idx := 0, order := 0, carry := (List.range n).map (fun i => getV k.v i L), entry := entry, ncarry := n, kind := kind,
    skein := k.sid, lane := L, extra := extra }

/-- Writes the records of several lanes in one step, or none: room for all of them and a basket for the key (R180). -/
def writeRecs (recs : List SpawnRec) (s : State) : Option State :=
  match recs with
  | [] => some s
  | r :: _ =>
    if s.crew.recs.length + recs.length ≤ areaSize s.crew ∧ (basketFor s.crew r.entry).isSome then
      some { s with crew := forceFull (recs.foldl (fun c r => addRec (ctxBtimer s s.crew.ctx) s.clocks r c) s.crew) }
    else none

/-- Ends the lanes `x` of E by writing records for them; the others stand at `pc` (R180). -/
def spawnLanes (kind n : Nat) (entry : Word64) (x : Word32) (pc : Word64) (s : State) : Res State :=
  match writeRecs ((lanesOf x).map (laneRec kind n entry [] s.k)) s with
  | some s1 => .ok (endLanes x pc s1)
  | none =>
    .error (.wait (if (basketFor s.crew entry).isNone then { s with crew := forceOldest s.crew } else s) 3 0)

def spawnReq : Req := { noMeld := true, noBracket := true, bracketFirst := true }

/-- With empty ACTIVE it reads no register, and does not wait for one that a march holds. -/
def execSpawn (g n o : Nat) (s : State) : Out :=
  issue { spawnReq with reads := if active s.k g = 0#32 then [] else [(0, n + 1)] } s fun s =>
    match spawnTrap (n + 1) s with
    | some t => .error (.trap t)
    | none => spawnLanes 0 (n + 1) (target 16 o s.k.e.pc) (active s.k g) (s.k.e.pc + 4#64) s

def laneCount (m : Word32) : Nat := (lanesOf m).length

/-- It reads registers only where it ends lanes. -/
def execBrx (g n o : Nat) (s : State) : Out :=
  issue { spawnReq with reads := if active s.k g = 0#32 ∨ s.k.e.mask &&& ~~~ active s.k g = 0#32 then [] else [(0, n + 1)] } s fun s =>
    match spawnTrap (n + 1) s with
    | some t => .error (.trap t)
    | none =>
      let t := active s.k g
      let f := s.k.e.mask &&& ~~~ t
      let tgt := target 16 o s.k.e.pc
      if t = 0#32 then .ok (moveTo (s.k.e.pc + 4#64) s)
      else if f = 0#32 then .ok (moveTo tgt s)
      else if laneCount t ≤ laneCount f then spawnLanes 1 (n + 1) tgt t (s.k.e.pc + 4#64) s
      else spawnLanes 1 (n + 1) (s.k.e.pc + 4#64) f tgt s

end Sys2Proof.Machine
end

