-- ==== Sys2Proof/Machine/Xlt.lean ====
section
/-! DEFINITION. Invalidation, frames, migration, parked stores and the homes' own events
(01 R26 to R45, 02 R73, 04 R105, R108, R118). -/
namespace Sys2Proof.Machine

/-- An event that cannot happen now changes nothing (log entry 15). -/
def idle (s : State) : Out := .next s

/-! ### XLTINV (01 R28, R29) -/

/-- Page bytes of XLTINV.SIZE. -/
def invBytes (v : Nat) : Nat := pageBytes (nb v 5 4)

/-- An entry of context `ctx` for addresses from `base` on matches the command. -/
def invHits (v ctx base n : Nat) : Bool :=
  let page := nb v 63 16 * 65536 / invBytes v * invBytes v
  match nb v 7 6 with
  | 0 => decide (ctx = nb v 15 8) && decide (base < page + invBytes v) && decide (page < base + n)
  | 1 => decide (ctx = nb v 15 8)
  | _ => true

/-- A write of XLTINV under its access codes: GO starts a command unless one runs, and a bad command sets ERR. -/
def writeXltinv (x : Word64) (s : State) : State :=
  let v := x.toNat
  let old := (preg s 1).toNat
  let err := nbit old 1 && !nbit v 1
  let fields := nb v 63 4 * 16
  if nbit v 0 && !nbit old 0 then
    if nb v 7 6 = 3 ∨ nb v 5 4 = 3 ∨ !canonical (nb v 63 16 * 65536) then setPreg 1 (w64 (fields + 2)) s
    else modXl (fun t => { t with inv := some x }) (setPreg 1 (w64 (fields + 2 * b2 err + 1)) s)
  else setPreg 1 (w64 (fields + 2 * b2 err + b2 (nbit old 0))) s

/-- A store was translated under an entry that the command names. -/
def invUnder (v : Nat) (s : State) (st : Store) : Bool :=
  invHits v st.ctx (st.va / 64 * 64) 64 ||
    s.hm.tlb.any fun e => invHits v e.ctx e.base e.size && decide (e.ctx = st.ctx) && decide (e.cluster = clusterOf st.core) && keyIn e.leaf (64 * st.line)

/-- The home of a store on its way cannot take it yet: the host, which answers a message, or a home that has the page in hold. -/
def storeWaits (s : State) (st : Store) : Bool := decide (st.remote = some 255) || heldPage s (64 * st.line)

/-- The command ends: the stores translated under the entries it names, also under such that were evicted before, are at their homes;
entries, L1 sectors, bricks and code lines are gone. XLTDONE is 0 when no store was translated under them (log entry 86). -/
def finishInv (v : Nat) (s : State) : State :=
  let under := invUnder v s
  let s1 := (s.hm.inflight.filter under).foldl (fun s st => deliver st.sn s) s
  let gone := s1.hm.tlb.filter fun e => invHits v e.ctx e.base e.size
  let last := (s1.hm.timed.filter under).foldl (fun m st => max m st.c) (gone.foldl (fun m e => max m e.done) 0)
  let s2 := modHm (fun h => { h with
    tlb := h.tlb.filter (fun e => !invHits v e.ctx e.base e.size), l1 := h.l1.filter (fun x => !invHits v x.ctx (16 * x.va16) 16),
    code := h.code.filter (fun x => !invHits v x.ctx (64 * x.line) 64), bricks := h.bricks.filter (fun x => !invHits v x.ctx x.va 1024) }) s1
  let s3 := setPreg 1 (w64 ((preg s2 1).toNat / 2 * 2)) (setPreg 2 (w64 last) s2)
  modXl (fun t => { t with inv := none }) s3

def xltinvEvent (kind : Nat) (x : Word64) (s : State) : Out :=
  if nb x.toNat 7 6 = kind ∧ nbit x.toNat 0 then .next (writeXltinv x s) else idle s

def execXltinvPage (x : Word64) (s : State) : Out := xltinvEvent 0 x s
def execXltinvContext (x : Word64) (s : State) : Out := xltinvEvent 1 x s
def execXltinvAll (x : Word64) (s : State) : Out := xltinvEvent 2 x s
def execXltinvComplete (s : State) : Out :=
  match s.xl.inv with
  | none => idle s
  | some v => if s.hm.inflight.any (fun st => storeWaits s st && invUnder v.toNat s st) then idle s else .next (finishInv v.toNat s)

/-! ### Frames (01 R44) -/

def setReq (r : PageReq) (s : State) : State := modXl (fun x => { x with reqs := x.reqs.map fun q => if q.id = r.id then r else q }) s

/-- Gives `frame` to a waiting request: it fills its page with zero, or names the frame to the home. -/
def grantFrame (r : PageReq) (frame : Nat) (s : State) : State :=
  if r.home = ownDev s then
    match leafAt s r.ctx r.page with
    | some l => if l.resid = 2 ∧ l.size = r.size then dropReq r.id (createPage r.ctx r.page l frame s) else dropReq r.id (pushFrame r.size frame s)
    | none => dropReq r.id (pushFrame r.size frame s)
  else sendMsg 9 r.home r.ctx (w64 r.page) (toBytes 8 frame) (setReq { r with needFrame := false, frame := some frame } s)

/-- The oldest request that waits for a frame of this size takes one. -/
def serveFrames (size : Nat) (s : State) : State :=
  match s.xl.reqs.find? (fun r => r.needFrame && decide (r.size = size)) with
  | none => s
  | some r => match popFrame size s with
    | none => s
    | some (f, s1) => grantFrame r f s1

/-! ### Migration at the part that asks (01 R38 to R41) -/

/-- The frame for a page that will arrive: ADDR of the ABSENT leaf, or the stack's top; else the request waits. -/
def takeFrame (r : PageReq) (s : State) : State :=
  match leafAt s r.ctx r.page with
  | none => dropReq r.id s
  | some l =>
    if l.addr ≠ 0 ∧ l.resid = 2 then grantFrame r l.addr s
    else match popFrame r.size s with
      | some (f, s1) => grantFrame r f s1
      | none => setReq { r with needFrame := true } (setPreg (frmIdx r.size) (preg s (frmIdx r.size) ||| w64 (2 ^ 61)) s)

/-- Makes the page REMOTE at a home: its parked stores are performed there (01 R34, R45). -/
def pointRemote (ctx va home addr : Nat) (s : State) : State :=
  match leafAt s ctx va with
  | none => s
  | some l => if l.resid = 0 then s else performPage ctx va (putLeaf ctx va { l with resid := 1, home := home, addr := addr } s)

/-- The pages of the operations that wait for this page fail for them. -/
def failWaits (ctx page cause : Nat) (s : State) : State :=
  let mine := fun w : PageWait => decide (w.ctx = ctx) && decide (w.page ≤ page) && decide (page < w.page + w.size)
  modXl (fun x => { x with
    waits := x.waits.filter (fun w => !mine w),
    failing := x.failing ++ (x.waits.filter mine).map fun w => { op := w.op, page := w.page, size := w.size, cause := cause } }) s

/-- A parked store, or an operation, needs the page of a request. -/
def pageWanted (ctx page : Nat) (s : State) : Bool :=
  s.hm.parked.any (fun p => decide (p.ctx = ctx) && decide (p.page = page)) || s.xl.waits.any fun w => decide (w.ctx = ctx) && decide (w.page = page)

/-- The code of a request for the pgreq that waits for it. -/
def answerAsker (r : PageReq) (code : Nat) (s : State) : State :=
  if r.asker = 0 then s else modXl (fun x => { x with answers := x.answers ++ [(r.asker, r.ctx, r.page, code)] }) s

/-- A request that ended without a page: parked stores fail, operations' pages fail, a pgreq gets the code; a BUSY home is asked again
while a store or an operation needs the page (R36, R38, 05 R138). -/
def endRequest (r : PageReq) (code : Nat) (s : State) : State :=
  let s1 := answerAsker r code s
  let cause := refusalCause r.ctx r.page s1
  match code with
  | 5 | 7 => dropReq r.id (failWaits r.ctx r.page cause (failParked cause (fun p => decide (p.ctx = r.ctx) && decide (p.page = r.page)) s1))
  | 4 => dropReq r.id (failWaits r.ctx r.page 5 s1)
  | 6 => if pageWanted r.ctx r.page s1 then sendMsg 9 r.home r.ctx (w64 r.page) [] (setReq { r with asker := 0 } s1) else dropReq r.id s1
  | _ => dropReq r.id (modXl (fun x => { x with waits := x.waits.filter fun w => !(decide (w.ctx = r.ctx) && decide (w.page = r.page)) }) s1)

/-- A page that lies elsewhere has a new home: the bytes known of it and the stores on their way go there (R40). -/
def changeHome (ctx va home addr : Nat) (s : State) : State :=
  match leafAt s ctx va with
  | none => s
  | some l =>
    let n := pageBytes l.size
    let base := addr % 2 ^ 48 / n * n
    if l.resid = 1 then putLeaf ctx va { l with home := home % 256, addr := base } (movePage (devKey l.home l.addr) (devKey (home % 256) base) n s)
    else if l.resid = 2 then putLeaf ctx va { l with home := home % 256 } s
    else s

/-- The home's answer to a request; code 8 is NOT-HOME, and the request goes to the home it names (R40). -/
def answerReq (ctx va code home addr : Nat) (s : State) : State :=
  match s.xl.reqs.find? (fun r => decide (r.ctx = ctx) && decide (r.page = va)) with
  | none => s
  | some r =>
    if code = 1 then (let r1 := { r with asker := 0 }; takeFrame r1 (setReq r1 (answerAsker r 1 s)))
    else if code = 3 then endRequest r 3 (pointRemote ctx va home addr s)
    else if code = 8 then
      let s1 := changeHome ctx va home addr (setReq { r with home := home % 256 } s)
      if inSet s1 (home % 256) then sendMsg 9 (home % 256) ctx (w64 va) [] s1 else endRequest { r with home := home % 256 } 5 s1
    else endRequest r code s

/-- The page arrives in the frame the request took: stores on their way to its old home come here, its lines have the floor of R41, and
its parked stores are performed. Those of a page that has become unmapped fail with cause 3 (R36). -/
def arrivePage (ctx va wexp migc pin wstamp lease : Nat) (data : List (Nat × Byte)) (s : State) : State :=
  match s.xl.reqs.find? (fun r => decide (r.ctx = ctx) && decide (r.page = va)) with
  | none => s
  | some r =>
    match r.frame, leafAt s ctx va with
    | some f, some l =>
      let n := pageBytes l.size
      let cells := if physOk f n then (data.filter fun c => decide (c.1 < n)).map fun c => (f + c.1, c.2) else []
      let s0 := if l.resid = 1 then movePage (devKey l.home l.addr) f n s else s
      let s1 := modHm (fun h => { h with mem := setCells h.mem cells, pageL := h.pageL ++ [(f, n, lease + 25)] }) (zeroFrame f n s0)
      let l1 := { l with resid := 0, addr := f, home := ownDev s, wexp := wexp % 8, migc := migc % 16, pin := decide (pin % 2 = 1), wstamp := wstamp % 2 ^ 32 }
      endRequest r 0 (performPage ctx va (putLeaf ctx va l1 s1))
    | some _, none => dropReq r.id (failWaits ctx r.page 3 (failParked 3 (fun p => decide (p.ctx = ctx) && decide (p.page = r.page)) s))
    | none, _ => s

/-! ### Migration at the home (01 R39 to R42, R45) -/

/-- The other members of the fabric set. -/
def members (s : State) : List Nat := (List.range 255).filter fun d => decide (d ≠ ownDev s) && peerValid s d && !s.fab.departed.contains d

def windowOpen (s : State) (l : Leaf) (mwexp : Nat) : Bool :=
  decide ((s.gtime + 2 ^ 48 - (l.wstamp * 2 ^ 16) % 2 ^ 48) % 2 ^ 48 < 2 ^ mwexp * 2 ^ l.wexp)

/-- What this home answers to a request from another device. -/
inductive HomeAns where
  /-- a code of R38; PINNED (3) and NOT-HOME (8) name the home in the leaf -/
  | code (c : Nat)
  | names (c : Nat) (l : Leaf)
  | move (l : Leaf)
  /-- the page is to be created here first (R30) -/
  | create (l : Leaf)
  /-- the page is on its way elsewhere: the answer comes after the commit -/
  | later
  deriving DecidableEq, Repr

/-- The answer to a request for a page. A move that has begun counts among the 4,096 forwarding entries before its commit (log entry 112). -/
def homeAnswer (ctx va : Nat) (s : State) : HomeAns :=
  match ctxEntry s ctx, leafAt s ctx va with
  | .ok (some ce), some l =>
    let page := va / pageBytes l.size * pageBytes l.size
    if !l.rd then .code 7
    else if l.resid = 1 ∨ (l.resid = 2 ∧ l.home ≠ ownDev s) then .names 8 l
    else if l.size = 2 ∨ l.nomig ∨ ce.nomig then .code 4
    else if l.resid = 2 then .create l
    else if l.pin && windowOpen s l ce.mwexp then .names 3 { l with home := ownDev s }
    else if s.xl.migs.any (fun m => decide (m.ctx = ctx) && decide (m.page = page) && !m.committed) then .later
    else if 4096 ≤ frmCount s l.size ∨ 4096 ≤ s.xl.migs.length then .code 6
    else .move l
  | _, _ => .code 7

def askedLater (src ctx va : Nat) (s : State) : State := modXl (fun x => { x with asked := x.asked ++ [(src, ctx, va)] }) s

/-- The move of a page to a device begins. -/
def beginMove (src ctx va : Nat) (l : Leaf) (s : State) : State :=
  let n := pageBytes l.size
  let m : Migration := { id := s.ids + 1, ctx := ctx, page := va / n * n, size := l.size, old := l.addr, pa := l.pa, dst := src, lease := 0, committed := false, acks := [] }
  sendMsg 9 src ctx (w64 va) (toBytes 1 1) (modXl (fun x => { x with migs := x.migs ++ [m] }) { s with ids := s.ids + 1 })

/-- A request reaches this home: the move begins, or the answer says why not. -/
def homeRequest (src ctx va : Nat) (s : State) : State :=
  match homeAnswer ctx va s with
  | .code c => sendMsg 9 src ctx (w64 va) (toBytes 1 c) s
  | .names c l => sendMsg 9 src ctx (w64 va) (toBytes 1 c ++ toBytes 1 l.home ++ toBytes 8 l.addr) s
  | .move l => beginMove src ctx va l s
  | .later => askedLater src ctx va s
  | .create l =>
    let page := va / pageBytes l.size * pageBytes l.size
    let go := fun (f : Nat) (s : State) => beginMove src ctx va { l with addr := f } (createPage ctx page l f s)
    if l.addr ≠ 0 then go l.addr s
    else match popFrame l.size s with
      | some (f, s1) => go f s1
      | none => askedLater src ctx va (setPreg (frmIdx l.size) (preg s (frmIdx l.size) ||| w64 (2 ^ 61)) s)

/-- The requests that waited are looked at again. -/
def retryAsked (s : State) : State := s.xl.asked.foldl (fun s q => homeRequest q.1 q.2.1 q.2.2 s) (modXl (fun x => { x with asked := [] }) s)

/-- The window fields at a commit (R45). -/
def windowFields (s : State) (l : Leaf) (mwexp : Nat) : Leaf :=
  if l.pin || !windowOpen s l mwexp then
    { l with wexp := if l.pin then min (l.wexp + 1) 7 else l.wexp - 1, pin := false, migc := 1, wstamp := s.gtime / 2 ^ 16 % 2 ^ 32 }
  else { l with migc := l.migc + 1, pin := decide (l.migc + 1 = 4) }

/-- The latest lease end granted on a line of a frame. -/
def leaseEnd (s : State) (frame n : Nat) : Nat :=
  s.hm.lineL.foldl (fun m e => if frame / 64 ≤ e.1 ∧ e.1 < (frame + n) / 64 then max m e.2 else m) 0

def setMig (m : Migration) (s : State) : State := modXl (fun x => { x with migs := x.migs.map fun q => if q.id = m.id then m else q }) s

/-- The commit, one step at the home (R40): every line stands at the new home, whose stores keep to the floor of R41. -/
def commitMove (m : Migration) (frame : Nat) (l : Leaf) (mwexp : Nat) (s : State) : State :=
  let n := pageBytes l.size
  let w := windowFields s l mwexp
  let lease := leaseEnd s l.addr n
  let dst := devKey m.dst frame
  let s1 := modHm (fun h => { h with pageL := h.pageL ++ [(dst, n, lease + 25)] }) (movePage l.addr dst n s)
  let s2 := putLeaf m.ctx m.page { w with resid := 1, home := m.dst, addr := frame } s1
  let window := toBytes 1 w.wexp ++ toBytes 1 w.migc ++ toBytes 1 (b2 w.pin) ++ toBytes 4 w.wstamp ++ toBytes 8 lease
  let s3 := sendMsg 9 m.dst m.ctx (w64 m.page) window s2
  let s4 := (members s3).foldl (fun s d => sendMsg 9 d m.ctx (w64 m.page) (toBytes 1 m.dst ++ toBytes 8 frame) s) s3
  retryAsked (setMig { m with committed := true, held := false, lease := lease } s4)

/-- WVER of the page of a move. -/
def verNow (s : State) (m : Migration) : Nat := memNat s (m.pa + 14) 2

/-- One stage of move (R39): an attempt begins to copy; the copy is made and the page goes into hold; the page in hold is committed if
no store came while it was copied, or in the blocking move, else the hold is released. -/
def moveStage (m : Migration) (f : Nat) (l : Leaf) (mwexp : Nat) (s : State) : State :=
  if m.held then
    if 5 ≤ m.attempt ∨ m.ver = some (verNow s m) then commitMove m f l mwexp s else setMig { m with held := false, ver := none } s
  else if m.ver.isSome then setMig { m with held := true } s
  else setMig { m with attempt := m.attempt + 1, ver := some (verNow s m), held := decide (4 ≤ m.attempt) } s

def execMigrationCommit (id : Nat) (s : State) : Out :=
  match s.xl.migs.find? (fun m => decide (m.id = id) && !m.committed) with
  | none => idle s
  | some m =>
    match m.frame, leafAt s m.ctx m.page, ctxEntry s m.ctx with
    | some f, some l, .ok (some ce) =>
      let busy := m.held && s.hm.timed.any fun st => decide (l.addr ≤ 64 * st.line) && decide (64 * st.line < l.addr + pageBytes l.size)
      if l.resid ≠ 0 ∨ l.addr ≠ m.old ∨ busy then idle s else .next (moveStage m f l ce.mwexp s)
    | _, _, _ => idle s

/-- The old frame returns to the stack (R42). -/
def execFrameFree (id : Nat) (s : State) : Out :=
  match s.xl.migs.find? (fun m => decide (m.id = id) && m.committed) with
  | none => idle s
  | some m =>
    if (members s).all (fun d => m.acks.contains d) ∧ m.lease + 25 < s.gtime ∧ frmCount s m.size < 4096 then
      if frmOk s m.size then
        .next (retryAsked (serveFrames m.size (pushFrame m.size m.old (modXl (fun x => { x with migs := x.migs.filter fun q => decide (q.id ≠ id) }) s))))
      else .fault .noSuchMemory
    else idle s

/-- A write of FRMGIVE64 or FRMGIVE2M. -/
def giveFrame (size : Nat) (x : Word64) (s : State) : State :=
  let f := nb x.toNat 47 0
  if f % pageBytes size ≠ 0 ∨ 4096 ≤ frmCount s size then s else retryAsked (serveFrames size (pushFrame size f s))

def execFrmgive64 (x : Word64) (s : State) : Out := if frmOk s 0 then .next (giveFrame 0 x s) else .fault .noSuchMemory
def execFrmgive2m (x : Word64) (s : State) : Out := if frmOk s 1 then .next (giveFrame 1 x s) else .fault .noSuchMemory

/-! ### Parked stores (01 R34 to R37) -/

/-- A deferred store fault of a crew with no skein left kills its context (R36). -/
def orphanFaults (s : State) : State :=
  let gone := fun c : CrewRec => !c.crew.defStores.isEmpty && c.skeins.all (fun k => decide (liveMask k = 0#32)) && c.crew.recs.isEmpty
  match ((allCrews s ++ s.sch.saved.map (·.crewRec)).find? gone).map (·.crew.ctx) <|> s.sch.orphans.head? with
  | some ctx => kill ctx 0xFE s
  | none => s

/-- A page that system software made accessible, or that lost a permission or its mapping while no request for it is in progress: its
parked stores are performed in their order, or fail (R34, R36). -/
def execParkedStorePerform (n : Nat) (s : State) : Out :=
  match s.hm.parked.find? (fun p => decide (p.sn = n)) with
  | none => idle s
  | some p =>
    match leafAt s p.ctx p.page with
    | none => if (reqFor s p.ctx p.page).isSome then idle s else .next (orphanFaults (failParked 3 (fun q => decide (q.ctx = p.ctx) && decide (q.page = p.page)) s))
    | some l => if l.resid = 2 then idle s else .next (orphanFaults (performPage p.ctx p.page s))

/-- RTEXP of a context, 0 when it has no valid entry. -/
def rtexpOf (s : State) (ctx : Nat) : Nat := match ctxEntry s ctx with | .ok (some ce) => ce.rtexp | _ => 0

/-- A request that nothing needs any more, and whose page no home has begun to move, ends (R44). -/
def dropIdleReq (ctx page : Nat) (s : State) : State :=
  if pageWanted ctx page s then s
  else modXl (fun x => { x with reqs := x.reqs.filter fun r => !(decide (r.ctx = ctx) && decide (r.page = page) && r.needFrame && decide (r.asker = 0)) }) s

/-- A store that has waited too long is discarded with all its entries on the page (R36). -/
def execParkedStoreTimeout (n : Nat) (s : State) : Out :=
  match s.hm.parked.find? (fun p => decide (p.sn = n)) with
  | none => idle s
  | some p =>
    if rtexpOf s p.ctx ≠ 0 ∧ p.since + 2 ^ rtexpOf s p.ctx < s.gtime then
      .next (dropIdleReq p.ctx p.page (orphanFaults (failParked 4 (fun q => decide (q.sn = n) || (decide (q.ins = p.ins) && decide (q.page = p.page) && decide (q.ctx = p.ctx))) s)))
    else idle s

/-- The page that an operation waits for times out: it fails for that operation (05 R138). -/
def execPageRequestTimeout (n : Nat) (s : State) : Out :=
  match s.xl.waits.find? (fun w => decide (w.id = n)) with
  | none => idle s
  | some w =>
    if rtexpOf s w.ctx ≠ 0 ∧ w.since + 2 ^ rtexpOf s w.ctx ≤ s.gtime then
      .next (dropIdleReq w.ctx w.page (modXl (fun x => { x with
        waits := x.waits.filter (fun v => decide (v.id ≠ n)), failing := x.failing ++ [{ op := w.op, page := w.page, size := w.size, cause := 4 }] }) s))
    else idle s

/-! ### Events at the homes (04 R105, R107, R108, R118, 02 R73) -/

/-- The bytes of a store cut into runs of rising addresses without a gap. -/
def cellRuns : List (Nat × Byte) → List (Nat × List Byte)
  | [] => []
  | c :: l =>
    match cellRuns l with
    | (a, b) :: r => if a = c.1 + 1 then (c.1, c.2 :: b) :: r else (c.1, [c.2]) :: (a, b) :: r
    | [] => [(c.1, [c.2])]

/-- A store to a host page goes out as WRITE messages, and its completion time comes with the host's answer (04 R105, 17 R432). -/
def sendHostStore (st : Store) (s : State) : State :=
  let first := (st.cells.headD (0, 0#8)).1
  let rs := cellRuns st.cells
  let seq := mget 0 s.fab.seqNext 255
  let s1 := rs.foldl (fun s r => sendMsg 3 255 st.ctx (w64 (st.va + (r.1 - first))) r.2 s) s
  modHm (fun h => { h with inflight := h.inflight.map fun x => if x.sn = st.sn then { x with sent := some ((List.range rs.length).map (seq + ·)) } else x }) s1

def execHomeStore (n : Nat) (s : State) : Out :=
  match s.hm.inflight.find? (fun st => decide (st.sn = n)) with
  | none => idle s
  | some st =>
    if s.hm.inflight.any (fun x => decide (x.uid = st.uid) && decide (x.line = st.line) && decide (x.sn < n)) || heldPage s (64 * st.line) then idle s
    else if st.remote = some 255 then (if st.sent.isNone then .next (sendHostStore st s) else idle s)
    else .next (deliver n s)

/-- An atomic of another agent at a local home: the bytes it writes, from the value after everything performed there. -/
def homeAtomicAt (key : Nat) (op : AtomOp) (s : State) : Nat × State :=
  let n := if op.w64 then 8 else 4
  let old := ofBytes ((List.range n).map fun i => finalByte s (key + i))
  let new := toBytes n (atomicOp op.aop n old (op.data.toNat % 2 ^ (8 * n)) (op.cmp.toNat % 2 ^ (8 * n)))
  let st : Store := { sn := s.seqNo, uid := 0, cuid := 0, core := 0, ctx := 0, remote := keyDev key, line := lineOf key,
                      cells := (List.range n).zip new |>.map fun c => (key + c.1, c.2), op := otherOp }
  (old, homeAccept st { s with seqNo := s.seqNo + 1 })

/-- The operations and widths that exist (07 R210). -/
def atomOpOk (op : AtomOp) : Bool := decide (op.aop ≤ 12) && !(op.w64 && decide (10 ≤ op.aop))

def execHomeAtomic (at_ : Nat) (op : AtomOp) (s : State) : Out :=
  let n := if op.w64 then 8 else 4
  if !atomOpOk op || decide (at_ % n ≠ 0) || !physOk at_ n || heldPage s at_ then idle s else .next (homeAtomicAt at_ op s).2

/-- A home reads the sector that holds a byte for a core's load and grants its lease. A number from 2,048 on stands for an L1 of another
part, whose context and address it is that of the home's own leaf: the home records the lease with a margin of 25 ticks (04 R104, R108). -/
def execHomeRead (core ctx : Nat) (va : Word64) (s : State) : Out :=
  match leafFor s (clusterOf core) ctx va.toNat with
  | .ok (.ok l, s1) =>
    let key16 := keyOf l va.toNat / 16
    if l.resid = 2 ∨ !l.rd ∨ nbit l.cpol 0 then idle s
    else if core < 2048 then
      .next (grant (fusedOn s core) (sliceCore (fusedOn s core) core va.toNat) ctx (va.toNat / 16) key16 (l2Access (nbit l.cpol 1) (key16 / 4) s1))
    else if l.resid ≠ 0 then idle s
    else .next (grantFar ctx key16 (l2Access (nbit l.cpol 1) (key16 / 4) s))
  | _ => idle s

/-- A scrub of one line: single-bit errors are corrected and no value changes; the errors found are counted (02 R73, 05 R141, log
entry 10). -/
def execMemoryScrub (line : Nat) (s : State) : Out :=
  .next (countUncorr (s.hm.memBad.filter fun w => decide (w / 8 = line)).length (correctLine line s))

end Sys2Proof.Machine
end

