-- ==== Sys2Proof/Machine/Queue.lean ====
section
/-! DEFINITION. Queues, their commands, appends of launch records, launch instructions and mailboxes
(08 R251, R252, 15 R396 to R400, R407, R408). -/
namespace Sys2Proof.Machine

/-! ### Queue records (15 R396) -/

def qGet (s : State) (q off n : Nat) : Nat := mgrNat s (queueRec s q + off) n

/-- HEAD and TAIL are the manager's own; no store by software to the record moves them (R398, log entry 88). -/
def ringFull (q : Queue) : Bool := decide (q.size ≤ q.tail - q.head)

/-- The queue's record lies in local memory (02 R72). -/
def queueOk (s : State) (n : Nat) : Bool := physOk (queueRec s n) 256

/-- The context's bit of ENQMASK. -/
def mayEnqueue (q : Queue) (ctx : Nat) : Bool := nbit (q.enqmask.getD (ctx / 8) 0#8).toNat (ctx % 8)

/-! ### QCTL (15 R397) -/

def isPow2 (n : Nat) : Bool := (List.range 17).any fun i => decide (n = 2 ^ i)

/-- KILLED or KILL of a context. -/
def isKilled (s : State) (ctx : Nat) : Bool := nbit (ctxTrap s ctx) 7

def ctxValid (s : State) (ctx : Nat) : Bool := match ctxEntry s ctx with | .ok (some _) => true | _ => false

/-- The fields that OPEN reads, or none when the command is refused. -/
def readQueue (s : State) (n : Nat) : Option Queue :=
  let g := fun off k => qGet s n off k
  let q : Queue := { n := n, opened := true, ring := w64 (g 0 8), size := g 8 4, prio := g 12 1, ctx := g 13 1, flags := g 14 1,
                     enqmask := toBytes 32 (g 16 32), quantum := g 48 8 }
  if g 15 1 ≠ 0 ∨ 4 ≤ q.flags ∨ q.ring.toNat % 256 ≠ 0 ∨ !isPow2 q.size ∨ q.quantum = 0 ∨ 2 ^ 40 < q.quantum ∨ !ctxValid s q.ctx ∨
     isKilled s q.ctx ∨ s.mgt.safe then none else some q

def insQueue (q : Queue) : List Queue → List Queue
  | [] => [q]
  | r :: l => if q.n < r.n then q :: r :: l else if q.n = r.n then q :: l else r :: insQueue q l

def qctlErr (s : State) : State := setPreg 0x11 (preg s 0x11 ||| w64 (2 ^ 19)) s

def qOpen (n : Nat) (s : State) : State :=
  match readQueue s n with
  | none => qctlErr s
  | some q =>
    let old : Queue := (findQueue s n).getD { n := n }
    let q1 : Queue := { old with opened := true, ring := q.ring, size := q.size, prio := q.prio, ctx := q.ctx, flags := q.flags, enqmask := q.enqmask, quantum := q.quantum }
    modSch (fun x => { x with queues := insQueue q1 x.queues }) s

/-- The queue with what the manager writes of it zero, and no record untaken. -/
def zeroQueue (q : Queue) : Queue :=
  { q with deficit := 0, head := 0, tail := 0, charged := 0, refused := 0, errCode := 0, errIdx := 0, parents := [] }

/-- RESET of a closed queue: bytes 56 to 103 become zero, and untaken records count as ended for who appended them. -/
def qReset (n : Nat) (s : State) : State :=
  match findQueue s n with
  | some q =>
    if q.opened then qctlErr s
    else
      let s1 := (untaken q).foldl (fun s p => childEnded p.1 s) s
      let s2 := modSch (fun x => { x with appends := x.appends.filter fun a => decide (a.1 ≠ n) }) (modQueue n zeroQueue s1)
      mgrWrite (queueRec s n + 64) (List.replicate 40 0#8) (mgrWrite (queueRec s n + 56) (List.replicate 8 0#8) s2)
  | none => mgrWrite (queueRec s n + 64) (List.replicate 40 0#8) (mgrWrite (queueRec s n + 56) (List.replicate 8 0#8) s)

/-- A write of QCTL; a command is carried out at once, so BUSY never reads 1. -/
def writeQctl (x : Word64) (s : State) : State :=
  let v := x.toNat
  let err := nbit (preg s 0x11).toNat 19 && !nbit v 19
  let s1 := setPreg 0x11 (w64 (b2 err * 2 ^ 19 + nb v 13 0)) s
  match nb v 17 16 with
  | 1 => qOpen (nb v 13 0) s1
  | 2 => closeQueue (nb v 13 0) s1
  | 3 => qReset (nb v 13 0) s1
  | _ => s1

/-- OPEN and RESET act on the queue's record, which must be in memory (02 R72). -/
def qctlEvent (cmd : Nat) (x : Word64) (s : State) : Out :=
  if nb x.toNat 17 16 ≠ cmd then idle s
  else if cmd ≠ 2 ∧ !queueOk s (nb x.toNat 13 0) then .fault .noSuchMemory
  else .next (writeQctl x s)
def execQctlOpen (x : Word64) (s : State) : Out := qctlEvent 1 x s
def execQctlClose (x : Word64) (s : State) : Out := qctlEvent 2 x s
def execQctlReset (x : Word64) (s : State) : Out := qctlEvent 3 x s

/-! ### Appends (15 R398) -/

/-- The latest completion time given on any line of these keys. -/
def lastTime (s : State) (keys : List Nat) : Nat := keys.foldl (fun t k => max t (mget 0 s.hm.lineC (lineOf k))) 0

/-- Stores of the part by virtual address, whatever the page's permissions, under `op`; bytes without a home are not stored. -/
def storeVa (op ctx va : Nat) (l : List Byte) (s : State) : State :=
  let full := ((List.range l.length).zip l).filterMap fun c => (keyAt s ctx (va + c.1)).map fun k => (va + c.1, k, c.2)
  sendCells op ctx (fun line => ((full.find? fun c => decide (c.2.1 / 64 = line)).map (·.1)).getD va) (full.map (·.2)) s

/-- Stores of these writers still lack a completion time. -/
def underWay (op : Nat) (s : State) : Bool := decide (op ≠ 0) && s.hm.inflight.any fun st => decide (st.op = op)

/-! Where an append stands among those of one clock (R398). -/

def launchKey (s : State) : List Nat := [1, s.crew.queue, s.crew.core + 2048 * s.crew.slot]
def enqKey (m : PvlMsg) : List Nat := [2, m.src, m.seq]
def mboxKey (m : MboxTrig) : List Nat := [3, m.ctx, m.n]

/-- The first list does not come after the second. -/
def keyLe : List Nat → List Nat → Bool
  | a :: l, b :: r => decide (a < b) || (decide (a = b) && keyLe l r)
  | [], _ => true
  | _ :: _, [] => false

/-- No append to the queue in this clock comes after one of this place; else it reaches the manager in the next clock. -/
def mayAppend (n : Nat) (key : List Nat) (s : State) : Bool :=
  match (findQueue s n).bind (·.lastApp) with
  | some a => decide (a.1 ≠ s.clocks) || keyLe a.2 key
  | none => true

/-- Writes a record into the slot at TAIL and advances TAIL; `parent` is the crew whose CHILDREN counts it. -/
def appendRecord (q : Queue) (rec_ : List Byte) (parent : Option Nat) (key : List Nat) (s : State) : State :=
  let i := q.tail
  let va := q.ring.toNat + 256 * (i % q.size)
  let op := s.ids + 1
  let s1 := storeVa op q.ctx va rec_ { s with ids := op }
  let t := lastTime s1 ([0, 64, 128, 192].filterMap fun o => keyAt s1 q.ctx (va + o))
  let s2 := modSch (fun x => { x with appends := x.appends ++ [(q.n, i, t, op)] }) (modQueue q.n (fun x => { x with lastApp := some (s.clocks, key) }) (setTail q.n (i + 1) s1))
  match parent with
  | none => s2
  | some u => modCrewAll u (fun c => { c with children := c.children + 1 }) (modQueue q.n (fun q => { q with parents := q.parents ++ [(u, i)] }) s2)

/-! ### What the manager reads in a context (15 R399, R400, R408, 17 R432) -/

/-- The checks of R15 to R23 and R31 on `n` bytes in a context; `wr` asks for W also. -/
def dataOk (s : State) (ctx va n : Nat) (wr : Bool) : Bool :=
  let priv := s.privCtx.contains ctx
  (rangeCheck va n).isNone && (priv || decide (nb va 63 55 ≠ 511)) && (granules va n).all fun g =>
    match leafAt s ctx g.1 with
    | some l => l.rd && (!wr || l.w) && (!l.priv || priv) && decide (l.resid ≠ 2) && !(wr && decide (l.resid = 1) && decide (l.home = 255))
    | none => false

/-- The parts of a range that lie in host pages. -/
def hostRanges (s : State) (ctx va n : Nat) : List (Nat × Nat × Nat) :=
  (granules va n).flatMap fun g => match leafAt s ctx g.1 with | some l => hostParts [spanOf l g] | none => []

/-- Those that the host has not answered a READ of for the reader. -/
def hostGaps (r : Reader) (s : State) (ctx va n : Nat) : List (Nat × Nat × Nat) :=
  (hostRanges s ctx va n).filter fun x => (hostStatus r s x).isNone

/-- The bytes of a range in a context as a reader of the part's own reads them at their homes; none when one cannot be read. -/
def recordAt (r : Reader) (s : State) (ctx va n : Nat) : Option (List Byte) :=
  if dataOk s ctx va n false && (hostRanges s ctx va n).all (fun x => decide (hostStatus r s x = some 0)) then
    some ((List.range n).map fun i => match keyAt s ctx (va + i) with | some k => memByte s k | none => 0#8)
  else none

/-- The manager as a reader: of the slot at index `i` of queue `n`, or of the record of mailbox `n` of a context. -/
def slotReader (n i : Nat) : Reader := (2 ^ 66 + n, i)
def mboxReader (ctx n : Nat) : Reader := (2 ^ 67 + 1024 * ctx + n, 0)

/-! ### launch, launch.wait and lwait (08 R251, R252) -/

/-- A waiter of the queue whose wait began before this skein's. -/
def waiterAhead (s : State) (n uid : Nat) : Bool :=
  match (s.sch.waiters.filter fun w => decide (w.1 = n) && (decide (w.2 = uid) || isWaiter s w.2)).head? with
  | some w => decide (w.2 ≠ uid)
  | none => false

def addWaiter (n uid : Nat) (s : State) : State :=
  modSch (fun x => if x.waiters.contains (n, uid) then x else { x with waiters := x.waiters ++ [(n, uid)] }) s

/-- launch and launch.wait. A waiter whose queue closed while it waited ends with DENIED, whatever became of the queue since (R397). -/
def launchOp (waits : Bool) (a b c : Nat) (s : State) : Out :=
  issue {} s fun s => do
    let s1 ← release 3 s
    let addr := (rdG s.k c).toNat
    if addr % 64 ≠ 0 then .error (trapAt 8 3 0xFF addr)
    else
      let (r, s2) ← loadLanes false false 1 256 [(0xFF, addr)] s1
      let done := fun (st : Nat) (s : State) => retire 1 { s with k := wrG a (w64 st) s.k }
      let denied := waits && s2.sch.denied.contains s.k.uid
      match (if (rdG s.k b).toNat < 16384 ∧ !denied then openQueue s2 (rdG s.k b).toNat else none) with
      | none => pure (dropWaiter s.k.uid (done 2 s2))
      | some q =>
        if !mayEnqueue q s2.crew.ctx then pure (dropWaiter s.k.uid (done 2 s2))
        else if ringFull q || (waits && waiterAhead s2 q.n s.k.uid) then
          if waits then .error (.wait (addWaiter q.n s.k.uid s2) 7 0) else pure (done 1 s2)
        else if !mayAppend q.n (launchKey s2) s2 then .error (if waits then .wait (addWaiter q.n s.k.uid s2) 7 0 else .wait s2 0 0)
        else pure (dropWaiter s.k.uid (done 0 (appendRecord q (laneBytes r 0xFF) (some s2.crew.uid) (launchKey s2) s2)))

def execLaunch (a b c : Nat) (s : State) : Out := launchOp false a b c s
def execLaunchWait (a b c : Nat) (s : State) : Out := launchOp true a b c s

def execLwait (s : State) : Out :=
  issue {} s fun s => if s.crew.children = 0 then .ok (retire 1 s) else .error (.wait s 6 0)

/-! ### Mailboxes (15 R407, R408) -/

structure MboxEnt where
  addr : Nat
  length : Nat
  queue : Nat
  record : Nat
  missed : Nat
  pending : Bool
  deriving DecidableEq, Repr

def mboxAt (s : State) (ctx i : Nat) : Nat := nb (preg s (ctxReg ctx 4)).toNat 47 15 * 32768 + 32 * i
def mboxCount (s : State) (ctx : Nat) : Nat := min 1024 (nb (preg s (ctxReg ctx 4)).toNat 10 0)

/-- A table entry that is in use and in range. -/
def mboxEnt (s : State) (ctx i : Nat) : Option MboxEnt :=
  let g := fun off n => mgrNat s (mboxAt s ctx i + off) n
  let ok := decide (i < mboxCount s ctx) && nbit (g 14 1) 0 && decide (g 14 1 < 4) && decide (g 15 1 = 0) && decide (g 28 4 = 0) && decide (g 0 8 % 64 = 0) &&
    decide (g 8 4 % 64 = 0) && decide (64 ≤ g 8 4) && decide (g 8 4 ≤ 2 ^ 31) && decide (g 12 2 < 16384) && decide (g 16 8 % 64 = 0)
  if ok then some { addr := g 0 8, length := g 8 4, queue := g 12 2, record := g 16 8, missed := g 24 4, pending := nbit (g 14 1) 1 } else none

/-- The lowest byte of a range in an entry. -/
def mboxMeets (e : MboxEnt) (va n : Nat) : Option Nat :=
  let lo := max e.addr va
  if lo < min (e.addr + e.length) (va + n) then some lo else none

/-- The lowest byte of the written ranges in an entry. -/
def mboxLow (e : MboxEnt) (ranges : List (Nat × Nat)) : Option Nat :=
  match ranges.filterMap (fun r => mboxMeets e r.1 r.2) with
  | [] => none
  | a :: l => some (l.foldl min a)

/-- The entries that the written ranges meet, each with the lowest byte in it; of entries whose ranges overlap only the lowest-numbered
counts (log entry 89). -/
def mboxHits (s : State) (ctx : Nat) (ranges : List (Nat × Nat)) : List (Nat × MboxEnt × Nat) :=
  let met := (List.range (mboxCount s ctx)).filterMap fun i => (mboxEnt s ctx i).bind fun e => (mboxLow e ranges).map fun a => (i, e, a)
  met.filter fun x => met.all fun y => !(decide (y.1 < x.1) && (mboxMeets y.2.1 x.2.1.addr x.2.1.length).isSome)

/-- MISSED rises, saturating. -/
def mboxMissed (ctx i : Nat) (s : State) : State := mgrWrite (mboxAt s ctx i + 24) (toBytes 4 (min (mgrNat s (mboxAt s ctx i + 24) 4 + 1) (2 ^ 32 - 1))) s
/-- PENDING, bit 1 of FLAGS, is the manager's; the other bits stay as software left them. -/
def mboxPend (ctx i : Nat) (on : Bool) (s : State) : State :=
  let old := mgrNat s (mboxAt s ctx i + 14) 1
  mgrWrite (mboxAt s ctx i + 14) (toBytes 1 (4 * (old / 4) + 2 * b2 on + old % 2)) s

/-- One entry is triggered by bytes that complete at `t`; while an append of it is pending the trigger only raises MISSED. -/
def triggerEntry (ctx t op : Nat) (s : State) (x : Nat × MboxEnt × Nat) : State :=
  if x.2.1.pending || s.sch.mbox.any (fun m => decide (m.ctx = ctx) && decide (m.n = x.1) && m.pending) then mboxMissed ctx x.1 s
  else modSch (fun z => { z with mbox := z.mbox ++ [{ ctx := ctx, n := x.1, addr := x.2.2, time := t, op := op, queue := x.2.1.queue, record := x.2.1.record }] }) s

/-- A trigger whose bytes complete at `t`, or, those still on their way under `op`, later; the manager reads the table now (R407). -/
def trigger (ctx : Nat) (ranges : List (Nat × Nat)) (t : Nat) (s : State) (op : Nat := 0) : State := (mboxHits s ctx ranges).foldl (triggerEntry ctx (t + 2) op) s

/-- The queue that takes a trigger's record: open, and open to the context. -/
def mboxQueue (s : State) (m : MboxTrig) : Option Queue := (openQueue s m.queue).filter fun q => mayEnqueue q m.ctx

/-- Appends a mailbox's record, read in the context, with ARGS the triggering address, if its queue takes it. -/
def mboxAppend (m : MboxTrig) (s : State) : State :=
  let s1 := dropHostReads (mboxReader m.ctx m.n).1 s
  match mboxQueue s m, recordAt (mboxReader m.ctx m.n) s m.ctx m.record 256 with
  | some q, some r => appendRecord q (r.take 248 ++ toBytes 8 m.addr) none (mboxKey m) s1
  | _, _ => mboxMissed m.ctx m.n s1

def mboxFull (s : State) (m : MboxTrig) : Bool := (mboxQueue s m).any ringFull

/-- The append would come out of the order of this clock. -/
def mboxEarly (s : State) (m : MboxTrig) : Bool := !mayAppend m.queue (mboxKey m) s

def dropTrig (m : MboxTrig) (s : State) : State := modSch (fun x => { x with mbox := x.mbox.erase m }) s

/-- `f` once the host has answered what the record of the trigger lacks; until then the READs are sent (17 R432). -/
def withRecord (m : MboxTrig) (s : State) (f : State → State) : Out :=
  match hostGaps (mboxReader m.ctx m.n) s m.ctx m.record 256 with
  | [] => if mboxEarly s m then idle s else .next (f s)
  | l => .next (l.foldl (askHost (mboxReader m.ctx m.n) m.ctx) s)

/-- The trigger of entry `n` that is due: a pending append when its ring has room, else the oldest whose bytes are complete. One that
falls due while an append is pending is merged into it. -/
def execMailboxPendingAppend (ctx n : Nat) (s : State) : Out :=
  let mine := s.sch.mbox.filter fun m => decide (m.ctx = ctx) && decide (m.n = n)
  let due := mine.find? fun m => !m.pending && decide (m.time < s.gtime) && !underWay m.op s
  match mine.find? (·.pending), due with
  | some m, d =>
    if !mboxFull s m then withRecord m s fun s => mboxAppend m (mboxPend ctx n false (dropTrig m s))
    else (match d with | some x => .next (mboxMissed ctx n (dropTrig x s)) | none => idle s)
  | none, some m =>
    if mboxFull s m then .next (mboxPend ctx n true (modSch (fun x => { x with mbox := x.mbox ++ [{ m with pending := true }] }) (dropTrig m s)))
    else withRecord m s fun s => mboxAppend m (dropTrig m s)
  | none, none => idle s

end Sys2Proof.Machine
end

