-- ==== Sys2Proof/Machine/LaneInt.lean ====
section
/-! DEFINITION. Lane integer arithmetic, selection, comparison, predicates and cross-lane operations
(08 R222 to R230). -/
namespace Sys2Proof.Machine

/-- Three register fields, no prefix. -/
def req3 (d a b : Nat) : Req := { vs := [(d, 1), (a, 1), (b, 1)] }
def req2 (d a : Nat) : Req := { vs := [(d, 1), (a, 1)] }
def req3p (x : Option ArithPfx) (d a b : Nat) : Req := { len := pfxLen x, vs := [(d, 1), (a, 1), (b, 1)] }

/-! ### The results of R222 and R223 -/

def mulHigh (uns : Bool) (a b : Word32) : Word32 :=
  if uns then (a.setWidth 64 * b.setWidth 64).extractLsb' 32 32 else (a.signExtend 64 * b.signExtend 64).extractLsb' 32 32
def minLane (uns : Bool) (a b : Word32) : Word32 := if (if uns then b.ult a else b.slt a) then b else a
def maxLane (uns : Bool) (a b : Word32) : Word32 := if (if uns then a.ult b else a.slt b) then b else a
def amt (b : Word32) : Nat := b.toNat % 32
def popc (n x : Nat) : Nat := ((List.range n).filter fun i => nbit x i).length
def clz (n x : Nat) : Nat := if x = 0 then n else n - 1 - Nat.log2 x
def satTo (lo hi x : Int) : Int := max lo (min hi x)
def ofInt32 (x : Int) : Word32 := BitVec.ofInt 32 x

/-- The integer conditions of R210 on `n`-bit values. -/
def intCond (n c a b : Nat) : Bool :=
  match c with
  | 0 => decide (a = b)
  | 1 => decide (a ≠ b)
  | 2 => decide (sxt n a < sxt n b)
  | 3 => decide (sxt n a ≤ sxt n b)
  | 4 => decide (sxt n b < sxt n a)
  | 5 => decide (sxt n b ≤ sxt n a)
  | 6 => decide (a < b)
  | 7 => decide (a ≤ b)
  | 8 => decide (b < a)
  | _ => decide (b ≤ a)

def execVadd (g d a b : Nat) (s : State) : Out := laneOp (req3 d a b) g d (fun k L => rdV k a L + rdV k b L) s
def execVsub (g d a b : Nat) (s : State) : Out := laneOp (req3 d a b) g d (fun k L => rdV k a L - rdV k b L) s
def execVmul (x : Option ArithPfx) (g d a b : Nat) (s : State) : Out :=
  laneOp (req3p x d a b) g d (fun k L => rdV k a L * rdV k b L) s
def execVmulh (x : ArithPfx) (g d a b : Nat) (s : State) : Out :=
  laneOp (req3p (some x) d a b) g d (fun k L => mulHigh x.uns (rdV k a L) (rdV k b L)) s
def execVmad (g d a b : Nat) (s : State) : Out :=
  laneOp (req3 d a b) g d (fun k L => rdV k a L * rdV k b L + rdV k d L) s
def execVand (g d a b : Nat) (s : State) : Out := laneOp (req3 d a b) g d (fun k L => rdV k a L &&& rdV k b L) s
def execVor (g d a b : Nat) (s : State) : Out := laneOp (req3 d a b) g d (fun k L => rdV k a L ||| rdV k b L) s
def execVxor (g d a b : Nat) (s : State) : Out := laneOp (req3 d a b) g d (fun k L => rdV k a L ^^^ rdV k b L) s
def execVshl (g d a b : Nat) (s : State) : Out := laneOp (req3 d a b) g d (fun k L => rdV k a L <<< amt (rdV k b L)) s
def execVshr (g d a b : Nat) (s : State) : Out := laneOp (req3 d a b) g d (fun k L => rdV k a L >>> amt (rdV k b L)) s
def execVsar (g d a b : Nat) (s : State) : Out :=
  laneOp (req3 d a b) g d (fun k L => (rdV k a L).sshiftRight (amt (rdV k b L))) s
def execVmin (x : Option ArithPfx) (g d a b : Nat) (s : State) : Out :=
  laneOp (req3p x d a b) g d (fun k L => minLane (unsOf x) (rdV k a L) (rdV k b L)) s
def execVmax (x : Option ArithPfx) (g d a b : Nat) (s : State) : Out :=
  laneOp (req3p x d a b) g d (fun k L => maxLane (unsOf x) (rdV k a L) (rdV k b L)) s
def execVlea (x : Option ArithPfx) (g d a b : Nat) (s : State) : Out :=
  laneOp (req3p x d a b) g d (fun k L => rdV k a L + (rdV k b L <<< shOf x)) s
def execVaddi (g d a i : Nat) (s : State) : Out :=
  laneOp (req2 d a) g d (fun k L => rdV k a L + ofInt32 (sxt 7 i)) s
def execVimm (g d i : Nat) (s : State) : Out :=
  laneOp { vs := [(d, 1)] } g d (fun _ _ => ofInt32 (sxt 14 i)) s

def execVmov (g d a : Nat) (s : State) : Out := laneOp (req2 d a) g d (fun k L => rdV k a L) s
def execVabs (g d a : Nat) (s : State) : Out :=
  laneOp (req2 d a) g d (fun k L => if (rdV k a L).msb then 0#32 - rdV k a L else rdV k a L) s
def execVpopc (g d a : Nat) (s : State) : Out := laneOp (req2 d a) g d (fun k L => w32 (popc 32 (rdV k a L).toNat)) s
def execVclz (g d a : Nat) (s : State) : Out := laneOp (req2 d a) g d (fun k L => w32 (clz 32 (rdV k a L).toNat)) s
def execVbcast (g d a : Nat) (s : State) : Out :=
  laneOp { vs := [(d, 1)] } g d (fun k _ => (rdG k a).extractLsb' 0 32) s
def execVcvtiI32I8 (g d a : Nat) (s : State) : Out :=
  laneOp (req2 d a) g d (fun k L => ((rdV k a L).extractLsb' 0 8).signExtend 32) s
def execVcvtiI32I16 (g d a : Nat) (s : State) : Out :=
  laneOp (req2 d a) g d (fun k L => ((rdV k a L).extractLsb' 0 16).signExtend 32) s
def execVcvtiN32N8 (g d a : Nat) (s : State) : Out :=
  laneOp (req2 d a) g d (fun k L => ((rdV k a L).extractLsb' 0 8).setWidth 32) s
def execVcvtiN32N16 (g d a : Nat) (s : State) : Out :=
  laneOp (req2 d a) g d (fun k L => ((rdV k a L).extractLsb' 0 16).setWidth 32) s
def execVcvtiI8I32 (g d a : Nat) (s : State) : Out :=
  laneOp (req2 d a) g d (fun k L => ofInt32 (satTo (-128) 127 (rdV k a L).toInt)) s
def execVcvtiI16I32 (g d a : Nat) (s : State) : Out :=
  laneOp (req2 d a) g d (fun k L => ofInt32 (satTo (-32768) 32767 (rdV k a L).toInt)) s
def execVcvtiN8N32 (g d a : Nat) (s : State) : Out :=
  laneOp (req2 d a) g d (fun k L => w32 (min (rdV k a L).toNat 255)) s
def execVcvtiN16N32 (g d a : Nat) (s : State) : Out :=
  laneOp (req2 d a) g d (fun k L => w32 (min (rdV k a L).toNat 65535)) s

/-! ### Selection, comparison, predicates (R224 to R227) -/

/-- vsel writes every lane of M; its guard is the selector (R224). -/
def execVsel (g d a b : Nat) (s : State) : Out :=
  simple (req3 d a b) s fun s =>
    { s with k := wrV s.k.e.mask d (fun L => if laneOn (guardLanes s.k g) L then rdV s.k a L else rdV s.k b L) s.k }

/-- The lanes of ACTIVE receive the bits of `f`; the other bits of P[pd] stay. -/
def predOp (r : Req) (g p : Nat) (f : Skein → Word32) (s : State) : Out :=
  simple r s fun s => { s with k := wrP p (blend (active s.k g) (f s.k) (rdP s.k p)) s.k }

def execVsetp (g c p a b : Nat) (s : State) : Out :=
  predOp { vs := [(a, 1), (b, 1)] } g p (fun k => maskOf fun L => intCond 32 c (rdV k a L).toNat (rdV k b L).toNat) s
def execPand (g d a b : Nat) (s : State) : Out := predOp {} g d (fun k => rdP k a &&& rdP k b) s
def execPor (g d a b : Nat) (s : State) : Out := predOp {} g d (fun k => rdP k a ||| rdP k b) s
def execPxor (g d a b : Nat) (s : State) : Out := predOp {} g d (fun k => rdP k a ^^^ rdP k b) s
def execPnot (g d a : Nat) (s : State) : Out := predOp {} g d (fun k => ~~~ rdP k a) s
def execPmovgToPredicate (g p x : Nat) (s : State) : Out := predOp {} g p (fun k => (rdG k x).extractLsb' 0 32) s
def execPmovgToUniform (g p x : Nat) (s : State) : Out :=
  simple {} s fun s => { s with k := wrG x ((rdP s.k p &&& active s.k g).setWidth 64) s.k }

/-! ### Cross-lane operations (R228 to R230): the full skein (R174) -/

def fullReq (vs : List (Nat × Nat)) : Req := { vs := vs, full := true }

/-- The value a lane reads from its source lane, or its own (R228). -/
def shflVal (k : Skein) (act : Word32) (a : Nat) (src : Option Nat) (L : Nat) : Word32 :=
  match src with
  | some t => if t < 32 ∧ laneOn act t = true then rdV k a t else rdV k a L
  | none => rdV k a L

def shflOp (r : Req) (g d a : Nat) (src : Skein → Nat → Option Nat) (s : State) : Out :=
  laneOp r g d (fun k L => shflVal k (active k g) a (src k L) L) s

def execShflIdx (g d a n : Nat) (s : State) : Out := shflOp (fullReq [(d, 1), (a, 1)]) g d a (fun _ _ => some n) s
def execShflUp (g d a n : Nat) (s : State) : Out :=
  shflOp (fullReq [(d, 1), (a, 1)]) g d a (fun _ L => if n ≤ L then some (L - n) else none) s
def execShflDown (g d a n : Nat) (s : State) : Out := shflOp (fullReq [(d, 1), (a, 1)]) g d a (fun _ L => some (L + n)) s
def execShflXor (g d a n : Nat) (s : State) : Out := shflOp (fullReq [(d, 1), (a, 1)]) g d a (fun _ L => some (L ^^^ n)) s
def execShflIdxRegister (g d a b : Nat) (s : State) : Out :=
  shflOp (fullReq [(d, 1), (a, 1), (b, 1)]) g d a (fun k L => some (amt (rdV k b L))) s

/-- The votes of R229 over S = P[pa] AND mask(ACTIVE). -/
def voteOp (g d a : Nat) (f : Word32 → Word32 → Bool) (s : State) : Out :=
  predOp (fullReq []) g d (fun k => if f (rdP k a &&& active k g) (active k g) then 0xFFFFFFFF#32 else 0#32) s

def execVoteAny (g d a : Nat) (s : State) : Out := voteOp g d a (fun x _ => decide (x ≠ 0#32)) s
def execVoteAll (g d a : Nat) (s : State) : Out := voteOp g d a (fun x m => decide (x = m)) s
def execVoteNone (g d a : Nat) (s : State) : Out := voteOp g d a (fun x _ => decide (x = 0#32)) s
def execVoteBallot (g d a : Nat) (s : State) : Out :=
  simple (fullReq []) s fun s => { s with k := wrG d ((rdP s.k a &&& active s.k g).setWidth 64) s.k }

/-- The exact sum of FP32 values, rounded once (R230): result and flags. -/
def exactSum (xs : List Nat) : Nat × Nat :=
  let vs := xs.map (fdec fp32)
  let pos := vs.any fun v => fxIsInf v && !fxSign v
  let neg := vs.any fun v => fxIsInf v && fxSign v
  if vs.any fxIsNan then (nanCode fp32, 0)
  else if pos && neg then (nanCode fp32, flNV)
  else if pos then (infCode fp32, 0) else if neg then (withSign fp32 true (infCode fp32), 0)
  else
    let x := vs.foldl (fun a v => (fxAdd false a v).getD .nan) (if vs.all fxSign then .fin true 0 1 else fxZero)
    fround fp32 .rn true 0 x

/-- A written NaN is the canonical one (03 R82). -/
def canonical32 (x : Nat) : Nat := if fxIsNan (fdec fp32 x) then nanCode fp32 else x

/-- The reduction of a non-empty list of lane values: operation 0 to 5, type 0 i32, 1 n32, 2 f32 (R230). -/
def reduce (o t : Nat) (xs : List Nat) : Nat × Nat :=
  let fold := fun (f : Nat → Nat → Nat) => (xs.drop 1).foldl f (xs.headD 0)
  if t = 2 then
    (match o with
     | 0 => exactSum xs
     | 1 => (canonical32 (fold (fpMin fp32)), 0)
     | _ => (canonical32 (fold (fpMax fp32)), 0))
  else
    (match o with
     | 0 => fold (fun a b => (a + b) % 2 ^ 32)
     | 1 => if t = 0 then fold (fun a b => if sxt 32 b < sxt 32 a then b else a) else fold min
     | 2 => if t = 0 then fold (fun a b => if sxt 32 a < sxt 32 b then b else a) else fold max
     | 3 => fold Nat.land
     | 4 => fold Nat.lor
     | _ => fold Nat.xor, 0)

/-- vred and vscan write the reduction of the lanes `src L` and OR the flags it raises. -/
def reduceOp (g d a o t : Nat) (src : Word32 → Nat → List Nat) (s : State) : Out :=
  simple (fullReq [(d, 1), (a, 1)]) s fun s =>
    let act := active s.k g
    let val := fun L => reduce o t ((src act L).map fun i => (rdV s.k a i).toNat)
    let k1 := wrV act d (fun L => w32 (val L).1) s.k
    { s with k := { k1 with fmode := orFlags (unionFlags act fun L => (val L).2) s.k.fmode } }

def execVred (g d a o t : Nat) (s : State) : Out := reduceOp g d a o t (fun act _ => lanesOf act) s
def execVscan (g d a o t : Nat) (s : State) : Out :=
  reduceOp g d a o t (fun act L => (lanesOf act).filter fun i => decide (i ≤ L)) s

end Sys2Proof.Machine
end

