-- ==== Sys2Proof/Machine/Float.lean ====
section
/-! DEFINITION. Floating-point and interval instructions on lanes (09 R261 to R268). -/
namespace Sys2Proof.Machine

def rmAt (x : Option ArithPfx) (s : State) : Rm := rmOf (rndOf x s.k.fmode)
def isSr (x : Option ArithPfx) (s : State) : Bool := decide (rndOf x s.k.fmode = 5)

/-- fadd, fsub, fmul: an element operation of two sources. -/
def float2 (x : Option ArithPfx) (g d a b : Nat) (op : Fmt → Rm → Nat → Nat → Nat → Nat × Nat) (s : State) : Out :=
  floatOp (req3p x d a b) g d (isSr x)
    (fun s L => perElem (pkOf x) fun h =>
      op (pkFmt (pkOf x)) (rmAt x s) (laneDraw s L h) (elem (pkOf x) h (rdV s.k a L).toNat) (elem (pkOf x) h (rdV s.k b L).toNat)) s

def execFadd (x : Option ArithPfx) (g d a b : Nat) (s : State) : Out := float2 x g d a b fpAdd s
def execFsub (x : Option ArithPfx) (g d a b : Nat) (s : State) : Out := float2 x g d a b fpSub s
def execFmul (x : Option ArithPfx) (g d a b : Nat) (s : State) : Out := float2 x g d a b fpMul s

def execFfma (x : Option ArithPfx) (g d a b : Nat) (s : State) : Out :=
  floatOp (req3p x d a b) g d (isSr x)
    (fun s L => perElem (pkOf x) fun h =>
      fpFma (pkFmt (pkOf x)) (rmAt x s) (laneDraw s L h) (elem (pkOf x) h (rdV s.k a L).toNat)
        (elem (pkOf x) h (rdV s.k b L).toNat) (elem (pkOf x) h (rdV s.k d L).toNat)) s

def execFscale (x : Option ArithPfx) (g d a b : Nat) (s : State) : Out :=
  floatOp (req3p x d a b) g d (isSr x)
    (fun s L => perElem (pkOf x) fun h =>
      let e := if pkOf x = 0 then (rdV s.k b L).toInt else sxt 16 (elem (pkOf x) h (rdV s.k b L).toNat)
      fpScale (pkFmt (pkOf x)) (rmAt x s) (laneDraw s L h) (elem (pkOf x) h (rdV s.k a L).toNat) e) s

/-- fmin and fmax set no flag and draw nothing (R262). -/
def floatMM (x : Option ArithPfx) (g d a b : Nat) (op : Fmt → Nat → Nat → Nat) (s : State) : Out :=
  laneOp (req3p x d a b) g d
    (fun k L => w32 (perElem (pkOf x) fun h =>
      (op (pkFmt (pkOf x)) (elem (pkOf x) h (rdV k a L).toNat) (elem (pkOf x) h (rdV k b L).toNat), 0)).1) s

def execFmin (x : Option ArithPfx) (g d a b : Nat) (s : State) : Out := floatMM x g d a b fpMin s
def execFmax (x : Option ArithPfx) (g d a b : Nat) (s : State) : Out := floatMM x g d a b fpMax s

def execFcmp (g c p a b : Nat) (s : State) : Out :=
  predOp { vs := [(a, 1), (b, 1)] } g p (fun k => maskOf fun L => fpCmp fp32 c (rdV k a L).toNat (rdV k b L).toNat) s

def execFcvt (x : Option ArithPfx) (g d a t u : Nat) (s : State) : Out :=
  floatOp { len := pfxLen x, vs := [(d, 1), (a, 1)] } g d (isSr x)
    (fun s L => fpCvt t u (rmAt x s) (fmSat s.k.fmode) (laneDraw s L 0) (rdV s.k a L).toNat) s

def execFround (x : Option ArithPfx) (g d a : Nat) (s : State) : Out :=
  floatOp { len := pfxLen x, vs := [(d, 1), (a, 1)] } g d (isSr x)
    (fun s L => perElem (pkOf x) fun h =>
      fpRoundInt (pkFmt (pkOf x)) (rmAt x s) (laneDraw s L h) (elem (pkOf x) h (rdV s.k a L).toNat)) s

def execFclass (x : Option ArithPfx) (g d a : Nat) (s : State) : Out :=
  laneOp { len := pfxLen x, vs := [(d, 1), (a, 1)] } g d
    (fun k L => w32 (perElem (pkOf x) fun h => (fpClass (pkFmt (pkOf x)) (elem (pkOf x) h (rdV k a L).toNat), 0)).1) s

/-! ### Intervals (03 R85, 09 R267, R268) -/

/-- An interval operand: its bounds, empty, or a pair with a NaN. -/
inductive Itv where
  | bad
  | empty
  | set (lo hi : Fx)
  deriving DecidableEq, Repr

def itvOf (x : Word64) : Itv :=
  let lo := fdec fp32 (x.toNat % 2 ^ 32)
  let hi := fdec fp32 (x.toNat / 2 ^ 32)
  if fxIsNan lo || fxIsNan hi then .bad else if fxLt hi lo then .empty else .set lo hi

/-- A bound written: FP32 rounded down or up, a zero as +0. -/
def boundBits (m : Rm) (x : Fx) : Nat := let r := (fround fp32 m true 0 x).1; if r = 2 ^ 31 then 0 else r

def itvWhole : Word64 := 0x7F800000FF800000#64
def itvEmpty : Word64 := 0xFF8000007F800000#64
def itvPack (lo hi : Fx) : Word64 := w64 (boundBits .rd lo + boundBits .ru hi * 2 ^ 32)

/-- Bounds from terms that may be undefined: an undefined term makes the whole line (R267). -/
def itvOpt (lo hi : Option Fx) : Word64 :=
  match lo, hi with
  | some l, some h => itvPack l h
  | _, _ => itvWhole

/-- 0 · ±∞ = 0 (R268). -/
def iMul (a b : Fx) : Fx := (fxMul a b).getD fxZero

/-- A quotient by a non-zero divisor; a finite value by ±∞ is 0, ±∞ by ±∞ is undefined (R267, R268). -/
def iDiv (a b : Fx) : Option Fx :=
  match a, b with
  | .inf s, .fin t _ _ => some (.inf (s != t))
  | .inf _, _ => none
  | .fin _ _ _, .inf _ => some fxZero
  | .fin s n d, .fin t m e => some (.fin (s != t) (n * e) (d * m))
  | _, _ => none

def fxMin4 (a b c d : Fx) : Fx := fxMin (fxMin a b) (fxMin c d)
def fxMax4 (a b c d : Fx) : Fx := fxMax (fxMax a b) (fxMax c d)

def itvAdd (a b c d : Fx) : Word64 := itvOpt (fxAdd false a c) (fxAdd false b d)
def itvSub (a b c d : Fx) : Word64 := itvOpt (fxAdd false a (fxNeg d)) (fxAdd false b (fxNeg c))
def itvMul (a b c d : Fx) : Word64 :=
  itvPack (fxMin4 (iMul a c) (iMul a d) (iMul b c) (iMul b d)) (fxMax4 (iMul a c) (iMul a d) (iMul b c) (iMul b d))
def itvDiv (a b c d : Fx) : Word64 :=
  if fxLe c fxZero && fxLe fxZero d then itvWhole
  else match iDiv a c, iDiv a d, iDiv b c, iDiv b d with
    | some p, some q, some r, some t => itvPack (fxMin4 p q r t) (fxMax4 p q r t)
    | _, _, _, _ => itvWhole
def itvMin (a b c d : Fx) : Word64 := itvPack (fxMin a c) (fxMin b d)
def itvMax (a b c d : Fx) : Word64 := itvPack (fxMax a c) (fxMax b d)
def itvHull (a b c d : Fx) : Word64 := itvPack (fxMin a c) (fxMax b d)
def itvSq (a b : Fx) : Word64 :=
  let p := iMul a a
  let q := iMul b b
  if fxLe a fxZero && fxLe fxZero b then itvPack fxZero (fxMax p q) else itvPack (fxMin p q) (fxMax p q)
def itvSqrt (a b : Fx) : Word64 :=
  if fxLt b fxZero then itvEmpty else itvPack (fxSqrt (fxMax a fxZero)) (fxSqrt (fxMax b fxZero))
def itvAbs (a b : Fx) : Word64 :=
  if fxLe fxZero a then itvPack a b else if fxLe b fxZero then itvPack (fxNeg b) (fxNeg a)
  else itvPack fxZero (fxMax (fxNeg a) b)

/-- The order of decisions of R267: a NaN bound, an empty operand, the table's row; with the IN flag. -/
def itvCases (hull : Bool) (x y : Itv) (f : Fx → Fx → Fx → Fx → Word64) : Word64 × Nat :=
  match x, y with
  | .bad, _ => (itvWhole, flIN)
  | _, .bad => (itvWhole, flIN)
  | .set a b, .set c d => (f a b c d, 0)
  | .empty, .set c d => (if hull then itvPack c d else itvEmpty, 0)
  | .set a b, .empty => (if hull then itvPack a b else itvEmpty, 0)
  | .empty, .empty => (itvEmpty, 0)

/-- An interval instruction: pairs named by even registers, the IN flag of any lane (R267). -/
def itvOp (r : Req) (g d : Nat) (f : Skein → Nat → Word64 × Nat) (s : State) : Out :=
  simple r s fun s =>
    let act := active s.k g
    let k1 := wrV2 act d (fun L => (f s.k L).1) s.k
    { s with k := { k1 with fmode := orFlags (unionFlags act fun L => (f s.k L).2) s.k.fmode } }

def itv2 (hull : Bool) (g d a b : Nat) (f : Fx → Fx → Fx → Fx → Word64) (s : State) : Out :=
  itvOp { vs := [(d, 2), (a, 2), (b, 2)] } g d (fun k L => itvCases hull (itvOf (rdV2 k a L)) (itvOf (rdV2 k b L)) f) s

def itv1 (g d a : Nat) (f : Fx → Fx → Word64) (s : State) : Out :=
  itvOp { vs := [(d, 2), (a, 2)] } g d
    (fun k L => itvCases false (itvOf (rdV2 k a L)) (itvOf (rdV2 k a L)) (fun x y _ _ => f x y)) s

def execIadd (g d a b : Nat) (s : State) : Out := itv2 false g d a b itvAdd s
def execIsub (g d a b : Nat) (s : State) : Out := itv2 false g d a b itvSub s
def execImul (g d a b : Nat) (s : State) : Out := itv2 false g d a b itvMul s
def execIdiv (g d a b : Nat) (s : State) : Out := itv2 false g d a b itvDiv s
def execImin (g d a b : Nat) (s : State) : Out := itv2 false g d a b itvMin s
def execImax (g d a b : Nat) (s : State) : Out := itv2 false g d a b itvMax s
def execIhull (g d a b : Nat) (s : State) : Out := itv2 true g d a b itvHull s
def execIsq (g d a : Nat) (s : State) : Out := itv1 g d a itvSq s
def execIsqrt (g d a : Nat) (s : State) : Out := itv1 g d a itvSqrt s
def execIabs (g d a : Nat) (s : State) : Out := itv1 g d a itvAbs s

end Sys2Proof.Machine
end

