-- ==== Sys2Proof/Machine/Trans.lean ====
section
/-! DEFINITION. Enclosures of the transcendental functions by exact integer arithmetic: a centre and an error bound in units
of 2^-P. Used where the manual asks for correct rounding (09 R281, 12) and to bound the special functions (09 R270). -/
namespace Sys2Proof.Machine

/-- ln 2, π and 2/√π in units of 2^-800, rounded down (the error is below 2^-790). -/
def ln2C : Nat := 4621915404083693673706875932675205015453565172230550426539967411210454986352689890721664442570866243885822531744113695039172807218199452359833764686208720506147098250020752592785330170224056724879031149859014393999526362059299592526015399857
def piC : Nat := 20948185156366061645643766395320583804404110054917410661001193935637068554322671606167204993106553114357255005533540283561029206848473842820348248606897488101457448383057018700235998647758998983149673314854554443134041172997893486965491011653
def twoRtPiC : Nat := 7524048571953826598128704036848167350447282581540536842056998172198035936792635047424994250204663222539656347654652560224061687128319777315382087484735989766036710735765831407362036498170850736187553289867441222445944332384318632867242432072

/-- A constant in units of 2^-P, P ≤ 780. -/
def constAt (c P : Nat) : Int := c / 2 ^ (800 - P)

/-- An enclosure: centre and error in units of 2^-P. -/
structure Enc where
  c : Int
  e : Int
  deriving DecidableEq, Repr

def fixMul (P : Nat) (a b : Int) : Int := a * b / (2 ^ P : Int)

/-- A finite exact value in units of 2^-P, rounded down. -/
def toFix (P : Nat) (x : Fx) : Int :=
  match x with
  | .fin s n d => (sgnNum s n * (2 ^ P : Int)) / (d : Int)
  | _ => 0

def ofFix (P : Nat) (c : Int) : Fx := .fin (decide (c < 0)) c.natAbs (2 ^ P)

/-- Σ r^i / i! for i ≤ n by Horner's scheme, 0 ≤ r < 1. -/
def expHorner (P : Nat) (r : Int) : Nat → Nat → Int → Int
  | 0, _, acc => acc
  | n + 1, i, acc => expHorner P r n (i - 1) (2 ^ P + r * acc / ((i : Int) * (2 ^ P : Int)))

/-- e^x for x in units of 2^-P: mantissa in [1, 2) as an enclosure, and the power of two. -/
def expEnc (P : Nat) (x : Int) : Enc × Int :=
  let l := constAt ln2C P
  let k := x / l
  let r := x - k * l
  ({ c := expHorner P r 100 100 (2 ^ P), e := 64 + 4 * k.natAbs }, k)

/-- e^x in units of 2^-P for x ≤ 64 or so. -/
def expFix (P : Nat) (x : Int) : Enc :=
  let (m, k) := expEnc P x
  if 0 ≤ k then { c := m.c * 2 ^ k.toNat, e := m.e * 2 ^ k.toNat } else { c := m.c / 2 ^ (-k).toNat, e := m.e / 2 ^ (-k).toNat + 2 }

/-- Σ z^(2i+1) / (2i+1). -/
def atanhSum (P : Nat) (z2 : Int) : Nat → Nat → Int → Int → Int
  | 0, _, _, acc => acc
  | n + 1, i, t, acc => atanhSum P z2 n (i + 1) (fixMul P t z2) (acc + t / (2 * (i : Int) + 1))

/-- ln of a positive ratio. -/
def lnEnc (P : Nat) (n d : Nat) : Enc :=
  let k := ilog n d
  let m : Fx := fxScale (.fin false n d) (-k)
  match m with
  | .fin _ a b =>
    let z : Int := (((a : Int) - b) * 2 ^ P) / ((a : Int) + b)
    { c := 2 * atanhSum P (fixMul P z z) (P / 3 + 4) 0 z 0 + k * constAt ln2C P, e := 2 * (P : Int) + 64 + 4 * k.natAbs }
  | _ => { c := 0, e := 0 }

/-- Σ (-1)^i r^(2i+o) / (2i+o)! from its first term. -/
def trigSum (P : Nat) (r2 : Int) : Nat → Nat → Int → Int → Int
  | 0, _, _, acc => acc
  | n + 1, j, t, acc => trigSum P r2 n (j + 2) (-(fixMul P t r2) / (((j + 1) * (j + 2) : Nat) : Int)) (acc + t)

/-- sin x (q = 0) or cos x (q = 1), x a finite ratio, with exact reduction by multiples of π/2. -/
def trigEnc (P q : Nat) (x : Fx) : Enc :=
  let W := P + 160
  let v := toFix W x
  let h := constAt piC W / 2
  let k := v / h
  let r := (v - k * h) / 2 ^ 160
  let r2 := fixMul P r r
  let j := ((k + q) % 4).toNat
  let s := if j % 2 = 0 then trigSum P r2 60 1 r 0 else trigSum P r2 60 0 (2 ^ P) 0
  { c := if j < 2 then s else -s, e := 200 }

/-- Σ (-1)^i u^i / (i! (2i+1)). -/
def erfSum (P : Nat) (u : Int) : Nat → Nat → Int → Int → Int
  | 0, _, _, acc => acc
  | n + 1, i, t, acc => erfSum P u n (i + 1) (-(fixMul P t u) / ((i : Int) + 1)) (acc + t / (2 * (i : Int) + 1))

/-- erf of y where u = y² and y are given in units of 2^-P, |y| < 12. -/
def erfEnc (P : Nat) (y u : Int) : Enc :=
  { c := fixMul P (fixMul P (constAt twoRtPiC P) y) (erfSum P u 500 0 (2 ^ P) 0), e := 2 ^ 220 }

end Sys2Proof.Machine
end

