-- ==== Sys2Proof/Machine/Sfn.lean ====
section
/-! DEFINITION. The special functions: built-in (09 R269 to R271) and loadable slots (09 R272 to R275). -/
namespace Sys2Proof.Machine

/-- The working precision of the bounds. -/
def sfnP : Nat := 480

def encQuot (P : Nat) (a b : Enc) : Enc :=
  if b.c ≤ b.e then { c := 0, e := 2 ^ P } else { c := a.c * 2 ^ P / b.c, e := (a.e + b.e + 2) * 2 ^ P / (b.c - b.e) * 4 + 2 }

def encOne (P : Nat) : Enc := { c := 2 ^ P, e := 0 }

/-- An enclosure of the exact value at a finite non-special input; sign, ratio of the input. -/
def sfnExact (f : Nat) (s : Bool) (n d : Nat) : Enc :=
  let P := sfnP
  let x := toFix P (.fin s n d)
  let ab := toFix P (.fin false n d)
  let big : Bool := decide (n > 200 * d)
  let neg := fun (e : Enc) => if s then { e with c := -e.c } else e
  match f with
  | 0 => if big then { c := 2 ^ 279, e := 2 ^ 279 } else expFix P (fixMul P x (constAt ln2C P))
  | 1 => encQuot P (lnEnc P n d) { c := constAt ln2C P, e := 2 }
  | 3 => (match sqrtRatio d n with | (a, b) => { c := ((a * 2 ^ P / b : Nat) : Int), e := 2 })
  | 5 => trigEnc P 0 (.fin s n d)
  | 6 => trigEnc P 1 (.fin s n d)
  | 7 =>
    -- tanh |x| = 1 - 2 / (e^2|x| + 1)
    if big then neg { c := 2 ^ P - 1, e := 1 }
    else
      let q := encQuot P { c := 2 ^ (P + 1), e := 0 } (let y := expFix P (2 * ab); { c := y.c + 2 ^ P, e := y.e })
      neg { c := 2 ^ P - q.c, e := q.e }
  | 8 =>
    if big then (if s then { c := 2 ^ 191, e := 2 ^ 191 } else { c := 2 ^ P - 1, e := 1 })
    else (let y := expFix P (-x); encQuot P (encOne P) { c := y.c + 2 ^ P, e := y.e })
  | 9 => if decide (n > 11 * d) then neg { c := 2 ^ P - 2 ^ 301, e := 2 ^ 301 } else neg (erfEnc P ab (fixMul P ab ab))
  | 10 =>
    if decide (n > 14 * d) then { c := if s then 0 else x, e := 2 ^ 338 }
    else
      let u := fixMul P ab ab / 2
      -- erf(|x|/√2) with its leading factor |x|·√(1/2)
      let y := (isqrt (u.toNat * 2 ^ P) : Int)
      let e := erfEnc P y u
      let c := if s then -e.c else e.c
      { c := fixMul P x (2 ^ P + c) / 2, e := e.e * 16 + 2 ^ 240 }
  | 11 =>
    if big then (if s then { c := 0, e := 2 ^ 220 } else { c := x, e := 2 ^ 220 })
    else
      let y := expFix P (-x)
      let q := encQuot P (encOne P) { c := y.c + 2 ^ P, e := y.e }
      { c := fixMul P x q.c, e := q.e * 256 + 2 }
  | _ =>
    if big then { c := (if s then 0 else x) + 2 ^ 191, e := 2 ^ 191 }
    else
      let y := expFix P x
      let l := lnEnc P (y.c.toNat + 2 ^ P) (2 ^ P)
      { l with e := l.e + y.e }

/-- Ulps of error, and the absolute error in units of 2^-P, that R270 allows; `c` is the exact value's enclosure centre. -/
def sfnTol (f : Nat) (n d : Nat) (ulp : Nat) : Nat :=
  let P := sfnP
  match f with
  | 0 => ulp
  | 1 => if d ≤ 2 * n ∧ n ≤ 2 * d then max ulp (2 ^ (P - 24)) else ulp
  | 3 => ulp
  | 5 => 2 ^ (P - 22)
  | 6 => 2 ^ (P - 22)
  | 10 => max (2 * ulp) (2 ^ (P - 24))
  | 11 => max (2 * ulp) (2 ^ (P - 24))
  | _ => 2 * ulp

/-- One unit in the last place of a value rounded to FP32, in units of 2^-P. -/
def ulpOf (bits : Nat) : Nat := 2 ^ (sfnP - 149 + ((nb bits 30 23) - 1))

/-- A code lies within what R270 states of a finite input: the error, the range of the results, and what monotonicity towards the
infinities and odd symmetry leave. -/
def sfnWithin (f x y : Nat) : Bool :=
  match fdec fp32 x, fdec fp32 y with
  | .fin s n d, .fin t a b =>
    let en := sfnExact f s n d
    let r := (fround fp32 .rn true 0 (ofFix sfnP en.c)).1
    let v := toFix sfnP (.fin t a b)
    let most := if f = 5 ∨ f = 6 ∨ f = 7 ∨ f = 8 ∨ f = 9 then decide (v ≤ 2 ^ sfnP) else true
    let leastOk := if f = 5 ∨ f = 6 then decide (-(2 ^ sfnP) ≤ v) else if f = 1 ∨ f = 10 ∨ f = 11 then true else decide (0 ≤ v)
    decide ((v - en.c).natAbs + en.e.toNat ≤ sfnTol f n d (ulpOf r)) && most && leastOk && (decide (n ≠ 0) || !(decide (f = 7) || decide (f = 9)) || decide (a = 0))
  | _, _ => false

/-- The results that R270 fixes: exp2 of integers, log2 of powers of two, sin of zero. -/
def sfnFixed (f x : Nat) : Option Nat :=
  match fdec fp32 x with
  | .fin s n d =>
    if f = 0 then (if n % d = 0 ∧ (n / d ≤ (if s then 149 else 127)) then some (fround fp32 .rn true 0 (fxScale (.fin false 1 1) (sgnNum s (n / d)))).1 else none)
    else if f = 1 then (if !s && fxEq (.fin false n d) (fxScale (.fin false 1 1) (ilog n d)) then some (fround fp32 .rn true 0 (fxOfInt (ilog n d))).1 else none)
    else if f = 5 ∧ n = 0 then some x else none
  | _ => none

/-- What the firmware gives for a finite input outside those cases: bits without a meaning here (log entry 8). -/
def sfnCode (f x : Nat) : Nat := (sfnFixed f x).getD (Config.sfnBits f (w32 x)).toNat

/-- Functions declared monotone. -/
def sfnMono (f : Nat) : Bool := [0, 1, 3, 7, 8, 9, 12].contains f

/-- The finite inputs of a function by place, in the order in which its results do not fall; odd functions by magnitude, and a monotone one has
one place for both zeros. From 128 on exp2 overflows, which R270 fixes. -/
def sfnDomain (f i : Nat) : Option Nat :=
  let top := 0x7F800000
  if f = 1 then (if 0 < i ∧ i < top then some i else none)
  else if f = 3 then (if 0 < i ∧ i < top then some (top - i) else none)
  else if f = 7 ∨ f = 9 then (if i < top then some i else none)
  else if i < top then (if i + 1 = top ∧ sfnMono f then none else some (2 ^ 31 + top - 1 - i))
  else if i < (if f = 0 then top + 0x43000000 else 2 * top) then some (i - top)
  else none

def codeLe (a b : Nat) : Bool := fxLe (fdec fp32 a) (fdec fp32 b)

/-- `p` holds below `n`, the highest looked at first. -/
def allBelow : Nat → (Nat → Bool) → Bool
  | 0, _ => true
  | n + 1, p => p n && allBelow n p

/-- The firmware's function meets R270 and R271 over all its inputs. -/
def sfnSound (f : Nat) : Bool :=
  allBelow (2 ^ 32) fun i => match sfnDomain f i with
    | none => true
    | some x => sfnWithin f x (sfnCode f x) &&
        (match (if sfnMono f then (sfnDomain f (i + 1) <|> sfnDomain f (i + 2)) else none) with
         | some x' => codeLe (sfnCode f x) (sfnCode f x')
         | none => true)

/-- A result that R270 only bounds: the firmware's, which meets R270 and R271; firmware that does not is none of this part's, and in its
place stands the exact value rounded (log entry 8). -/
def sfnBounded (f x : Nat) (s : Bool) (n d : Nat) : Nat :=
  if sfnSound f then sfnCode f x else (sfnFixed f x).getD (fround fp32 .rn true 0 (ofFix sfnP (sfnExact f s n d).c)).1

/-- A built-in function: result and flags (R269, R270). -/
def sfnEval (f x : Nat) : Nat × Nat :=
  let one := 0x3F800000
  match fdec fp32 x with
  | .nan => (nanCode fp32, 0)
  | .inf s =>
    (match f with
     | 0 => if s then (0, 0) else (infCode fp32, 0)
     | 1 => if s then (nanCode fp32, flNV) else (infCode fp32, 0)
     | 2 => (withSign fp32 s 0, 0)
     | 3 => if s then (nanCode fp32, flNV) else (0, 0)
     | 4 => if s then (nanCode fp32, flNV) else (infCode fp32, 0)
     | 5 => (nanCode fp32, flNV)
     | 6 => (nanCode fp32, flNV)
     | 7 => (withSign fp32 s one, 0)
     | 8 => if s then (0, 0) else (one, 0)
     | 9 => (withSign fp32 s one, 0)
     | 12 => if s then (0, 0) else (infCode fp32, 0)
     | _ => if s then (withSign fp32 true 0, 0) else (infCode fp32, 0))
  | .fin s n d =>
    -- tanh and erf are odd as mappings of bits
    let odd := s && (decide (f = 7) || decide (f = 9))
    -- -0 is the input +0 of the other monotone functions
    let bounded := (if odd then (let y := sfnBounded f (x % 2 ^ 31) false n d; if nbit y 31 then y % 2 ^ 31 else 2 ^ 31 + y)
                    else sfnBounded f (if n = 0 ∧ sfnMono f then 0 else x) s n d, 0)
    (match f with
     | 0 =>
       if !s && decide (128 * d ≤ n) then (infCode fp32, flOF)
       else bounded
     | 1 =>
       if n = 0 then (withSign fp32 true (infCode fp32), flDZ)
       else if s then (nanCode fp32, flNV)
       else bounded
     | 2 =>
       if n = 0 then (withSign fp32 s (infCode fp32), flDZ)
       else let r := fround fp32 .rn true 0 (.fin s d n); (r.1, Nat.land r.2 flOF)
     | 3 =>
       if n = 0 then (withSign fp32 s (infCode fp32), flDZ) else if s then (nanCode fp32, flNV) else bounded
     | 4 =>
       if n = 0 then (x, 0) else if s then (nanCode fp32, flNV) else ((fround fp32 .rn true 0 (fxSqrt (.fin false n d))).1, 0)
     | _ => bounded)

def execSfn (g d a f : Nat) (s : State) : Out :=
  floatOp (req2 d a) g d (fun _ => false) (fun s L => sfnEval f (rdV s.k a L).toNat) s

/-! ### Loadable slots (R272 to R275) -/

def tabF (t : List Byte) (o : Nat) : Fx := fdec fp32 (leAt t o 4)
def tabC (t : List Byte) (k i : Nat) : Fx := tabF t (64 + 32 * k + 4 * i)
def isFin (x : Fx) : Bool := match x with | .fin _ _ _ => true | _ => false

/-- The lowest byte offset of an offending field of a slot table, none when it is valid (R273). A condition between fields that fails is laid to
BELOW or ABOVE, and that of SYM 01 with MONO to the field that gives the value for +0 (log entry 117). -/
def slotBad (t : List Byte) : Option Nat :=
  let fl := leAt t 3 1
  let sym := nb fl 3 2
  let mono := nbit fl 0
  let dec_ := nbit fl 1
  let nseg := leAt t 4 1
  let deg := leAt t 5 1
  let xlo := tabF t 8
  let xhi := tabF t 12
  let below := tabF t 16
  let above := tabF t 20
  let c0 := tabC t 0 0
  let cl := tabC t (nseg - 1) 0
  let late := fxLt fxZero xlo
  let start := if late then below else c0
  let badStart := decide (sym = 1) && mono && (if dec_ then fxLt fxZero start else fxLt start fxZero)
  let res := (List.range 40).find? fun i => decide (leAt t (24 + i) 1 ≠ 0)
  let coef := (List.range (8 * nseg)).find? fun j => !isFin (tabC t (j / 8) (j % 8)) || (decide (deg < j % 8) && decide (leAt t (64 + 4 * j) 4 % 2 ^ 31 ≠ 0))
  if leAt t 0 2 ≠ 0x5346 then some 0
  else if leAt t 2 1 ≠ 1 then some 2
  else if sym = 3 ∨ fl / 16 ≠ 0 ∨ (mono = true ∧ sym = 2) then some 3
  else if !([1, 2, 4, 8, 16, 32, 64].contains nseg) then some 4
  else if 7 < deg then some 5
  else if leAt t 6 2 ≠ 0 then some 6
  else if !isFin xlo || (decide (sym ≠ 0) && fxLt xlo fxZero) then some 8
  else if !isFin xhi || !fxLt xlo xhi then some 12
  else if fxIsNan below || (mono && (if dec_ then fxLt below c0 else fxLt c0 below)) || (badStart && late) then some 16
  else if fxIsNan above || (mono && (if dec_ then fxLt cl above else fxLt above cl)) then some 20
  else match res with
    | some _ => some 24
    | none => if badStart then some 64 else coef.map fun j => 64 + 4 * j

/-- round to nearest FP32, as an exact value again. -/
def rn32 (x : Option Fx) : Fx := match x with | some y => fdec fp32 (fround fp32 .rn true 0 y).1 | none => .nan

/-- The polynomial of a segment by Horner's scheme, and whether a rounding overflowed: its coefficients and `u` are finite. -/
def slotPoly (t : List Byte) (k : Nat) (u : Fx) : Nat → Fx × Bool → Fx × Bool
  | 0, y => y
  | i + 1, y =>
    let z := rn32 (match fxMul y.1 u with | some p => fxAdd false p (tabC t k i) | none => none)
    slotPoly t k u i (z, y.2 || !isFin z)

/-- slot(T, x) (R274): the value of a loaded table, and whether R258's overflow occurred. -/
def slotRun (t : List Byte) (x : Nat) : Nat × Bool :=
  match fdec fp32 x with
  | .nan => (nanCode fp32, false)
  | v =>
    let sym := nb (leAt t 3 1) 3 2
    let mono := nbit (leAt t 3 1) 0
    let dec_ := nbit (leAt t 3 1) 1
    let nseg := leAt t 4 1
    let flip := decide (sym ≠ 0) && fxSign v
    let w := if flip then fxNeg v else v
    let y :=
      if fxLt w (tabF t 8) then (tabF t 16, false)
      else if fxLe (tabF t 12) w then (tabF t 20, false)
      else match fxAdd false w (fxNeg (tabF t 8)), fxAdd false (tabF t 12) (fxNeg (tabF t 8)) with
        | some (.fin _ n d), some (.fin _ m e) =>
          let zn := n * nseg * e
          let zd := d * m
          let k := zn / zd
          let u := rn32 (some (.fin false (zn % zd) zd))
          let p := slotPoly t k u (leAt t 5 1) (tabC t k (leAt t 5 1), false)
          let hi := if k + 1 < nseg then tabC t (k + 1) 0 else tabF t 20
          (if mono then (if dec_ then fxMax (fxMin p.1 (tabC t k 0)) hi else fxMin (fxMax p.1 (tabC t k 0)) hi) else p.1, p.2)
        | _, _ => (.nan, false)
    ((fround fp32 .rn true 0 (if flip ∧ sym = 1 then fxNeg y.1 else y.1)).1, y.2)

def slotEval (t : List Byte) (x : Nat) : Nat := (slotRun t x).1

def execSfnSlot (g d a n : Nat) (s : State) : Out :=
  floatOp (req2 d a) g d (fun _ => false)
    (fun s L => match mget [] s.en.slots n with
      | [] => (nanCode fp32, flNV)
      | t => (slotEval t (rdV s.k a L).toNat, 0)) s

def shapeTrap (addr off : Nat) : Stop := .trap { code := 10, cause := off % 256, addr := w64 addr, info0 := w64 off }

/-- The bytes of a uniform load of `n` bytes. -/
def loadOne (n va : Nat) (s : State) : Res (List Byte × State) := do
  let (r, s1) ← loadLanes false false 0 n [(0xFF, va)] s
  pure ((r.map (·.bytes)).flatten, s1)

/-- sfload reads the table's header, then its segments, and installs a valid table (R275). -/
def execSfload (a n : Nat) (s : State) : Out :=
  issue { priv := 1 } s fun s => do
    let va := (rdG s.k a).toNat
    if va % 64 ≠ 0 then .error (shapeTrap va 0)
    else
      let (h, s1) ← loadOne 64 va s
      let nseg := leAt h 4 1
      let ok := [1, 2, 4, 8, 16, 32, 64].contains nseg
      let (t, s2) ← if ok then loadOne (64 + 32 * nseg) va s1 else pure (h, s1)
      match slotBad t with
      | some o => .error (shapeTrap va o)
      | none => pure (retire 1 { s2 with en := { s2.en with slots := mset [] s2.en.slots n t } })

end Sys2Proof.Machine
end

