-- ==== Sys2Proof/Machine/Records.lean ====
section
/-! DEFINITION. Element formats, tensor shape records and brick pool records with their checks, the record cache, and
sampling (02 R65 to R67, 03 R78, R92 to R94, 10 R290, R305). -/
namespace Sys2Proof.Machine

/-- Bits per element of a format code (03 R78), 0 for CODED and undefined codes. -/
def codeBits (c : Nat) : Nat :=
  match c with
  | 0x01 => 4 | 0x02 => 8 | 0x03 => 16 | 0x04 => 32 | 0x05 => 64
  | 0x06 => 4 | 0x07 => 8 | 0x08 => 16 | 0x09 => 32 | 0x0A => 64
  | 0x10 => 32 | 0x11 => 16 | 0x12 => 16 | 0x13 => 8 | 0x14 => 8 | 0x15 => 4 | 0x16 => 8
  | 0x18 => 32 | 0x19 => 64 | 0x1A => 96
  | _ => 0

/-- The floating-point format of a code. -/
def codeFmt (c : Nat) : Fmt :=
  match c with
  | 0x10 => fp32
  | 0x11 => fp16
  | 0x12 => bf16
  | 0x13 => e4m3
  | 0x14 => e5m2
  | _ => e2m1

/-! ### Tensor shape records (03 R92, R93) -/

structure Shape where
  base : Nat
  fmt : Nat
  rank : Nat
  block : Nat
  fill : Nat
  ext : List Nat
  str : List Nat
  box : List Nat
  sbase : Nat
  sstr : List Nat
  deriving DecidableEq, Repr

/-- Dimension 0 has stride 0 in the lists: its elements are contiguous. -/
def shapeOf (r : List Byte) : Shape :=
  { base := leAt r 0 8, fmt := leAt r 8 1, rank := leAt r 9 1, block := leAt r 10 1, fill := leAt r 12 4,
    ext := (List.range 5).map fun d => leAt r (16 + 8 * d) 8, str := 0 :: (List.range 4).map fun d => leAt r (56 + 8 * d) 8,
    box := (List.range 5).map fun d => leAt r (88 + 4 * d) 4, sbase := leAt r 112 8,
    sstr := 0 :: (List.range 4).map fun d => leAt r (120 + 8 * d) 8 }

def Shape.e (x : Shape) (d : Nat) : Nat := x.ext.getD d 1
def Shape.s (x : Shape) (d : Nat) : Nat := x.str.getD d 0
def Shape.b (x : Shape) (d : Nat) : Nat := x.box.getD d 1
def Shape.ss (x : Shape) (d : Nat) : Nat := x.sstr.getD d 0
def Shape.bits (x : Shape) : Nat := codeBits x.fmt

/-- The last byte of an array, exact, and the field blamed when it leaves the half of its base. -/
def arrayBad (base row : Nat) (ext str : Nat → Nat) (off : Nat) : Option Nat :=
  let ds := [1, 2, 3, 4]
  let term := fun d : Nat => ((ext d : Int) - 1) * (str d : Int)
  let last : Int := base + ds.foldl (fun t d => t + term d) 0 + row - 1
  if 0 ≤ last ∧ last < 2 ^ 64 ∧ canonical base ∧ canonical last.toNat ∧ nb base 63 55 = nb last.toNat 63 55 then none
  else match (ds.filter fun d => decide (term d ≠ 0)).getLast? with
    | some d => some (off + 8 * (d - 1))
    | none => some 16

/-- The fields blamed by the rules a record breaks (R93). -/
def shapeBlames (r : List Byte) : List Nat :=
  let x := shapeOf r
  let n := x.rank
  let when := fun (b : Bool) (o : Nat) => if b then [o] else []
  let dims := fun (f : Nat → List Nat) => ((List.range 5).map f).flatten
  let four := decide (x.bits = 4)
  let row := x.e 0 * x.bits / 8
  when (decide (x.bits = 0)) 8 ++ when (n = 0 || decide (5 < n)) 9 ++
  when (!(decide (x.block = 0) || ((decide (x.block = 16) || decide (x.block = 32) || decide (x.block = 64)) && decide (0x13 ≤ x.fmt) && decide (x.fmt ≤ 0x15)))) 10 ++
  when (decide (leAt r 11 1 ≠ 0)) 11 ++ when (decide (leAt r 108 4 ≠ 0)) 108 ++ when (decide (leAt r 152 40 ≠ 0)) 152 ++
  dims (fun d =>
    if d < n then when (decide (x.e d = 0) || decide (2 ^ 48 < x.e d)) (16 + 8 * d) ++
      when (decide (x.b d = 0) || decide (min (x.e d) 65536 < x.b d)) (88 + 4 * d)
    else when (decide (x.e d ≠ 1)) (16 + 8 * d) ++ when (decide (x.b d ≠ 1)) (88 + 4 * d) ++
      (if d = 0 then [] else when (decide (x.s d ≠ 0)) (56 + 8 * (d - 1)) ++ when (decide (x.ss d ≠ 0)) (120 + 8 * (d - 1)))) ++
  when (four && decide (x.e 0 % 2 ≠ 0)) 16 ++ when (four && decide (x.b 0 % 2 ≠ 0)) 88 ++
  (if x.block ≠ 0 then when (decide (x.e 0 % x.block ≠ 0)) 16 ++ when (decide (x.b 0 % x.block ≠ 0)) 88 ++ when (decide (x.sbase = 0)) 112
   else when (decide (x.sbase ≠ 0)) 112 ++ dims (fun d => if d = 0 then [] else when (decide (x.ss d ≠ 0)) (120 + 8 * (d - 1)))) ++
  when (decide (x.base % 16 ≠ 0)) 0 ++ dims (fun d => if 1 ≤ d ∧ d < n then when (decide (x.s d % 16 ≠ 0)) (56 + 8 * (d - 1)) else []) ++
  when (decide (2 ≤ n) && decide (x.s 1 < row)) 56 ++
  dims (fun d => if 2 ≤ d ∧ d < n then when (decide (x.s d < x.s (d - 1) * x.e (d - 1))) (56 + 8 * (d - 1)) else []) ++
  (arrayBad x.base row x.e x.s 56).toList ++
  (if x.block ≠ 0 then (arrayBad x.sbase (x.e 0 / x.block) x.e x.ss 120).toList else [])

def least : List Nat → Option Nat
  | [] => none
  | x :: l => some (l.foldl min x)

def shapeBad (r : List Byte) : Option Nat := least (shapeBlames r)

/-! ### Brick pool records (02 R66) -/

def brickBad (r : List Byte) : Option Nat :=
  let d := fun o => leAt r o 2
  let n := d 16 * d 18 * d 20
  let out := fun va len => (rangeCheck va len).isSome
  let when := fun (b : Bool) (o : Nat) => if b then [o] else []
  least (when (decide (leAt r 0 8 % 1024 ≠ 0) || out (leAt r 0 8) (max 1 (1024 * n))) 0 ++ when (decide (leAt r 8 8 % 4 ≠ 0) || out (leAt r 8 8) (max 1 (4 * n))) 8 ++
    ([16, 18, 20].map fun o => when (decide (d o = 0) || decide (4096 < d o)) o).flatten ++
    when (decide (d 22 ≠ 0)) 22 ++ when (decide (leAt r 28 4 ≠ 0)) 28)

/-! ### The record cache (10 R305) -/

/-- A record of `n` bytes through the cache; `bad` names the lowest blamed field. -/
def fetchRecord (n align : Nat) (bad : List Byte → Option Nat) (addr : Nat) (s : State) : Res (List Byte × State) := do
  if addr % align ≠ 0 then .error (shapeTrap addr 0)
  else
    let mine := fun c : CachedRec => decide (c.core = s.crew.core) && decide (c.ctx = s.crew.ctx) && decide (c.addr = addr) && decide (c.bytes.length = n)
    match s.en.cache.find? mine with
    | some c => pure (c.bytes, s)
    | none =>
      let (r, s1) ← loadLanes false false 1 n [(0xFF, addr)] s
      let b := (r.map (·.bytes)).flatten
      match bad b with
      | some o => .error (shapeTrap addr o)
      | none =>
        let same := s1.en.cache.filter fun c => decide (c.core = s.crew.core)
        let keep := if same.length < 32 then s1.en.cache else s1.en.cache.erase (same.headD { core := 0, ctx := 0, addr := 0, bytes := [] })
        pure (b, { s1 with en := { s1.en with cache := keep ++ [{ core := s.crew.core, ctx := s.crew.ctx, addr := addr, bytes := b }] } })

def fetchShape (addr : Nat) (s : State) : Res (Shape × State) := do
  let (r, s1) ← fetchRecord 192 64 shapeBad addr s
  pure (shapeOf r, s1)

/-! ### Sampling (10 R290, 02 R67) -/

/-- A coordinate held inside [0, top], its cell and the exact fraction. `cells` is the number of the last cell. -/
def cellOf (u : Fx) (top lastCell : Nat) : Nat × Fx :=
  let w := fxMin (fxMax u fxZero) (.fin false top 1)
  match w with
  | .fin _ n d =>
    let c := min (n / d) lastCell
    (c, .fin false (n - c * d) d)
  | _ => (0, fxZero)

/-- Weights (1 − f, f). -/
def weights (f : Fx) : Fx × Fx :=
  match f with
  | .fin _ n d => (.fin false (d - n) d, .fin false n d)
  | x => (x, x)

def fxProd (l : List Fx) : Fx := l.foldl (fun a b => (fxMul a b).getD .nan) (.fin false 1 1)
def fxSum (l : List Fx) : Fx := l.foldl (fun a b => (fxAdd false a b).getD .nan) fxZero

/-- Corners of a cell in `n` dimensions: each a list of bits. -/
def corners : Nat → List (List Bool)
  | 0 => [[]]
  | n + 1 => (corners n).map (fun c => c ++ [false]) ++ (corners n).map (fun c => c ++ [true])

/-- The multilinear form of samples at the corners; in dimension `grad`, if any, its derivative. -/
def interp (fs : List Fx) (samples : List (List Bool × Fx)) (grad : Option Nat) : Fx :=
  fxSum (samples.map fun p =>
    fxProd (p.2 :: (List.range fs.length).map fun i =>
      let w := weights (fs.getD i fxZero)
      let hi := p.1.getD i false
      if grad = some i then (if hi then .fin false 1 1 else .fin true 1 1) else if hi then w.2 else w.1))

/-- round to FP32; an exact zero is +0. -/
def roundPos (x : Fx) : Nat := match x with | .fin _ 0 _ => 0 | _ => (fround fp32 .rn true 0 x).1

def finiteFx (x : Fx) : Bool := match x with | .fin _ _ _ => true | _ => false

/-- A run of registers whose length the record gives must lie in the allotment too; in a region each path's does (06 R166, R176). -/
def runTrap (a n : Nat) (k : Skein) : Option TrapInfo := chkRegs { runs := [(a, n)] } k <|> chkMeld { len := 0, runs := [(a, n)] } { k with meld := { k.meld with words := 0 } }

def coordFx (k : Skein) (a j L : Nat) : Fx := fdec fp32 (getV k.v (ren k L a + j) L).toNat

/-- Loads of `n` bytes at several addresses of several lanes, in order: the bytes of each. -/
def loadMany (n : Nat) (l : List (Nat × Nat)) (s : State) : Res (List Nat × State) := do
  let (r, s1) ← loadLanes false false 0 n l s
  pure (r.map fun x => ofBytes x.bytes, s1)

/-- smp of an image: one lane's cell and the addresses of its samples. -/
def imageCell (x : Shape) (us : List Fx) : List Fx × List (List Bool × Nat) :=
  let cf := (List.range x.rank).map fun d => cellOf (us.getD d fxZero) (x.e d - 1) (x.e d - 2)
  (cf.map (·.2), (corners x.rank).map fun c =>
    (c, (x.base + (List.range x.rank).foldl (fun t d =>
      let i := min ((cf.getD d (0, fxZero)).1 + b2 (c.getD d false)) (x.e d - 1)
      t + (if d = 0 then i * x.bits / 8 else i * x.s d)) 0) % 2 ^ 64))

def imageBad (x : Shape) : Option Nat :=
  if !(decide (x.fmt = 0x10) || decide (x.fmt = 0x11) || decide (x.fmt = 0x12)) then some 8
  else if !(decide (x.rank = 2) || decide (x.rank = 3)) then some 9
  else if x.block ≠ 0 then some 10 else none

/-- smp reads va and va + 1, and va + 2 for a record of rank 3 (R290). -/
def smpReq (d a : Nat) (s : State) : Req := { vs := [(d, 1), (a, 1)], runs := [(a, 2)], reads := namedRegs s.k (a, 3) }

/-- Cuts a list of loaded values into runs of `n`. -/
def runs {α : Type} (n : Nat) : Nat → List α → List (List α)
  | 0, _ => []
  | k + 1, l => l.take n :: runs n k (l.drop n)

def execSmp (g d a b : Nat) (s : State) : Out :=
  issue (smpReq d a s) s fun s => do
    let addr := (rdG s.k b).toNat
    let (x, s1) ← fetchShape addr s
    match imageBad x with
    | some o => .error (shapeTrap addr o)
    | none =>
      match runTrap a x.rank s1.k with
      | some t => .error (.trap t)
      | none =>
        let act := active s1.k g
        let us := fun L => (List.range x.rank).map fun j => coordFx s1.k a j L
        let live := (lanesOf act).filter fun L => !(us L).any fxIsNan
        let cells := live.map fun L => (L, imageCell x (us L))
        let (vals, s2) ← loadMany (x.bits / 8) ((cells.map fun c => c.2.2.map fun p => (c.1, p.2)).flatten) s1
        let res := (cells.zip (runs (2 ^ x.rank) cells.length vals)).map fun c =>
          let smp := c.1.2.2.zip c.2 |>.map fun p => (p.1.1, fdec (codeFmt x.fmt) p.2)
          (c.1.1, if smp.all (fun p => finiteFx p.2) then roundPos (interp c.1.2.1 smp none) else nanCode fp32)
        let val := fun L => ((res.find? fun r => decide (r.1 = L)).map (·.2)).getD (nanCode fp32)
        pure (retire 1 { s2 with k := wrV act d (fun L => w32 (val L)) s2.k })

/-! ### Brick pools -/

structure Brick where
  bricks : Nat
  index : Nat
  ext : List Nat
  empty : Nat
  deriving DecidableEq, Repr

def brickOf (r : List Byte) : Brick :=
  { bricks := leAt r 0 8, index := leAt r 8 8, ext := [leAt r 16 2, leAt r 18 2, leAt r 20 2], empty := leAt r 24 4 }

/-- Cells and fractions of a point: brick coordinates, local cell, fractions. -/
def brickCell (p : Brick) (us : List Fx) : List Nat × List Nat × List Fx :=
  let cf := (List.range 3).map fun d => cellOf (us.getD d fxZero) (7 * p.ext.getD d 1) (7 * p.ext.getD d 1 - 1)
  (cf.map fun c => c.1 / 7, cf.map fun c => c.1 % 7, cf.map (·.2))

def brickEntry (p : Brick) (b : List Nat) : Nat :=
  p.index + 4 * (b.getD 0 0 + p.ext.getD 0 1 * (b.getD 1 0 + p.ext.getD 1 1 * b.getD 2 0))

def brickSample (p : Brick) (n : Nat) (l : List Nat) (c : List Bool) : Nat :=
  let i := fun d => l.getD d 0 + b2 (c.getD d false)
  p.bricks + 1024 * n + 2 * (i 0 + 8 * i 1 + 64 * i 2)

/-- Value and gradient of a fetch from its samples. -/
def brickResult (fs : List Fx) (smp : List (List Bool × Fx)) : List Nat :=
  if smp.all (fun p => finiteFx p.2) then roundPos (interp fs smp none) :: (List.range 3).map (fun i => roundPos (interp fs smp (some i)))
  else List.replicate 4 (nanCode fp32)

/-! The brick partition (02 R65) -/

/-- The entry of a brick that answers a plain load of the skein in focus: tag, address, lease, fetch time (04 R109). -/
def hitBrick (s : State) (pool : Nat) (b : List Nat) (va : Nat) : Option BrickEnt :=
  if brickWays s.crew = 0 then none
  else s.hm.bricks.find? fun x =>
    decide (x.core = s.crew.core) && decide (x.ctx = s.crew.ctx) && decide (x.pool = pool) && decide (x.at_ = b) && decide (x.va = va) &&
      decide (s.gtime < x.lease) && decide (s.k.floor ≤ x.fetch) && decide (s.crew.startAt ≤ x.fetch) && x.upd.all fun u => decide (u = s.k.uid)

/-- The entry becomes the one used last. -/
def useBrick (x : BrickEnt) (s : State) : State := modHm (fun h => { h with bricks := h.bricks.filter (fun y => decide (y ≠ x)) ++ [x] }) s

/-- A whole brick is fetched from its home: a lease on each of its 16 lines, the entry's being the earliest; a full partition gives up
the brick used least recently. A page whose effective policy `pol` bypasses the L1 is never installed (01 R24, 04 R108). -/
def fillBrick (core ctx pool : Nat) (b : List Nat) (va key room pol : Nat) (s : State) : State :=
  if nbit pol 0 ∨ room = 0 then s
  else
    let dl := deltaOf key
    let lines := (List.range 16).map fun i => key / 16 + 4 * i
    let ends := lines.filterMap fun l => (leaseFor ctx l dl s).map fun t => (l, t)
    let s1 := ends.foldl (fun s x => recordLease x.1 x.2 dl s) (lines.foldl (fun s l => l2Access (nbit pol 1) (l / 4) s) s)
    if ends.length < 16 then s1
    else
    let ent : BrickEnt := { core := core, ctx := ctx, pool := pool, at_ := b, va := va, key := key, fetch := s.gtime, lease := ends.foldl (fun m x => min m x.2) (ends.headD (0, 0)).2 }
    let same := fun x : BrickEnt => decide (x.core = core) && decide (x.ctx = ctx) && decide (x.pool = pool) && decide (x.at_ = b)
    let l := s1.hm.bricks.filter fun x => !same x
    let mine := l.filter fun x => decide (x.core = core)
    let kept := if mine.length < room then l else match mine.head? with | some v => l.erase v | none => l
    modHm (fun h => { h with bricks := kept ++ [ent] }) s1

/-- The samples of one lane in a brick, by their addresses: from the partition, or by loads, after which the brick is in the partition
where the launch has one. -/
def brickLoad (pool : Nat) (b : List Nat) (va L : Nat) (at_ : List Nat) (s : State) : Res (List Nat × State) :=
  match hitBrick s pool b va with
  | some x =>
    let key := fun a => x.key + (a - va)
    let bad := fun a => (viewKeys s a (key a)).any fun k => s.hm.memBad.contains (k / 8)
    if at_.any (holdsPage s) then .error (.wait s 0 0)
    else match at_.find? bad with
    | some a => .error (trapAt 17 1 L a)
    | none => .ok (at_.map fun a => ofBytes [viewByte s a (key a), viewByte s (a + 1) (key a + 1)], useBrick x { s with k := { s.k with lastRead := max s.k.lastRead s.gtime } })
  | none => do
    let (r, s1) ← loadLanes false false (b2 (decide (brickWays s.crew ≠ 0))) 2 (at_.map fun a => (L, a)) s
    let s2 := match leafAt s1 s1.crew.ctx va with
      | some l => if brickWays s.crew = 0 ∨ l.resid = 2 then s1 else fillBrick s.crew.core s.crew.ctx pool b va (keyOf l va) (brickRoom s.crew.core s) l.cpol s1
      | none => s1
    pure (r.map fun x => ofBytes x.bytes, s2)

/-- R67's fetch of one lane at a point: value and gradient. -/
def poolLane (pool : Nat) (p : Brick) (L : Nat) (us : List Fx) (s : State) : Res (List Nat × State) :=
  if us.any fxIsNan then .ok (List.replicate 4 (nanCode fp32), s)
  else do
    let c := brickCell p us
    let (idx, s1) ← loadMany 4 [(L, brickEntry p c.1 % 2 ^ 64)] s
    let n := idx.headD 0
    if n = 0xFFFFFFFF then pure ([p.empty, 0, 0, 0], s1)
    else
      let (vals, s2) ← brickLoad pool c.1 ((p.bricks + 1024 * n) % 2 ^ 64) L ((corners 3).map fun q => brickSample p n c.2.1 q % 2 ^ 64) s1
      pure (brickResult c.2.2 ((corners 3).zip (vals.map (fdec fp16))), s2)

/-- What became of the lanes of a fetch: values, the first trap, the first trap of R15 to R23, whether a lane waits. -/
structure PoolRun where
  vals : List (Nat × List Nat) := []
  first : Option TrapInfo := none
  access : Option TrapInfo := none
  waits : Bool := false
  deriving DecidableEq, Repr

/-- One lane more. -/
def poolStep (pool : Nat) (p : Brick) (us : Nat → List Fx) (x : PoolRun × State) (L : Nat) : Res (PoolRun × State) :=
  match poolLane pool p L (us L) x.2 with
  | .ok (v, s) => .ok ({ x.1 with vals := x.1.vals ++ [(L, v)] }, s)
  | .error (.trap t) => .ok ({ x.1 with first := x.1.first <|> some t, access := x.1.access <|> (if t.code = 5 ∨ t.code = 6 then some t else none) }, x.2)
  | .error (.wait s _ _) => .ok ({ x.1 with waits := true }, s)
  | .error (.bad f) => .error (.bad f)

/-- The lanes of a fetch. A fault of R15 to R23 in any lane comes before the wait of another (01 R35); of several faults the lowest lane's
decides (R47). -/
def poolLanes (pool : Nat) (p : Brick) (us : Nat → List Fx) (lanes : List Nat) (s : State) : Res (List (Nat × List Nat) × State) := do
  let (r, t) ← lanes.foldlM (poolStep pool p us) ({}, s)
  match (if r.waits then r.access else r.first) with
  | some x => .error (.trap x)
  | none => if r.waits then .error (.wait t 0 0) else pure (r.vals, t)

/-- smp.pool writes vd to vd + 3 and reads va to va + 2. -/
def poolReq (d a : Nat) (s : State) : Req := { vs := [(d, 4), (a, 1)], runs := [(a, 3)], reads := namedRegs s.k (a, 3) }

def execSmpPool (g d a b : Nat) (s : State) : Out :=
  issue (poolReq d a s) s fun s => do
    let addr := (rdG s.k b).toNat
    let (r, s1) ← fetchRecord 32 32 brickBad addr s
    let act := active s1.k g
    let us := fun L => (List.range 3).map fun j => coordFx s1.k a j L
    let (res, s2) ← poolLanes addr (brickOf r) us (lanesOf act) s1
    let out := fun L => ((res.find? fun x => decide (x.1 = L)).map (·.2)).getD []
    pure (retire 1 { s2 with k := wrWide act d 4 (fun L => ((out L).map fun v => toBytes 4 v).flatten) s2.k })

end Sys2Proof.Machine
end

