-- ==== Sys2Proof/Machine/Sync.lean ====
section
/-! DEFINITION. Crew and level barriers, counts and fences, barrier objects, traps raised by instruction, nop, halt and
eret (06 R160 to R164, 08 R243 to R250, 10 R304 to R306, 16 R418). -/
namespace Sys2Proof.Machine

/-! ### Standing at a barrier (06 R163) -/

/-- The skein's lanes stand at barrier (level, b); the stall timer runs from the first of the crew. -/
def standAt (l b : Nat) (s : State) : State :=
  if l = 2 then
    let c : CrewBar := mget {} s.crew.bars b
    let c1 := if c.standers.contains s.k.sid then c else { c with standers := c.standers ++ [s.k.sid] }
    let c2 := if c1.stand.isSome then c1 else { c1 with stand := some s.clocks, exp := ctxBstall s s.crew.ctx, addr := s.k.e.pc }
    { s with crew := { s.crew with bars := mset {} s.crew.bars b c2 } }
  else
    let a := getLevelArr s.crew l
    let a1 := { a with addr := s.k.e.pc }
    if a.clock.isSome ∨ a.made = 0 then { s with crew := setLevelArr a1 s.crew }
    else { s with crew := setLevelArr { a1 with clock := some s.clocks, exp := ctxBstall s s.crew.ctx } s.crew }

/-- The skein goes on past the barrier. -/
def standOff (l b : Nat) (s : State) : State :=
  if l = 2 then
    let c : CrewBar := mget {} s.crew.bars b
    let rest := c.standers.filter fun i => decide (i ≠ s.k.sid)
    { s with crew := { s.crew with bars := mset {} s.crew.bars b { c with standers := rest, stand := if rest.isEmpty then none else c.stand } } }
  else s

/-- The entry parks (06 R163): its lanes are not the whole skein. -/
def parkEntry (s : State) : State := settle true [{ s.k.e with parked := true }] s

/-! ### Arrivals and waits (08 R243) -/

def myArrival (k : Skein) (l b : Nat) : Option BarArrival := k.arrivals.find? fun a => decide (a.level = l) && decide (a.b = b)
def dropArrival (l b : Nat) (k : Skein) : Skein := { k with arrivals := k.arrivals.filter fun a => !(decide (a.level = l) && decide (a.b = b)) }
def addArrival (a : BarArrival) (k : Skein) : Skein := { k with arrivals := k.arrivals ++ [a] }

/-- The arrival's phase is over: the generation is complete, or the flip is there and, at a merge point, the skeins are
released (05 R149). -/
def phaseOver (a : BarArrival) (s : State) : Bool :=
  if a.level = 2 then decide (a.gen < (mget {} s.crew.bars a.b : CrewBar).gen)
  else
    let x := getLevelArr s.crew a.level
    decide (a.gen < x.made) && decide (flipsOf s s.crew.ctx (levelObj s.crew a.level) ≠ x.flips)

/-- What the skein observes once its phase is over (06 R161, R162): the acquire fence, and the floor. -/
def observe (l b : Nat) (s : State) : State :=
  let s1 := acquire s
  let fl := if l = 2 then (mget {} s.crew.bars b : CrewBar).relTime else s.gtime
  { s1 with k := dropArrival l b { s1.k with floor := max s1.k.floor fl } }

/-- The scope of a barrier's release fence. -/
def barScope (c : Crew) (l : Nat) : Nat := if l = 2 then 1 else (levelRec c.lrec l).scope

/-- The skein's arrival after its release fence. `at_` is set by a full form that stands there. -/
def arriveAt (l b : Nat) (at_ : Option Word64) (s : State) : State :=
  if l = 2 then
    let c : CrewBar := mget {} s.crew.bars b
    let k := addArrival { level := l, b := b, gen := c.gen, at_ := at_ } s.k
    checkBars { s with k := k, crew := { s.crew with bars := mset {} s.crew.bars b { c with arrived := insNat s.k.sid c.arrived } } }
  else
    let x := getLevelArr s.crew l
    let k := addArrival { level := l, b := b, gen := x.made, at_ := at_ } s.k
    levelCheck l { s with k := k, crew := setLevelArr { x with fenced := insNat s.k.sid x.fenced } s.crew }

/-- The traps that a merge leaves for this skein at its barrier: a conflict, a store that failed (05 R149, R150, 16 R413). -/
def conflictAt (l : Nat) (s : State) : List TrapInfo :=
  match s.sch.launches.find? (fun x => decide (x.uid = s.crew.launch)) with
  | none => []
  | some x => ((x.merged.find? fun m => decide (m.1 = l)).map (·.2.2)).getD []

/-- Goes past a barrier that has been observed; what the merge left is reported there, the lowest code first and the other pending, or
stays pending in a handler. -/
def passBar (l b : Nat) (s : State) : State :=
  let s1 := standOff l b (observe l b s)
  let later := fun (ts : List TrapInfo) (k : Skein) => { k with pending := k.pending ++ ts.map fun t => { t with after := false } }
  match (if 3 ≤ l ∧ isMergeLevel s.crew l then conflictAt l s else []) with
  | [] => retire 1 s1
  | t :: ts => if s.k.handler then retire 1 { s1 with k := later (t :: ts) s1.k }
               else takeTrap false { t with after := true } { s1 with k := later ts s1.k }

/-- An arm of a barrier that observes an earlier arrival's phase before its own: what a merge left for the skein there is pending, and outside a
handler the instruction is not performed before it is taken (16 R413). -/
def observeFirst (l b : Nat) (s : State) : State × Bool :=
  let ts := if 3 ≤ l ∧ isMergeLevel s.crew l then conflictAt l s else []
  let s1 := observe l b s
  ({ s1 with k := { s1.k with pending := s1.k.pending ++ ts.map fun t => { t with after := false } } }, !ts.isEmpty && !s.k.handler)

/-- The skein waits at barrier (level, b). -/
def barWaits (l b stage : Nat) (s : State) : Res State := .error (.wait (beginWaitOn 1 stage [l, b] s) 1 stage)

/-- Undeclared barriers, and any barrier in a basket-role skein (R243, R211 check 12). -/
def barUndeclared (l b : Nat) (s : State) : Bool :=
  s.k.basket || (if l = 2 then decide (nb s.crew.lrec.flags 6 4 ≤ b) else decide ((levelRec s.crew.lrec l).size = 0))

/-- The three forms: 0 full, 1 arrive, 2 wait. -/
def barForm (form l b : Nat) (s : State) : Out :=
  conclude false s (
    if barUndeclared l b s then .error (.trap { code := 1, cause := 5 })
    else match check { noMeld := true } s with
    | some t => .error (.trap t)
    | none =>
      let s0 := if form = 1 then s else standAt l b s
      if s.k.e.mask ≠ liveMask s.k then .ok (parkEntry s0)
      else
        let mine := myArrival s.k l b
        let stood := match mine with | some a => decide (form = 0) && decide (a.at_ = some s.k.e.pc) | none => false
        if decide (form = 2) || stood then
          match mine with
          | none => .ok (retire 1 (standOff l b (acquire s0)))
          | some a => if phaseOver a s0 then .ok (passBar l b s0) else barWaits l b 0 s0
        else
          match (match mine with
            | none => some (s0, false)
            | some a => if phaseOver a s0 then some (observeFirst l b s0) else none) with
          | none => barWaits l b 1 s0
          | some (s1, true) => .ok { s1 with k := { s1.k with wait := none } }
          | some (s1, false) =>
            if !releaseDone (barScope s.crew l) s1 then barWaits l b 2 s1
            else if form = 1 then .ok (retire 1 (arriveAt l b none s1))
            else
              let s2 := arriveAt l b (some s.k.e.pc) s1
              match myArrival s2.k l b with
              | none => .ok (retire 1 s2)
              | some a => if phaseOver a s2 then .ok (passBar l b s2) else barWaits l b 0 s2)

def execBar (l b : Nat) (s : State) : Out := barForm 0 l b s
def execBarArrive (l b : Nat) (s : State) : Out := barForm 1 l b s
def execBarWait (l b : Nat) (s : State) : Out := barForm 2 l b s

/-! ### Counts and fences (08 R244, R245) -/

/-- Operations of the copies class and of the tile class (08 R244, 06 R169). -/
def isTileOp (k : OpKind) : Bool :=
  match k with
  | .mma | .mmas | .cmma | .accz | .accin | .accout | .accmov | .trow _ => true
  | _ => false

def copyCount (s : State) : Nat := (s.en.ops.filter fun o => decide (o.uid = s.k.uid) && !isTileOp o.kind).length
def tileCount (s : State) : Nat := (s.en.ops.filter fun o => isTileOp o.kind && (decide (o.uid = s.k.uid) || o.members.contains s.k.uid)).length

/-- Loads are complete when they issue, so the count of loads is zero at every issue (log entry 6). -/
def execWaitc (l z c t : Nat) (s : State) : Out :=
  issue {} s fun s =>
    if 0 ≤ l ∧ storeCount s ≤ z ∧ copyCount s ≤ c ∧ tileCount s ≤ t then .ok (retire 1 s) else .error (.wait s 0 0)

/-- The oldest deferred store fault of the crew, as the trap that reports it (01 R36, 16 R415). -/
def storeFaultTrap (d : DefStore) : TrapInfo :=
  { code := 16, cause := d.cause, addr := d.va, info0 := d.pc, info1 := w64 d.sid, deferred := true, after := true }

/-- The end of a fence instruction: it reports a deferred store fault outside handler mode, or goes on. -/
def fenceEnd (s : State) : State :=
  match s.crew.defStores with
  | d :: l =>
    if s.k.handler then retire 1 s
    else
      let k1 := { s.k with meld := meldOn 1 s.k.meld }
      takeTrap false (storeFaultTrap d) { s with crew := { s.crew with defStores := l }, k := k1 }
  | [] => retire 1 s

def fence (rel acq : Bool) (scope : Nat) (s : State) : Out :=
  issue {} s fun s =>
    if (rel ∧ !releaseDone scope s) ∨ crewParked s then .error (.wait s 0 0)
    else .ok (fenceEnd (if acq then acquire s else s))

def execFenceRel (scope : Nat) (s : State) : Out := fence true false scope s
def execFenceAcq (_scope : Nat) (s : State) : Out := fence false true 0 s
def execFenceAr (scope : Nat) (s : State) : Out := fence true true scope s

/-! ### Barrier objects in instructions (10 R304) -/

/-- The condition of bwait and btest on a flip count. -/
def flipHolds (phase f : Nat) : Bool := decide ((phase / 2 + 2 ^ 31 - f % 2 ^ 31) % 2 ^ 31 < 2 ^ 30)

/-- The scope of an object by its home: crew in scratch, device in a LOCAL page, fabric in a REMOTE page. -/
def objScope (key : Nat) : Nat := match keyDev key with | none => 3 | some _ => 4

/-- Binit writes the object as a store does, into the patch within a merge range (10 R304, log entry 120). -/
def execBinit (a b o : Nat) (s : State) : Out :=
  issue { stores := true } s fun s => do
    let obj := rdG s.k a
    let img := toBytes 4 ((rdG s.k b).toNat % 2 ^ 32) ++ List.replicate 12 0#8
    let s1 ← checkObj (decide (o = 1)) obj s
    if o = 1 then pure (retire 1 { s1 with crew := putWin obj.toNat img s1.crew })
    else
      let s2 ← storeLanes 16 [(0xFF, obj.toNat)] (fun _ => img) s1
      pure (retire 1 s2)

/-- A skein's arrival on an object in memory, an atomic of its own: its later accesses see it, and follow it as its read (04 R114, R119). -/
def arriveOwn (key n : Nat) (s : State) : State :=
  let s1 := rmwObject s.k.uid s.crew.uid s.crew.core s.crew.ctx key (fun x => arriveNat x n 0 none false) (deliverLine s.k.uid (lineOf key) s)
  { s1 with k := { s1.k with lastRead := max s1.k.lastRead (mget 0 s1.hm.lineC (lineOf key)) } }

/-- Barrive: an arrival changes the object at its home, within a merge range too (10 R304, log entry 120). -/
def execBarrive (a b o : Nat) (s : State) : Out :=
  issue { stores := true } s fun s => do
    let obj := rdG s.k a
    let n := (rdG s.k b).toNat % 2 ^ 32
    if o = 1 then
      let s1 ← checkObj true obj s
      let bytes := [((0xFF : Nat), (obj.toNat : Int), 16)]
      match winUncorr s1.crew bytes with
      | some t => .error t
      | none =>
        let s2 ← release 1 s1
        pure (retire 1 (correctScr bytes { s2 with crew := putWin obj.toNat (toBytes 16 (arriveNat (winNat s2.crew obj.toNat 16) n 0 none false)) s2.crew }))
    else
      let (r, s1) ← resolve .atomic false (if flightStage s = 2 then none else some 3) 16 [(0xFF, obj.toNat)] s
      match r.findSome? (fun a => (badWord s a).map fun va => trapAt 17 1 0xFF va) with
      | some t => .error t
      | none =>
        let key := match r with | x :: _ => atKey x | [] => 0
        let s2 ← release (objScope key) s1
        if r.any (fun x => (absentAt x).isSome) then pure (retire 1 s2)
        else if heldPage s2 key then .error (.wait s2 0 0)
        else
          let _ ← setOut [(obj.toNat, key)] s2
          pure (retire 1 (arriveOwn key n s2))

/-- One acquire read of an object's PHASE, in the task's view within a merge range (log entry 120). -/
def readPhase (scr : Bool) (obj : Word64) (s : State) : Res (Nat × State) := do
  if scr then
    let s1 ← checkObj true obj s
    match winUncorr s1.crew [(0xFF, (obj.toNat : Int) + 8, 4)] with
    | some t => .error t
    | none => pure (winNat s1.crew (obj.toNat + 8) 4, bankRead true (correctScr [(0xFF, (obj.toNat : Int) + 8, 4)] s1))
  else
    let (_, s1) ← objHome obj s
    let (r, s2) ← loadLanes true false 0 4 [(0xFF, obj.toNat + 8)] s1
    pure (ofBytes (laneBytes r 0xFF), s2)

def execBwait (a b o : Nat) (s : State) : Out :=
  issue { noMeld := true } s fun s => do
    let (p, s1) ← readPhase (decide (o = 1)) (rdG s.k a) s
    if flipHolds p ((rdG s.k b).toNat % 2 ^ 31) then pure (retire 1 s1) else .error (.wait s1 5 0)

def execBtest (d a b o : Nat) (s : State) : Out :=
  issue {} s fun s => do
    let (p, s1) ← readPhase (decide (o = 1)) (rdG s.k a) s
    pure (retire 1 { s1 with k := wrG d (w64 (b2 (flipHolds p ((rdG s.k b).toNat % 2 ^ 31)))) s1.k })

/-- shfence: a device-scope release fence, then the context's record-cache entries at the address, or all of them (R306). -/
def execShfence (a : Nat) (s : State) : Out :=
  issue {} s fun s => do
    let s1 ← release 3 s
    let hit := fun c : CachedRec => decide (c.ctx = s1.crew.ctx) && (decide (a = 0) || decide (c.addr = (rdG s1.k a).toNat))
    pure (retire 1 { s1 with en := { s1.en with cache := s1.en.cache.filter fun c => !hit c } })

/-! ### The system group (08 R249, R250, 16 R418) -/

def execNop (s : State) : Out := issue {} s fun s => .ok (retire 1 s)

/-- trap and brk: taken by the whole skein with epc past the instruction. -/
def raiseAfter (code c : Nat) (s : State) : Out :=
  issue {} s fun s =>
    .ok (takeTrap false { code := code, info0 := w64 c, after := true } { s with k := { s.k with meld := meldOn 1 s.k.meld } })

def execTrap (c : Nat) (s : State) : Out := raiseAfter 0x12 c s
def execBrk (c : Nat) (s : State) : Out := raiseAfter 0x13 c s

/-- A lane that a handler has moved elsewhere no longer stands at the barrier it arrived at. -/
def forgetStand (s : State) : State :=
  match s.k.held with
  | some h =>
    match h.frontier with
    | e :: _ => if e.pc = s.k.epc then s
                else { s with k := { s.k with arrivals := s.k.arrivals.map fun a => if a.at_ = some e.pc then { a with at_ := none } else a } }
    | [] => s
  | none => s

def execEret (s : State) : Out :=
  if !s.k.handler then conclude false s (.error (.trap { code := 1, cause := 9 }))
  else issue { full := true } s fun s => .ok (leaveHandler (forgetStand s))

/-- halt: every skein of the crew stops issuing, and the crew is reported (R250). -/
def execHalt (s : State) : Out :=
  issue { priv := 1 } s fun s =>
    let s1 := retire 1 s
    .ok (emit (.halted (s.crew.core + 2048 * s.crew.slot) s.crew.ctx) { s1 with crew := { s1.crew with halted := true } })

end Sys2Proof.Machine
end

