-- ==== Sys2Proof/Machine/Async.lean ====
section
/-! DEFINITION. Asynchronous operations: issue, the accesses they make after issue, page failures, arrivals and ends
(05 R127 to R142, 10 R292, R293, 16 R422). -/
namespace Sys2Proof.Machine

/-! ### Issue (05 R127, R140, 10 R292) -/

/-- Bits of the status word (05 R134). -/
def stUEOPND : Nat := 2
def stUEACC : Nat := 8
def stSPARSE : Nat := 16
def stSAT : Nat := 32
def stNAN : Nat := 64
def stDECODE : Nat := 128
def stOVERFLOW : Nat := 256
def stSTALE : Nat := 512
def stPEER : Nat := 1024
def stFAULT : Nat := 2048
def stCLOSED : Nat := 8192

/-- An operation of the skein in focus as it is captured at issue. -/
def newOp (kind : OpKind) (obj : Obj) (s : State) : Op :=
  { id := s.ids + 1, uid := s.k.uid, cuid := s.crew.uid, core := s.crew.core, slot := s.crew.slot, ctx := s.crew.ctx, sid := s.k.sid,
    kind := kind, obj := obj, fmode := s.k.fmode, floor := s.k.floor }

def modEn (f : Engines → Engines) (s : State) : State := { s with en := f s.en }
def setOp (o : Op) (s : State) : State := modEn (fun e => { e with ops := e.ops.map fun q => if q.id = o.id then o else q }) s
def dropOp (id : Nat) (s : State) : State := modEn (fun e => { e with ops := e.ops.filter fun q => decide (q.id ≠ id) }) s

/-- The operations that a crew may hold only eight of (16 R422). -/
def isLong (k : OpKind) : Bool := match k with | .march _ | .mresume | .npairs | .draw => true | _ => false

/-- A count of the operation's class is at its limit, or the crew holds eight long operations. -/
def opFull (kind : OpKind) (s : State) : Bool :=
  decide (255 ≤ (if isTileOp kind then tileCount s else copyCount s)) ||
    (isLong kind && decide (8 ≤ (s.en.ops.filter fun o => decide (o.cuid = s.crew.uid) && isLong o.kind).length))

/-- The operation starts, and the instruction ends. -/
def startOp (o : Op) (s : State) : Res State :=
  if opFull o.kind s then .error (.wait s 0 0)
  else .ok (retire 1 (modEn (fun e => { e with ops := e.ops ++ [o] }) { s with ids := s.ids + 1 }))

/-- The object that OSCR and a register value name; `opt` allows none (a zero address outside scratch). -/
def objOf (scr : Bool) (x : Word64) : Obj := if scr then .scr x.toNat else if x = 0#64 then .none else .va x

def illOp (cause : Nat) : Stop := .trap { code := 1, cause := cause }

/-- A global range checked at issue under R15 and R16. -/
def chkGlob (va n : Nat) (s : State) : Res Unit :=
  if n = 0 then .ok ()
  else match rangeCheck va n with
    | some (c, a) => .error (trapAt 5 c 0xFF a)
    | none => if !isPriv s && decide (nb va 63 55 = 511) then .error (trapAt 6 6 0xFF va) else .ok ()

/-- A range of a window of `W` bytes checked at issue under R13. -/
def chkWin (W off n : Nat) : Res Unit :=
  match scrBad W off n with
  | some x => .error (.trap { code := 9, cause := 1, addr := w64 (wrap64 x) })
  | none => .ok ()

def chkRange (scr : Bool) (a n : Nat) (s : State) : Res Unit := if scr then chkWin (winSize s.crew) a n else chkGlob a n s

/-- A global destination must not meet a merge range (05 R150). -/
def chkMerge (c : Crew) (va n : Nat) : Res Unit :=
  match c.mergeRanges.find? (fun r => decide (r.1 < va + n) && decide (va < r.1 + r.2)) with
  | some r => .error (trapAt 14 3 0xFF (max r.1 va))
  | none => .ok ()

/-- Bytes of a window as an engine reads them: a word with an uncorrectable error counts as zero (05 R142). -/
def engWin (c : Crew) (off n : Nat) : List Byte × Nat :=
  let bad := fun i => c.winBad.contains ((off + i) / 8)
  ((List.range n).map fun i => if bad i then 0#8 else winByte c (off + i), if (List.range n).any bad then stUEOPND else 0)

/-! ### Accesses after issue (05 R138, 10 R293) -/

inductive PageSt where
  | ok (l : Leaf)
  | failing
  | gone
  | waiting
  deriving DecidableEq, Repr

/-- The permissions that an access needs (01 R23). -/
def accAllowed (acc : Acc) (l : Leaf) : Bool :=
  match acc with
  | .read => l.rd
  | .write => l.w
  | .atomic => l.rd && l.w
  | .exec => l.x

/-- How a page stands for an operation's access: the checks of 01 R15, R22 and R23, then its residency. A write to a page in hold is
answered RETRY, and an atomic on a host page is none (01 R39, R46). -/
def pageSt (o : Op) (acc : Acc) (va : Nat) (s : State) : PageSt :=
  let priv := s.privCtx.contains o.ctx
  match (if canonical va && (priv || decide (nb va 63 55 = 0)) then leafAt s o.ctx va else none) with
  | none => .failing
  | some l =>
    if (l.priv && !priv) || !accAllowed acc l || (decide (acc = .atomic) && decide (l.resid = 1) && decide (l.home = 255)) then .failing
    else if l.resid ≠ 2 then (if acc ≠ .read ∧ heldPage s (keyOf l va) then .waiting else .ok l)
    else match s.xl.failing.find? (fun f => decide (f.op = o.id) && decide (f.page ≤ va) && decide (va < f.page + f.size)) with
      | some f => if f.cause = 2 ∨ (l.home ≠ ownDev s ∧ !inSet s l.home) then .gone else .failing
      | none => .waiting

/-- What an operation reads or writes: a range of virtual global space, or of a crew's window; or a brick of a pool (12 R340). -/
inductive Need where
  | mem (acc : Acc) (va len : Nat)
  | win (cuid off len : Nat)
  | brick (pool : Nat) (at_ : List Nat) (va : Nat)
  deriving DecidableEq, Repr

/-- What an engine reads: bytes, which of them lie in a failing page, status bits, ranges touched. -/
structure Rd where
  bytes : List Byte
  fails : List Bool := []
  st : Nat := 0
  need : List Need := []
  deriving DecidableEq, Repr

/-- The status bit of a page that fails: PEER for put and get when the other part is gone (10 R295). -/
def failBit (o : Op) (p : PageSt) : Nat :=
  match p, o.kind with
  | .gone, .cpy 10 => stPEER
  | .gone, .cpy 11 => stPEER
  | _, _ => stFAULT

def opReader (o : Op) : Reader := (o.id, 0)

/-- The status of the host's answer for the byte at `key`, when the byte lies in a host page (17 R432). -/
def hostByte (o : Op) (s : State) (parts : List (Nat × Nat × Nat)) (key : Nat) : Nat :=
  match parts.find? (fun x => decide (x.2.1 ≤ key) && decide (key < x.2.1 + x.2.2)) with
  | some x => (hostStatus (opReader o) s x).getD 0
  | none => 0

/-- Field code reads its data as the core's loads do, through the L1 and the brick partition (02 R65, 12 R351). -/
def readsL1 (o : Op) : Bool := match o.kind with | .march _ | .mresume => true | _ => false

/-- A crew, resident or saved: an operation that runs on while its crew is saved reads the window as it was saved (R139). -/
def crewOf (s : State) (cuid : Nat) : Option Crew := ((allCrews s ++ s.sch.saved.map (·.crewRec)).find? fun c => decide (c.crew.uid = cuid)).map (·.crew)

/-- A copy in the core under lease serves the operation: not fetched before the acquire floor at issue, and without the bytes of a store that
has not completed, of whatever skein, since the pending view plays no part (04 R109, 12 R351). -/
def servesOp (o : Op) (s : State) (c : Crew) (fetch lease : Nat) (upd : List Nat) : Bool :=
  decide (s.gtime < lease) && decide (o.floor ≤ fetch) && decide (c.startAt ≤ fetch) && upd.isEmpty

/-- The sector that answers an operation's read. -/
def opSector (o : Op) (s : State) (va16 : Nat) : Option Sector :=
  match crewOf s o.cuid with
  | none => none
  | some c => s.hm.l1.find? fun x => sameL1 c.fused x.core o.core && decide (x.ctx = o.ctx) && decide (x.va16 = va16) && servesOp o s c x.fetch x.lease x.upd

/-- The home addresses of a range that sectors of the L1 hold throughout: it is read without a translation (01 R25). -/
def opHeld (o : Op) (s : State) (va n : Nat) : Option (List Nat) :=
  if readsL1 o then (List.range n).mapM fun i => (opSector o s ((va + i) / 16)).map fun x => 16 * x.pa16 + (va + i) % 16 else none

/-- Bytes that a copy in the core holds: the home's (04 R111). -/
def heldBytes (s : State) (keys : List Nat) : Rd :=
  let bad := fun k => s.hm.memBad.contains (k / 8)
  { bytes := keys.map fun k => if bad k then 0#8 else memByte s k, st := if keys.any bad then stUEOPND else 0 }

/-- One part of a read in one page: a word with an uncorrectable error, also at the host, counts as zero (R142), and so does a byte that
the host does not give (R138). -/
def readPart (o : Op) (s : State) (g : Nat × Nat) : Rd :=
  match opHeld o s g.1 g.2 with
  | some keys => { heldBytes s keys with fails := List.replicate g.2 false }
  | none =>
  match pageSt o .read g.1 s with
  | .ok l =>
    let key := keyOf l g.1
    let parts := hostParts [spanOf l g]
    let code := fun i => hostByte o s parts (key + i)
    let bad := fun i => s.hm.memBad.contains ((key + i) / 8) || decide (code i = 5)
    let st := (List.range g.2).foldl (fun m i => Nat.lor m (if bad i then stUEOPND else if code i ≠ 0 then stFAULT else 0)) 0
    { bytes := (List.range g.2).map (fun i => if bad i || decide (code i ≠ 0) then 0#8 else memByte s (key + i)),
      fails := (List.range g.2).map (fun i => decide (code i ≠ 0) && decide (code i ≠ 5)), st := st, need := [.mem .read g.1 g.2] }
  | p => { bytes := List.replicate g.2 0#8, fails := List.replicate g.2 (decide (p ≠ .waiting)), st := if p = .waiting then 0 else failBit o p, need := [.mem .read g.1 g.2] }

def joinRd (a b : Rd) : Rd := { bytes := a.bytes ++ b.bytes, fails := a.fails ++ b.fails, st := Nat.lor a.st b.st, need := a.need ++ b.need }

/-- A global read at the homes. -/
def engRead (o : Op) (va n : Nat) (s : State) : Rd :=
  if n = 0 then { bytes := [] } else ((granules va n).map (readPart o s)).foldl joinRd { bytes := [] }

/-- A read of the issuing crew's window or of global memory. What a copy that outlives its crew finds in the window is not stated (log entry
17). -/
def engRd (o : Op) (scr : Bool) (a n : Nat) (s : State) : Rd :=
  if scr then
    match crewOf s o.cuid with
    | some c => let r := engWin c a n; { bytes := r.1, st := r.2, need := [.win o.cuid a n] }
    | none => { bytes := (List.range n).map fun i => BitVec.ofNat 8 (Config.unstated 5 [o.id, a + i]).toNat }
  else engRead o a n s

/-- A write of an operation: into the window of a crew, or to virtual global space. -/
structure Wr where
  scr : Option Nat
  addr : Nat
  bytes : List Byte
  /-- leaves full/empty bits unchanged (09 R278, 11 R327) -/
  keep : Bool := false
  deriving DecidableEq, Repr

/-- What an operation reads and writes, given the memory as it stands. -/
structure Plan where
  writes : List Wr := []
  st : Nat := 0
  need : List Need := []
  idx : Option (Bool × Nat) := none
  /-- global stores made once the writes have their completion times -/
  later : List (Nat × List Byte) := []
  deriving DecidableEq, Repr

/-- What a global store asks for. -/
def storeNeeds (a : Nat) (l : List Byte) : List Need := if l = [] then [] else (granules a l.length).map fun g => .mem .write g.1 g.2

def planNeeds (p : Plan) : List Need :=
  p.need ++ (p.writes.flatMap fun w => if w.scr.isSome then [] else storeNeeds w.addr w.bytes) ++ p.later.flatMap fun w => storeNeeds w.1 w.2

/-- The READs that a range of a host page still lacks an answer to. -/
def hostLacks (o : Op) (acc : Acc) (va len : Nat) (s : State) : List (Nat × Nat × Nat) :=
  match (if acc = .read then pageSt o acc va s else .gone) with
  | .ok l => (hostParts [spanOf l (va, len)]).filter fun x => (hostStatus (opReader o) s x).isNone
  | _ => []

def needWaits (o : Op) (s : State) (n : Need) : Bool :=
  match n with
  | .mem acc va len => decide (pageSt o acc va s = .waiting) || !(hostLacks o acc va len s).isEmpty
  | _ => false

/-- The ranges that hold the operation up. -/
def waitingPages (o : Op) (need : List Need) (s : State) : List Need :=
  need.foldl (fun l n => if needWaits o s n ∧ !l.contains n then l ++ [n] else l) []

/-- The page becomes failing for the operation. -/
def failPage (o : Op) (va cause : Nat) (s : State) : State :=
  match leafAt s o.ctx va with
  | some l => modXl (fun x => { x with failing := x.failing ++ [{ op := o.id, page := va / pageBytes l.size * pageBytes l.size, size := pageBytes l.size, cause := cause }] }) s
  | none => s

/-- The operation waits for the page from now on, unless it does already. -/
def waitPage (o : Op) (va : Nat) (s : State) : State :=
  match leafAt s o.ctx va with
  | some l =>
    let n := pageBytes l.size
    if s.xl.waits.any (fun w => decide (w.op = o.id) && decide (w.ctx = o.ctx) && decide (w.page = va / n * n)) then s
    else modXl (fun x => { x with waits := x.waits ++ [{ id := s.ids + 1, op := o.id, ctx := o.ctx, page := va / n * n, size := n, since := s.gtime }] }) { s with ids := s.ids + 1 }
  | none => s

/-- One page request of an operation; a refusal makes the page failing. FIXED does not where stores park as those of a merge do (R149). -/
def requestPage (o : Op) (stores : Bool) (va : Nat) (s : State) : State :=
  match pageRequest (s.privCtx.contains o.ctx) o.ctx va 0 s with
  | .ok (0, s1) => s1
  | .ok (5, s1) => failPage o va (refusalCause o.ctx va s1) s1
  | .ok (7, s1) => failPage o va 1 s1
  | .ok (4, s1) => if stores then waitPage o va s1 else failPage o va 5 s1
  | .ok (_, s1) => waitPage o va s1
  | .error _ => failPage o va 1 s

/-- What the operation asks for so that a range of it can be accessed. -/
def opRequest (o : Op) (n : Need) (s : State) (stores : Bool := false) : State :=
  match n with
  | .win _ _ _ => s
  | .brick _ _ _ => s
  | .mem acc va len => if pageSt o acc va s = .waiting then requestPage o stores va s else (hostLacks o acc va len s).foldl (askHost (opReader o) o.ctx) s

/-- Words of a window with a single-bit error are corrected and counted when they are read (02 R53). -/
def correctWin (cuid off n : Nat) (s : State) : State :=
  match crewOf s cuid with
  | none => s
  | some c =>
    let hit := fun w => decide (off / 8 ≤ w) && decide (w < (off + n + 7) / 8) && decide (n ≠ 0)
    let k := (c.winSoft.filter hit).length
    if k = 0 then s else countCorr k (modCrewAll cuid (fun c => { c with winSoft := c.winSoft.filter fun w => !hit w }) s)

/-- The entry of the core's brick partition that answers an operation of the core's field code (02 R65). -/
def opBrick (o : Op) (s : State) (pool : Nat) (b : List Nat) (va : Nat) : Option BrickEnt :=
  match crewOf s o.cuid with
  | none => none
  | some c =>
    if brickWays c = 0 then none
    else s.hm.bricks.find? fun x =>
      decide (x.core = o.core) && decide (x.ctx = o.ctx) && decide (x.pool = pool) && decide (x.at_ = b) && decide (x.va = va) && servesOp o s c x.fetch x.lease x.upd

/-- A brick that was read is the one used last; one that the partition did not hold is fetched into it. -/
def touchBrick (o : Op) (pool : Nat) (b : List Nat) (va : Nat) (s : State) : State :=
  match opBrick o s pool b va with
  | some x => useBrick x s
  | none =>
    match pageSt o .read va s, crewOf s o.cuid with
    | .ok l, some c => if brickWays c = 0 then s else fillBrick o.core o.ctx pool b va (keyOf l va) (brickRoom o.core s) l.cpol s
    | _, _ => s

/-- A read of an operation in one page: lines pass through the L2, and what field code reads is installed in its core's L1. Words with an
uncorrectable error that it consumes are counted with its errors (02 R70, R73). -/
def touchPage (o : Op) (l : Leaf) (va len : Nat) (s : State) : State :=
  let key := keyOf l va
  let f := match crewOf s o.cuid with | some c => c.fused | none => false
  let fill := fun (k : Nat) (s : State) => l2Access (nbit l.cpol 1) (k / 64) s fun w => decide (key / 8 ≤ w) && decide (w ≤ (key + len - 1) / 8)
  if readsL1 o && !nbit l.cpol 0 then
    (List.range ((va + len - 1) / 16 - va / 16 + 1)).foldl (fun s i =>
      match opSector o s (va / 16 + i) with
      | some _ => s
      | none => grant f (sliceCore f o.core (16 * (va / 16 + i))) o.ctx (va / 16 + i) (key / 16 + i) (fill (16 * (key / 16 + i)) s)) s
  else (List.range ((key + len - 1) / 64 - key / 64 + 1)).foldl (fun s i => fill (64 * (key / 64 + i)) s) s

/-- What reading a range does besides: caches are filled, single-bit errors are corrected (02 R53, R70, R73). -/
def touchNeed (o : Op) (s : State) (n : Need) : State :=
  match n with
  | .brick pool b va => touchBrick o pool b va s
  | .win cuid off len => correctWin cuid off len s
  | .mem .read va len => (match pageSt o .read va s with | .ok l => touchPage o l va len s | _ => s)
  | .mem _ _ _ => s

/-- Stores of an operation to one line at its home; `va` is the address of a line's first byte, `first` whether its page has lines allocated as
first to evict (02 R70). -/
def engLine (o : Op) (va : Nat → Nat) (first : Nat → Bool) (cells : List (Nat × Byte)) (s : State) (line : Nat) : State :=
  sendStore { sn := s.seqNo, uid := 0, cuid := o.cuid, core := o.core, ctx := o.ctx, remote := keyDev (64 * line), line := line,
              cells := cells.filter (fun c => decide (c.1 / 64 = line)), op := o.id, va := va line, first := first line }
    { s with seqNo := s.seqNo + 1 }

/-- δ between a byte's home and the object's home (04 R103). -/
def objDelta (o : Op) (s : State) (line : Nat) : Nat :=
  let far := match o.obj with | .va a => (match keyAt s o.ctx a.toNat with | some k => (keyDev k).isSome | none => false) | _ => false
  if far || (keyDev (64 * line)).isSome then 25 else 2

/-- One global write: stores at the homes of the bytes whose pages do not fail, the time to pass, and the status. -/
def engWrite (o : Op) (va : Nat) (l : List Byte) (s : State) : State × Nat × Nat :=
  if l = [] then (s, 0, 0)
  else
    let parts := (granules va l.length).map fun g => (g, pageSt o .write g.1 s)
    let full := (parts.map fun p => match p.2 with
      | .ok leaf => (List.range p.1.2).map fun i => (p.1.1 + i, keyOf leaf (p.1.1 + i), l.getD (p.1.1 + i - va) 0#8)
      | _ => []).flatten
    let cells := full.map (·.2)
    let vaOf := fun line => ((full.find? fun c => decide (c.2.1 / 64 = line)).map (·.1)).getD va
    let first := fun line => parts.any fun p => match p.2 with | .ok leaf => nbit leaf.cpol 1 && decide (keyOf leaf p.1.1 / 64 ≤ line) && decide (line ≤ keyOf leaf (p.1.1 + p.1.2 - 1) / 64) | _ => false
    let st := parts.foldl (fun m p => match p.2 with | .ok _ => m | x => Nat.lor m (failBit o x)) 0
    let lines := quotients 64 cells
    let s1 := lines.foldl (engLine o vaOf first cells) s
    (s1, lines.foldl (fun t line => max t (mget 0 s1.hm.lineC line + objDelta o s line)) 0, st)

def doWrite (o : Op) (acc : State × Nat × Nat) (w : Wr) : State × Nat × Nat :=
  match w.scr with
  | some cuid => (modCrew cuid (if w.keep then putWin w.addr w.bytes else engineWin w.addr w.bytes) acc.1, max acc.2.1 (if w.bytes = [] then 0 else acc.1.gtime + objDelta o acc.1 0), acc.2.2)
  | none =>
    let r := engWrite o w.addr w.bytes acc.1
    (r.1, max acc.2.1 r.2.1, Nat.lor acc.2.2 r.2.2)

/-- Every kind of error that an operation met is counted for management as an event (05 R141). -/
def countErrors (st : Nat) (s : State) : State :=
  countUncorr ([1, 2, 3, 7].filter fun i => nbit st i).length s

/-- The operation's reads and writes in one step, or the page requests it needs first (log entry 7). -/
def performPlan (o : Op) (p : Plan) (s : State) : State :=
  match waitingPages o (planNeeds p) s with
  | [] =>
    let r := p.writes.foldl (doWrite o) (p.need.foldl (touchNeed o) s, 0, p.st)
    let glob := (p.writes.filter fun w => w.scr.isNone && !w.bytes.isEmpty).map fun w => (w.addr, w.bytes.length)
    let o1 : Op := { o with performed := decide (p.later = []), later := p.later, due := max o.due r.2.1, status := Nat.lor o.status r.2.2,
                            errIdx := o.errIdx <|> p.idx, wrote := glob }
    setOp o1 (countErrors o1.status r.1)
  | l => l.foldl (fun s n => opRequest o n s) s

/-- Every store of the operation has its completion time. -/
def storesTimed (o : Op) (s : State) : Bool := s.hm.inflight.all fun st => decide (st.op ≠ o.id)

/-- The stores that wait for those before them (10 R299). -/
def performLater (o : Op) (s : State) : State :=
  if !storesTimed o s then s
  else match waitingPages o (o.later.flatMap fun w => storeNeeds w.1 w.2) s with
    | [] =>
      let r := o.later.foldl (fun acc w => doWrite o acc { scr := none, addr := w.1, bytes := w.2 }) (s, 0, 0)
      setOp { o with performed := true, later := [], due := max o.due r.2.1, status := Nat.lor o.status r.2.2,
                     wrote := o.wrote ++ o.later.map fun w => (w.1, w.2.length) } (countErrors r.2.2 r.1)
    | l => l.foldl (fun s n => opRequest o n s) s

/-! ### Arrivals and ends (05 R128, R136) -/

/-- A global object in an ABSENT page is asked for like any page the operation needs. -/
def objWaits (o : Op) (s : State) : Option Need :=
  match o.obj with
  | .va a => if pageSt o .atomic a.toNat s = .waiting then some (.mem .atomic a.toNat 16) else none
  | _ => none

/-- The scratch objects an operation counts into: each target's of a multicast, else the issuing crew's (05 R136). -/
def scrObjects (o : Op) : List (Nat × Nat) := if o.targets.isEmpty || decide (o.kind = .cmma) then [(o.cuid, o.count)] else o.targets

/-- Bytes counted at each crew's own object, or at the one object. -/
def arriveOp (o : Op) (s : State) : State :=
  match o.obj with
  | .none => s
  | .va a => arriveVa o.ctx a o.count o.status o.errIdx false s
  | .scr off =>
    (scrObjects o).foldl (fun s t => arriveScr t.1 off t.2 o.status o.errIdx false s) s

/-- What was noted of the pages of an operation that is over. -/
def forgetPages (id : Nat) (s : State) : State :=
  modXl (fun x => { x with failing := x.failing.filter (fun f => decide (f.op ≠ id)), waits := x.waits.filter fun w => decide (w.op ≠ id) }) s

/-- The operation arrives and is gone; a copy triggers the mailboxes its writes meet (15 R408). -/
def finishOp (o : Op) (s : State) : State :=
  match objWaits o s with
  | some n => opRequest o n s
  | none =>
    let s1 := dropHostReads o.id (dropOp o.id (arriveOp o s))
    let s2 := forgetPages o.id s1
    match o.kind with
    | .cpy _ => if o.wrote = [] then s2 else trigger o.ctx o.wrote o.due s2
    | _ => s2

/-- The engine's part of a performed operation is over once gtime has passed what it waits for. -/
def opDue (o : Op) (s : State) : Bool := o.performed && decide (o.due < s.gtime) && storesTimed o s

end Sys2Proof.Machine
end

