-- ==== Sys2Proof/Machine/Copy.lean ====
section
/-! DEFINITION. The copy engine: the checks of cpy's modes at issue and what each mode reads and writes
(10 R292 to R303, 02 R77, 03 R79, R87 to R93, 14 R392). -/
namespace Sys2Proof.Machine

/-! ### Issue (10 R292) -/

/-- G[g1], G[g2], the parameter word and the object word. -/
structure CpyIn where
  d1 : Nat
  d2 : Nat
  p : Nat
  x : Word64
  scr : Bool
  deriving DecidableEq, Repr

def cpyIn (a b c o : Nat) (k : Skein) : CpyIn :=
  { d1 := (rdG k a).toNat, d2 := (rdG k b).toNat, p := (rdG k c).toNat, x := rdG k (c + 1), scr := decide (o = 1) }

/-- The highest level of cluster domain (10 R300, 06 R156). -/
def clusterLevel (r : LaunchRec) : Option Nat := [7, 6, 5, 4, 3].find? fun l => decide ((levelRec r l).size ≠ 0) && decide ((levelRec r l).domain = 3)

/-- Crews in one instance of a level. -/
def instSize (r : LaunchRec) (l : Nat) : Nat := (List.range (l - 2)).foldl (fun m i => m * (levelRec r (3 + i)).size) 1

/-- What is captured at issue, the operation otherwise as `newOp` leaves it. -/
structure Capture where
  count : Nat
  recs : List (List Byte) := []
  index : List Nat := []
  targets : List (Nat × Nat) := []
  st : Nat := 0
  noObj : Bool := false
  deriving DecidableEq, Repr

/-- The operation that cpy starts. -/
def cpyOp (mode : Nat) (i : CpyIn) (q : Capture) (s : State) : Op :=
  { newOp (.cpy mode) (if q.noObj then .none else objOf i.scr i.x) s with
    args := [w64 i.d1, w64 i.d2, w64 i.p], count := q.count, recs := q.recs, index := q.index, targets := q.targets, status := q.st }

/-- The common front of every mode: g3 even, the parameter word, the object; then the mode's own steps. -/
def cpyIssue (mode : Nat) (ok : CpyIn → Bool) (f : CpyIn → State → Res (Capture × State)) (a b c o : Nat) (s : State) : Out :=
  issue { even := [c], noMeld := true, full := true } s fun s => do
    let i := cpyIn a b c o s.k
    if !ok i || (!i.scr && decide (i.x = 0#64)) then .error (illOp 11)
    else
      let s1 ← checkObj i.scr i.x s
      let (q, s2) ← f i s1
      startOp (cpyOp mode i q s2) s2

def inRange (lo hi x : Nat) : Bool := decide (lo ≤ x) && decide (x ≤ hi)

/-- Bytes read from the issuing crew's window at issue. -/
def winAtIssue (off n : Nat) (s : State) : Res (List Byte × Nat) := do
  chkWin (winSize s.crew) off n
  pure (engWin s.crew off n)

/-! ### Linear copies (10 R295) -/

def meets (a n b m : Nat) : Bool := decide (a < b + m) && decide (b < a + n)

/-- Whether the destination and the source lie in scratch: bits DS and SS of the modes lin, put and get. -/
def linDS (p : Nat) : Bool := nbit p 33
def linSS (p : Nat) : Bool := nbit p 32
def lenOf (p : Nat) : Nat := nb p 31 0

/-- Issue of lin, put and get: the destination's range, the source's, then their overlap (10 R292, R295; log entry 119). -/
def linIssue (i : CpyIn) (s : State) : Res (Capture × State) := do
  let n := lenOf i.p
  chkRange (linDS i.p) i.d1 n s
  chkRange (linSS i.p) i.d2 n s
  if linDS i.p && linSS i.p && meets i.d1 n i.d2 n then .error (illOp 11)
  else
    if linDS i.p then pure () else chkMerge s.crew i.d1 n
    pure ({ count := n }, s)

def execCpyLin (a b c o : Nat) (s : State) : Out := cpyIssue 0 (fun i => decide (i.p < 2 ^ 34) && decide (lenOf i.p ≠ 0)) linIssue a b c o s
def execCpyPut (a b c o : Nat) (s : State) : Out := cpyIssue 10 (fun i => decide (i.p < 2 ^ 33) && decide (lenOf i.p ≠ 0)) linIssue a b c o s
def execCpyGet (a b c o : Nat) (s : State) : Out :=
  cpyIssue 11 (fun i => decide (i.p < 2 ^ 34) && !nbit i.p 32 && decide (lenOf i.p ≠ 0)) linIssue a b c o s

/-- A window destination of the issuing crew, or global memory. -/
def dstOf (o : Op) (scr : Bool) : Option Nat := if scr then some o.cuid else none

def linPlan (d1 d2 p : Nat) (o : Op) (s : State) : Plan :=
  let r := engRd o (linSS p) d2 (lenOf p) s
  { writes := [{ scr := dstOf o (linDS p), addr := d1, bytes := r.bytes }], st := r.st, need := r.need }

/-! ### Boxes of a tensor (10 R296) -/

/-- The coordinate block: start coordinates, bytes 20 to 23, bytes 24 to 31. -/
structure Coord where
  c : List Int
  res : Nat
  slot : Nat
  deriving DecidableEq, Repr

def coordOf (b : List Byte) : Coord := { c := (List.range 5).map fun d => sxt 32 (leAt b (4 * d) 4), res := leAt b 20 4, slot := leAt b 24 8 }

def Coord.at_ (x : Coord) (d : Nat) : Int := x.c.getD d 0

/-- The rules of a coordinate block; `blk` asks for c0 a multiple of BLOCK, `sig` allows SLOT. -/
def coordOk (x : Shape) (q : Coord) (blk sig : Bool) : Bool :=
  decide (q.res = 0) && ((List.range 5).all fun d => decide (d < x.rank) || decide (q.at_ d = 0)) &&
    !(decide (x.bits = 4) && decide (q.at_ 0 % 2 ≠ 0)) && !(blk && decide (x.block ≠ 0) && decide (q.at_ 0 % x.block ≠ 0)) &&
    (if sig then decide (q.slot % 8 = 0) else decide (q.slot = 0))

def pad16 (n : Nat) : Nat := (n + 15) / 16 * 16

/-- Rows of a box, with the coordinates of dimensions 1 to 4. -/
def boxRows (x : Shape) (q : Coord) : List (Nat × List Int) :=
  (List.range (x.b 1 * x.b 2 * x.b 3 * x.b 4)).map fun r =>
    (r, [q.at_ 1 + (r % x.b 1 : Nat), q.at_ 2 + (r / x.b 1 % x.b 2 : Nat), q.at_ 3 + (r / (x.b 1 * x.b 2) % x.b 3 : Nat),
         q.at_ 4 + (r / (x.b 1 * x.b 2 * x.b 3) : Nat)])

/-- Whether a row lies inside dimensions 1 to 4. -/
def rowIn (x : Shape) (l : List Int) : Bool := (List.range 4).all fun d => decide (0 ≤ l.getD d 0) && decide (l.getD d 0 < x.e (d + 1))

def rowOff (str : Nat → Nat) (l : List Int) : Nat := (List.range 4).foldl (fun t d => t + (l.getD d 0).toNat * str (d + 1)) 0

/-- The positions of dimension 0 inside the tensor: lo and hi of the box's elements. -/
def insideLo (x : Shape) (q : Coord) : Nat := min (x.b 0) (max 0 (-(q.at_ 0))).toNat
def insideHi (x : Shape) (q : Coord) : Nat := max (insideLo x q) (min (x.b 0) (max 0 ((x.e 0 : Int) - q.at_ 0)).toNat)

/-- One row's part inside the tensor: row, byte offset and bytes in the image row, address. None outside. -/
def rowPart (x : Shape) (q : Coord) (r : Nat × List Int) : Option (Nat × Nat) :=
  let lo := insideLo x q
  let n := insideHi x q - lo
  if rowIn x r.2 ∧ n ≠ 0 then some (x.base + (q.at_ 0 + lo).toNat * x.bits / 8 + rowOff x.s r.2, n * x.bits / 8) else none

def rowBytes (x : Shape) : Nat := x.b 0 * x.bits / 8
def rowCount (x : Shape) : Nat := x.b 1 * x.b 2 * x.b 3 * x.b 4
def rowBlocks (x : Shape) : Nat := if x.block = 0 then 0 else x.b 0 / x.block

/-- `n` elements of the FILL pattern. -/
def fillBytes (x : Shape) (n : Nat) : List Byte :=
  if x.bits = 4 then List.replicate (n / 2) (BitVec.ofNat 8 (x.fill % 16 * 17))
  else (List.replicate n (toBytes (x.bits / 8) x.fill)).flatten

/-- The ranges that a box reads or writes in global memory. -/
def boxRanges (x : Shape) (q : Coord) : List (Nat × Nat) := (boxRows x q).filterMap (rowPart x q)

/-- Privilege of the arrays that a checked record spans, for sig too (01 R15, log entry 119). -/
def chkArrays (x : Shape) (s : State) : Res Unit := do
  chkGlob x.base 1 s
  if x.block ≠ 0 then chkGlob x.sbase 1 s else pure ()

def chkMerges (c : Crew) : List (Nat × Nat) → Res Unit
  | [] => .ok ()
  | r :: l => do
    chkMerge c r.1 r.2
    chkMerges c l

/-- Bytes of the image: rows of `row` bytes, then rows of `blocks` scale bytes. -/
def imageSpan (x : Shape) (row blocks : Nat) : Nat := rowCount x * pad16 row + rowCount x * pad16 blocks

/-- Reads the coordinate block, then the record, then applies the block's rules. -/
def boxIssue (addr : Nat) (i : CpyIn) (blk sig deq : Bool) (s : State) : Res (List Byte × List Byte × Nat × State) := do
  let (cb, st) ← winAtIssue (16 * nb i.p 47 32) 32 s
  let (r, s1) ← fetchRecord 192 64 shapeBad addr (correctScr [(0xFF, 16 * nb i.p 47 32, 32)] s)
  let x := shapeOf r
  if deq && !inRange 0x13 0x15 x.fmt then .error (shapeTrap addr 8)
  else if deq && decide (x.block = 0) then .error (shapeTrap addr 10)
  else if !coordOk x (coordOf cb) blk sig then .error (illOp 11)
  else pure (r, cb, st, s1)

/-- The scale bytes of a row inside the tensor. -/
def scalePart (x : Shape) (q : Coord) (r : Nat × List Int) : Option (Nat × Nat) :=
  let lo := insideLo x q
  let n := insideHi x q - lo
  if rowIn x r.2 ∧ n ≠ 0 then some (x.sbase + (q.at_ 0 + lo).toNat / x.block + rowOff x.ss r.2, n / x.block) else none

/-- The ranges of scale bytes of a box, none without blocks. -/
def scaleRanges (x : Shape) (q : Coord) : List (Nat × Nat) := if x.block = 0 then [] else (boxRows x q).filterMap (scalePart x q)

/-- Issue of a shaped box: the order of its ranges is the model's (log entry 119). -/
def shapeIssue (i : CpyIn) (s : State) : Res (Capture × State) := do
  let store := nbit i.p 0
  let (r, cb, st, s1) ← boxIssue (if store then i.d1 else i.d2) i true false false s
  let x := shapeOf r
  let q := coordOf cb
  let q1 : Capture := { count := rowCount x * rowBytes x + (if store then 0 else rowCount x * rowBlocks x), recs := [r, cb], st := st }
  if store then
    chkArrays x s1
    chkWin (winSize s1.crew) i.d2 (imageSpan x (rowBytes x) (rowBlocks x))
    chkMerges s1.crew (boxRanges x q ++ scaleRanges x q)
  else
    chkWin (winSize s1.crew) i.d1 (imageSpan x (rowBytes x) (rowBlocks x))
    chkArrays x s1
  pure (q1, s1)

def coMask (p : Nat) (low : Nat) : Bool := decide (p < 2 ^ 48) && decide (nb p 31 0 ≤ low)

def execCpyShape (a b c o : Nat) (s : State) : Out := cpyIssue 1 (fun i => coMask i.p 1) shapeIssue a b c o s

def Plan.join (a b : Plan) : Plan :=
  { writes := a.writes ++ b.writes, st := Nat.lor a.st b.st, need := a.need ++ b.need, idx := a.idx <|> b.idx, later := a.later ++ b.later }

def joinPlans (l : List Plan) : Plan := l.foldl Plan.join {}

/-- A row of an image in scratch: `pre` bytes before, what memory gives, `post` bytes after. -/
def rowLoad (o : Op) (dst : Nat) (pre post : List Byte) (src : Option (Nat × Nat)) (whole : List Byte) (s : State) : Plan :=
  match src with
  | none => { writes := [{ scr := some o.cuid, addr := dst, bytes := whole }] }
  | some (va, n) =>
    let r := engRead o va n s
    { writes := [{ scr := some o.cuid, addr := dst, bytes := pre ++ r.bytes ++ post }], st := r.st, need := r.need }

def shapeLoadPlan (d1 : Nat) (x : Shape) (q : Coord) (o : Op) (s : State) : Plan :=
  let lo := insideLo x q
  let hi := insideHi x q
  let rows := (boxRows x q).map fun r =>
    rowLoad o (d1 + r.1 * pad16 (rowBytes x)) (fillBytes x lo) (fillBytes x (x.b 0 - hi)) (rowPart x q r) (fillBytes x (x.b 0)) s
  let seven := fun n => List.replicate n 0x7F#8
  let scales := if x.block = 0 then [] else (boxRows x q).map fun r =>
    rowLoad o (d1 + rowCount x * pad16 (rowBytes x) + r.1 * pad16 (rowBlocks x)) (seven (lo / x.block)) (seven (rowBlocks x - hi / x.block))
      (scalePart x q r) (seven (rowBlocks x)) s
  joinPlans (rows ++ scales)

/-- Stores the elements of the box that lie inside the tensor. -/
def boxStore (d2 : Nat) (x : Shape) (q : Coord) (o : Op) (s : State) : Plan :=
  joinPlans ((boxRows x q).map fun r =>
    match rowPart x q r with
    | none => {}
    | some (va, n) =>
      let e := engRd o true (d2 + r.1 * pad16 (rowBytes x) + insideLo x q * x.bits / 8) n s
      { writes := [{ scr := none, addr := va, bytes := e.bytes }], st := e.st, need := e.need })

/-- Stores the scale bytes of the blocks inside the tensor. -/
def scaleStore (d2 : Nat) (x : Shape) (q : Coord) (o : Op) (s : State) : Plan :=
  if x.block = 0 then {}
  else joinPlans ((boxRows x q).map fun r =>
    match scalePart x q r with
    | none => {}
    | some (va, n) =>
      let e := engRd o true (d2 + rowCount x * pad16 (rowBytes x) + r.1 * pad16 (rowBlocks x) + insideLo x q / x.block) n s
      { writes := [{ scr := none, addr := va, bytes := e.bytes }], st := e.st, need := e.need })

def shapePlan (d1 d2 p : Nat) (o : Op) (s : State) : Plan :=
  let x := shapeOf (o.recs.getD 0 [])
  let q := coordOf (o.recs.getD 1 [])
  if nbit p 0 then (boxStore d2 x q o s).join (scaleStore d2 x q o s) else shapeLoadPlan d1 x q o s

/-! ### Dequantising fill (10 R297, 02 R77) -/

def deqIssue (i : CpyIn) (s : State) : Res (Capture × State) := do
  let (r, cb, st, s1) ← boxIssue i.d2 i false false true s
  let x := shapeOf r
  chkWin (winSize s1.crew) i.d1 (imageSpan x (2 * x.b 0) 0)
  chkArrays x s1
  pure ({ count := rowCount x * (2 * x.b 0), recs := [r, cb], st := st }, s1)

def execCpyDeq (a b c o : Nat) (s : State) : Out := cpyIssue 7 (fun i => coMask i.p 0) deqIssue a b c o s

/-- One element as BF16, with the status bits it sets. -/
def deqElem (fmt e x : Nat) : Nat × Nat :=
  if x = 255 then (0x7FC0, stNAN)
  else match fdec (codeFmt fmt) e with
    | .nan => (0x7FC0, stNAN)
    | .inf neg => (if neg then 0xFF80 else 0x7F80, 0)
    | .fin neg n d =>
      let r := fround bf16 .rn true 0 (fxScale (.fin neg n d) ((x : Int) - 127))
      if Nat.land r.2 flOF ≠ 0 then (if neg then 0xFF7F else 0x7F7F, stSAT) else (r.1, 0)

/-- Element `j` of packed elements of 4 or 8 bits. -/
def packedElem (bits : Nat) (l : List Byte) (j : Nat) : Nat :=
  if bits = 4 then nb (l.getD (j / 2) 0#8).toNat (4 * (j % 2) + 3) (4 * (j % 2)) else (l.getD j 0#8).toNat

def deqRow (d1 : Nat) (x : Shape) (q : Coord) (o : Op) (s : State) (r : Nat × List Int) : Plan :=
  let dst := d1 + r.1 * pad16 (2 * x.b 0)
  match rowPart x q r with
  | none => { writes := [{ scr := some o.cuid, addr := dst, bytes := List.replicate (2 * x.b 0) 0#8 }] }
  | some (va, n) =>
    let lo := insideLo x q
    let hi := insideHi x q
    let e0 := (q.at_ 0 + lo).toNat
    let b0 := e0 / x.block
    let el := engRead o va n s
    let sc := engRead o (x.sbase + b0 + rowOff x.ss r.2) ((e0 + (hi - lo) - 1) / x.block - b0 + 1) s
    -- an element whose byte or scale lies in a failing page is written as zero bytes (05 R138)
    let dead := fun j => el.fails.getD (j * x.bits / 8) false || sc.fails.getD ((e0 + j) / x.block - b0) false
    let vals := (List.range (hi - lo)).map fun j =>
      if dead j then (0, 0) else deqElem x.fmt (packedElem x.bits el.bytes j) (sc.bytes.getD ((e0 + j) / x.block - b0) 0#8).toNat
    { writes := [{ scr := some o.cuid, addr := dst,
                   bytes := List.replicate (2 * lo) 0#8 ++ (vals.map fun v => toBytes 2 v.1).flatten ++ List.replicate (2 * (x.b 0 - hi)) 0#8 }],
      st := vals.foldl (fun m v => Nat.lor m v.2) (Nat.lor el.st sc.st), need := el.need ++ sc.need }

def deqPlan (d1 : Nat) (o : Op) (s : State) : Plan :=
  let x := shapeOf (o.recs.getD 0 [])
  let q := coordOf (o.recs.getD 1 [])
  joinPlans ((boxRows x q).map (deqRow d1 x q o s))

/-! ### Signature write-back (10 R299, 14 R392) -/

/-- Issue of sig: its box, SCALEBASE's half included, then SLOT, then the image (10 R299, log entry 119). -/
def sigIssue (i : CpyIn) (s : State) : Res (Capture × State) := do
  let (r, cb, st, s1) ← boxIssue i.d1 i true true false s
  let x := shapeOf r
  let q := coordOf cb
  chkArrays x s1
  chkGlob q.slot 8 s1
  chkWin (winSize s1.crew) i.d2 (imageSpan x (rowBytes x) 0)
  chkMerges s1.crew (boxRanges x q ++ [(q.slot, 8)])
  pure ({ count := rowCount x * rowBytes x, recs := [r, cb], st := st }, s1)

def execCpySig (a b c o : Nat) (s : State) : Out := cpyIssue 12 (fun i => coMask i.p 0) sigIssue a b c o s

/-- The words of a byte string, 8 bytes each, the last filled with zeros. -/
def words8 (l : List Byte) : List Nat := (List.range ((l.length + 7) / 8)).map fun i => leAt l (8 * i) 8

/-- The signature of a byte string. -/
def signature (l : List Byte) : Nat :=
  let h := (words8 l).foldl (fun h w => mix (h ^^^ w)) (mix l.length)
  if h = 0 then 1 else h

def sigPlan (d2 : Nat) (o : Op) (s : State) : Plan :=
  let x := shapeOf (o.recs.getD 0 [])
  let q := coordOf (o.recs.getD 1 [])
  let rows := (List.range (rowCount x)).map fun r => engRd o true (d2 + r * pad16 (rowBytes x)) (rowBytes x) s
  let sg := signature (rows.map (·.bytes)).flatten
  let slot := engRead o q.slot 8 s
  let base : Plan := { st := rows.foldl (fun m r => Nat.lor m r.st) slot.st, need := slot.need ++ rows.flatMap (·.need) }
  if ofBytes slot.bytes = sg then base
  else (base.join (boxStore d2 x q o s)).join { later := [(q.slot, toBytes 8 sg)] }

/-! ### Gather and scatter (10 R298) -/

def gsN (p : Nat) : Nat := nb p 47 36 + 1
def gsRB (p : Nat) : Nat := 16 * (nb p 35 24 + 1)
def gsStride (p : Nat) : Nat := 16 * nb p 23 0
def gsNone : Nat := 0xFFFFFFFF
/-- A row's address, reduced modulo 2^64 before it is checked (10 R298, log entry 119). -/
def gsRow (base p idx : Nat) : Nat := (base + idx * gsStride p) % 2 ^ 64

def chkRows (base p : Nat) (s : State) : List Nat → Res Unit
  | [] => .ok ()
  | i :: l => do
    if i = gsNone then pure () else chkGlob (gsRow base p i) (gsRB p) s
    chkRows base p s l

/-- Issue of gather and scatter: the rows in the order of the list (log entry 119). -/
def gsIssue (scatter : Bool) (i : CpyIn) (s : State) : Res (Capture × State) := do
  let n := gsN i.p
  let (l, st) ← winAtIssue (16 * nb i.p 63 48) (4 * n) s
  let idx := (List.range n).map fun r => leAt l (4 * r) 4
  let scr := chkWin (winSize s.crew) (if scatter then i.d2 else i.d1) (n * gsRB i.p)
  let glob := chkRows (if scatter then i.d1 else i.d2) i.p s idx
  if scatter then
    glob
    scr
    chkMerges s.crew ((idx.filter fun x => decide (x ≠ gsNone)).map fun x => (gsRow i.d1 i.p x, gsRB i.p))
  else
    scr
    glob
  pure ({ count := n * gsRB i.p, index := idx, st := st }, correctScr [(0xFF, 16 * nb i.p 63 48, 4 * n)] s)

def execCpyGather (a b c o : Nat) (s : State) : Out := cpyIssue 2 (fun _ => true) (gsIssue false) a b c o s
def execCpyScatter (a b c o : Nat) (s : State) : Out := cpyIssue 3 (fun _ => true) (gsIssue true) a b c o s

def gatherPlan (d1 d2 p : Nat) (o : Op) (s : State) : Plan :=
  joinPlans (o.index.zipIdx.map fun x =>
    let r := if x.1 = gsNone then { bytes := List.replicate (gsRB p) 0#8 : Rd } else engRead o (gsRow d2 p x.1) (gsRB p) s
    { writes := [{ scr := some o.cuid, addr := d1 + x.2 * gsRB p, bytes := r.bytes }], st := r.st, need := r.need })

def scatterPlan (d1 d2 p : Nat) (o : Op) (s : State) : Plan :=
  joinPlans ((o.index.zipIdx.filter fun x => decide (x.1 ≠ gsNone)).map fun x =>
    let r := engRd o true (d2 + x.2 * gsRB p) (gsRB p) s
    { writes := [{ scr := none, addr := gsRow d1 p x.1, bytes := r.bytes }], st := r.st, need := r.need })

/-! ### Multicast and reduce-add (10 R300) -/

/-- The crew of index `i` in the issuing crew's cluster instance. -/
def mateOf (s : State) (l i : Nat) : Option CrewRec :=
  let t := instanceOf s.crew.lrec l s.crew.t * instSize s.crew.lrec l + i
  (allCrews s).find? fun c => decide (c.crew.launch = s.crew.launch) && decide (c.crew.t = t)

/-- The modes that name crews need a level of cluster domain (07 R211 check 12). -/
def clusterForm (run : State → Out) (c : Nat) (s : State) : Out :=
  if c % 2 = 0 ∧ clusterLevel s.crew.lrec = none then conclude false s (.error (illOp 5)) else run s

def mcastIssue (i : CpyIn) (s : State) : Res (Capture × State) := do
  let n := lenOf i.p
  match clusterLevel s.crew.lrec with
  | none => .error (illOp 5)
  | some l =>
    let want := (List.range 16).filter fun j => nbit (nb i.p 63 48) j
    if want.any (fun j => decide (instSize s.crew.lrec l ≤ j)) then .error (illOp 5)
    else
      let ts := want.filterMap (mateOf s l)
      ts.foldlM (fun _ t => chkWin (winSize t.crew) i.d1 n) ()
      chkGlob i.d2 n s
      pure ({ count := n, targets := ts.map (fun t => (t.crew.uid, n)), noObj := ts.isEmpty }, s)

def execCpyMcast (a b c o : Nat) (s : State) : Out :=
  clusterForm (cpyIssue 4 (fun i => i.scr && decide (nb i.p 47 32 = 0) && decide (lenOf i.p ≠ 0)) mcastIssue a b c o) c s

def mcastPlan (d1 d2 p : Nat) (o : Op) (s : State) : Plan :=
  let r := engRead o d2 (lenOf p) s
  { writes := o.targets.map fun t => { scr := some t.1, addr := d1, bytes := r.bytes }, st := r.st, need := r.need }

def raddSize (type : Nat) : Nat := if type = 0x12 then 2 else 4
def raddType (p : Nat) : Nat := nb p 39 32

def raddOk (i : CpyIn) : Bool :=
  let t := raddType i.p
  decide (nb i.p 63 52 = 0) && decide (nb i.p 47 40 = 0) && (decide (t = 0x10) || decide (t = 0x12) || decide (t = 4)) &&
    decide (lenOf i.p ≠ 0) && decide (lenOf i.p % raddSize t = 0)

def raddIssue (i : CpyIn) (s : State) : Res (Capture × State) := do
  let n := lenOf i.p
  match clusterLevel s.crew.lrec with
  | none => .error (illOp 5)
  | some l =>
    if instSize s.crew.lrec l ≤ nb i.p 51 48 then .error (illOp 5)
    else
      let t := mateOf s l (nb i.p 51 48)
      chkWin (winSize (t.getD { crew := s.crew, skeins := [] }).crew) i.d1 n
      chkWin (winSize s.crew) i.d2 n
      pure ({ count := n, index := (t.map (·.crew.uid)).toList }, s)

def execCpyRadd (a b c o : Nat) (s : State) : Out := clusterForm (cpyIssue 5 raddOk raddIssue a b c o) c s

/-- One element: the sum and the status bits it sets. -/
def raddElem (type : Nat) (fm : Word64) (i d x : Nat) : Nat × Nat :=
  if type = 4 then
    let y : Int := sxt 32 d + sxt 32 x
    let z := max (-(2 ^ 31 : Int)) (min y (2 ^ 31 - 1))
    (wrap64 z % 2 ^ 32, if z = y then 0 else stSAT)
  else
    let F := if type = 0x10 then fp32 else bf16
    let r := fpAdd F (rmOf (fmRnd fm)) (drawBits (fmSeed fm) 0x80000000 i) d x
    (r.1, (if r.1 = nanCode F then stNAN else 0) + (if Nat.land r.2 flOF ≠ 0 then stSAT else 0))

def raddPlan (d1 d2 p : Nat) (o : Op) (s : State) : Plan :=
  match o.index.head?.bind (crewOf s) with
  | none => {}
  | some t =>
    let z := raddSize (raddType p)
    let src := engRd o true d2 (lenOf p) s
    let dst := engWin t d1 (lenOf p)
    let out := (List.range (lenOf p / z)).map fun i => raddElem (raddType p) o.fmode i (leAt dst.1 (z * i) z) (leAt src.bytes (z * i) z)
    { writes := [{ scr := some t.uid, addr := d1, bytes := (out.map fun e => toBytes z e.1).flatten }],
      st := out.foldl (fun m e => Nat.lor m e.2) (Nat.lor src.st dst.2), need := src.need ++ [.win t.uid d1 (lenOf p)] }

/-! ### Decode (10 R301, 03 R89 to R91) -/

def decIssue (i : CpyIn) (s : State) : Res (Capture × State) := do
  let (t, st) ← winAtIssue (16 * nb i.p 31 16) 320 s
  chkWin (winSize s.crew) i.d1 (nb i.p 63 32)
  chkGlob i.d2 64 s
  pure ({ count := nb i.p 63 32, recs := [t], st := st }, correctScr [(0xFF, 16 * nb i.p 31 16, 320)] s)

def execCpyDec (a b c o : Nat) (s : State) : Out :=
  cpyIssue 6 (fun i => decide (nb i.p 15 0 = 0) && decide (nb i.p 31 16 % 4 = 0) && inRange 1 (2 ^ 18) (nb i.p 63 32) && decide (i.d2 % 64 = 0)) decIssue a b c o s

/-- A code: length, bits, symbol. -/
abbrev Code := Nat × Nat × Nat

/-- The canonical assignment; none when a code exceeds its length. -/
def assignCodes (counts : Nat → Nat) (sym : Nat → Nat) : Nat → Nat → Nat → Nat → List Code → Option (List Code)
  | 0, _, _, _, acc => some acc
  | n + 1, len, code, k, acc =>
    let c := counts len
    if 2 ^ len < code + c then none
    else assignCodes counts sym n (len + 1) (2 * (code + c)) (k + c) (acc ++ (List.range c).map fun j => (len, code + j, sym (k + j)))

/-- The symbol width and the codes of a valid table. -/
def codeTable (t : List Byte) : Option (Nat × List Code) :=
  let w := leAt t 0 1
  let n := leAt t 4 2
  let counts := fun len => leAt t (8 + 2 * (len - 1)) 2
  let syms := (List.range n).map fun k => leAt t (40 + k) 1
  let zero := decide (leAt t 1 3 = 0) && decide (leAt t 6 2 = 0) && decide (leAt t 296 24 = 0)
  let total := (List.range 16).foldl (fun m i => m + counts (i + 1)) 0
  let good := zero && ((decide (w = 8) && inRange 1 256 n) || (decide (w = 4) && inRange 1 16 n && syms.all fun x => decide (x < 16))) &&
    decide (total = n) && decide syms.Nodup
  if good then (assignCodes counts (fun k => syms.getD k 0) 16 1 0 0 []).map fun l => (w, l) else none

/-- The bits of a payload, bit 7 of byte 0 first. -/
def bitsOf (l : List Byte) : List Bool := (l.map fun b => (List.range 8).map fun i => b.toNat.testBit (7 - i)).flatten

/-- The symbols of a bit string, none when it is malformed. -/
def readSyms (codes : List Code) : List Bool → Nat → Nat → List Nat → Option (List Nat)
  | [], len, _, acc => if len = 0 then some acc.reverse else none
  | b :: l, len, cur, acc =>
    let c := 2 * cur + b2 b
    match codes.find? (fun x => decide (x.1 = len + 1) && decide (x.2.1 = c)) with
    | some x => readSyms codes l 0 0 (x.2.2 :: acc)
    | none => if 16 ≤ len + 1 then none else readSyms codes l (len + 1) c acc

/-- Symbols as bytes: two nibbles to a byte for width 4. -/
def symBytes (w : Nat) (l : List Nat) : List Byte :=
  if w = 8 then l.map (BitVec.ofNat 8)
  else (List.range (l.length / 2)).map fun i => BitVec.ofNat 8 (l.getD (2 * i) 0 + 16 * l.getD (2 * i + 1) 0)

/-- The output of a chunk, none when it is malformed. -/
def chunkOut (table : Option (Nat × List Code)) (c : List Byte) : Option (List Byte) :=
  let h := leAt c 0 4
  let bl := nb h 25 16
  let ol := nb h 15 0
  if nb h 29 26 ≠ 0 then none
  else match nb h 31 30 with
    | 0 =>
      match table with
      | none => none
      | some (w, codes) =>
        if !inRange 1 480 bl || !inRange 1 (if w = 4 then 240 else 480) ol then none
        else match readSyms codes ((bitsOf (c.drop 4)).take bl) 0 0 [] with
          | none => none
          | some l => if l.length = (if w = 4 then 2 * ol else ol) then some (symBytes w l) else none
    | 1 => if bl = 0 ∧ inRange 1 60 ol then some ((c.drop 4).take ol) else none
    | 2 => if bl = 0 ∧ ol ≠ 0 then some (List.replicate ol 0#8) else none
    | _ => none

/-- Decodes chunk by chunk to OUTLEN bytes; the fuel bounds the chunks, each of which gives a byte at least. A chunk in a failing
page reads as zeros and is malformed (log entry 118). -/
def decodeChunks (o : Op) (s : State) (table : Option (Nat × List Code)) (src outLen : Nat) : Nat → Nat → Plan → List Byte → Plan × List Byte
  | 0, _, p, out => (p, out)
  | fuel + 1, n, p, out =>
    if outLen ≤ out.length then (p, out)
    else
      let r := engRead o (src + 64 * n) 64 s
      let p1 := { p with st := Nat.lor p.st r.st, need := p.need ++ r.need }
      match chunkOut table r.bytes with
      | none => ({ p1 with st := Nat.lor p1.st stDECODE, idx := some (true, n) }, out)
      | some l =>
        if outLen < out.length + l.length then ({ p1 with st := Nat.lor p1.st stDECODE, idx := some (true, n) }, out)
        else decodeChunks o s table src outLen fuel (n + 1) p1 (out ++ l)

def decPlan (d1 d2 p : Nat) (o : Op) (s : State) : Plan :=
  let n := nb p 63 32
  let r := decodeChunks o s (codeTable (o.recs.getD 0 [])) d2 n n 0 {} []
  { r.1 with writes := [{ scr := some o.cuid, addr := d1, bytes := r.2 }] }

/-! ### Pack and unpack (10 R302, R303, 03 R87, R88) -/

/-- The formats of a packed vector. -/
def packFmt (f : Nat) : Bool := [0x02, 0x03, 0x04, 0x07, 0x08, 0x09, 0x10, 0x11, 0x12, 0x13, 0x14].contains f
def packSize (f : Nat) : Nat := codeBits f / 8
def packCount (p : Nat) : Nat := nb p 24 0
def packForm (p : Nat) : Nat := nb p 39 32

def packLength (n z size : Nat) : Nat := 16 + pad16 ((n + 7) / 8) + pad16 (z * size)

def nonZero (f x : Nat) : Bool := if 0x10 ≤ f then decide (x % 2 ^ (8 * packSize f - 1) ≠ 0) else decide (x ≠ 0)

def elemsOf (size n : Nat) (l : List Byte) : List Nat := (List.range n).map fun i => leAt l (size * i) size

def packOk (p : Nat) (bit : Nat) : Bool := packFmt (packForm p) && inRange 1 (2 ^ 24) (packCount p) && decide (nb p 31 (bit + 1) = 0)

def packIssue (i : CpyIn) (s : State) : Res (Capture × State) := do
  let f := packForm i.p
  let n := packCount i.p
  let v := 16 * nb i.p 63 40
  chkRange (nbit i.p 25) i.d1 v s
  chkWin (winSize s.crew) i.d2 (n * packSize f)
  if nbit i.p 25 then pure () else chkMerge s.crew i.d1 v
  let (l, st) := engWin s.crew i.d2 (n * packSize f)
  let z := ((elemsOf (packSize f) n l).filter (nonZero f)).length
  let len := packLength n z (packSize f)
  if v < len then .error (.trap { code := 11, cause := 1, addr := w64 i.d1, info0 := w64 len, info1 := w64 v })
  else pure ({ count := v, index := [z], st := st }, correctScr [(0xFF, i.d2, n * packSize f)] s)

def execCpyPack (a b c o : Nat) (s : State) : Out :=
  cpyIssue 8 (fun i => packOk i.p 25 && decide (nb i.p 63 40 ≠ 0) && decide (i.d1 % 16 = 0)) packIssue a b c o s

def padTo (n : Nat) (l : List Byte) : List Byte := l ++ List.replicate (n - l.length) 0#8

/-- The bit mask of a list of flags, bit i mod 8 of byte i / 8. -/
def maskBytes (l : List Bool) : List Byte :=
  (List.range ((l.length + 7) / 8)).map fun i => BitVec.ofNat 8 ((List.range 8).foldl (fun m j => m + b2 (l.getD (8 * i + j) false) * 2 ^ j) 0)

def packPlan (d1 d2 p : Nat) (o : Op) (s : State) : Plan :=
  let f := packForm p
  let n := packCount p
  let z := o.index.headD 0
  let size := packSize f
  let r := engRd o true d2 (n * size) s
  let e := elemsOf size n r.bytes
  let hdr := toBytes 4 f ++ toBytes 4 n ++ toBytes 4 z ++ toBytes 4 (packLength n z size)
  let vals := ((e.filter (nonZero f)).take z).map (toBytes size)
  { writes := [{ scr := dstOf o (nbit p 25), addr := d1,
                 bytes := hdr ++ padTo (pad16 ((n + 7) / 8)) (maskBytes (e.map (nonZero f))) ++ padTo (pad16 (z * size)) vals.flatten }], st := r.st, need := r.need }

def unpackIssue (i : CpyIn) (s : State) : Res (Capture × State) := do
  let size := packSize (packForm i.p)
  let n := packCount i.p
  chkWin (winSize s.crew) i.d1 (n * size)
  chkRange (nbit i.p 25) i.d2 (packLength n n size) s
  pure ({ count := n * size }, s)

def execCpyUnpack (a b c o : Nat) (s : State) : Out :=
  cpyIssue 9 (fun i => packOk i.p 25 && decide (nb i.p 63 40 = 0) && decide (i.d2 % 16 = 0)) unpackIssue a b c o s

/-- The elements under a mask: values in order at set positions, zero elsewhere. -/
def spread (size : Nat) : List Bool → List Byte → List (List Byte)
  | [], _ => []
  | true :: m, l => l.take size :: spread size m (l.drop size)
  | false :: m, l => List.replicate size 0#8 :: spread size m l

/-- Unpack: a header or mask in a failing page reads as zeros and the vector is refused (10 R303, log entry 118). -/
def unpackPlan (d1 d2 p : Nat) (o : Op) (s : State) : Plan :=
  let f := packForm p
  let n := packCount p
  let size := packSize f
  let ss := nbit p 25
  let h := engRd o ss d2 16 s
  let z := leAt h.bytes 8 4
  let okH := decide (leAt h.bytes 0 4 = f) && decide (leAt h.bytes 4 4 = n) && decide (z ≤ n) && decide (leAt h.bytes 12 4 = packLength n z size)
  if !okH then { st := Nat.lor h.st stDECODE, need := h.need }
  else
    let r := engRd o ss d2 (packLength n z size) s
    let mb := (n + 7) / 8
    let bits := (List.range (8 * mb)).map fun i => nbit (r.bytes.getD (16 + i / 8) 0#8).toNat (i % 8)
    let base : Plan := { st := Nat.lor h.st r.st, need := h.need ++ r.need }
    if (bits.filter id).length ≠ z ∨ (bits.drop n).any id then { base with st := Nat.lor base.st stDECODE }
    else { base with writes := [{ scr := some o.cuid, addr := d1, bytes := (spread size (bits.take n) (r.bytes.drop (16 + pad16 mb))).flatten }] }

/-! ### Performing a copy -/

def cpyPlan (mode : Nat) (o : Op) (s : State) : Plan :=
  let d1 := (o.args.getD 0 0#64).toNat
  let d2 := (o.args.getD 1 0#64).toNat
  let p := (o.args.getD 2 0#64).toNat
  match mode with
  | 1 => shapePlan d1 d2 p o s
  | 2 => gatherPlan d1 d2 p o s
  | 3 => scatterPlan d1 d2 p o s
  | 4 => mcastPlan d1 d2 p o s
  | 5 => raddPlan d1 d2 p o s
  | 6 => decPlan d1 d2 p o s
  | 7 => deqPlan d1 o s
  | 8 => packPlan d1 d2 p o s
  | 9 => unpackPlan d1 d2 p o s
  | 12 => sigPlan d2 o s
  | _ => linPlan d1 d2 p o s

/-! ### Operations of saved crews (05 R139) -/

/-- The operation writes into the window of a crew. -/
def writesWindow (o : Op) : Bool :=
  let p := (o.args.getD 2 0#64).toNat
  match o.kind with
  | .cpy 1 => !nbit p 0
  | .cpy 3 => false
  | .cpy 8 => nbit p 25
  | .cpy 12 => false
  | .cpy mode => !([0, 10, 11].contains mode) || linDS p
  | .nbin => false
  | _ => true

/-- An operation that writes only global memory and counts into no object of a window: it runs on while its crew is saved. -/
def pureGlobal (o : Op) : Bool := !writesWindow o && (match o.obj with | .scr _ => false | _ => true)

/-- The operation stands still, because its crew is saved (05 R139, 12 R353, 13 R376, 14 R391). -/
def opStops (o : Op) (s : State) : Bool := !pureGlobal o && s.sch.saved.any fun r => decide (r.crewRec.crew.uid = o.cuid)

/-! ### The turns of a unit (15 R410) -/

/-- A unit that serves several requesters: its key, the number of the requester, how many there are. A core's copy engine, function unit (for
fprep: log entry 101), row unit and marcher serve the four quadrants, a neighbour-list engine the cores of its cluster, a rasteriser those of its die. -/
def unitOf (o : Op) : Option (Nat × Nat × Nat) :=
  let own := fun u => some (4 * o.core + u, o.sid % 4, 4)
  match o.kind with
  | .cpy _ => own 0
  | .fprep => own 1
  | .trow _ => own 2
  | .march _ | .mresume => own 3
  | .nbin | .npairs => some (2 ^ 32 + o.core / 16, o.core % 16, 16)
  | .draw => some (2 ^ 33 + o.core / 512, o.core % 512, 512)
  | _ => none

/-- How far the operation stands behind the requester that its unit looks at first. -/
def turnDist (s : State) (u : Nat × Nat × Nat) : Nat := (u.2.1 + u.2.2 - mget 0 s.en.turn u.1) % u.2.2

/-- No request of the unit that may be served comes first: each requester's in the order of issue, requesters in turn. -/
def unitTurn (o : Op) (s : State) : Bool :=
  match unitOf o with
  | none => true
  | some u => s.en.ops.all fun q =>
    match unitOf q with
    | none => true
    | some w => decide (w.1 ≠ u.1) || q.taken || opStops q s || decide (turnDist s u < turnDist s w) || (decide (turnDist s u = turnDist s w) && decide (o.id ≤ q.id))

/-- The unit takes the operation up, and looks at the next requester first. -/
def takeUp (o : Op) (s : State) : State :=
  match unitOf o with
  | none => setOp { o with taken := true } s
  | some u => setOp { o with taken := true } (modEn (fun e => { e with turn := mset 0 e.turn u.1 ((u.2.1 + 1) % u.2.2) }) s)

/-- A step of an operation at its unit, which takes it up first, when its turn comes. -/
def serveUnit (f : Op → State → State) (o : Op) (s : State) : Out :=
  if o.taken then .next (f o s) else if unitTurn o s then .next (f { o with taken := true } (takeUp o s)) else idle s

end Sys2Proof.Machine
end

