-- ==== Sys2Proof/WellFormed.lean ====
section
/-! DEFINITION. Well-formed instructions: every field in its range, no reserved or unassigned value (07 R192 to R211). -/
namespace Sys2Proof

/-- A guard field: four bits, and 0b1000 is reserved in every form (R195). -/
def guardOk (g : Nat) : Bool := decide (g < 16) && decide (g ≠ 8)

/-- Reduction operation and type of vred and vscan (R206): f32 takes add, min and max only. -/
def redOk (o t : Nat) : Bool := decide (o < 6) && decide (t < 3) && !(decide (t = 2) && decide (3 ≤ o))

/-- Assigned atomic operations (R210): no 64-bit floating-point form. -/
def aopOk (o w : Nat) : Bool := decide (o < 13) && !(decide (10 ≤ o) && decide (w = 1))

/-- Level and barrier number of bar (R243). -/
def barOk (l b : Nat) : Bool := decide (l = 2) || (decide (3 ≤ l) && decide (b = 0))

/-- Special register numbers that the word itself may name (R203): those from 0x800 are judged when it runs. -/
def specialOk (n : Nat) : Bool := (decide (1 ≤ n) && decide (n < 16)) || decide (0x800 ≤ n)

/-- Ranges of a memory prefix (R197). -/
def MemPfx.inRange (x : MemPfx) : Bool := decide (x.off < 65536) && decide (x.scope < 8) && decide (x.pol < 4)

/-- The scope rule of R113: no reserved code, and zero on a plain access. -/
def scopeOk (ordered : Bool) (scope : Nat) : Bool := decide (scope < 5) && (ordered || decide (scope = 0))

def loadPfxOk : Option MemPfx → Bool
  | none => true
  | some x => x.inRange && scopeOk (x.acq || x.rel) x.scope

def storePfxOk : Option MemPfx → Bool
  | none => true
  | some x => x.inRange && scopeOk x.rel x.scope && !x.acq && !x.nf

def pgreqPfxOk : Option MemPfx → Bool
  | none => true
  | some x => x.inRange && !x.acq && !x.rel && !x.nf && decide (x.scope = 0) && decide (x.pol = 0)

/-- Scratch forms (R200): scope skein or crew, width code not 11; `fe` says whether the form waits or sets full bits. -/
def scratchPfxOk (x : MemPfx) : Bool :=
  x.inRange && decide (x.scope < 2) && scopeOk (x.acq || x.rel) x.scope && decide (x.pol < 3)

def sldFePfxOk (x : MemPfx) : Bool := scratchPfxOk x && x.nf

def sldPlainPfxOk : Option MemPfx → Bool
  | none => true
  | some x => scratchPfxOk x && !x.nf

def sstPfxOk : Option MemPfx → Bool
  | none => true
  | some x => scratchPfxOk x && !x.acq

def sclrPfxOk : Option MemPfx → Bool
  | none => true
  | some x => scratchPfxOk x && !x.acq && !x.nf && decide (x.pol = 0)

/-- gatom (R200): with SCR set in the word, POL is 0 and the scope is skein or crew. -/
def gatomPfxOk (scr : Nat) : Option MemPfx → Bool
  | none => true
  | some x => x.inRange && !x.nf && decide (x.scope < 5) &&
      (decide (scr = 0) || (decide (x.pol = 0) && decide (x.scope < 2)))

def vatomPfxOk (x : AtomPfx) : Bool :=
  decide (x.vb < 128) && aopOk x.aop (if x.w64 then 1 else 0) && decide (x.scope < 5) && decide (x.pol < 4) &&
    (!x.scr || (decide (x.pol = 0) && decide (x.scope < 2)))

/-- An arithmetic prefix that leaves the named fields zero. -/
def arithOk (rnd pk uns hi sh : Bool) (x : ArithPfx) : Bool :=
  (if rnd then decide (x.rnd < 6) else decide (x.rnd = 0)) && (if pk then decide (x.pk < 3) else decide (x.pk = 0)) &&
    (uns || !x.uns) && (hi || !x.hi) && (if sh then decide (x.sh < 4) else decide (x.sh = 0))

def optArithOk (rnd pk uns hi sh : Bool) : Option ArithPfx → Bool
  | none => true
  | some x => arithOk rnd pk uns hi sh x

def vmulPfxOk : Option ArithPfx → Bool := optArithOk false false true false false
def vmulhPfxOk (x : ArithPfx) : Bool := arithOk false false true true false x && x.hi
def minPfxOk : Option ArithPfx → Bool := optArithOk false false true false false
def leaPfxOk : Option ArithPfx → Bool := optArithOk false false false false true
def fpPfxOk : Option ArithPfx → Bool := optArithOk true true false false false
def fminPfxOk : Option ArithPfx → Bool := optArithOk false true false false false
def fcvtPfxOk : Option ArithPfx → Bool := optArithOk true false false false false

/-- The check on one instruction. An event of the table carries no encoding and no bound of its own. -/
def Instr.wf : Instr → Bool
  | .vadd g d a b => guardOk g && decide (d < 128) && decide (a < 128) && decide (b < 128)
  | .vsub g d a b => guardOk g && decide (d < 128) && decide (a < 128) && decide (b < 128)
  | .vmul x g d a b => guardOk g && decide (d < 128) && decide (a < 128) && decide (b < 128) && vmulPfxOk x
  | .vmulh x g d a b => guardOk g && decide (d < 128) && decide (a < 128) && decide (b < 128) && vmulhPfxOk x
  | .vmad g d a b => guardOk g && decide (d < 128) && decide (a < 128) && decide (b < 128)
  | .vand g d a b => guardOk g && decide (d < 128) && decide (a < 128) && decide (b < 128)
  | .vor g d a b => guardOk g && decide (d < 128) && decide (a < 128) && decide (b < 128)
  | .vxor g d a b => guardOk g && decide (d < 128) && decide (a < 128) && decide (b < 128)
  | .vshl g d a b => guardOk g && decide (d < 128) && decide (a < 128) && decide (b < 128)
  | .vshr g d a b => guardOk g && decide (d < 128) && decide (a < 128) && decide (b < 128)
  | .vsar g d a b => guardOk g && decide (d < 128) && decide (a < 128) && decide (b < 128)
  | .vmin x g d a b => guardOk g && decide (d < 128) && decide (a < 128) && decide (b < 128) && minPfxOk x
  | .vmax x g d a b => guardOk g && decide (d < 128) && decide (a < 128) && decide (b < 128) && minPfxOk x
  | .vlea x g d a b => guardOk g && decide (d < 128) && decide (a < 128) && decide (b < 128) && leaPfxOk x
  | .vaddi g d a i => guardOk g && decide (d < 128) && decide (a < 128) && decide (i < 128)
  | .vimm g d i => guardOk g && decide (d < 128) && decide (i < 16384)
  | .vmov g d a => guardOk g && decide (d < 128) && decide (a < 128)
  | .vabs g d a => guardOk g && decide (d < 128) && decide (a < 128)
  | .vpopc g d a => guardOk g && decide (d < 128) && decide (a < 128)
  | .vclz g d a => guardOk g && decide (d < 128) && decide (a < 128)
  | .vbcast g d a => guardOk g && decide (d < 128) && decide (a < 128) && decide (a < 64)
  | .movsVector g d a => guardOk g && decide (d < 128) && decide (a < 128) && decide (a < 16)
  | .vcvtiI32I8 g d a => guardOk g && decide (d < 128) && decide (a < 128)
  | .vcvtiI32I16 g d a => guardOk g && decide (d < 128) && decide (a < 128)
  | .vcvtiN32N8 g d a => guardOk g && decide (d < 128) && decide (a < 128)
  | .vcvtiN32N16 g d a => guardOk g && decide (d < 128) && decide (a < 128)
  | .vcvtiI8I32 g d a => guardOk g && decide (d < 128) && decide (a < 128)
  | .vcvtiI16I32 g d a => guardOk g && decide (d < 128) && decide (a < 128)
  | .vcvtiN8N32 g d a => guardOk g && decide (d < 128) && decide (a < 128)
  | .vcvtiN16N32 g d a => guardOk g && decide (d < 128) && decide (a < 128)
  | .fadd x g d a b => guardOk g && decide (d < 128) && decide (a < 128) && decide (b < 128) && fpPfxOk x
  | .fsub x g d a b => guardOk g && decide (d < 128) && decide (a < 128) && decide (b < 128) && fpPfxOk x
  | .fmul x g d a b => guardOk g && decide (d < 128) && decide (a < 128) && decide (b < 128) && fpPfxOk x
  | .ffma x g d a b => guardOk g && decide (d < 128) && decide (a < 128) && decide (b < 128) && fpPfxOk x
  | .fmin x g d a b => guardOk g && decide (d < 128) && decide (a < 128) && decide (b < 128) && fminPfxOk x
  | .fmax x g d a b => guardOk g && decide (d < 128) && decide (a < 128) && decide (b < 128) && fminPfxOk x
  | .fcmp g c p a b => guardOk g && decide (c < 16) && decide (p < 8) && decide (a < 128) && decide (b < 128) && decide (c < 8)
  | .fscale x g d a b => guardOk g && decide (d < 128) && decide (a < 128) && decide (b < 128) && fpPfxOk x
  | .fcvt x g d a t s => guardOk g && decide (d < 128) && decide (a < 128) && decide (t < 16) && decide (s < 8) && fcvtPfxOk x && decide (t < 8) && decide (t ≠ s) && !(decide (6 ≤ t) && decide (6 ≤ s))
  | .fround x g d a => guardOk g && decide (d < 128) && decide (a < 128) && fpPfxOk x
  | .fclass x g d a => guardOk g && decide (d < 128) && decide (a < 128) && fminPfxOk x
  | .iadd g d a b => guardOk g && decide (d < 128) && decide (a < 128) && decide (b < 128)
  | .isub g d a b => guardOk g && decide (d < 128) && decide (a < 128) && decide (b < 128)
  | .imul g d a b => guardOk g && decide (d < 128) && decide (a < 128) && decide (b < 128)
  | .idiv g d a b => guardOk g && decide (d < 128) && decide (a < 128) && decide (b < 128)
  | .imin g d a b => guardOk g && decide (d < 128) && decide (a < 128) && decide (b < 128)
  | .imax g d a b => guardOk g && decide (d < 128) && decide (a < 128) && decide (b < 128)
  | .ihull g d a b => guardOk g && decide (d < 128) && decide (a < 128) && decide (b < 128)
  | .isq g d a => guardOk g && decide (d < 128) && decide (a < 128)
  | .isqrt g d a => guardOk g && decide (d < 128) && decide (a < 128)
  | .iabs g d a => guardOk g && decide (d < 128) && decide (a < 128)
  | .sfn g d a f => guardOk g && decide (d < 128) && decide (a < 128) && decide (f < 16) && decide (f < 13)
  | .sfnSlot g d a s => guardOk g && decide (d < 128) && decide (a < 128) && decide (s < 16)
  | .pand g d a b => guardOk g && decide (d < 8) && decide (a < 8) && decide (b < 8)
  | .por g d a b => guardOk g && decide (d < 8) && decide (a < 8) && decide (b < 8)
  | .pxor g d a b => guardOk g && decide (d < 8) && decide (a < 8) && decide (b < 8)
  | .pnot g d a => guardOk g && decide (d < 8) && decide (a < 8)
  | .pmovgToPredicate g p x => guardOk g && decide (p < 8) && decide (x < 64)
  | .pmovgToUniform g p x => guardOk g && decide (p < 8) && decide (x < 64)
  | .shflIdx g d a n => guardOk g && decide (d < 128) && decide (a < 128) && decide (n < 32)
  | .shflUp g d a n => guardOk g && decide (d < 128) && decide (a < 128) && decide (n < 32)
  | .shflDown g d a n => guardOk g && decide (d < 128) && decide (a < 128) && decide (n < 32)
  | .shflXor g d a n => guardOk g && decide (d < 128) && decide (a < 128) && decide (n < 32)
  | .shflIdxRegister g d a b => guardOk g && decide (d < 128) && decide (a < 128) && decide (b < 128)
  | .voteAny g d a => guardOk g && decide (d < 8) && decide (a < 8)
  | .voteAll g d a => guardOk g && decide (d < 8) && decide (a < 8)
  | .voteNone g d a => guardOk g && decide (d < 8) && decide (a < 8)
  | .voteBallot g d a => guardOk g && decide (d < 64) && decide (a < 8)
  | .vred g d a o t => guardOk g && decide (d < 128) && decide (a < 128) && decide (o < 8) && decide (t < 8) && redOk o t
  | .vscan g d a o t => guardOk g && decide (d < 128) && decide (a < 128) && decide (o < 8) && decide (t < 8) && redOk o t
  | .vsel g d a b => guardOk g && decide (d < 128) && decide (a < 128) && decide (b < 128)
  | .vsetp g c p a b => guardOk g && decide (c < 16) && decide (p < 8) && decide (a < 128) && decide (b < 128) && decide (c < 10)
  | .vldN8 x g d a b => guardOk g && decide (d < 128) && decide (a < 128) && decide (b < 64) && loadPfxOk x
  | .vldN16 x g d a b => guardOk g && decide (d < 128) && decide (a < 128) && decide (b < 64) && loadPfxOk x
  | .vld x g d a b s => guardOk g && decide (d < 128) && decide (a < 128) && decide (b < 64) && decide (s < 2) && loadPfxOk x
  | .vldN64 x g d a b s => guardOk g && decide (d < 128) && decide (a < 128) && decide (b < 64) && decide (s < 2) && loadPfxOk x
  | .vstN8 x g v a b => guardOk g && decide (v < 128) && decide (a < 128) && decide (b < 64) && storePfxOk x
  | .vstN16 x g v a b => guardOk g && decide (v < 128) && decide (a < 128) && decide (b < 64) && storePfxOk x
  | .vst x g v a b s => guardOk g && decide (v < 128) && decide (a < 128) && decide (b < 64) && decide (s < 2) && storePfxOk x
  | .vstN64 x g v a b s => guardOk g && decide (v < 128) && decide (a < 128) && decide (b < 64) && decide (s < 2) && storePfxOk x
  | .vatom x g d a b s => guardOk g && decide (d < 128) && decide (a < 128) && decide (b < 64) && decide (s < 2) && vatomPfxOk x
  | .pgreq x g d a b => guardOk g && decide (d < 128) && decide (a < 128) && decide (b < 64) && pgreqPfxOk x
  | .sld x g d a b => guardOk g && decide (d < 128) && decide (a < 128) && decide (b < 64) && sldPlainPfxOk x
  | .sldFe x g d a b => guardOk g && decide (d < 128) && decide (a < 128) && decide (b < 64) && sldFePfxOk x
  | .sldFeClr x g d a b => guardOk g && decide (d < 128) && decide (a < 128) && decide (b < 64) && sldFePfxOk x
  | .sst x g v a b => guardOk g && decide (v < 128) && decide (a < 128) && decide (b < 64) && sstPfxOk x
  | .sclr x g v a b => guardOk g && decide (v < 128) && decide (a < 128) && decide (b < 64) && sclrPfxOk x
  | .smp g d a b => guardOk g && decide (d < 128) && decide (a < 128) && decide (b < 64)
  | .smpPool g d a b => guardOk g && decide (d < 128) && decide (a < 128) && decide (b < 64)
  | .gadd d a b w => decide (d < 64) && decide (a < 64) && decide (b < 64) && decide (w < 2)
  | .gsub d a b w => decide (d < 64) && decide (a < 64) && decide (b < 64) && decide (w < 2)
  | .gmul d a b w => decide (d < 64) && decide (a < 64) && decide (b < 64) && decide (w < 2)
  | .gmulh d a b w => decide (d < 64) && decide (a < 64) && decide (b < 64) && decide (w < 2)
  | .gmulhN d a b w => decide (d < 64) && decide (a < 64) && decide (b < 64) && decide (w < 2)
  | .gdiv d a b w => decide (d < 64) && decide (a < 64) && decide (b < 64) && decide (w < 2)
  | .gdivN d a b w => decide (d < 64) && decide (a < 64) && decide (b < 64) && decide (w < 2)
  | .grem d a b w => decide (d < 64) && decide (a < 64) && decide (b < 64) && decide (w < 2)
  | .gremN d a b w => decide (d < 64) && decide (a < 64) && decide (b < 64) && decide (w < 2)
  | .gand d a b w => decide (d < 64) && decide (a < 64) && decide (b < 64) && decide (w < 2)
  | .gor d a b w => decide (d < 64) && decide (a < 64) && decide (b < 64) && decide (w < 2)
  | .gxor d a b w => decide (d < 64) && decide (a < 64) && decide (b < 64) && decide (w < 2)
  | .gshl d a b w => decide (d < 64) && decide (a < 64) && decide (b < 64) && decide (w < 2)
  | .gshr d a b w => decide (d < 64) && decide (a < 64) && decide (b < 64) && decide (w < 2)
  | .gsar d a b w => decide (d < 64) && decide (a < 64) && decide (b < 64) && decide (w < 2)
  | .gmin d a b w => decide (d < 64) && decide (a < 64) && decide (b < 64) && decide (w < 2)
  | .gminN d a b w => decide (d < 64) && decide (a < 64) && decide (b < 64) && decide (w < 2)
  | .gmax d a b w => decide (d < 64) && decide (a < 64) && decide (b < 64) && decide (w < 2)
  | .gmaxN d a b w => decide (d < 64) && decide (a < 64) && decide (b < 64) && decide (w < 2)
  | .gpopc d a w => decide (d < 64) && decide (a < 64) && decide (w < 2)
  | .gclz d a w => decide (d < 64) && decide (a < 64) && decide (w < 2)
  | .gsel d a b => decide (d < 64) && decide (a < 64) && decide (b < 64)
  | .gcmp d a b w c => decide (d < 64) && decide (a < 64) && decide (b < 64) && decide (w < 2) && decide (c < 16) && decide (c < 10)
  | .gaddi d a w i => decide (d < 64) && decide (a < 64) && decide (w < 2) && decide (i < 4096)
  | .gandi d a v i => decide (d < 64) && decide (a < 64) && decide (v < 2) && decide (i < 4096)
  | .gori d a v i => decide (d < 64) && decide (a < 64) && decide (v < 2) && decide (i < 4096)
  | .gxori d a v i => decide (d < 64) && decide (a < 64) && decide (v < 2) && decide (i < 4096)
  | .gshli d a w n => decide (d < 64) && decide (a < 64) && decide (w < 2) && decide (n < 64) && (decide (w = 0) || decide (n < 32))
  | .gshri d a w n => decide (d < 64) && decide (a < 64) && decide (w < 2) && decide (n < 64) && (decide (w = 0) || decide (n < 32))
  | .gsari d a w n => decide (d < 64) && decide (a < 64) && decide (w < 2) && decide (n < 64) && (decide (w = 0) || decide (n < 32))
  | .gcmpi d a w c i => decide (d < 64) && decide (a < 64) && decide (w < 2) && decide (c < 16) && decide (i < 256) && decide (c < 10)
  | .ghi d i => decide (d < 64) && decide (i < 1048576)
  | .bru o => decide (o < 65536)
  | .bcc c a b o => decide (c < 8) && decide (a < 64) && decide (b < 64) && decide (o < 1024) && decide (c < 6)
  | .bvoteAny g o => guardOk g && decide (o < 65536)
  | .bvoteAll g o => guardOk g && decide (o < 65536)
  | .bvoteNone g o => guardOk g && decide (o < 65536)
  | .br g o => guardOk g && decide (o < 65536)
  | .brx g n o => guardOk g && decide (n < 16) && decide (o < 65536)
  | .call o => decide (o < 65536)
  | .ret a => decide (a < 64)
  | .jmpg d a => decide (d < 64) && decide (a < 64)
  | .exit g => guardOk g
  | .tail g => guardOk g
  | .yield => true
  | .meld p => decide (p < 8)
  | .mend => true
  | .mmap p i v => decide (p < 2) && decide (i < 16) && decide (v < 128)
  | .wopen => true
  | .wclose => true
  | .spawn g n o => guardOk g && decide (n < 16) && decide (o < 65536)
  | .bar l b => decide (l < 8) && decide (b < 4) && barOk l b
  | .barArrive l b => decide (l < 8) && decide (b < 4) && barOk l b
  | .barWait l b => decide (l < 8) && decide (b < 4) && barOk l b
  | .waitc l s c t => decide (l < 32) && decide (s < 32) && decide (c < 32) && decide (t < 32)
  | .fenceRel s => decide (s < 8) && decide (s < 5)
  | .fenceAcq s => decide (s < 8) && decide (s < 5)
  | .fenceAr s => decide (s < 8) && decide (s < 5)
  | .movs d n => decide (d < 64) && decide (n < 4096) && specialOk n
  | .movsw a n => decide (a < 64) && decide (n < 4096) && specialOk n
  | .gang a => decide (a < 64)
  | .cfgmode r e f c => decide (r < 8) && decide (e < 4) && decide (f < 2) && decide (c < 2) && decide (r < 6) && decide (e < 3)
  | .nop => true
  | .trap c => decide (c < 256)
  | .brk c => decide (c < 256)
  | .eret => true
  | .halt => true
  | .sfload a s => decide (a < 64) && decide (s < 16)
  | .launch a b c => decide (a < 64) && decide (b < 64) && decide (c < 64)
  | .launchWait a b c => decide (a < 64) && decide (b < 64) && decide (c < 64)
  | .lwait => true
  | .gld x d a b z s => decide (d < 64) && decide (a < 64) && decide (b < 64) && decide (z < 8) && decide (s < 2) && loadPfxOk x && decide (z < 4) && !(decide (s = 1) && decide (z = 3))
  | .gst x d a b z => decide (d < 64) && decide (a < 64) && decide (b < 64) && decide (z < 8) && storePfxOk x && decide (z < 4)
  | .gatom x d a b o w s => decide (d < 64) && decide (a < 64) && decide (b < 64) && decide (o < 16) && decide (w < 2) && decide (s < 2) && gatomPfxOk s x && aopOk o w
  | .cpyLin a b c o => decide (a < 64) && decide (b < 64) && decide (c < 64) && decide (o < 2)
  | .cpyShape a b c o => decide (a < 64) && decide (b < 64) && decide (c < 64) && decide (o < 2)
  | .cpyGather a b c o => decide (a < 64) && decide (b < 64) && decide (c < 64) && decide (o < 2)
  | .cpyScatter a b c o => decide (a < 64) && decide (b < 64) && decide (c < 64) && decide (o < 2)
  | .cpyMcast a b c o => decide (a < 64) && decide (b < 64) && decide (c < 64) && decide (o < 2)
  | .cpyRadd a b c o => decide (a < 64) && decide (b < 64) && decide (c < 64) && decide (o < 2)
  | .cpyDec a b c o => decide (a < 64) && decide (b < 64) && decide (c < 64) && decide (o < 2)
  | .cpyDeq a b c o => decide (a < 64) && decide (b < 64) && decide (c < 64) && decide (o < 2)
  | .cpyPack a b c o => decide (a < 64) && decide (b < 64) && decide (c < 64) && decide (o < 2)
  | .cpyUnpack a b c o => decide (a < 64) && decide (b < 64) && decide (c < 64) && decide (o < 2)
  | .cpyPut a b c o => decide (a < 64) && decide (b < 64) && decide (c < 64) && decide (o < 2)
  | .cpyGet a b c o => decide (a < 64) && decide (b < 64) && decide (c < 64) && decide (o < 2)
  | .cpySig a b c o => decide (a < 64) && decide (b < 64) && decide (c < 64) && decide (o < 2)
  | .binit a b o => decide (a < 64) && decide (b < 64) && decide (o < 2)
  | .barrive a b o => decide (a < 64) && decide (b < 64) && decide (o < 2)
  | .bwait a b o => decide (a < 64) && decide (b < 64) && decide (o < 2)
  | .btest d a b o => decide (d < 64) && decide (a < 64) && decide (b < 64) && decide (o < 2)
  | .shfence a => decide (a < 64)
  | .tmap t g => decide (t < 16) && decide (g < 64)
  | .mma a t u g o => decide (a < 8) && decide (t < 16) && decide (u < 16) && decide (g < 64) && decide (o < 2)
  | .mmas a t u g s o => decide (a < 8) && decide (t < 16) && decide (u < 16) && decide (g < 64) && decide (s < 2) && decide (o < 2)
  | .cmma a t u g => decide (a < 8) && decide (t < 16) && decide (u < 16) && decide (g < 64)
  | .accz a g => decide (a < 8) && decide (g < 64)
  | .accin a t g => decide (a < 8) && decide (t < 16) && decide (g < 64)
  | .accout a t g o => decide (a < 8) && decide (t < 16) && decide (g < 64) && decide (o < 2)
  | .accmov a s => decide (a < 8) && decide (s < 8)
  | .trowSum a b c o => decide (a < 64) && decide (b < 64) && decide (c < 64) && decide (o < 2)
  | .trowMax a b c o => decide (a < 64) && decide (b < 64) && decide (c < 64) && decide (o < 2)
  | .trowSmax a b c o => decide (a < 64) && decide (b < 64) && decide (c < 64) && decide (o < 2)
  | .trowNorm a b c o => decide (a < 64) && decide (b < 64) && decide (c < 64) && decide (o < 2)
  | .march k p q o => decide (k < 64) && decide (p < 64) && decide (q < 64) && decide (o < 2)
  | .marchIv k p q o => decide (k < 64) && decide (p < 64) && decide (q < 64) && decide (o < 2)
  | .mresume k p q o => decide (k < 64) && decide (p < 64) && decide (q < 64) && decide (o < 2)
  | .fprep d s q o => decide (d < 64) && decide (s < 64) && decide (q < 64) && decide (o < 2)
  | .boxt k m => decide (k < 64) && decide (m < 64)
  | .trit k m => decide (k < 64) && decide (m < 64)
  | .stkpush k s m => decide (k < 64) && decide (s < 64) && decide (m < 64)
  | .stkpop k s m => decide (k < 64) && decide (s < 64) && decide (m < 64)
  | .draw r t g o => decide (r < 64) && decide (t < 64) && decide (g < 64) && decide (o < 2)
  | .depthw k t m => decide (k < 64) && decide (t < 64) && decide (m < 64)
  | .nbin a b c o => decide (a < 64) && decide (b < 64) && decide (c < 64) && decide (o < 2)
  | .npairs a b c o => decide (a < 64) && decide (b < 64) && decide (c < 64) && decide (o < 2)
  | .nstat d a b => decide (d < 64) && decide (a < 64) && decide (b < 64)
  | .registerWrite _ _ => true
  | .xltinvPage _ => true
  | .xltinvContext _ => true
  | .xltinvAll _ => true
  | .xltinvComplete => true
  | .frmgive64 _ => true
  | .frmgive2m _ => true
  | .migrationCommit _ => true
  | .frameFree _ => true
  | .parkedStorePerform _ => true
  | .parkedStoreTimeout _ => true
  | .homeStore _ => true
  | .homeAtomic _ _ => true
  | .homeRead _ _ _ => true
  | .memoryScrub _ => true
  | .consumingLoadProceed _ => true
  | .fullEmptyStall _ => true
  | .arrival _ => true
  | .npairsClosingArrival _ => true
  | .sequencerOpStart _ => true
  | .gangLatchTimeout _ => true
  | .pairRecordEmit _ => true
  | .merge _ _ => true
  | .levelBarrierRelease _ => true
  | .barrierStallTimeout _ => true
  | .spawnWaitTimeout _ => true
  | .bwaitTimeout _ => true
  | .preemptWaitingCrew _ _ => true
  | .basketTimerExpiry _ _ _ => true
  | .basketLaunch _ _ => true
  | .skeinEnd _ => true
  | .retirementEntryFree _ => true
  | .crewEnd _ _ => true
  | .takeRecord _ => true
  | .placeUnit => true
  | .priorityPreemption _ => true
  | .preemptCrew _ _ => true
  | .restoreCrew _ => true
  | .qctlOpen _ => true
  | .qctlClose _ => true
  | .qctlReset _ => true
  | .mailboxPendingAppend _ _ => true
  | .deferredTrapTake _ => true
  | .watchdogTrap _ => true
  | .watchdogKill _ => true
  | .kill _ => true
  | .frameStart _ => true
  | .frameSlotEnd _ => true
  | .ethernetFrame _ _ => true
  | .enq _ => true
  | .read _ => true
  | .write _ => true
  | .resp _ => true
  | .mbox _ => true
  | .put _ => true
  | .get _ => true
  | .atom _ _ => true
  | .mig _ _ => true
  | .leave _ => true
  | .mgmt _ => true
  | .ptpMessage _ => true
  | .syncTimeout => true
  | .peerTimeout _ => true
  | .join _ => true
  | .joinComplete => true
  | .fabctlLeave _ => true
  | .powerOn _ => true
  | .status _ => true
  | .selftest _ => true
  | .diag _ _ _ => true
  | .regread _ _ => true
  | .regwrite _ _ _ => true
  | .attest _ _ => true
  | .manifest _ _ _ => true
  | .compare _ _ _ _ => true
  | .resume _ _ _ => true
  | .fatalrec _ _ => true
  | .stream _ _ => true
  | .streamq _ _ => true
  | .clockThrottle _ _ => true
  | .overtempShutdown _ => true
  | .globalTimeTick => true
  | .pageRequestTimeout _ => true
  | .asyncOperationEnd _ => true

/-- An event of the part: a row of the table without an encoding. -/
def Instr.isEvent : Instr → Bool
  | .vadd _ _ _ _ => false
  | .vsub _ _ _ _ => false
  | .vmul _ _ _ _ _ => false
  | .vmulh _ _ _ _ _ => false
  | .vmad _ _ _ _ => false
  | .vand _ _ _ _ => false
  | .vor _ _ _ _ => false
  | .vxor _ _ _ _ => false
  | .vshl _ _ _ _ => false
  | .vshr _ _ _ _ => false
  | .vsar _ _ _ _ => false
  | .vmin _ _ _ _ _ => false
  | .vmax _ _ _ _ _ => false
  | .vlea _ _ _ _ _ => false
  | .vaddi _ _ _ _ => false
  | .vimm _ _ _ => false
  | .vmov _ _ _ => false
  | .vabs _ _ _ => false
  | .vpopc _ _ _ => false
  | .vclz _ _ _ => false
  | .vbcast _ _ _ => false
  | .movsVector _ _ _ => false
  | .vcvtiI32I8 _ _ _ => false
  | .vcvtiI32I16 _ _ _ => false
  | .vcvtiN32N8 _ _ _ => false
  | .vcvtiN32N16 _ _ _ => false
  | .vcvtiI8I32 _ _ _ => false
  | .vcvtiI16I32 _ _ _ => false
  | .vcvtiN8N32 _ _ _ => false
  | .vcvtiN16N32 _ _ _ => false
  | .fadd _ _ _ _ _ => false
  | .fsub _ _ _ _ _ => false
  | .fmul _ _ _ _ _ => false
  | .ffma _ _ _ _ _ => false
  | .fmin _ _ _ _ _ => false
  | .fmax _ _ _ _ _ => false
  | .fcmp _ _ _ _ _ => false
  | .fscale _ _ _ _ _ => false
  | .fcvt _ _ _ _ _ _ => false
  | .fround _ _ _ _ => false
  | .fclass _ _ _ _ => false
  | .iadd _ _ _ _ => false
  | .isub _ _ _ _ => false
  | .imul _ _ _ _ => false
  | .idiv _ _ _ _ => false
  | .imin _ _ _ _ => false
  | .imax _ _ _ _ => false
  | .ihull _ _ _ _ => false
  | .isq _ _ _ => false
  | .isqrt _ _ _ => false
  | .iabs _ _ _ => false
  | .sfn _ _ _ _ => false
  | .sfnSlot _ _ _ _ => false
  | .pand _ _ _ _ => false
  | .por _ _ _ _ => false
  | .pxor _ _ _ _ => false
  | .pnot _ _ _ => false
  | .pmovgToPredicate _ _ _ => false
  | .pmovgToUniform _ _ _ => false
  | .shflIdx _ _ _ _ => false
  | .shflUp _ _ _ _ => false
  | .shflDown _ _ _ _ => false
  | .shflXor _ _ _ _ => false
  | .shflIdxRegister _ _ _ _ => false
  | .voteAny _ _ _ => false
  | .voteAll _ _ _ => false
  | .voteNone _ _ _ => false
  | .voteBallot _ _ _ => false
  | .vred _ _ _ _ _ => false
  | .vscan _ _ _ _ _ => false
  | .vsel _ _ _ _ => false
  | .vsetp _ _ _ _ _ => false
  | .vldN8 _ _ _ _ _ => false
  | .vldN16 _ _ _ _ _ => false
  | .vld _ _ _ _ _ _ => false
  | .vldN64 _ _ _ _ _ _ => false
  | .vstN8 _ _ _ _ _ => false
  | .vstN16 _ _ _ _ _ => false
  | .vst _ _ _ _ _ _ => false
  | .vstN64 _ _ _ _ _ _ => false
  | .vatom _ _ _ _ _ _ => false
  | .pgreq _ _ _ _ _ => false
  | .sld _ _ _ _ _ => false
  | .sldFe _ _ _ _ _ => false
  | .sldFeClr _ _ _ _ _ => false
  | .sst _ _ _ _ _ => false
  | .sclr _ _ _ _ _ => false
  | .smp _ _ _ _ => false
  | .smpPool _ _ _ _ => false
  | .gadd _ _ _ _ => false
  | .gsub _ _ _ _ => false
  | .gmul _ _ _ _ => false
  | .gmulh _ _ _ _ => false
  | .gmulhN _ _ _ _ => false
  | .gdiv _ _ _ _ => false
  | .gdivN _ _ _ _ => false
  | .grem _ _ _ _ => false
  | .gremN _ _ _ _ => false
  | .gand _ _ _ _ => false
  | .gor _ _ _ _ => false
  | .gxor _ _ _ _ => false
  | .gshl _ _ _ _ => false
  | .gshr _ _ _ _ => false
  | .gsar _ _ _ _ => false
  | .gmin _ _ _ _ => false
  | .gminN _ _ _ _ => false
  | .gmax _ _ _ _ => false
  | .gmaxN _ _ _ _ => false
  | .gpopc _ _ _ => false
  | .gclz _ _ _ => false
  | .gsel _ _ _ => false
  | .gcmp _ _ _ _ _ => false
  | .gaddi _ _ _ _ => false
  | .gandi _ _ _ _ => false
  | .gori _ _ _ _ => false
  | .gxori _ _ _ _ => false
  | .gshli _ _ _ _ => false
  | .gshri _ _ _ _ => false
  | .gsari _ _ _ _ => false
  | .gcmpi _ _ _ _ _ => false
  | .ghi _ _ => false
  | .bru _ => false
  | .bcc _ _ _ _ => false
  | .bvoteAny _ _ => false
  | .bvoteAll _ _ => false
  | .bvoteNone _ _ => false
  | .br _ _ => false
  | .brx _ _ _ => false
  | .call _ => false
  | .ret _ => false
  | .jmpg _ _ => false
  | .exit _ => false
  | .tail _ => false
  | .yield => false
  | .meld _ => false
  | .mend => false
  | .mmap _ _ _ => false
  | .wopen => false
  | .wclose => false
  | .spawn _ _ _ => false
  | .bar _ _ => false
  | .barArrive _ _ => false
  | .barWait _ _ => false
  | .waitc _ _ _ _ => false
  | .fenceRel _ => false
  | .fenceAcq _ => false
  | .fenceAr _ => false
  | .movs _ _ => false
  | .movsw _ _ => false
  | .gang _ => false
  | .cfgmode _ _ _ _ => false
  | .nop => false
  | .trap _ => false
  | .brk _ => false
  | .eret => false
  | .halt => false
  | .sfload _ _ => false
  | .launch _ _ _ => false
  | .launchWait _ _ _ => false
  | .lwait => false
  | .gld _ _ _ _ _ _ => false
  | .gst _ _ _ _ _ => false
  | .gatom _ _ _ _ _ _ _ => false
  | .cpyLin _ _ _ _ => false
  | .cpyShape _ _ _ _ => false
  | .cpyGather _ _ _ _ => false
  | .cpyScatter _ _ _ _ => false
  | .cpyMcast _ _ _ _ => false
  | .cpyRadd _ _ _ _ => false
  | .cpyDec _ _ _ _ => false
  | .cpyDeq _ _ _ _ => false
  | .cpyPack _ _ _ _ => false
  | .cpyUnpack _ _ _ _ => false
  | .cpyPut _ _ _ _ => false
  | .cpyGet _ _ _ _ => false
  | .cpySig _ _ _ _ => false
  | .binit _ _ _ => false
  | .barrive _ _ _ => false
  | .bwait _ _ _ => false
  | .btest _ _ _ _ => false
  | .shfence _ => false
  | .tmap _ _ => false
  | .mma _ _ _ _ _ => false
  | .mmas _ _ _ _ _ _ => false
  | .cmma _ _ _ _ => false
  | .accz _ _ => false
  | .accin _ _ _ => false
  | .accout _ _ _ _ => false
  | .accmov _ _ => false
  | .trowSum _ _ _ _ => false
  | .trowMax _ _ _ _ => false
  | .trowSmax _ _ _ _ => false
  | .trowNorm _ _ _ _ => false
  | .march _ _ _ _ => false
  | .marchIv _ _ _ _ => false
  | .mresume _ _ _ _ => false
  | .fprep _ _ _ _ => false
  | .boxt _ _ => false
  | .trit _ _ => false
  | .stkpush _ _ _ => false
  | .stkpop _ _ _ => false
  | .draw _ _ _ _ => false
  | .depthw _ _ _ => false
  | .nbin _ _ _ _ => false
  | .npairs _ _ _ _ => false
  | .nstat _ _ _ => false
  | .registerWrite _ _ => true
  | .xltinvPage _ => true
  | .xltinvContext _ => true
  | .xltinvAll _ => true
  | .xltinvComplete => true
  | .frmgive64 _ => true
  | .frmgive2m _ => true
  | .migrationCommit _ => true
  | .frameFree _ => true
  | .parkedStorePerform _ => true
  | .parkedStoreTimeout _ => true
  | .homeStore _ => true
  | .homeAtomic _ _ => true
  | .homeRead _ _ _ => true
  | .memoryScrub _ => true
  | .consumingLoadProceed _ => true
  | .fullEmptyStall _ => true
  | .arrival _ => true
  | .npairsClosingArrival _ => true
  | .sequencerOpStart _ => true
  | .gangLatchTimeout _ => true
  | .pairRecordEmit _ => true
  | .merge _ _ => true
  | .levelBarrierRelease _ => true
  | .barrierStallTimeout _ => true
  | .spawnWaitTimeout _ => true
  | .bwaitTimeout _ => true
  | .preemptWaitingCrew _ _ => true
  | .basketTimerExpiry _ _ _ => true
  | .basketLaunch _ _ => true
  | .skeinEnd _ => true
  | .retirementEntryFree _ => true
  | .crewEnd _ _ => true
  | .takeRecord _ => true
  | .placeUnit => true
  | .priorityPreemption _ => true
  | .preemptCrew _ _ => true
  | .restoreCrew _ => true
  | .qctlOpen _ => true
  | .qctlClose _ => true
  | .qctlReset _ => true
  | .mailboxPendingAppend _ _ => true
  | .deferredTrapTake _ => true
  | .watchdogTrap _ => true
  | .watchdogKill _ => true
  | .kill _ => true
  | .frameStart _ => true
  | .frameSlotEnd _ => true
  | .ethernetFrame _ _ => true
  | .enq _ => true
  | .read _ => true
  | .write _ => true
  | .resp _ => true
  | .mbox _ => true
  | .put _ => true
  | .get _ => true
  | .atom _ _ => true
  | .mig _ _ => true
  | .leave _ => true
  | .mgmt _ => true
  | .ptpMessage _ => true
  | .syncTimeout => true
  | .peerTimeout _ => true
  | .join _ => true
  | .joinComplete => true
  | .fabctlLeave _ => true
  | .powerOn _ => true
  | .status _ => true
  | .selftest _ => true
  | .diag _ _ _ => true
  | .regread _ _ => true
  | .regwrite _ _ _ => true
  | .attest _ _ => true
  | .manifest _ _ _ => true
  | .compare _ _ _ _ => true
  | .resume _ _ _ => true
  | .fatalrec _ _ => true
  | .stream _ _ => true
  | .streamq _ _ => true
  | .clockThrottle _ _ => true
  | .overtempShutdown _ => true
  | .globalTimeTick => true
  | .pageRequestTimeout _ => true
  | .asyncOperationEnd _ => true

end Sys2Proof
end

