-- ==== Sys2Proof/Decode.lean ====
section
/-! DEFINITION. Decoding of instruction words with the checks 2 to 7 of R211 in their order, and the encoder. -/
namespace Sys2Proof

/-- Bits [hi:lo] of a number (00 R5). -/
def fld (w hi lo : Nat) : Nat := w / 2 ^ lo % 2 ^ (hi + 1 - lo)

/-- Bit n of a number. -/
def bitOf (w n : Nat) : Bool := decide (fld w n n = 1)

/-- Why a word is no instruction: the checks 2 to 7 of R211, by name. -/
inductive DecodeErr where
  /-- check 2: the opcode is not assigned in its set -/
  | opcodeUnassigned
  /-- check 3: guard 0b1000 -/
  | guardReserved
  /-- check 4: a prefix before a word it may not prefix, a field not permitted, or a missing prefix -/
  | badPairing
  /-- check 5: function, mode, kind, condition or special register number not assigned -/
  | functionUnassigned
  /-- check 6: a reserved field or field value -/
  | reservedField
  /-- check 6 in a movs or movsw of a number from 0x800 that R450 does not assign: privileged code fails check 5 before it -/
  | reservedView
  /-- check 7: scope code -/
  | scopeReserved
  deriving DecidableEq, Repr

/-- The cause of the illegal-instruction trap (R211). -/
def DecodeErr.cause : DecodeErr → Nat
  | .opcodeUnassigned => 0x01
  | .guardReserved => 0x07
  | .badPairing => 0x03
  | .functionUnassigned => 0x01
  | .reservedField => 0x02
  | .reservedView => 0x02
  | .scopeReserved => 0x06

/-- The cause in code of the given privilege: check 5 looks at a number from 0x800 in privileged code only (R211). -/
def DecodeErr.causeIn (priv : Bool) (e : DecodeErr) : Nat := if priv ∧ e = .reservedView then 0x01 else e.cause

/-- A special register number from 0x800 that R450 does not assign. -/
def viewUnassigned (n : Nat) : Bool := decide (0x908 ≤ n)

abbrev Decoded := Except DecodeErr Instr

/-- Goes on when the condition holds, and else answers the error. -/
def need (b : Bool) (e : DecodeErr) (k : Decoded) : Decoded := if b then k else .error e

/-- What stands before the word: nothing, or a prefix by its kind (R197 to R199). -/
inductive Pfx where
  | none
  | mem (x : MemPfx)
  | atom (x : AtomPfx)
  | arith (x : ArithPfx)
  deriving DecidableEq, Repr

def decMemPfx (w : Nat) : MemPfx :=
  { off := fld w 23 8, acq := bitOf w 7, rel := bitOf w 6, nf := bitOf w 5, scope := fld w 4 2, pol := fld w 1 0 }

def decAtomPfx (w : Nat) : AtomPfx :=
  { vb := fld w 22 16, aop := fld w 15 12, acq := bitOf w 11, rel := bitOf w 10, scope := fld w 9 7, pol := fld w 6 5,
    w64 := bitOf w 4, scr := bitOf w 3 }

def decArithPfx (w : Nat) : ArithPfx :=
  { rnd := fld w 22 20, pk := fld w 19 18, uns := bitOf w 17, hi := bitOf w 16, sh := fld w 15 14 }

def b2n (b : Bool) : Nat := if b then 1 else 0

def memPayload (x : MemPfx) : Nat :=
  x.off * 0x100 + b2n x.acq * 0x80 + b2n x.rel * 0x40 + b2n x.nf * 0x20 + x.scope * 4 + x.pol

def encMemPfx (x : MemPfx) : Nat := 0x7E000000 + memPayload x
def encGmod (x : MemPfx) : Nat := 0xFA000000 + memPayload x

def encAtomPfx (x : AtomPfx) : Nat :=
  0x7F000000 + x.vb * 0x10000 + x.aop * 0x1000 + b2n x.acq * 0x800 + b2n x.rel * 0x400 + x.scope * 0x80 + x.pol * 0x20 +
    b2n x.w64 * 0x10 + b2n x.scr * 8

def encArithPfx (x : ArithPfx) : Nat :=
  0x7F800000 + x.rnd * 0x100000 + x.pk * 0x40000 + b2n x.uns * 0x20000 + b2n x.hi * 0x10000 + x.sh * 0x4000

def withPfx (p : Option Nat) (w : Nat) : List Nat :=
  match p with
  | none => [w]
  | some x => [x, w]

/-- The set bit and the opcode of a word: [31:25] (R190, R192, R193). -/
def opOf (w : Nat) : Nat := fld w 31 25

/-- Check 2 of R211 (R205, R207). -/
def opAssigned (op : Nat) : Bool :=
  if op < 64 then decide (op ≤ 0x19) || (decide (0x20 ≤ op) && decide (op ≤ 0x3B)) || decide (op = 0x3F)
  else
    let u := op - 64
    decide (u ≤ 0x06) || (decide (0x10 ≤ u) && decide (u ≤ 0x1A)) || (decide (0x1C ≤ u) && decide (u ≤ 0x2A)) ||
      (decide (0x30 ≤ u) && decide (u ≤ 0x35)) || (decide (0x38 ≤ u) && decide (u ≤ 0x3F))

/-- The words that carry a guard field (R192, R193, R195): the lane set but prefixes, and the GB words. -/
def hasGuard (op : Nat) : Bool :=
  if op < 64 then decide (op ≠ 0x3F)
  else
    let u := op - 64
    decide (u = 0x10) || decide (u = 0x12) || decide (u = 0x13) || decide (u = 0x14) || decide (u = 0x15) ||
      decide (u = 0x18) || decide (u = 0x19) || decide (u = 0x1F)

def noPfx : Pfx → Bool
  | .none => true
  | _ => false

/-- A memory prefix or none, with the fields that R200 permits; the fields are then checked further. -/
def memPerm (p : Pfx) (acq rel nf scope pol : Bool) : Bool :=
  match p with
  | .none => true
  | .mem x => (acq || !x.acq) && (rel || !x.rel) && (nf || !x.nf) && (scope || decide (x.scope = 0)) && (pol || decide (x.pol = 0))
  | _ => false

/-- Scratch words: the scope is skein or crew (R200). -/
def memScope2 : Pfx → Bool
  | .mem x => decide (x.scope < 2)
  | _ => true

def arithPerm (p : Pfx) (rnd pk uns hi sh : Bool) : Bool :=
  match p with
  | .none => true
  | .arith x => (rnd || decide (x.rnd = 0)) && (pk || decide (x.pk = 0)) && (uns || !x.uns) && (hi || !x.hi) && (sh || decide (x.sh = 0))
  | _ => false

def Pfx.memo : Pfx → Option MemPfx
  | .mem x => some x
  | _ => Option.none

def Pfx.aritho : Pfx → Option ArithPfx
  | .arith x => some x
  | _ => Option.none

/-- Reserved values inside an arithmetic prefix: RND 110 and 111, PK 11 (R199). -/
def arithRes : Pfx → Bool
  | .arith x => decide (x.rnd < 6) && decide (x.pk < 3)
  | _ => true

/-- Check 7 for a plain load or store (R113). -/
def scopeChk (p : Pfx) : Bool :=
  match p with
  | .mem x => scopeOk (x.acq || x.rel) x.scope
  | _ => true

/-- Check 7 for an atomic (R113). -/
def scopeLt5 (p : Pfx) : Bool :=
  match p with
  | .mem x => decide (x.scope < 5)
  | _ => true

/-- The width code 11 of sld and sst is reserved (R197). -/
def widthChk : Pfx → Bool
  | .mem x => decide (x.pol < 3)
  | _ => true

/-- Lane-set words 0x00 to 0x0E: integer (R205, R222). -/
def decLaneInt (p : Pfx) (w op g d a b : Nat) : Decoded :=
  if op = 0x00 then need (noPfx p) .badPairing (.ok (.vadd g d a b))
  else if op = 0x01 then need (noPfx p) .badPairing (.ok (.vsub g d a b))
  else if op = 0x02 then
    need (arithPerm p false false true true false) .badPairing
      (match p with
       | .arith x => if x.hi then .ok (.vmulh x g d a b) else .ok (.vmul (some x) g d a b)
       | _ => .ok (.vmul none g d a b))
  else if op = 0x03 then need (noPfx p) .badPairing (.ok (.vmad g d a b))
  else if op = 0x04 then need (noPfx p) .badPairing (.ok (.vand g d a b))
  else if op = 0x05 then need (noPfx p) .badPairing (.ok (.vor g d a b))
  else if op = 0x06 then need (noPfx p) .badPairing (.ok (.vxor g d a b))
  else if op = 0x07 then need (noPfx p) .badPairing (.ok (.vshl g d a b))
  else if op = 0x08 then need (noPfx p) .badPairing (.ok (.vshr g d a b))
  else if op = 0x09 then need (noPfx p) .badPairing (.ok (.vsar g d a b))
  else if op = 0x0A then need (arithPerm p false false true false false) .badPairing (.ok (.vmin p.aritho g d a b))
  else if op = 0x0B then need (arithPerm p false false true false false) .badPairing (.ok (.vmax p.aritho g d a b))
  else if op = 0x0C then need (arithPerm p false false false false true) .badPairing (.ok (.vlea p.aritho g d a b))
  else if op = 0x0D then need (noPfx p) .badPairing (.ok (.vaddi g d a b))
  else need (noPfx p) .badPairing (.ok (.vimm g d (fld w 13 0)))

/-- Opcode 0x0F: the unary group (R206). -/
def decUnary (p : Pfx) (g d a f : Nat) : Decoded :=
  need (noPfx p) .badPairing
    (if f = 0 then .ok (.vmov g d a)
     else if f = 1 then .ok (.vabs g d a)
     else if f = 2 then .ok (.vpopc g d a)
     else if f = 3 then .ok (.vclz g d a)
     else if f = 4 then need (decide (a < 64)) .reservedField (.ok (.vbcast g d a))
     else if f = 5 then need (decide (a < 16)) .functionUnassigned (.ok (.movsVector g d a))
     else if f = 8 then .ok (.vcvtiI32I8 g d a)
     else if f = 9 then .ok (.vcvtiI32I16 g d a)
     else if f = 10 then .ok (.vcvtiN32N8 g d a)
     else if f = 11 then .ok (.vcvtiN32N16 g d a)
     else if f = 12 then .ok (.vcvtiI8I32 g d a)
     else if f = 13 then .ok (.vcvtiI16I32 g d a)
     else if f = 14 then .ok (.vcvtiN8N32 g d a)
     else if f = 15 then .ok (.vcvtiN16N32 g d a)
     else .error .functionUnassigned)

/-- Lane-set words 0x10 to 0x19: floating point (R205, R206). -/
def decLaneFp (p : Pfx) (w op g d a b : Nat) : Decoded :=
  let fp (k : Decoded) : Decoded := need (arithPerm p true true false false false) .badPairing (need (arithRes p) .reservedField k)
  let fm (k : Decoded) : Decoded := need (arithPerm p false true false false false) .badPairing (need (arithRes p) .reservedField k)
  if op = 0x10 then fp (.ok (.fadd p.aritho g d a b))
  else if op = 0x11 then fp (.ok (.fsub p.aritho g d a b))
  else if op = 0x12 then fp (.ok (.fmul p.aritho g d a b))
  else if op = 0x13 then fp (.ok (.ffma p.aritho g d a b))
  else if op = 0x14 then fm (.ok (.fmin p.aritho g d a b))
  else if op = 0x15 then fm (.ok (.fmax p.aritho g d a b))
  else if op = 0x16 then
    need (noPfx p) .badPairing (need (decide (fld w 20 17 < 8)) .functionUnassigned (.ok (.fcmp g (fld w 20 17) (fld w 16 14) a b)))
  else if op = 0x17 then fp (.ok (.fscale p.aritho g d a b))
  else if op = 0x18 then
    let t := fld w 6 3
    let s := fld w 2 0
    need (arithPerm p true false false false false) .badPairing
      (need (decide (t < 8) && decide (t ≠ s) && !(decide (6 ≤ t) && decide (6 ≤ s))) .functionUnassigned
        (need (arithRes p) .reservedField (.ok (.fcvt p.aritho g d a t s))))
  else if b = 0 then fp (.ok (.fround p.aritho g d a))
  else if b = 1 then fm (.ok (.fclass p.aritho g d a))
  else need (arithPerm p true true false false false) .badPairing (.error .functionUnassigned)

/-- Lane-set words 0x20 to 0x27: intervals and special functions (R205, R206). -/
def decLaneInterval (p : Pfx) (op g d a b : Nat) : Decoded :=
  need (noPfx p) .badPairing
    (if op = 0x20 then .ok (.iadd g d a b)
     else if op = 0x21 then .ok (.isub g d a b)
     else if op = 0x22 then .ok (.imul g d a b)
     else if op = 0x23 then .ok (.idiv g d a b)
     else if op = 0x24 then .ok (.imin g d a b)
     else if op = 0x25 then .ok (.imax g d a b)
     else if op = 0x26 then .ok (.ihull g d a b)
     else if b = 0 then .ok (.isq g d a)
     else if b = 1 then .ok (.isqrt g d a)
     else if b = 2 then .ok (.iabs g d a)
     else if 0x20 ≤ b ∧ b ≤ 0x2C then .ok (.sfn g d a (b - 0x20))
     else if 0x30 ≤ b ∧ b ≤ 0x3F then .ok (.sfnSlot g d a (b - 0x30))
     else .error .functionUnassigned)

/-- Lane-set words 0x28 to 0x2F: predicates and cross-lane (R205, R206). -/
def decLanePred (p : Pfx) (w op g d a b : Nat) : Decoded :=
  need (noPfx p) .badPairing
    (if op = 0x28 then
       let f := fld w 20 17
       let pd := fld w 16 14
       let pa := fld w 9 7
       let pb := fld w 2 0
       need (decide (f < 4)) .functionUnassigned
         (need (decide (fld w 13 10 = 0) && decide (fld w 6 3 = 0) && (decide (f ≠ 3) || decide (pb = 0))) .reservedField
           (if f = 0 then .ok (.pand g pd pa pb) else if f = 1 then .ok (.por g pd pa pb)
            else if f = 2 then .ok (.pxor g pd pa pb) else .ok (.pnot g pd pa)))
     else if op = 0x29 then
       need (decide (b < 2)) .functionUnassigned
         (need (decide (fld w 20 17 = 0) && decide (fld w 13 13 = 0)) .reservedField
           (if b = 0 then .ok (.pmovgToPredicate g (fld w 16 14) (fld w 12 7)) else .ok (.pmovgToUniform g (fld w 16 14) (fld w 12 7))))
     else if op = 0x2A then
       (if fld w 6 5 = 0 then .ok (.shflIdx g d a (fld w 4 0)) else if fld w 6 5 = 1 then .ok (.shflUp g d a (fld w 4 0))
        else if fld w 6 5 = 2 then .ok (.shflDown g d a (fld w 4 0)) else .ok (.shflXor g d a (fld w 4 0)))
     else if op = 0x2B then .ok (.shflIdxRegister g d a b)
     else if op = 0x2C then
       need (decide (b < 4)) .functionUnassigned
         (need (decide (fld w 13 10 = 0) && (if b = 3 then decide (fld w 20 20 = 0) else decide (fld w 20 17 = 0))) .reservedField
           (if b = 0 then .ok (.voteAny g (fld w 16 14) (fld w 9 7)) else if b = 1 then .ok (.voteAll g (fld w 16 14) (fld w 9 7))
            else if b = 2 then .ok (.voteNone g (fld w 16 14) (fld w 9 7)) else .ok (.voteBallot g (fld w 19 14) (fld w 9 7))))
     else if op = 0x2D then
       need (redOk (fld w 5 3) (fld w 2 0)) .functionUnassigned
         (if fld w 6 6 = 0 then .ok (.vred g d a (fld w 5 3) (fld w 2 0)) else .ok (.vscan g d a (fld w 5 3) (fld w 2 0)))
     else if op = 0x2E then .ok (.vsel g d a b)
     else need (decide (fld w 20 17 < 10)) .functionUnassigned (.ok (.vsetp g (fld w 20 17) (fld w 16 14) a b)))

/-- Lane-set words 0x30 to 0x3B: memory (R205). -/
def decLaneMem (p : Pfx) (w op g d a : Nat) : Decoded :=
  let b := fld w 6 1
  let s := fld w 0 0
  let ld (k : Option MemPfx → Instr) : Decoded :=
    need (memPerm p true true true true true) .badPairing (need (scopeChk p) .scopeReserved (.ok (k p.memo)))
  let st (k : Option MemPfx → Instr) : Decoded :=
    need (memPerm p false true false true true) .badPairing (need (scopeChk p) .scopeReserved (.ok (k p.memo)))
  if op = 0x30 then (if s = 0 then ld (fun x => .vldN8 x g d a b) else ld (fun x => .vldN16 x g d a b))
  else if op = 0x31 then ld (fun x => .vld x g d a b s)
  else if op = 0x32 then ld (fun x => .vldN64 x g d a b s)
  else if op = 0x33 then (if s = 0 then st (fun x => .vstN8 x g d a b) else st (fun x => .vstN16 x g d a b))
  else if op = 0x34 then st (fun x => .vst x g d a b s)
  else if op = 0x35 then st (fun x => .vstN64 x g d a b s)
  else if op = 0x36 then
    (match p with
     | .atom x =>
       need (!x.scr || (decide (x.pol = 0) && decide (x.scope < 2))) .badPairing
         (need (aopOk x.aop (b2n x.w64)) .functionUnassigned
           (need (decide (x.scope < 5)) .scopeReserved (.ok (.vatom x g d a b s))))
     | _ => .error .badPairing)
  else if op = 0x37 then
    need (memPerm p false false false false false) .badPairing (need (decide (s = 0)) .reservedField (.ok (.pgreq p.memo g d a b)))
  else if op = 0x38 then
    need (memPerm p true true true true true && memScope2 p) .badPairing
      (match p with
       | .mem x =>
         need (widthChk p && (x.nf || decide (s = 0))) .reservedField
           (need (scopeChk p) .scopeReserved
             (if x.nf then (if s = 0 then .ok (.sldFe x g d a b) else .ok (.sldFeClr x g d a b)) else .ok (.sld (some x) g d a b)))
       | _ => need (decide (s = 0)) .reservedField (.ok (.sld none g d a b)))
  else if op = 0x39 then
    need (memPerm p false true true true true && memScope2 p) .badPairing
      (need (widthChk p && decide (s = 0)) .reservedField (need (scopeChk p) .scopeReserved (.ok (.sst p.memo g d a b))))
  else if op = 0x3A then
    need (memPerm p false true false true false && memScope2 p) .badPairing
      (need (decide (s = 0)) .reservedField (need (scopeChk p) .scopeReserved (.ok (.sclr p.memo g d a b))))
  else need (noPfx p) .badPairing (if s = 0 then .ok (.smp g d a b) else .ok (.smpPool g d a b))

/-- Uniform opcode 0x00: the integer group (R208). -/
def decUniInt (w : Nat) : Decoded :=
  let d := fld w 24 19
  let a := fld w 18 13
  let b := fld w 12 7
  let n := fld w 6 6
  let f := fld w 5 0
  if f = 0x00 then .ok (.gadd d a b n)
  else if f = 0x01 then .ok (.gsub d a b n)
  else if f = 0x02 then .ok (.gmul d a b n)
  else if f = 0x03 then .ok (.gmulh d a b n)
  else if f = 0x04 then .ok (.gmulhN d a b n)
  else if f = 0x05 then .ok (.gdiv d a b n)
  else if f = 0x06 then .ok (.gdivN d a b n)
  else if f = 0x07 then .ok (.grem d a b n)
  else if f = 0x08 then .ok (.gremN d a b n)
  else if f = 0x09 then .ok (.gand d a b n)
  else if f = 0x0A then .ok (.gor d a b n)
  else if f = 0x0B then .ok (.gxor d a b n)
  else if f = 0x0C then .ok (.gshl d a b n)
  else if f = 0x0D then .ok (.gshr d a b n)
  else if f = 0x0E then .ok (.gsar d a b n)
  else if f = 0x0F then .ok (.gmin d a b n)
  else if f = 0x10 then .ok (.gminN d a b n)
  else if f = 0x11 then .ok (.gmax d a b n)
  else if f = 0x12 then .ok (.gmaxN d a b n)
  else if f = 0x13 then need (decide (b = 0)) .reservedField (.ok (.gpopc d a n))
  else if f = 0x14 then need (decide (b = 0)) .reservedField (.ok (.gclz d a n))
  else if f = 0x15 then need (decide (n = 0)) .reservedField (.ok (.gsel d a b))
  else if 0x20 ≤ f ∧ f < 0x2A then .ok (.gcmp d a b n (f - 0x20))
  else .error .functionUnassigned

/-- Uniform opcodes 0x01 to 0x06: immediates (R207). -/
def decUniImm (w u : Nat) : Decoded :=
  let d := fld w 24 19
  let a := fld w 18 13
  let v := fld w 12 12
  if u = 0x01 then .ok (.gaddi d a v (fld w 11 0))
  else if u = 0x02 then .ok (.gandi d a v (fld w 11 0))
  else if u = 0x03 then .ok (.gori d a v (fld w 11 0))
  else if u = 0x04 then .ok (.gxori d a v (fld w 11 0))
  else if u = 0x05 then
    need (decide (fld w 7 6 < 3)) .functionUnassigned
      (need (decide (fld w 11 8 = 0) && (decide (v = 0) || decide (fld w 5 0 < 32))) .reservedField
        (if fld w 7 6 = 0 then .ok (.gshli d a v (fld w 5 0)) else if fld w 7 6 = 1 then .ok (.gshri d a v (fld w 5 0))
         else .ok (.gsari d a v (fld w 5 0))))
  else need (decide (fld w 11 8 < 10)) .functionUnassigned (.ok (.gcmpi d a v (fld w 11 8) (fld w 7 0)))

/-- Uniform opcodes 0x10 to 0x1F: control (R207). -/
def decUniCtl (w u : Nat) : Decoded :=
  let g := fld w 24 21
  let off := fld w 15 0
  let rf (b : Bool) (k : Instr) : Decoded := need b .reservedField (.ok k)
  if u = 0x10 then rf (decide (g = 0) && decide (fld w 20 16 = 0)) (.bru off)
  else if u = 0x11 then need (decide (fld w 24 22 < 6)) .functionUnassigned (.ok (.bcc (fld w 24 22) (fld w 21 16) (fld w 15 10) (fld w 9 0)))
  else if u = 0x12 then
    need (decide (fld w 17 16 < 3)) .functionUnassigned
      (need (decide (fld w 20 18 = 0)) .reservedField
        (if fld w 17 16 = 0 then .ok (.bvoteAny g off) else if fld w 17 16 = 1 then .ok (.bvoteAll g off) else .ok (.bvoteNone g off)))
  else if u = 0x13 then rf (decide (fld w 20 16 = 0)) (.br g off)
  else if u = 0x14 then rf (decide (fld w 20 20 = 0)) (.brx g (fld w 19 16) off)
  else if u = 0x15 then rf (decide (g = 0) && decide (fld w 20 16 = 0)) (.call off)
  else if u = 0x16 then rf (decide (fld w 24 19 = 0) && decide (fld w 12 0 = 0)) (.ret (fld w 18 13))
  else if u = 0x17 then rf (decide (fld w 12 0 = 0)) (.jmpg (fld w 24 19) (fld w 18 13))
  else if u = 0x18 then rf (decide (fld w 20 0 = 0)) (.exit g)
  else if u = 0x19 then rf (decide (fld w 20 0 = 0)) (.tail g)
  else if u = 0x1A then rf (decide (fld w 24 0 = 0)) .yield
  else if u = 0x1C then
    need (decide (fld w 6 0 < 2)) .functionUnassigned
      (if fld w 6 0 = 0 then rf (decide (fld w 24 16 = 0) && decide (fld w 12 7 = 0)) (.meld (fld w 15 13))
       else rf (decide (fld w 24 7 = 0)) .mend)
  else if u = 0x1D then rf (decide (fld w 24 21 = 0) && decide (fld w 8 0 = 0)) (.mmap (fld w 20 20) (fld w 19 16) (fld w 15 9))
  else if u = 0x1E then
    need (decide (fld w 6 0 < 2)) .functionUnassigned
      (if fld w 6 0 = 0 then rf (decide (fld w 24 7 = 0)) .wopen else rf (decide (fld w 24 7 = 0)) .wclose)
  else rf (decide (fld w 20 20 = 0)) (.spawn g (fld w 19 16) off)

/-- Uniform opcodes 0x20 to 0x27: barriers, counters, fences, special registers, system, launch (R207). -/
def decUniSys (w u : Nat) : Decoded :=
  let rf (b : Bool) (k : Instr) : Decoded := need b .reservedField (.ok k)
  let rv (b : Bool) (k : Instr) : Decoded := need b (if viewUnassigned (fld w 11 0) then .reservedView else .reservedField) (.ok k)
  if u = 0x20 then
    let l := fld w 21 19
    let b := fld w 18 17
    let f := fld w 24 22
    need (decide (f < 3) && barOk l b && decide (fld w 16 0 = 0)) .reservedField
      (if f = 0 then .ok (.bar l b) else if f = 1 then .ok (.barArrive l b) else .ok (.barWait l b))
  else if u = 0x21 then rf (decide (fld w 4 0 = 0)) (.waitc (fld w 24 20) (fld w 19 15) (fld w 14 10) (fld w 9 5))
  else if u = 0x22 then
    need (decide (fld w 24 23 ≠ 0)) .functionUnassigned
      (need (decide (fld w 19 0 = 0)) .reservedField
        (need (decide (fld w 22 20 < 5)) .scopeReserved
          (if fld w 24 23 = 1 then .ok (.fenceRel (fld w 22 20)) else if fld w 24 23 = 2 then .ok (.fenceAcq (fld w 22 20))
           else .ok (.fenceAr (fld w 22 20)))))
  else if u = 0x23 then
    need (specialOk (fld w 11 0)) .functionUnassigned
      (if fld w 12 12 = 0 then rv (decide (fld w 18 13 = 0)) (.movs (fld w 24 19) (fld w 11 0))
       else rv (decide (fld w 24 19 = 0)) (.movsw (fld w 18 13) (fld w 11 0)))
  else if u = 0x24 then rf (decide (fld w 24 19 = 0) && decide (fld w 12 0 = 0)) (.gang (fld w 18 13))
  else if u = 0x25 then
    rf (decide (fld w 24 12 = 0) && decide (fld w 11 9 < 6) && decide (fld w 8 7 < 3) && decide (fld w 4 0 = 0))
      (.cfgmode (fld w 11 9) (fld w 8 7) (fld w 6 6) (fld w 5 5))
  else if u = 0x26 then
    let f := fld w 11 8
    need (decide (f < 6)) .functionUnassigned
      (if f = 0 then rf (decide (fld w 24 12 = 0) && decide (fld w 7 0 = 0)) .nop
       else if f = 1 then rf (decide (fld w 24 12 = 0)) (.trap (fld w 7 0))
       else if f = 2 then rf (decide (fld w 24 12 = 0)) (.brk (fld w 7 0))
       else if f = 3 then rf (decide (fld w 24 12 = 0) && decide (fld w 7 0 = 0)) .eret
       else if f = 4 then rf (decide (fld w 24 12 = 0) && decide (fld w 7 0 = 0)) .halt
       else rf (decide (fld w 24 19 = 0) && decide (fld w 12 12 = 0) && decide (fld w 7 4 = 0)) (.sfload (fld w 18 13) (fld w 3 0)))
  else
    need (decide (fld w 6 0 < 3)) .functionUnassigned
      (if fld w 6 0 = 0 then .ok (.launch (fld w 24 19) (fld w 18 13) (fld w 12 7))
       else if fld w 6 0 = 1 then .ok (.launchWait (fld w 24 19) (fld w 18 13) (fld w 12 7))
       else rf (decide (fld w 24 7 = 0)) .lwait)

/-- Uniform opcodes 0x28 to 0x2A: uniform memory (R207). -/
def decUniMem (p : Pfx) (w u : Nat) : Decoded :=
  let d := fld w 24 19
  let a := fld w 18 13
  let b := fld w 12 7
  let z := fld w 6 4
  if u = 0x28 then
    need (memPerm p true true true true true) .badPairing
      (need (decide (z < 4)) .functionUnassigned
        (need (decide (fld w 2 0 = 0) && !(decide (fld w 3 3 = 1) && decide (z = 3))) .reservedField
          (need (scopeChk p) .scopeReserved (.ok (.gld p.memo d a b z (fld w 3 3))))))
  else if u = 0x29 then
    need (memPerm p false true false true true) .badPairing
      (need (decide (z < 4)) .functionUnassigned
        (need (decide (fld w 3 0 = 0)) .reservedField (need (scopeChk p) .scopeReserved (.ok (.gst p.memo d a b z)))))
  else
    let s := fld w 1 1
    let n := fld w 2 2
    let o := fld w 6 3
    need (memPerm p true true false true true &&
        (decide (s = 0) || match p with | .mem x => decide (x.pol = 0) && decide (x.scope < 2) | _ => true)) .badPairing
      (need (aopOk o n) .functionUnassigned
        (need (decide (fld w 0 0 = 0)) .reservedField (need (scopeLt5 p) .scopeReserved (.ok (.gatom p.memo d a b o n s)))))

/-- Uniform opcode 0x30: the copy engine's modes (R208). -/
def decCpy (w : Nat) : Decoded :=
  let a := fld w 24 19
  let b := fld w 18 13
  let c := fld w 12 7
  let o := fld w 6 6
  let m := fld w 5 0
  if m = 0x00 then .ok (.cpyLin a b c o)
  else if m = 0x01 then .ok (.cpyShape a b c o)
  else if m = 0x02 then .ok (.cpyGather a b c o)
  else if m = 0x03 then .ok (.cpyScatter a b c o)
  else if m = 0x04 then .ok (.cpyMcast a b c o)
  else if m = 0x05 then .ok (.cpyRadd a b c o)
  else if m = 0x06 then .ok (.cpyDec a b c o)
  else if m = 0x07 then .ok (.cpyDeq a b c o)
  else if m = 0x08 then .ok (.cpyPack a b c o)
  else if m = 0x09 then .ok (.cpyUnpack a b c o)
  else if m = 0x0A then .ok (.cpyPut a b c o)
  else if m = 0x0B then .ok (.cpyGet a b c o)
  else if m = 0x0C then .ok (.cpySig a b c o)
  else .error .functionUnassigned

/-- Uniform opcodes 0x31 to 0x35: barrier objects and shfence (R207). -/
def decObj (w u : Nat) : Decoded :=
  let d := fld w 24 19
  let a := fld w 18 13
  let b := fld w 12 7
  let o := fld w 0 0
  let rf (x : Bool) (k : Instr) : Decoded := need x .reservedField (.ok k)
  if u = 0x31 then rf (decide (d = 0) && decide (fld w 6 1 = 0)) (.binit a b o)
  else if u = 0x32 then rf (decide (d = 0) && decide (fld w 6 1 = 0)) (.barrive a b o)
  else if u = 0x33 then rf (decide (d = 0) && decide (fld w 6 1 = 0)) (.bwait a b o)
  else if u = 0x34 then rf (decide (fld w 6 1 = 0)) (.btest d a b o)
  else rf (decide (d = 0) && decide (fld w 12 0 = 0)) (.shfence a)

/-- Uniform opcodes 0x38 to 0x3B: matrix and row units (R207). -/
def decMatrix (w u : Nat) : Decoded :=
  let a := fld w 24 22
  let t := fld w 21 18
  let v := fld w 17 14
  let g := fld w 13 8
  let rf (x : Bool) (k : Instr) : Decoded := need x .reservedField (.ok k)
  if u = 0x38 then rf (decide (a = 0) && decide (v = 0) && decide (fld w 7 0 = 0)) (.tmap t g)
  else if u = 0x39 then
    need (decide (fld w 1 0 < 3)) .functionUnassigned
      (if fld w 1 0 = 0 then rf (decide (fld w 7 3 = 0)) (.mma a t v g (fld w 2 2))
       else if fld w 1 0 = 1 then rf (decide (fld w 7 4 = 0)) (.mmas a t v g (fld w 3 3) (fld w 2 2))
       else rf (decide (fld w 7 3 = 0) && decide (fld w 2 2 = 1)) (.cmma a t v g))
  else if u = 0x3A then
    need (decide (fld w 2 0 < 4)) .functionUnassigned
      (if fld w 2 0 = 0 then rf (decide (fld w 21 14 = 0) && decide (fld w 7 3 = 0)) (.accz a g)
       else if fld w 2 0 = 1 then rf (decide (v = 0) && decide (fld w 7 3 = 0)) (.accin a t g)
       else if fld w 2 0 = 2 then rf (decide (v = 0) && decide (fld w 7 4 = 0)) (.accout a t g (fld w 3 3))
       else rf (decide (fld w 21 17 = 0) && decide (fld w 13 3 = 0)) (.accmov a (fld w 16 14)))
  else
    let g1 := fld w 24 19
    let g2 := fld w 18 13
    let g3 := fld w 12 7
    let o := fld w 6 6
    if fld w 5 0 = 0 then .ok (.trowSum g1 g2 g3 o)
    else if fld w 5 0 = 1 then .ok (.trowMax g1 g2 g3 o)
    else if fld w 5 0 = 2 then .ok (.trowSmax g1 g2 g3 o)
    else if fld w 5 0 = 3 then .ok (.trowNorm g1 g2 g3 o)
    else .error .functionUnassigned

/-- Uniform opcode 0x3C: field machine, traversal, raster, neighbour engine (R208). -/
def decField (w : Nat) : Decoded :=
  let a := fld w 24 19
  let b := fld w 18 13
  let c := fld w 12 7
  let o := fld w 6 6
  let m := fld w 5 0
  let rf (x : Bool) (k : Instr) : Decoded := need x .reservedField (.ok k)
  if m = 0x00 then .ok (.march a b c o)
  else if m = 0x01 then .ok (.marchIv a b c o)
  else if m = 0x02 then .ok (.mresume a b c o)
  else if m = 0x03 then .ok (.fprep a b c o)
  else if m = 0x08 then rf (decide (o = 0) && decide (b = 0)) (.boxt a c)
  else if m = 0x09 then rf (decide (o = 0) && decide (b = 0)) (.trit a c)
  else if m = 0x0A then rf (decide (o = 0)) (.stkpush a b c)
  else if m = 0x0B then rf (decide (o = 0)) (.stkpop a b c)
  else if m = 0x10 then .ok (.draw a b c o)
  else if m = 0x11 then rf (decide (o = 0)) (.depthw a b c)
  else if m = 0x18 then .ok (.nbin a b c o)
  else if m = 0x19 then .ok (.npairs a b c o)
  else if m = 0x1A then rf (decide (o = 0)) (.nstat a b c)
  else .error .functionUnassigned

/-- Checks 4 to 7 of R211 on a word whose opcode and guard have passed, with what stands before it. -/
def decodeBody (p : Pfx) (w : Nat) : Decoded :=
  let op := opOf w
  let g := fld w 24 21
  let d := fld w 20 14
  let a := fld w 13 7
  let b := fld w 6 0
  if op < 64 then
    if op ≤ 0x0E then decLaneInt p w op g d a b
    else if op = 0x0F then decUnary p g d a b
    else if op ≤ 0x19 then decLaneFp p w op g d a b
    else if op ≤ 0x27 then decLaneInterval p op g d a b
    else if op ≤ 0x2F then decLanePred p w op g d a b
    else decLaneMem p w op g d a
  else
    let u := op - 64
    if 0x28 ≤ u ∧ u ≤ 0x2A then decUniMem p w u
    else
      need (noPfx p) .badPairing
        (if u = 0x00 then decUniInt w
         else if u ≤ 0x06 then decUniImm w u
         else if u ≤ 0x1F then decUniCtl w u
         else if u ≤ 0x27 then decUniSys w u
         else if u = 0x30 then decCpy w
         else if u ≤ 0x35 then decObj w u
         else if u ≤ 0x3B then decMatrix w u
         else if u = 0x3C then decField w
         else .ok (.ghi (fld w 25 20) (fld w 19 0)))

/-- The two prefix opcodes: vmod of the lane set, gmod of the uniform set (R196). -/
def isPrefix (w : Nat) : Bool := decide (opOf w = 0x3F) || decide (opOf w = 0x7D)

/-- Checks 2 and 3 of R211 on one word. -/
def wordChecks (w : Nat) (k : Decoded) : Decoded :=
  need (opAssigned (opOf w)) .opcodeUnassigned (need (!(hasGuard (opOf w) && decide (fld w 24 21 = 8))) .guardReserved k)

/-- The reserved bits of a prefix payload (R198, R199): check 6 of the pair. -/
def prefixReserved (w : Nat) : Bool :=
  if opOf w = 0x7D || fld w 24 24 = 0 then true
  else if fld w 23 23 = 0 then decide (fld w 2 0 = 0) else decide (fld w 13 0 = 0)

def prefixOf (w : Nat) : Pfx :=
  if opOf w = 0x7D || fld w 24 24 = 0 then .mem (decMemPfx w)
  else if fld w 23 23 = 0 then .atom (decAtomPfx w) else .arith (decArithPfx w)

/-- A reserved bit of the prefix is check 6: it gives way to checks 4 and 5 of the pair and comes before check 7. -/
def withReserved (ok : Bool) (r : Decoded) : Decoded :=
  if ok then r
  else match r with
    | .ok _ => .error .reservedField
    | .error .scopeReserved => .error .reservedField
    | .error e => .error e

/-- A prefixed pair (R196): the second word is of the prefix's set and is no prefix; gmod has [24] = 0 (R200). -/
def decodePair (w0 w1 : Nat) : Decoded :=
  wordChecks w1
    (need (!isPrefix w1 && decide (opOf w0 / 64 = opOf w1 / 64) && (decide (opOf w0 = 0x3F) || decide (fld w0 24 24 = 0))) .badPairing
      (withReserved (prefixReserved w0) (decodeBody (prefixOf w0) w1)))

/-- The instruction at an address from its first two words; the second is used only after a prefix. -/
def decode (w0 w1 : Nat) : Decoded :=
  if isPrefix w0 then decodePair w0 w1 else wordChecks w0 (decodeBody .none w0)

/-- The words of a well-formed instruction, first word first. An event has none. -/
def encode : Instr → List Nat
  | .vadd g d a b => [0x0 + g * 0x200000 + d * 0x4000 + a * 0x80 + b]
  | .vsub g d a b => [0x2000000 + g * 0x200000 + d * 0x4000 + a * 0x80 + b]
  | .vmul x g d a b => withPfx (x.map encArithPfx) (0x4000000 + g * 0x200000 + d * 0x4000 + a * 0x80 + b)
  | .vmulh x g d a b => [encArithPfx x, 0x4000000 + g * 0x200000 + d * 0x4000 + a * 0x80 + b]
  | .vmad g d a b => [0x6000000 + g * 0x200000 + d * 0x4000 + a * 0x80 + b]
  | .vand g d a b => [0x8000000 + g * 0x200000 + d * 0x4000 + a * 0x80 + b]
  | .vor g d a b => [0xa000000 + g * 0x200000 + d * 0x4000 + a * 0x80 + b]
  | .vxor g d a b => [0xc000000 + g * 0x200000 + d * 0x4000 + a * 0x80 + b]
  | .vshl g d a b => [0xe000000 + g * 0x200000 + d * 0x4000 + a * 0x80 + b]
  | .vshr g d a b => [0x10000000 + g * 0x200000 + d * 0x4000 + a * 0x80 + b]
  | .vsar g d a b => [0x12000000 + g * 0x200000 + d * 0x4000 + a * 0x80 + b]
  | .vmin x g d a b => withPfx (x.map encArithPfx) (0x14000000 + g * 0x200000 + d * 0x4000 + a * 0x80 + b)
  | .vmax x g d a b => withPfx (x.map encArithPfx) (0x16000000 + g * 0x200000 + d * 0x4000 + a * 0x80 + b)
  | .vlea x g d a b => withPfx (x.map encArithPfx) (0x18000000 + g * 0x200000 + d * 0x4000 + a * 0x80 + b)
  | .vaddi g d a i => [0x1a000000 + g * 0x200000 + d * 0x4000 + a * 0x80 + i]
  | .vimm g d i => [0x1c000000 + g * 0x200000 + d * 0x4000 + i]
  | .vmov g d a => [0x1e000000 + g * 0x200000 + d * 0x4000 + a * 0x80]
  | .vabs g d a => [0x1e000001 + g * 0x200000 + d * 0x4000 + a * 0x80]
  | .vpopc g d a => [0x1e000002 + g * 0x200000 + d * 0x4000 + a * 0x80]
  | .vclz g d a => [0x1e000003 + g * 0x200000 + d * 0x4000 + a * 0x80]
  | .vbcast g d a => [0x1e000004 + g * 0x200000 + d * 0x4000 + a * 0x80]
  | .movsVector g d a => [0x1e000005 + g * 0x200000 + d * 0x4000 + a * 0x80]
  | .vcvtiI32I8 g d a => [0x1e000008 + g * 0x200000 + d * 0x4000 + a * 0x80]
  | .vcvtiI32I16 g d a => [0x1e000009 + g * 0x200000 + d * 0x4000 + a * 0x80]
  | .vcvtiN32N8 g d a => [0x1e00000a + g * 0x200000 + d * 0x4000 + a * 0x80]
  | .vcvtiN32N16 g d a => [0x1e00000b + g * 0x200000 + d * 0x4000 + a * 0x80]
  | .vcvtiI8I32 g d a => [0x1e00000c + g * 0x200000 + d * 0x4000 + a * 0x80]
  | .vcvtiI16I32 g d a => [0x1e00000d + g * 0x200000 + d * 0x4000 + a * 0x80]
  | .vcvtiN8N32 g d a => [0x1e00000e + g * 0x200000 + d * 0x4000 + a * 0x80]
  | .vcvtiN16N32 g d a => [0x1e00000f + g * 0x200000 + d * 0x4000 + a * 0x80]
  | .fadd x g d a b => withPfx (x.map encArithPfx) (0x20000000 + g * 0x200000 + d * 0x4000 + a * 0x80 + b)
  | .fsub x g d a b => withPfx (x.map encArithPfx) (0x22000000 + g * 0x200000 + d * 0x4000 + a * 0x80 + b)
  | .fmul x g d a b => withPfx (x.map encArithPfx) (0x24000000 + g * 0x200000 + d * 0x4000 + a * 0x80 + b)
  | .ffma x g d a b => withPfx (x.map encArithPfx) (0x26000000 + g * 0x200000 + d * 0x4000 + a * 0x80 + b)
  | .fmin x g d a b => withPfx (x.map encArithPfx) (0x28000000 + g * 0x200000 + d * 0x4000 + a * 0x80 + b)
  | .fmax x g d a b => withPfx (x.map encArithPfx) (0x2a000000 + g * 0x200000 + d * 0x4000 + a * 0x80 + b)
  | .fcmp g c p a b => [0x2c000000 + g * 0x200000 + c * 0x20000 + p * 0x4000 + a * 0x80 + b]
  | .fscale x g d a b => withPfx (x.map encArithPfx) (0x2e000000 + g * 0x200000 + d * 0x4000 + a * 0x80 + b)
  | .fcvt x g d a t s => withPfx (x.map encArithPfx) (0x30000000 + g * 0x200000 + d * 0x4000 + a * 0x80 + t * 0x8 + s)
  | .fround x g d a => withPfx (x.map encArithPfx) (0x32000000 + g * 0x200000 + d * 0x4000 + a * 0x80)
  | .fclass x g d a => withPfx (x.map encArithPfx) (0x32000001 + g * 0x200000 + d * 0x4000 + a * 0x80)
  | .iadd g d a b => [0x40000000 + g * 0x200000 + d * 0x4000 + a * 0x80 + b]
  | .isub g d a b => [0x42000000 + g * 0x200000 + d * 0x4000 + a * 0x80 + b]
  | .imul g d a b => [0x44000000 + g * 0x200000 + d * 0x4000 + a * 0x80 + b]
  | .idiv g d a b => [0x46000000 + g * 0x200000 + d * 0x4000 + a * 0x80 + b]
  | .imin g d a b => [0x48000000 + g * 0x200000 + d * 0x4000 + a * 0x80 + b]
  | .imax g d a b => [0x4a000000 + g * 0x200000 + d * 0x4000 + a * 0x80 + b]
  | .ihull g d a b => [0x4c000000 + g * 0x200000 + d * 0x4000 + a * 0x80 + b]
  | .isq g d a => [0x4e000000 + g * 0x200000 + d * 0x4000 + a * 0x80]
  | .isqrt g d a => [0x4e000001 + g * 0x200000 + d * 0x4000 + a * 0x80]
  | .iabs g d a => [0x4e000002 + g * 0x200000 + d * 0x4000 + a * 0x80]
  | .sfn g d a f => [0x4e000020 + g * 0x200000 + d * 0x4000 + a * 0x80 + f]
  | .sfnSlot g d a s => [0x4e000030 + g * 0x200000 + d * 0x4000 + a * 0x80 + s]
  | .pand g d a b => [0x50000000 + g * 0x200000 + d * 0x4000 + a * 0x80 + b]
  | .por g d a b => [0x50020000 + g * 0x200000 + d * 0x4000 + a * 0x80 + b]
  | .pxor g d a b => [0x50040000 + g * 0x200000 + d * 0x4000 + a * 0x80 + b]
  | .pnot g d a => [0x50060000 + g * 0x200000 + d * 0x4000 + a * 0x80]
  | .pmovgToPredicate g p x => [0x52000000 + g * 0x200000 + p * 0x4000 + x * 0x80]
  | .pmovgToUniform g p x => [0x52000001 + g * 0x200000 + p * 0x4000 + x * 0x80]
  | .shflIdx g d a n => [0x54000000 + g * 0x200000 + d * 0x4000 + a * 0x80 + n]
  | .shflUp g d a n => [0x54000020 + g * 0x200000 + d * 0x4000 + a * 0x80 + n]
  | .shflDown g d a n => [0x54000040 + g * 0x200000 + d * 0x4000 + a * 0x80 + n]
  | .shflXor g d a n => [0x54000060 + g * 0x200000 + d * 0x4000 + a * 0x80 + n]
  | .shflIdxRegister g d a b => [0x56000000 + g * 0x200000 + d * 0x4000 + a * 0x80 + b]
  | .voteAny g d a => [0x58000000 + g * 0x200000 + d * 0x4000 + a * 0x80]
  | .voteAll g d a => [0x58000001 + g * 0x200000 + d * 0x4000 + a * 0x80]
  | .voteNone g d a => [0x58000002 + g * 0x200000 + d * 0x4000 + a * 0x80]
  | .voteBallot g d a => [0x58000003 + g * 0x200000 + d * 0x4000 + a * 0x80]
  | .vred g d a o t => [0x5a000000 + g * 0x200000 + d * 0x4000 + a * 0x80 + o * 0x8 + t]
  | .vscan g d a o t => [0x5a000040 + g * 0x200000 + d * 0x4000 + a * 0x80 + o * 0x8 + t]
  | .vsel g d a b => [0x5c000000 + g * 0x200000 + d * 0x4000 + a * 0x80 + b]
  | .vsetp g c p a b => [0x5e000000 + g * 0x200000 + c * 0x20000 + p * 0x4000 + a * 0x80 + b]
  | .vldN8 x g d a b => withPfx (x.map encMemPfx) (0x60000000 + g * 0x200000 + d * 0x4000 + a * 0x80 + b * 0x2)
  | .vldN16 x g d a b => withPfx (x.map encMemPfx) (0x60000001 + g * 0x200000 + d * 0x4000 + a * 0x80 + b * 0x2)
  | .vld x g d a b s => withPfx (x.map encMemPfx) (0x62000000 + g * 0x200000 + d * 0x4000 + a * 0x80 + b * 0x2 + s)
  | .vldN64 x g d a b s => withPfx (x.map encMemPfx) (0x64000000 + g * 0x200000 + d * 0x4000 + a * 0x80 + b * 0x2 + s)
  | .vstN8 x g v a b => withPfx (x.map encMemPfx) (0x66000000 + g * 0x200000 + v * 0x4000 + a * 0x80 + b * 0x2)
  | .vstN16 x g v a b => withPfx (x.map encMemPfx) (0x66000001 + g * 0x200000 + v * 0x4000 + a * 0x80 + b * 0x2)
  | .vst x g v a b s => withPfx (x.map encMemPfx) (0x68000000 + g * 0x200000 + v * 0x4000 + a * 0x80 + b * 0x2 + s)
  | .vstN64 x g v a b s => withPfx (x.map encMemPfx) (0x6a000000 + g * 0x200000 + v * 0x4000 + a * 0x80 + b * 0x2 + s)
  | .vatom x g d a b s => [encAtomPfx x, 0x6c000000 + g * 0x200000 + d * 0x4000 + a * 0x80 + b * 0x2 + s]
  | .pgreq x g d a b => withPfx (x.map encMemPfx) (0x6e000000 + g * 0x200000 + d * 0x4000 + a * 0x80 + b * 0x2)
  | .sld x g d a b => withPfx (x.map encMemPfx) (0x70000000 + g * 0x200000 + d * 0x4000 + a * 0x80 + b * 0x2)
  | .sldFe x g d a b => [encMemPfx x, 0x70000000 + g * 0x200000 + d * 0x4000 + a * 0x80 + b * 0x2]
  | .sldFeClr x g d a b => [encMemPfx x, 0x70000001 + g * 0x200000 + d * 0x4000 + a * 0x80 + b * 0x2]
  | .sst x g v a b => withPfx (x.map encMemPfx) (0x72000000 + g * 0x200000 + v * 0x4000 + a * 0x80 + b * 0x2)
  | .sclr x g v a b => withPfx (x.map encMemPfx) (0x74000000 + g * 0x200000 + v * 0x4000 + a * 0x80 + b * 0x2)
  | .smp g d a b => [0x76000000 + g * 0x200000 + d * 0x4000 + a * 0x80 + b * 0x2]
  | .smpPool g d a b => [0x76000001 + g * 0x200000 + d * 0x4000 + a * 0x80 + b * 0x2]
  | .gadd d a b w => [0x80000000 + d * 0x80000 + a * 0x2000 + b * 0x80 + w * 0x40]
  | .gsub d a b w => [0x80000001 + d * 0x80000 + a * 0x2000 + b * 0x80 + w * 0x40]
  | .gmul d a b w => [0x80000002 + d * 0x80000 + a * 0x2000 + b * 0x80 + w * 0x40]
  | .gmulh d a b w => [0x80000003 + d * 0x80000 + a * 0x2000 + b * 0x80 + w * 0x40]
  | .gmulhN d a b w => [0x80000004 + d * 0x80000 + a * 0x2000 + b * 0x80 + w * 0x40]
  | .gdiv d a b w => [0x80000005 + d * 0x80000 + a * 0x2000 + b * 0x80 + w * 0x40]
  | .gdivN d a b w => [0x80000006 + d * 0x80000 + a * 0x2000 + b * 0x80 + w * 0x40]
  | .grem d a b w => [0x80000007 + d * 0x80000 + a * 0x2000 + b * 0x80 + w * 0x40]
  | .gremN d a b w => [0x80000008 + d * 0x80000 + a * 0x2000 + b * 0x80 + w * 0x40]
  | .gand d a b w => [0x80000009 + d * 0x80000 + a * 0x2000 + b * 0x80 + w * 0x40]
  | .gor d a b w => [0x8000000a + d * 0x80000 + a * 0x2000 + b * 0x80 + w * 0x40]
  | .gxor d a b w => [0x8000000b + d * 0x80000 + a * 0x2000 + b * 0x80 + w * 0x40]
  | .gshl d a b w => [0x8000000c + d * 0x80000 + a * 0x2000 + b * 0x80 + w * 0x40]
  | .gshr d a b w => [0x8000000d + d * 0x80000 + a * 0x2000 + b * 0x80 + w * 0x40]
  | .gsar d a b w => [0x8000000e + d * 0x80000 + a * 0x2000 + b * 0x80 + w * 0x40]
  | .gmin d a b w => [0x8000000f + d * 0x80000 + a * 0x2000 + b * 0x80 + w * 0x40]
  | .gminN d a b w => [0x80000010 + d * 0x80000 + a * 0x2000 + b * 0x80 + w * 0x40]
  | .gmax d a b w => [0x80000011 + d * 0x80000 + a * 0x2000 + b * 0x80 + w * 0x40]
  | .gmaxN d a b w => [0x80000012 + d * 0x80000 + a * 0x2000 + b * 0x80 + w * 0x40]
  | .gpopc d a w => [0x80000013 + d * 0x80000 + a * 0x2000 + w * 0x40]
  | .gclz d a w => [0x80000014 + d * 0x80000 + a * 0x2000 + w * 0x40]
  | .gsel d a b => [0x80000015 + d * 0x80000 + a * 0x2000 + b * 0x80]
  | .gcmp d a b w c => [0x80000020 + d * 0x80000 + a * 0x2000 + b * 0x80 + w * 0x40 + c]
  | .gaddi d a w i => [0x82000000 + d * 0x80000 + a * 0x2000 + w * 0x1000 + i]
  | .gandi d a v i => [0x84000000 + d * 0x80000 + a * 0x2000 + v * 0x1000 + i]
  | .gori d a v i => [0x86000000 + d * 0x80000 + a * 0x2000 + v * 0x1000 + i]
  | .gxori d a v i => [0x88000000 + d * 0x80000 + a * 0x2000 + v * 0x1000 + i]
  | .gshli d a w n => [0x8a000000 + d * 0x80000 + a * 0x2000 + w * 0x1000 + n]
  | .gshri d a w n => [0x8a000040 + d * 0x80000 + a * 0x2000 + w * 0x1000 + n]
  | .gsari d a w n => [0x8a000080 + d * 0x80000 + a * 0x2000 + w * 0x1000 + n]
  | .gcmpi d a w c i => [0x8c000000 + d * 0x80000 + a * 0x2000 + w * 0x1000 + c * 0x100 + i]
  | .ghi d i => [0xfc000000 + d * 0x100000 + i]
  | .bru o => [0xa0000000 + o]
  | .bcc c a b o => [0xa2000000 + c * 0x400000 + a * 0x10000 + b * 0x400 + o]
  | .bvoteAny g o => [0xa4000000 + g * 0x200000 + o]
  | .bvoteAll g o => [0xa4010000 + g * 0x200000 + o]
  | .bvoteNone g o => [0xa4020000 + g * 0x200000 + o]
  | .br g o => [0xa6000000 + g * 0x200000 + o]
  | .brx g n o => [0xa8000000 + g * 0x200000 + n * 0x10000 + o]
  | .call o => [0xaa000000 + o]
  | .ret a => [0xac000000 + a * 0x2000]
  | .jmpg d a => [0xae000000 + d * 0x80000 + a * 0x2000]
  | .exit g => [0xb0000000 + g * 0x200000]
  | .tail g => [0xb2000000 + g * 0x200000]
  | .yield => [0xb4000000]
  | .meld p => [0xb8000000 + p * 0x2000]
  | .mend => [0xb8000001]
  | .mmap p i v => [0xba000000 + p * 0x100000 + i * 0x10000 + v * 0x200]
  | .wopen => [0xbc000000]
  | .wclose => [0xbc000001]
  | .spawn g n o => [0xbe000000 + g * 0x200000 + n * 0x10000 + o]
  | .bar l b => [0xc0000000 + l * 0x80000 + b * 0x20000]
  | .barArrive l b => [0xc0400000 + l * 0x80000 + b * 0x20000]
  | .barWait l b => [0xc0800000 + l * 0x80000 + b * 0x20000]
  | .waitc l s c t => [0xc2000000 + l * 0x100000 + s * 0x8000 + c * 0x400 + t * 0x20]
  | .fenceRel s => [0xc4800000 + s * 0x100000]
  | .fenceAcq s => [0xc5000000 + s * 0x100000]
  | .fenceAr s => [0xc5800000 + s * 0x100000]
  | .movs d n => [0xc6000000 + d * 0x80000 + n]
  | .movsw a n => [0xc6001000 + a * 0x2000 + n]
  | .gang a => [0xc8000000 + a * 0x2000]
  | .cfgmode r e f c => [0xca000000 + r * 0x200 + e * 0x80 + f * 0x40 + c * 0x20]
  | .nop => [0xcc000000]
  | .trap c => [0xcc000100 + c]
  | .brk c => [0xcc000200 + c]
  | .eret => [0xcc000300]
  | .halt => [0xcc000400]
  | .sfload a s => [0xcc000500 + a * 0x2000 + s]
  | .launch a b c => [0xce000000 + a * 0x80000 + b * 0x2000 + c * 0x80]
  | .launchWait a b c => [0xce000001 + a * 0x80000 + b * 0x2000 + c * 0x80]
  | .lwait => [0xce000002]
  | .gld x d a b z s => withPfx (x.map encGmod) (0xd0000000 + d * 0x80000 + a * 0x2000 + b * 0x80 + z * 0x10 + s * 0x8)
  | .gst x d a b z => withPfx (x.map encGmod) (0xd2000000 + d * 0x80000 + a * 0x2000 + b * 0x80 + z * 0x10)
  | .gatom x d a b o w s => withPfx (x.map encGmod) (0xd4000000 + d * 0x80000 + a * 0x2000 + b * 0x80 + o * 0x8 + w * 0x4 + s * 0x2)
  | .cpyLin a b c o => [0xe0000000 + a * 0x80000 + b * 0x2000 + c * 0x80 + o * 0x40]
  | .cpyShape a b c o => [0xe0000001 + a * 0x80000 + b * 0x2000 + c * 0x80 + o * 0x40]
  | .cpyGather a b c o => [0xe0000002 + a * 0x80000 + b * 0x2000 + c * 0x80 + o * 0x40]
  | .cpyScatter a b c o => [0xe0000003 + a * 0x80000 + b * 0x2000 + c * 0x80 + o * 0x40]
  | .cpyMcast a b c o => [0xe0000004 + a * 0x80000 + b * 0x2000 + c * 0x80 + o * 0x40]
  | .cpyRadd a b c o => [0xe0000005 + a * 0x80000 + b * 0x2000 + c * 0x80 + o * 0x40]
  | .cpyDec a b c o => [0xe0000006 + a * 0x80000 + b * 0x2000 + c * 0x80 + o * 0x40]
  | .cpyDeq a b c o => [0xe0000007 + a * 0x80000 + b * 0x2000 + c * 0x80 + o * 0x40]
  | .cpyPack a b c o => [0xe0000008 + a * 0x80000 + b * 0x2000 + c * 0x80 + o * 0x40]
  | .cpyUnpack a b c o => [0xe0000009 + a * 0x80000 + b * 0x2000 + c * 0x80 + o * 0x40]
  | .cpyPut a b c o => [0xe000000a + a * 0x80000 + b * 0x2000 + c * 0x80 + o * 0x40]
  | .cpyGet a b c o => [0xe000000b + a * 0x80000 + b * 0x2000 + c * 0x80 + o * 0x40]
  | .cpySig a b c o => [0xe000000c + a * 0x80000 + b * 0x2000 + c * 0x80 + o * 0x40]
  | .binit a b o => [0xe2000000 + a * 0x2000 + b * 0x80 + o]
  | .barrive a b o => [0xe4000000 + a * 0x2000 + b * 0x80 + o]
  | .bwait a b o => [0xe6000000 + a * 0x2000 + b * 0x80 + o]
  | .btest d a b o => [0xe8000000 + d * 0x80000 + a * 0x2000 + b * 0x80 + o]
  | .shfence a => [0xea000000 + a * 0x2000]
  | .tmap t g => [0xf0000000 + t * 0x40000 + g * 0x100]
  | .mma a t u g o => [0xf2000000 + a * 0x400000 + t * 0x40000 + u * 0x4000 + g * 0x100 + o * 0x4]
  | .mmas a t u g s o => [0xf2000001 + a * 0x400000 + t * 0x40000 + u * 0x4000 + g * 0x100 + s * 0x8 + o * 0x4]
  | .cmma a t u g => [0xf2000006 + a * 0x400000 + t * 0x40000 + u * 0x4000 + g * 0x100]
  | .accz a g => [0xf4000000 + a * 0x400000 + g * 0x100]
  | .accin a t g => [0xf4000001 + a * 0x400000 + t * 0x40000 + g * 0x100]
  | .accout a t g o => [0xf4000002 + a * 0x400000 + t * 0x40000 + g * 0x100 + o * 0x8]
  | .accmov a s => [0xf4000003 + a * 0x400000 + s * 0x4000]
  | .trowSum a b c o => [0xf6000000 + a * 0x80000 + b * 0x2000 + c * 0x80 + o * 0x40]
  | .trowMax a b c o => [0xf6000001 + a * 0x80000 + b * 0x2000 + c * 0x80 + o * 0x40]
  | .trowSmax a b c o => [0xf6000002 + a * 0x80000 + b * 0x2000 + c * 0x80 + o * 0x40]
  | .trowNorm a b c o => [0xf6000003 + a * 0x80000 + b * 0x2000 + c * 0x80 + o * 0x40]
  | .march k p q o => [0xf8000000 + k * 0x80000 + p * 0x2000 + q * 0x80 + o * 0x40]
  | .marchIv k p q o => [0xf8000001 + k * 0x80000 + p * 0x2000 + q * 0x80 + o * 0x40]
  | .mresume k p q o => [0xf8000002 + k * 0x80000 + p * 0x2000 + q * 0x80 + o * 0x40]
  | .fprep d s q o => [0xf8000003 + d * 0x80000 + s * 0x2000 + q * 0x80 + o * 0x40]
  | .boxt k m => [0xf8000008 + k * 0x80000 + m * 0x80]
  | .trit k m => [0xf8000009 + k * 0x80000 + m * 0x80]
  | .stkpush k s m => [0xf800000a + k * 0x80000 + s * 0x2000 + m * 0x80]
  | .stkpop k s m => [0xf800000b + k * 0x80000 + s * 0x2000 + m * 0x80]
  | .draw r t g o => [0xf8000010 + r * 0x80000 + t * 0x2000 + g * 0x80 + o * 0x40]
  | .depthw k t m => [0xf8000011 + k * 0x80000 + t * 0x2000 + m * 0x80]
  | .nbin a b c o => [0xf8000018 + a * 0x80000 + b * 0x2000 + c * 0x80 + o * 0x40]
  | .npairs a b c o => [0xf8000019 + a * 0x80000 + b * 0x2000 + c * 0x80 + o * 0x40]
  | .nstat d a b => [0xf800001a + d * 0x80000 + a * 0x2000 + b * 0x80]
  | .registerWrite _ _ => []
  | .xltinvPage _ => []
  | .xltinvContext _ => []
  | .xltinvAll _ => []
  | .xltinvComplete => []
  | .frmgive64 _ => []
  | .frmgive2m _ => []
  | .migrationCommit _ => []
  | .frameFree _ => []
  | .parkedStorePerform _ => []
  | .parkedStoreTimeout _ => []
  | .homeStore _ => []
  | .homeAtomic _ _ => []
  | .homeRead _ _ _ => []
  | .memoryScrub _ => []
  | .consumingLoadProceed _ => []
  | .fullEmptyStall _ => []
  | .arrival _ => []
  | .npairsClosingArrival _ => []
  | .sequencerOpStart _ => []
  | .gangLatchTimeout _ => []
  | .pairRecordEmit _ => []
  | .merge _ _ => []
  | .levelBarrierRelease _ => []
  | .barrierStallTimeout _ => []
  | .spawnWaitTimeout _ => []
  | .bwaitTimeout _ => []
  | .preemptWaitingCrew _ _ => []
  | .basketTimerExpiry _ _ _ => []
  | .basketLaunch _ _ => []
  | .skeinEnd _ => []
  | .retirementEntryFree _ => []
  | .crewEnd _ _ => []
  | .takeRecord _ => []
  | .placeUnit => []
  | .priorityPreemption _ => []
  | .preemptCrew _ _ => []
  | .restoreCrew _ => []
  | .qctlOpen _ => []
  | .qctlClose _ => []
  | .qctlReset _ => []
  | .mailboxPendingAppend _ _ => []
  | .deferredTrapTake _ => []
  | .watchdogTrap _ => []
  | .watchdogKill _ => []
  | .kill _ => []
  | .frameStart _ => []
  | .frameSlotEnd _ => []
  | .ethernetFrame _ _ => []
  | .enq _ => []
  | .read _ => []
  | .write _ => []
  | .resp _ => []
  | .mbox _ => []
  | .put _ => []
  | .get _ => []
  | .atom _ _ => []
  | .mig _ _ => []
  | .leave _ => []
  | .mgmt _ => []
  | .ptpMessage _ => []
  | .syncTimeout => []
  | .peerTimeout _ => []
  | .join _ => []
  | .joinComplete => []
  | .fabctlLeave _ => []
  | .powerOn _ => []
  | .status _ => []
  | .selftest _ => []
  | .diag _ _ _ => []
  | .regread _ _ => []
  | .regwrite _ _ _ => []
  | .attest _ _ => []
  | .manifest _ _ _ => []
  | .compare _ _ _ _ => []
  | .resume _ _ _ => []
  | .fatalrec _ _ => []
  | .stream _ _ => []
  | .streamq _ _ => []
  | .clockThrottle _ _ => []
  | .overtempShutdown _ => []
  | .globalTimeTick => []
  | .pageRequestTimeout _ => []
  | .asyncOperationEnd _ => []
/-- Whether the instruction is a prefixed pair. -/
def Instr.isPair (i : Instr) : Bool := decide ((encode i).length = 2)

/-- Bytes of the instruction: 4, or 8 for a pair (R190, R196). -/
def Instr.len (i : Instr) : Nat := if i.isPair then 8 else 4

/-- Little-endian word from four bytes (00 R5). -/
def leWord : List Byte → Nat
  | [] => 0
  | b :: bs => b.toNat + 256 * leWord bs

/-- The n low bytes of a number, least significant first (00 R5). -/
def leBytes : Nat → Nat → List Byte
  | 0, _ => []
  | n + 1, w => BitVec.ofNat 8 w :: leBytes n (w / 256)

/-- Decoding of bytes: the instruction and its length, or the name of the check that failed; too few bytes name no word. -/
def decodeBytes (bs : List Byte) : Option Decoded :=
  if bs.length < 4 then none
  else
    let w0 := leWord (bs.take 4)
    if isPrefix w0 then (if bs.length < 8 then none else some (decode w0 (leWord ((bs.drop 4).take 4)))) else some (decode w0 0)

/-- The instruction whose bits are `w`, laid out as the part stores them; bits above `nbits` are zero. -/
def decodeTableWord (nbits w : Nat) : Option Instr :=
  let bits := w % 2 ^ nbits
  match decodeBytes (leBytes 8 bits) with
  | some (.ok i) => some i
  | _ => none

end Sys2Proof
end

