-- ==== Sys2Proof/Machine/Fabric.lean ====
section
/-! DEFINITION. The fabric set: leaving, departure of a peer, joining, the time discipline (01 R43, 17 R433 to R438). -/
namespace Sys2Proof.Machine

/-! ### The leaves of every context -/

/-- The entries of a table of `n` entries that have a byte listed in memory; every other entry is invalid. -/
def usedEntries (s : State) (base n : Nat) : List Nat :=
  s.hm.mem.foldl (fun l c => if base ≤ c.1 ∧ c.1 < base + 16 * n then (let i := (c.1 - base) / 16; if l.contains i then l else l ++ [i]) else l) []

def levelEntries (level : Nat) : Nat := match level with | 4 => 8192 | 3 => 8192 | 2 => 512 | _ => 32
def levelBytes (level : Nat) : Nat := match level with | 4 => 2 ^ 43 | 3 => 2 ^ 30 | 2 => 2 ^ 21 | _ => 2 ^ 16

/-- Every leaf under a table: its page's address (lower bits of the index path) and the leaf. -/
def leavesFrom (s : State) : Nat → Nat → Nat → List (Nat × Leaf)
  | 0, _, _ => []
  | level + 1, base, va =>
    let lv := level + 1
    ((usedEntries s base (levelEntries lv)).map fun i =>
      let e := memNat s (base + 16 * i) 16
      let a := va + i * levelBytes lv
      if !nbit e 0 then [] else if nbit e 1 then [(a, leafOf (base + 16 * i) e)] else leavesFrom s level (nb e 111 64) a).flatten

/-- The canonical address of a page at bits 55:0: those of the upper half have bits 63:56 set (01 R15). -/
def canonVa (va : Nat) : Nat := if 2 ^ 55 ≤ va then va + (2 ^ 64 - 2 ^ 56) else va

def ctxLeaves (s : State) (ctx : Nat) : List (Nat × Leaf) :=
  match ctxEntry s ctx with
  | .ok (some ce) => (leavesFrom s 4 ce.root 0).map fun e => (canonVa e.1, e.2)
  | _ => []

/-- Sets to ABSENT each leaf that is not LOCAL and whose HOME is selected (R43); its ADDR is 0 then, also where an ABSENT leaf had named
a frame (log entry 97). -/
def absentLeaves (p : Nat → Bool) (s : State) : State :=
  (List.range 256).foldl (fun s ctx => (ctxLeaves s ctx).foldl (fun s e =>
    if e.2.resid ≠ 0 ∧ p e.2.home then putLeaf ctx e.1 { e.2 with resid := 2, addr := 0 } s else s) s) s

/-! ### Departure (01 R43, 17 R436, R437) -/

/-- The status bit of an operation's store that fails on its way: PEER for a put to a part or a host that is gone (10 R295, R134). -/
def lostBit (cause : Nat) (o : Op) : Nat := if decide (o.kind = .cpy 10) && decide (cause = 2) then 1024 else 2048

/-- The deferred store fault of a merge's store (05 R149). -/
def failTrap (va cause : Nat) : TrapInfo := { code := 16, cause := cause, addr := w64 va, deferred := true, after := true }

/-- One deferred store fault joins what the barrier of a merge in progress reports. -/
def addFailTrap (va cause : Nat) (a : Nat × Nat × List TrapInfo) : Nat × Nat × List TrapInfo :=
  if a.2.1 = 0 ∨ a.2.2.any (fun t => decide (t.code = 16)) then a else (a.1, a.2.1, a.2.2 ++ [failTrap va cause])

/-- What a failed store belongs to has it in its own report: an operation in its status (05 R138), a merge in its traps (05 R149), a message in
its answer (17 R430: ABSENT for a home that is gone, else FAULT); bytes that never complete trigger no mailbox (15 R408). -/
def failOwned (cause : Nat) (st : Store) (s : State) : State :=
  { s with
    en := { s.en with ops := s.en.ops.map fun o => if o.id = st.op then { o with status := Nat.lor o.status (lostBit cause o) } else o },
    sch := { s.sch with
      launches := s.sch.launches.map (fun l => if 2 ^ 64 + l.uid = st.op then { l with merged := l.merged.map (addFailTrap st.va cause) } else l),
      mbox := s.sch.mbox.filter fun m => decide (m.op ≠ st.op) },
    fab := { s.fab with owed := s.fab.owed.map fun w => if w.op = st.op then { w with status := if cause = 2 then 4 else 3 } else w } }

/-- The skein whose fault record this store is. -/
def isRecord (st : Store) (s : State) : Bool :=
  (allCrews s ++ s.sch.saved.map (·.crewRec)).any fun c => c.skeins.any fun k => decide (k.uid = st.uid) && decide (k.holdOn = some st.sn)

/-- A fault record whose store cannot be performed makes its trap fatal (16 R417). -/
def failRecord (st : Store) (s : State) : State :=
  let b := st.cells.map (·.2)
  let fatal := b.set 2 (BitVec.ofNat 8 (Nat.lor (leAt b 2 1) 4))
  kill st.ctx (leAt b 0 1) { s with mgt := { s.mgt with fatal := mputAny s.mgt.fatal st.ctx fatal } }

/-- A store on its way fails: as a deferred store fault of its crew, or for what it belongs to (01 R36). -/
def failStore (cause : Nat) (st : Store) (s : State) : State :=
  if st.op ≠ 0 then failOwned cause st s
  else if isRecord st s then failRecord st s
  else reportStore st.ctx st.cuid { cause := cause, va := w64 st.va, pc := st.pc, sid := st.sid, ins := st.ins } s

/-- Stores on their way to a departed home fail as deferred store faults with cause 2 (R437). -/
def failInflight (p : Nat → Bool) (s : State) : State :=
  let lost := s.hm.inflight.filter fun st => match st.remote with | some d => p d | none => false
  let s1 := modHm (fun h => { h with inflight := h.inflight.filter fun st => match st.remote with | some d => !p d | none => true }) s
  lost.foldl (fun s st => failStore 2 st s) s1

/-- The atomic that skein `k` has on its way has a word at a home that is selected: its address. -/
def lostWordOf (p : Nat → Bool) (k : Skein) : Option Nat :=
  k.wait.bind fun w => if w.kind = 10 ∧ w.stage = 1 then (w.codes.find? fun c => p c.2).map (·.1) else none

/-- Atomics on their way to a departed home fail as deferred store faults with cause 2 (R437). -/
def failAtomics (p : Nat → Bool) (s : State) : State :=
  let mark := fun k : Skein => if (lostWordOf p k).isSome then { k with wait := k.wait.map fun w => { w with stage := 2, asleep := false } } else k
  let lost := (allCrews s).flatMap fun c => c.skeins.filterMap fun k => (lostWordOf p k).map fun va => (c.crew, k, va)
  lost.foldl (fun s x => reportStore x.1.ctx x.1.uid { cause := 2, va := w64 x.2.2, pc := x.2.1.e.pc, sid := x.2.1.sid } s)
    (withCrews ((allCrews s).map fun c => { c with skeins := c.skeins.map mark }) s)

/-- A parked store's page comes from a home that is selected. -/
def parkedOn (s : State) (p : Nat → Bool) (x : Parked) : Bool := match leafAt s x.ctx x.page with | some l => p l.home | none => false

/-- What every part does about the homes that have gone. -/
def dropHomes (p : Nat → Bool) (s : State) : State :=
  let s1 := failParked 2 (parkedOn s p) (failAtomics p (failInflight p s))
  let s2 := (s1.xl.reqs.filter fun r => p r.home).foldl (fun s r => endRequest r 5 s) s1
  let s3 := modXl (fun x => { x with migs := x.migs.filter fun m => m.committed || !p m.dst }) s2
  orphanFaults (absentLeaves p s3)

def setLastLeft (d : Nat) (s : State) : State :=
  let x := (preg s 0x1A).toNat
  setPreg 0x1A (w64 (nb x 15 0 + d * 2 ^ 16)) s

/-- A member learns of the departure of device `d`. -/
def departDevice (d : Nat) (s : State) : State :=
  let f := s.fab
  let gone := { f with
    departed := if f.departed.contains d then f.departed else f.departed ++ [d], present := f.present.filter (fun p => decide (p ≠ d)),
    inbox := f.inbox.filter (fun m => decide (m.1.src ≠ d)),
    reqs := f.reqs.filter (fun r => decide (r.peer ≠ d)), joinWait := f.joinWait.filter (fun w => decide (w.1 ≠ d)) }
  dropHomes (fun h => decide (h = d)) (setLastLeft d { s with fab := gone })

/-- Output streams stop: ENABLE of every stream is cleared (R436, 18 R447). -/
def stopStreams (s : State) : State :=
  let off := fun st : Stream => { st with cfg := st.cfg.set 1 (BitVec.ofNat 8 ((st.cfg.getD 1 0#8).toNat / 2 * 2)), pending := [], sample := none, slots := [] }
  { s with fab := { s.fab with streams := s.fab.streams.map off } }

def fabBit (i : Nat) (s : State) : Bool := nbit (preg s 0x1A).toNat i
def setFabBit (i : Nat) (b : Bool) (s : State) : State :=
  let x := (preg s 0x1A).toNat
  setPreg 0x1A (w64 (x / 2 ^ (i + 1) * 2 ^ (i + 1) + b2 b * 2 ^ i + x % 2 ^ i)) s

/-- This part leaves the set (R436); host pages are no other part's. -/
def leaveSet (s : State) : State :=
  let own := ownDev s
  let s1 := dropHomes (fun h => decide (h ≠ own) && decide (h ≠ 255)) s
  let s2 := { s1 with fab := { s1.fab with joinWait := [] } }
  setFabBit 4 false (setFabBit 2 false (stopStreams s2))

/-- A member that leaves by itself tells every other member (17 R429, R436, log entry 111). -/
def tellLeave (s : State) : State := (members s).foldl (fun s d => sendMsg 0x0A d 0 (w64 (ownDev s)) [] s) s

/-! ### FABCTL (17 R434, R438) -/

/-- JOIN announces the part to every valid peer with a message that each acknowledges; numbers of messages to and from the other parts
begin at 0 again (log entry 22). -/
def beginJoin (s : State) : State :=
  if !fabBit 5 s then setFabBit 3 true s
  else
    let peers := (List.range 256).filter fun d => decide (d ≠ ownDev s) && peerValid s d
    let host := fun m : SMap Nat => m.filter fun e => decide (e.1 = 255)
    let s1 := { s with fab := { s.fab with
      departed := [], present := [], seqNext := host s.fab.seqNext, seqExp := host s.fab.seqExp, inbox := s.fab.inbox.filter (fun m => decide (m.1.src = 255)),
      joinWait := peers.map fun d => (d, if d = 255 then mget 0 s.fab.seqNext 255 else 0) } }
    setFabBit 2 true (peers.foldl (fun s d => sendMsg 0x0B d 0 0#64 (toBytes 4 1) s) s1)

def writeFabctl (x : Word64) (s : State) : State :=
  let s1 := if nbit x.toNat 3 then setFabBit 3 false s else s
  match nb x.toNat 1 0 with
  | 1 => if fabBit 4 s1 then s1 else beginJoin s1
  | 2 => leaveSet (if fabBit 4 s1 then tellLeave s1 else s1)
  | _ => s1

def execJoin (x : Word64) (s : State) : Out := if nb x.toNat 1 0 = 1 then .next (writeFabctl x s) else idle s
def execFabctlLeave (x : Word64) (s : State) : Out := if nb x.toNat 1 0 = 2 then .next (writeFabctl x s) else idle s

/-- Every peer has acknowledged: the part is a member. -/
def execJoinComplete (s : State) : Out :=
  if fabBit 2 s ∧ fabBit 5 s ∧ s.fab.joinWait = [] then .next (setFabBit 4 true (setFabBit 2 false s)) else idle s

/-! ### Lost peers -/

/-- 2^(PEERTO + 16) ticks; 0 is read as 8. -/
def peerTime (s : State) : Nat :=
  let p := nb (preg s 0x18).toNat 7 4
  2 ^ ((if p = 0 then 8 else p) + 16)

/-- A peer unacknowledged for the period is declared departed, and every other member is told. -/
def execPeerTimeout (dev : Nat) (s : State) : Out :=
  if s.fab.reqs.any (fun r => decide (r.peer = dev) && decide (r.since + peerTime s < s.gtime)) then
    let others := (members s).filter fun d => decide (d ≠ dev)
    .next (departDevice dev (others.foldl (fun s d => sendMsg 0x0A d 0 (w64 dev) [] s) s))
  else idle s

/-! ### Time (17 R435) -/

/-- SYNCED is lost: a member leaves the set, and a JOIN in progress, which requires it, is refused (R436, R438). -/
def loseSync (s : State) : State :=
  let s1 := setFabBit 5 false s
  if fabBit 4 s1 then leaveSet (tellLeave s1)
  else if fabBit 2 s1 then setFabBit 3 true (setFabBit 2 false { s1 with fab := { s1.fab with joinWait := [] } })
  else s1

def execSyncTimeout (s : State) : Out :=
  if fabBit 5 s ∧ s.fab.lastSync + 2000000000 < s.gtime then .next (loseSync s) else idle s

end Sys2Proof.Machine
end

