-- ==== Sys2Proof/Machine/Special.lean ====
section
/-! DEFINITION. Special registers, the privileged view and its access codes, gangs, cfgmode
(00 R8, 06 R168, R173, 07 R203, 08 R246 to R248, 09 R254 to R257, 18 R450). -/
namespace Sys2Proof.Machine

/-! ### The privileged view (18 R450) -/

/-- An index that names a register. -/
def viewHas (i : Nat) : Bool :=
  decide (i ≤ 2) || (decide (8 ≤ i) && decide (i ≤ 0xB)) || decide (i = 0x10) || decide (i = 0x11) ||
    (decide (0x18 ≤ i) && decide (i ≤ 0x1A)) || decide (i = 0x20) || decide (i = 0x21) || (decide (0x1000 ≤ i) && decide (i < 0x1800))

/-- Write-only registers and fields read zero: FRMGIVE64, FRMGIVE2M. -/
def viewRead (s : State) (i : Nat) : Word64 := if !viewHas i || decide (i = 0xA) || decide (i = 0xB) then 0#64 else preg s i

/-- Registers of one context (02 R58, 04 R110, 06 R173, 09 R255, 15 R407, 16 R416, R422). -/
def writeCtxReg (i f v : Nat) (s : State) : State :=
  let old := (preg s i).toNat
  let put := fun n => setPreg i (w64 n) s
  match f with
  | 0 => put (nb v 4 0)
  | 1 => put (min 16384 (max 64 (nb v 14 0)))
  | 2 => put (max 64 (nb v 47 32) * 2 ^ 32 + nb v 28 24 * 2 ^ 24 + max 16 (nb v 15 0))
  | 3 =>
    let r := nb v 10 8
    put (nb v 63 32 * 2 ^ 32 + nb v 12 12 * 2 ^ 12 + (if r = 0 ∨ 6 ≤ r then nb old 10 8 else r) * 2 ^ 8)
  | 4 => put (nb v 47 15 * 2 ^ 15 + min 1024 (nb v 10 0))
  | 5 => put (nb v 63 2 * 4)
  | 6 =>
    let wd := nb v 5 0
    let killed := nbit old 7 && !nbit v 7
    put (nb v 47 23 * 2 ^ 23 + nb old 15 8 * 256 + b2 killed * 128 + b2 (nbit old 6 || nbit v 6) * 64 + (if 1 ≤ wd ∧ wd ≤ 15 then 16 else wd))
  | _ => put (nb v 47 20 * 2 ^ 20 + nb v 11 0)

/-- FRMQ64 and FRMQ2M: EMPTY is cleared by writing 1, BASE is written while the stack is empty (01 R44). -/
def writeFrmq (i v : Nat) (s : State) : State :=
  let old := (preg s i).toNat
  let empty := nbit old 61 && !nbit v 61
  let n := nb old 60 48
  let base := if n = 0 then nb v 47 15 else nb old 47 15
  setPreg i (w64 (b2 empty * 2 ^ 61 + n * 2 ^ 48 + base * 2 ^ 15)) s

/-- PVLCFG: SETID and DEVNO keep their values while JOINED is 1, and DEVNO ignores 255 (17 R434). -/
def writePvlcfg (v : Nat) (s : State) : State :=
  let old := (preg s 0x18).toNat
  let set_ := if joined s then nb old 63 32 else nb v 63 32
  let dev := if joined s ∨ nb v 15 8 = 255 then nb old 15 8 else nb v 15 8
  setPreg 0x18 (w64 (set_ * 2 ^ 32 + nb v 31 16 * 2 ^ 16 + dev * 2 ^ 8 + nb v 7 0)) s

/-- A privileged write of view index `i` under its access codes, with the register's own behaviour (00 R8). -/
def viewWrite (i : Nat) (x : Word64) (s : State) : State :=
  let v := x.toNat
  if 0x1000 ≤ i ∧ i < 0x1800 then writeCtxReg i ((i - 0x1000) % 8) v s
  else if i = 0 then setPreg 0 (w64 (nb v 47 12 * 4096)) s
  else if i = 1 then writeXltinv x s
  else if i = 8 ∨ i = 9 then writeFrmq i v s
  else if i = 0xA then giveFrame 0 x s
  else if i = 0xB then giveFrame 1 x s
  else if i = 0x10 then (if s.sch.queues.any (·.opened) then s else setPreg 0x10 (w64 (nb v 47 22 * 2 ^ 22)) s)
  else if i = 0x11 then writeQctl x s
  else if i = 0x18 then writePvlcfg v s
  else if i = 0x19 then setPreg 0x19 (w64 (nb v 47 13 * 8192)) s
  else if i = 0x1A then writeFabctl x s
  else if i = 0x21 then setPreg 0x21 x s
  else s

/-- Writes that start a command have events of their own. -/
def hasCommand (i : Nat) (x : Word64) : Bool :=
  decide (i = 1) || decide (i = 0xA) || decide (i = 0xB) || (decide (i = 0x11) && decide (nb x.toNat 17 16 ≠ 0)) ||
    (decide (i = 0x1A) && (decide (nb x.toNat 1 0 = 1) || decide (nb x.toNat 1 0 = 2))) ||
    (decide (0x1000 ≤ i) && decide (i < 0x1800) && decide ((i - 0x1000) % 8 = 6) && nbit x.toNat 6)

def execRegisterWrite (idx : Nat) (val : Word64) (s : State) : Out := if hasCommand idx val then idle s else .next (viewWrite idx val s)

/-- The memory that the command a write starts acts on exists: the frame stack of FRMGIVE, the queue record of QCTL OPEN and RESET (02 R72, log
entry 77). -/
def viewMemory (i : Nat) (x : Word64) (s : State) : Bool :=
  if i = 0xA then frmOk s 0 else if i = 0xB then frmOk s 1
  else if i = 0x11 ∧ (nb x.toNat 17 16 = 1 ∨ nb x.toNat 17 16 = 3) then queueOk s (nb x.toNat 13 0) else true

/-- The kill that CTXTRAP.KILL asks for (16 R416, R426). -/
def execKill (ctx : Nat) (s : State) : Out := if nbit (ctxTrap s ctx) 6 then .next (kill ctx 0xFF s) else idle s

/-! ### The unprivileged view (07 R203) -/

/-- gtime as a skein reads it: no lower than any value it has read (04 R102). -/
def gtimeFor (s : State) : Nat := max s.k.lastG s.gtime

def specialRead (n : Nat) (s : State) : Word64 :=
  match n with
  | 1 => w64 s.k.sid
  | 2 => w64 (s.crew.core + 2048 * s.crew.slot)
  | 3 => w64 s.crew.tx
  | 4 => w64 s.crew.ty
  | 5 => w64 s.crew.tz
  | 6 => w64 s.k.role
  | 7 => s.k.gang
  | 8 => w64 (gtimeFor s)
  | 9 => w64 s.clocks
  | 10 => s.k.fmode
  | 11 => w64 (ctxLift s s.crew.ctx)
  | 12 => w64 s.crew.ctx
  | 13 => ctxHand s s.crew.ctx &&& ~~~ 3#64
  | 14 => s.k.epc
  | 15 => s.k.frec
  | _ => 0#64

/-- Reading gtime moves the skein's latest value. -/
def noteRead (n : Nat) (s : State) : State := if n = 8 then { s with k := { s.k with lastG := gtimeFor s } } else s

/-- Index of the view that a special number from 0x800 names in context `ctx`; none when unassigned. -/
def viewIndex (ctx n : Nat) : Option Nat :=
  if 0x900 ≤ n then (if n < 0x908 then some (ctxReg ctx (n - 0x900)) else none)
  else if 0x800 ≤ n then some (n - 0x800) else none

/-- Checks 5 and 8 on a special register number (08 R246). -/
def specialTrap (n : Nat) (s : State) : Option TrapInfo :=
  if n < 0x800 then none
  else if !isPriv s then some { code := 2, cause := 2 }
  else if (viewIndex s.crew.ctx n).isNone then ill 1 else none

def execMovs (d n : Nat) (s : State) : Out :=
  match specialTrap n s with
  | some t => conclude false s (.error (.trap t))
  | none =>
    issue {} s fun s =>
      let v := match viewIndex s.crew.ctx n with | some i => viewRead s i | none => specialRead n s
      let s1 := noteRead n s
      .ok (retire 1 { s1 with k := wrG d v s1.k })

/-- laneid gives the lane; any other register its low 32 bits (R222). -/
def execMovsVector (g d a : Nat) (s : State) : Out :=
  simple { vs := [(d, 1)] } s fun s =>
    let s1 := noteRead a s
    { s1 with k := wrV (active s1.k g) d (fun L => if a = 0 then w32 L else w32 (specialRead a s).toNat) s1.k }

/-! ### Gangs (06 R168, 08 R247) -/

/-- The skeins that the launch declares, numbered by role. -/
def roleRanges (r : LaunchRec) : List (Nat × Nat × Nat) :=
  ((List.range 4).foldl (fun acc i => (acc.1 + (r.roles.getD i {}).skeins, acc.2 ++ [(i, acc.1, (r.roles.getD i {}).skeins)])) (0, [])).2

def skeinTotal (r : LaunchRec) : Nat := r.roles.foldl (fun n x => n + x.skeins) 0

/-- A skeinid of the crew outside the basket role. -/
def gangable (c : Crew) (sid : Nat) : Bool :=
  (roleRanges c.lrec).any fun x => decide (x.2.1 ≤ sid) && decide (sid < x.2.1 + x.2.2) && !(hasBaskets c && decide (x.1 = nb c.lrec.flags 9 8))

def gangMembers (g : Word64) : List Nat := (List.range (nb g.toNat 38 36)).map fun j => nb g.toNat (6 * j + 5) (6 * j)

def distinct (l : List Nat) : Bool := match l with | [] => true | x :: r => !r.contains x && distinct r

/-- R168: a value of GANG that may be written. -/
def gangOk (x : Word64) (s : State) : Bool :=
  let n := nb x.toNat 38 36
  let m := gangMembers x
  decide (n ≠ 7) && m.all (gangable s.crew) && distinct m && (decide (n = 0) || m.contains s.k.sid)

def setGang (x : Word64) (s : State) : State := { s with k := { s.k with gang := w64 (nb x.toNat 38 0), gangIssues := 0 } }

/-- GANG from a mask of skeinids (R247), if it may be written. -/
def gangOf (x : Nat) (s : State) : Option Word64 :=
  let l := (List.range 64).filter fun i => nbit x i
  if l.any (fun i => decide (skeinTotal s.crew.lrec ≤ i)) || decide (6 < l.length) then none
  else
    let v := w64 ((List.range l.length).foldl (fun acc j => acc + l.getD j 0 * 2 ^ (6 * j)) (l.length * 2 ^ 36))
    if gangOk v s then some v else none

/-- The checks of R168 are those of order 12 of R211. -/
def execGang (a : Nat) (s : State) : Out :=
  match gangOf (rdG s.k a).toNat s with
  | none => conclude false s (.error (.trap { code := 1, cause := 5 }))
  | some v => issue {} s fun s => .ok (retire 1 (setGang v s))

/-- A write to a special register; those with access RO ignore it (R246). -/
def specialWrite (n : Nat) (x : Word64) (s : State) : State :=
  match n with
  | 7 => setGang x s
  | 10 => { s with k := { s.k with fmode := writeFmode x s.k.fmode } }
  | 13 => viewWrite (ctxReg s.crew.ctx 5) x s
  | 14 => { s with k := { s.k with epc := x &&& ~~~ 3#64 } }
  | _ => s

/-- The trap of a write before its effect: the number, privilege, and for GANG the conditions of R168. -/
def writeTrap (n : Nat) (x : Word64) (s : State) : Option TrapInfo :=
  specialTrap n s <|> (if n = 13 ∧ !isPriv s then some { code := 2, cause := 2 } else none) <|> if n = 7 ∧ !gangOk x s then some { code := 1, cause := 5 } else none

def execMovsw (a n : Nat) (s : State) : Out :=
  match writeTrap n (rdG s.k a) s with
  | some t => conclude false s (.error (.trap t))
  | none =>
    issue {} s fun s =>
      match viewIndex s.crew.ctx n with
      | some i => if viewMemory i (rdG s.k a) s then .ok (viewWrite i (rdG s.k a) (retire 1 s)) else .error (.bad .noSuchMemory)
      | none => .ok (retire 1 (specialWrite n (rdG s.k a) s))

/-- cfgmode (09 R257). -/
def execCfgmode (r e f c : Nat) (s : State) : Out :=
  simple {} s fun s =>
    let m := s.k.fmode.toNat
    let ctr := if c = 1 then 0 else nb m 31 16
    let sat := match e with | 1 => 0 | 2 => 1 | _ => nb m 12 12
    let rnd := if r = 0 then nb m 10 8 else r
    let fl := if f = 1 then 0 else nb m 5 0
    { s with k := { s.k with fmode := w64 (nb m 63 32 * 2 ^ 32 + ctr * 2 ^ 16 + sat * 2 ^ 12 + rnd * 2 ^ 8 + fl) } }

end Sys2Proof.Machine
end

