-- ==== Sys2Proof/Machine/Matrix.lean ====
section
/-! DEFINITION. Operand maps, accumulator handles, the matrix operations, gangs and the cluster latch, accumulator moves
and the fused epilogue (11 R308 to R327, 06 R169, 02 R60, R74, R75). -/
namespace Sys2Proof.Machine

/-! ### Operand maps (11 R308, R309) -/

structure TMap where
  base : Nat
  rows : Nat
  cols : Nat
  stride : Nat
  fmt : Nat
  /-- elements per block, 0 for none -/
  block : Nat
  scale : Nat
  skip : Option Nat
  meta_ : Option Nat
  deriving DecidableEq, Repr

def mapOf (w : Word128) : TMap :=
  let n := w.toNat
  { base := nb n 11 0, rows := nb n 23 16 + 1, cols := nb n 31 24 + 1, stride := nb n 43 32, fmt := nb n 55 48,
    block := (match nb n 57 56 with | 0 => 0 | 1 => 16 | 2 => 32 | _ => 64), scale := nb n 75 64,
    skip := if nbit n 92 then some (nb n 91 80) else none, meta_ := if nbit n 108 then some (nb n 107 96) else none }

def TMap.bits (m : TMap) : Nat := codeBits m.fmt

/-- Reserved fields of a map that are not zero, or a rule of R309's second step that it breaks. -/
def mapBad (w : Word128) : Bool :=
  let n := w.toNat
  let m := mapOf w
  let res := nb n 127 109 + nb n 95 93 + nb n 79 76 + nb n 63 58 + nb n 47 44 + nb n 15 12
  decide (res ≠ 0) || !([0x10, 0x11, 0x12, 0x13, 0x14, 0x15, 4, 2, 7, 1, 6].contains m.fmt) || decide (m.rows % 4 ≠ 0) || decide (m.stride = 0) ||
    decide (16 * m.stride * 8 < m.cols * m.bits) || (decide (m.bits = 4) && decide (m.cols % 2 ≠ 0)) ||
    (decide (m.block ≠ 0) && (!inRange 0x13 0x15 m.fmt || decide (m.cols % m.block ≠ 0))) ||
    (m.skip.isSome && (decide (m.rows % 32 ≠ 0) || decide (m.cols % 8 ≠ 0))) || (decide (m.block = 0) && decide (m.scale ≠ 0))

def scaleRow (m : TMap) : Nat := if m.block = 0 then 0 else (m.cols + m.block - 1) / m.block

/-- Bank-local ranges of rows, scale rows, bitmap and metadata rows. -/
def mapRanges (m : TMap) : List (Nat × Nat) :=
  let r := List.range (m.rows / 4)
  (r.map fun i => (16 * m.base + i * 16 * m.stride, m.cols * m.bits / 8)) ++
  (if m.block = 0 then [] else r.map fun i => (16 * m.scale + i * pad16 (scaleRow m), scaleRow m)) ++
  (match m.skip with | some k => [(16 * k, m.rows / 32 * 4)] | none => []) ++
  (match m.meta_ with | some k => r.map fun i => (16 * k + 64 * i, 64) | none => [])

/-- The lowest bank-local offset at or beyond the limit. -/
def mapOver (m : TMap) (limit : Nat) : Option Nat :=
  least ((mapRanges m).filterMap fun x => if limit < x.1 + x.2 then some (max limit x.1) else none)

/-- The window offset of a bank-local offset (02 R50). -/
def bankOff (q b : Nat) : Nat := 0x4000 * (b / 4096) + 0x1000 * q + b % 4096

def tileReq : Req := { noMeld := true, full := true }

def execTmap (t g : Nat) (s : State) : Out :=
  issue { tiles := [t], even := [g], noMeld := true, full := true } s fun s =>
    let w : Word128 := rdG s.k (g + 1) ++ rdG s.k g
    if mapBad w then .error (illOp 12)
    else match mapOver (mapOf w) (4096 * (nb s.crew.lrec.alloc 6 0 / 4)) with
      | some b => .error (trapAt 9 1 0xFF (bankOff 3 (b % 2 ^ 16)))
      | none => .ok (retire 1 { s with k := wrT t w s.k })

/-! ### Reading operands (11 R308, R314 to R317) -/

/-- `n` bytes of quarter `q` from a bank-local offset, with an uncorrectable word as zero. -/
def bankBytes (c : Crew) (q b n : Nat) : List Byte × Bool :=
  let bad := fun i => c.winBad.contains (bankOff q (b + i) / 8)
  ((List.range n).map fun i => if bad i then 0#8 else winByte c (bankOff q (b + i)), (List.range n).any bad)

/-- An operand as an operation reads it: which elements are skipped, their values, which meet an uncorrectable error, and at which
elements the bitmap or metadata that is read does. -/
structure Operand where
  skipped : Nat → Nat → Bool
  val : Nat → Nat → Fx
  bad : Nat → Nat → Bool
  sideBad : Nat → Nat → Bool

/-- Value of `n` element bits under a format; integers of the integer formats are exact. -/
def elemVal (fmt x : Nat) : Fx :=
  if 0x10 ≤ fmt then fdec (codeFmt fmt) x
  else if fmt ≤ 5 then fxOfInt (sxt (codeBits fmt) x) else .fin false x 1

def quarterRow (m : TMap) (i : Nat) : Nat × Nat := (i / (m.rows / 4), i % (m.rows / 4))

/-- Element (i, j) of a map, its scale included. -/
def mapElem (c : Crew) (m : TMap) (i j : Nat) : Fx × Bool :=
  let (q, r) := quarterRow m i
  let b := 16 * m.base + r * 16 * m.stride
  let e := bankBytes c q (b + j * m.bits / 8) (max 1 (m.bits / 8))
  let x := if m.bits = 4 then nb (ofBytes e.1) (4 * (j % 2) + 3) (4 * (j % 2)) else ofBytes e.1
  let v := elemVal m.fmt x
  if m.block = 0 then (v, e.2)
  else
    let sc := bankBytes c q (16 * m.scale + r * pad16 (scaleRow m) + j / m.block) 1
    let y := ofBytes sc.1
    (if y = 255 then .nan else fxScale v ((y : Int) - 127), e.2 || sc.2)

/-- The bitmap declares the 8 × 8 block that holds (i, j) zero; and whether its word met an error. -/
def mapSkip (c : Crew) (m : TMap) (i j : Nat) : Bool × Bool :=
  match m.skip with
  | none => (false, false)
  | some k =>
    let (q, r) := quarterRow m i
    let w := bankBytes c q (16 * k + 4 * (r / 8)) 4
    (nbit (ofBytes w.1) (j / 8), w.2)

def denseOperand (c : Crew) (m : TMap) : Operand :=
  { skipped := fun i j => (mapSkip c m i j).1, val := fun i j => (mapElem c m i j).1,
    bad := fun i j => (mapElem c m i j).2, sideBad := fun i j => (mapSkip c m i j).2 }

/-- The kept positions of group `g` of row `i`: none when the group is illegal (11 R316, R317). -/
def keptAt (c : Crew) (m : TMap) (s48 : Bool) (i g : Nat) : Option (List Nat) × Bool :=
  let (q, r) := quarterRow m i
  let row := 16 * m.meta_.getD 0 + 64 * r
  if s48 then
    let e := bankBytes c q (row + 2 * g) 2
    let x := ofBytes e.1
    let p := [nb x 2 0, nb x 5 3, nb x 8 6, nb x 11 9]
    (if nb x 15 12 = 0 ∧ p.getD 0 0 < p.getD 1 0 ∧ p.getD 1 0 < p.getD 2 0 ∧ p.getD 2 0 < p.getD 3 0 then some p else none, e.2)
  else
    let e := bankBytes c q (row + g / 2) 1
    let x := nb (ofBytes e.1) (4 * (g % 2) + 3) (4 * (g % 2))
    (if nb x 1 0 < nb x 3 2 then some [nb x 1 0, nb x 3 2] else none, e.2)

def sparseOperand (c : Crew) (m : TMap) (s48 : Bool) : Operand :=
  let G := if s48 then 8 else 4
  let h := G / 2
  let pos := fun i j => (keptAt c m s48 i (j / G)).1.bind fun p => (p.zipIdx.find? fun x => decide (x.1 = j % G)).map fun x => j / G * h + x.2
  { skipped := fun i j => (pos i j).isNone, val := fun i j => match pos i j with | some t => (mapElem c m i t).1 | none => fxZero,
    bad := fun i j => (match pos i j with | some t => (mapElem c m i t).2 | none => false), sideBad := fun i j => (keptAt c m s48 i (j / G)).2 }

/-- The lowest illegal group of an operation (11 R317). -/
def illegalGroup (c : Crew) (m : TMap) (s48 : Bool) (k : Nat) : Option Nat :=
  let G := if s48 then 8 else 4
  (List.range (m.rows * (k / G))).find? fun x => (keptAt c m s48 (x / (k / G)) (x % (k / G))).1.isNone

/-! ### Arithmetic (11 R314, R318) -/

/-- The exact product of a term; 0 · ∞ is NaN. -/
def termOf (a b : Operand) (i j c : Nat) : Fx :=
  if a.skipped i j || b.skipped j c then fxZero else (fxMul (a.val i j) (b.val j c)).getD .nan

def groupSum (t : List Fx) : Nat :=
  let pos := t.any fun x => fxIsInf x && !fxSign x
  let neg := t.any fun x => fxIsInf x && fxSign x
  if t.any fxIsNan || (pos && neg) then nanCode fp32
  else if pos then infCode fp32 else if neg then withSign fp32 true (infCode fp32)
  else roundPos (fxSum t)

def isNan32 (x : Nat) : Bool := fxIsNan (fdec fp32 x)

def accAdd (d x : Nat) : Nat := if isNan32 d || isNan32 x then nanCode fp32 else (fpAdd fp32 .rn 0 d x).1

/-- A non-skipped term that reads a NaN element. -/
def termNan (a b : Operand) (i j c : Nat) : Bool := !(a.skipped i j || b.skipped j c) && (fxIsNan (a.val i j) || fxIsNan (b.val j c))

/-- Some block of 8 positions of K in `lo` .. `hi - 1` fails for good. -/
def deadIn (dead : Nat → Bool) (lo hi : Nat) : Bool := (List.range (hi - lo)).any fun j => dead ((lo + j) / 8)

/-- One float entry and NANSEEN; `dead`: the blocks of K whose product failed its residue check twice, so that the group sums that include
them count +0 (05 R143). -/
def floatEntry (a b : Operand) (dead : Nat → Bool) (k i c d : Nat) : Nat × Bool :=
  let gone := fun g => deadIn dead (32 * g) (32 * g + 32)
  let terms := fun (g : Nat) => (List.range 32).map (32 * g + ·)
  let y := (List.range (k / 32)).foldl (fun d g => accAdd d (if gone g then 0 else groupSum ((terms g).map fun j => termOf a b i j c))) d
  (y, isNan32 y || (List.range (k / 32)).any fun g => gone g && (terms g).any fun j => termNan a b i j c)

def fxInt (x : Fx) : Int := match x with | .fin s n d => sgnNum s (n / d) | _ => 0

def satInt (lo hi x : Int) : Int := max lo (min hi x)
def sat32 (x : Int) : Int := satInt (-(2 ^ 31)) (2 ^ 31 - 1) x

/-- One integer entry and whether it was clamped; a failed check acts on the chunk. -/
def intEntry (a b : Operand) (dead : Nat → Bool) (chunk k i c d : Nat) : Nat × Bool :=
  let r := (List.range ((k + chunk - 1) / chunk)).foldl (fun (acc : Int × Bool) h =>
    let x : Int := if deadIn dead (chunk * h) (min (chunk * (h + 1)) k) then 0 else (List.range (min chunk (k - chunk * h))).foldl (fun t j => t + fxInt (termOf a b i (chunk * h + j) c)) 0
    let y := acc.1 + x
    (sat32 y, acc.2 || decide (sat32 y ≠ y))) (sxt 32 d, false)
  (wrap64 r.1 % 2 ^ 32, r.2)

/-! ### Handles (11 R310) -/

structure AccReg where
  valid : Bool
  keep : Bool
  int : Bool
  cols : Nat
  qrows : Nat
  base : Nat
  deriving DecidableEq, Repr

def accOf (w : Word64) : AccReg :=
  let n := w.toNat
  { valid := nbit n 63, keep := nbit n 62, int := nbit n 32, cols := nb n 31 24 + 1, qrows := nb n 20 16 + 1, base := nb n 12 0 }

/-- A handle that may be installed in a crew. -/
def handleOk (c : Crew) (w : Word64) : Bool :=
  let n := w.toNat
  let h := accOf w
  h.valid && decide (nb n 61 33 + nb n 23 21 + nb n 15 13 = 0) && decide (h.base + h.qrows * h.cols ≤ 1024 * nb c.lrec.alloc 11 8)

def AccReg.rows (h : AccReg) : Nat := 4 * h.qrows

/-- The entry of row i and column c: quarters follow each other. -/
def AccReg.key (h : AccReg) (i c : Nat) : Nat := 8192 * (i / h.qrows) + h.base + i % h.qrows * h.cols + c

/-- Every (row, column) of a region. -/
def AccReg.cells (h : AccReg) : List (Nat × Nat) := (List.range (h.rows * h.cols)).map fun x => (x / h.cols, x % h.cols)

/-- An entry with an uncorrectable error reads as zero (05 R142). -/
def accRead (c : Crew) (key : Nat) : Nat × Bool :=
  let bad := c.accBad.contains (key / 2)
  (if bad then 0 else (mget 0#32 c.acc key).toNat, bad)

def accWrite (cells : List (Nat × Nat)) (c : Crew) : Crew := { c with acc := cells.foldl (fun m x => mset 0#32 m x.1 (w32 x.2)) c.acc }

/-! ### The product of an operation -/

/-- Everything one product needs: A, B, region, K, chunk length for integers, and the block products that fail for good: quadrant, block of
rows of the quarter, block of columns, block of K. -/
structure Prod where
  a : Operand
  b : Operand
  h : AccReg
  k : Nat
  chunk : Nat
  dead : List ArrayFault

/-- Bitmaps and metadata are read for every element; an element is read when some term that uses it is not skipped (11 R314, R315). -/
def prodBad (p : Prod) : Bool :=
  let ks := List.range p.k
  let rows := List.range p.h.rows
  let cols := List.range p.h.cols
  rows.any (fun i => ks.any fun j => p.a.sideBad i j || (!p.a.skipped i j && p.a.bad i j && cols.any fun c => !p.b.skipped j c)) ||
    ks.any fun j => cols.any fun c => p.b.sideBad j c || (!p.b.skipped j c && p.b.bad j c && rows.any fun i => !p.a.skipped i j)

/-- The blocks of K whose products fail for the entries of a row and column. -/
def deadBlocks (p : Prod) (i c : Nat) : Nat → Bool := fun k8 =>
  p.dead.any fun f => decide (f.quad = i / p.h.qrows) && decide (f.row = i % p.h.qrows / 8) && decide (f.col = c / 8) && decide (f.k = k8)

/-- A failing block product is one of this operation's. -/
def arrayError (p : Prod) : Bool :=
  p.dead.any fun f => decide (f.quad < 4) && decide (8 * f.row < p.h.qrows) && decide (8 * f.col < p.h.cols) && decide (8 * f.k < p.k)

/-- New entries of the region and the status bits; `mayErr`: a window that the operands lie in holds an uncorrectable word. -/
def runProd (c : Crew) (mayErr : Bool) (p : Prod) : List (Nat × Nat) × Nat :=
  let r := p.h.cells.map fun x =>
    let d := accRead c (p.h.key x.1 x.2)
    let dead := deadBlocks p x.1 x.2
    let y := if p.h.int then intEntry p.a p.b dead p.chunk p.k x.1 x.2 d.1 else floatEntry p.a p.b dead p.k x.1 x.2 d.1
    (p.h.key x.1 x.2, y.1, (if y.2 then (if p.h.int then stSAT else stNAN) else 0) + (if d.2 then stUEACC else 0))
  let array := if arrayError p then 4 else 0
  (r.map fun x => (x.1, x.2.1), (r.foldl (fun m x => Nat.lor m x.2.2) array) ||| (if mayErr && prodBad p then stUEOPND else 0))

def chunkLen (fa fb : Nat) : Nat := if fa = 7 ∧ fb = 7 then 64 else if fa = 7 ∨ fb = 7 then 128 else 256

/-- mma and mmas: from the issuing crew's own maps. -/
def ownProd (o : Op) (c : Crew) (dead : List ArrayFault) : Prod :=
  let ma := mapOf (o.tiles.getD 0 0#128)
  let mb := mapOf (o.tiles.getD 1 0#128)
  let s48 := decide (o.index.headD 0 = 1)
  { a := if o.kind = .mmas then sparseOperand c ma s48 else denseOperand c ma, b := denseOperand c mb, h := accOf (o.handles.headD 0#64),
    k := mb.rows, chunk := chunkLen ma.fmt mb.fmt, dead := dead }

def operandAt (l : List Operand) (i : Nat) : Operand := l.getD i { skipped := fun _ _ => true, val := fun _ _ => fxZero, bad := fun _ _ => false, sideBad := fun _ _ => false }

/-- The crews whose quarters a cmma streams: of A from the cores of its row, of B from those of its column (02 R75). -/
def streamed (o : Op) (s : State) : List Crew × List Crew :=
  let me := (o.targets.findIdx? fun t => decide (t.1 = o.cuid)).getD 0
  let crewAt := fun i => (crewOf s (o.targets.getD i (0, 0)).1).getD {}
  ((List.range 4).map fun q => crewAt (4 * (me / 4) + q), (List.range 4).map fun q => crewAt (4 * q + me % 4))

/-- cmma: core 4p + q takes row-block p and column-block q, streamed from the quarters of K (02 R75). -/
def clusterProd (o : Op) (s : State) (dead : List ArrayFault) : Prod :=
  let ma := mapOf (o.tiles.getD 0 0#128)
  let mb := mapOf (o.tiles.getD 1 0#128)
  let as := (streamed o s).1.map fun c => denseOperand c ma
  let bs := (streamed o s).2.map fun c => denseOperand c mb
  let ao := fun j => operandAt as (j / ma.cols)
  let bo := fun j => operandAt bs (j / mb.rows)
  { a := { skipped := fun i j => (ao j).skipped i (j % ma.cols), val := fun i j => (ao j).val i (j % ma.cols), bad := fun i j => (ao j).bad i (j % ma.cols),
           sideBad := fun i j => (ao j).sideBad i (j % ma.cols) },
    b := { skipped := fun j c => (bo j).skipped (j % mb.rows) c, val := fun j c => (bo j).val (j % mb.rows) c, bad := fun j c => (bo j).bad (j % mb.rows) c,
           sideBad := fun j c => (bo j).sideBad (j % mb.rows) c },
    h := accOf (o.handles.headD 0#64), k := 4 * ma.cols, chunk := chunkLen ma.fmt mb.fmt, dead := dead }

/-- The operation has been performed, with these status bits. -/
def seqDone (o : Op) (st : Nat) (idx : Option (Bool × Nat)) (s : State) : State :=
  setOp { o with started := true, performed := true, status := Nat.lor o.status st, errIdx := idx } (countErrors st s)

def performProd (o : Op) (s : State) : State :=
  match crewOf s o.cuid with
  | none => dropOp o.id s
  | some c =>
    let dead := s.en.arrayBad.filter fun f => decide (f.op = o.id)
    let p := if o.kind = .cmma then clusterProd o s dead else ownProd o c dead
    let srcs := if o.kind = .cmma then (streamed o s).1 ++ (streamed o s).2 else [c]
    let r := runProd c (srcs.any fun x => !x.winBad.isEmpty) p
    let s := modEn (fun e => { e with arrayBad := e.arrayBad.filter fun f => decide (f.op ≠ o.id) }) s
    let bad := if o.kind = .mmas then illegalGroup c (mapOf (o.tiles.getD 0 0#128)) (decide (o.index.headD 0 = 1)) p.k else none
    seqDone o (Nat.lor r.2 (if bad.isSome then stSPARSE else 0)) (bad.map fun x => (false, x)) (modCrew o.cuid (accWrite r.1) s)

/-! ### Issue of the matrix operations (11 R312, R313) -/

def floatFmt (f : Nat) : Bool := inRange 0x11 0x15 f
def intFmt (f : Nat) : Bool := [2, 7, 1, 6].contains f

/-- The checks of R313; `kind` is mma, mmas or cmma. -/
def prodOk (kind : OpKind) (c : Crew) (h : Word64) (a b : TMap) : Bool :=
  let r := accOf h
  let k := match kind with | .mma => a.cols | .mmas => 2 * a.cols | _ => 4 * a.cols
  handleOk c h && decide (r.rows = a.rows) && decide (r.cols = b.cols) && decide (a.rows % 4 = 0) && decide (a.rows ≤ 128) &&
    decide (b.cols % 8 = 0) && decide (b.cols ≤ 256) &&
    (if kind = .cmma then decide (b.rows = a.cols) && decide (a.cols % 8 = 0) && decide (a.cols ≤ 64)
     else decide (b.rows = k) && decide (k % 32 = 0) && decide (k ≤ 256)) &&
    ((floatFmt a.fmt && floatFmt b.fmt && !r.int) || (intFmt a.fmt && intFmt b.fmt && r.int)) &&
    decide (a.meta_.isSome = decide (kind = .mmas)) && b.meta_.isNone && !(decide (kind = .mmas) && a.skip.isSome)

/-- The object of a tile operation: none, or checked. -/
def tileObj (scr : Bool) (x : Word64) (s : State) : Res (Obj × State) := do
  if !scr && decide (x = 0#64) then pure (.none, s)
  else
    let s1 ← checkObj scr x s
    pure (objOf scr x, s1)

/-- The operation as this skein captures it at issue. -/
def captureProd (kind : OpKind) (s48 : Bool) (scr : Bool) (a t u g : Nat) (s : State) : Res (Op × State) := do
  let h := rdA s.k a
  let ta := rdT s.k t
  let tb := rdT s.k u
  if !prodOk kind s.crew h (mapOf ta) (mapOf tb) then .error (illOp 13)
  else
    let (obj, s1) ← tileObj scr (rdG s.k g) s
    let r := accOf h
    pure ({ newOp kind obj s1 with tiles := [ta, tb], handles := [h], index := [b2 s48], count := 4 * r.rows * r.cols }, s1)

/-- The skeins `uids` go on past their instruction; `gang` counts it among their gang issues. -/
def releaseSkeins (gang : Bool) (uids : List Nat) (s : State) : State :=
  uids.foldl (fun s u => modSkein u (fun k =>
    (retire 1 { s with k := { k with gangIssues := if gang then k.gangIssues + 1 else k.gangIssues } }).k) s) s

/-- An operation whose members have all entered is in the sequencer's order. -/
def enqueueOp (o : Op) (s : State) : State :=
  modEn (fun e => { e with ops := e.ops ++ [{ o with id := s.ids + 1 }] }) { s with ids := s.ids + 1 }

/-! ### Gangs (06 R169) -/

def inLatch (s : State) (uid : Nat) : Bool := s.en.latches.any fun l => l.entered.any fun e => decide (e.2.uid = uid)

/-- The members of gangs that wait in a cluster latch together with the skein. -/
def clusterMates (uid : Nat) (s : State) : List Nat :=
  (s.en.clatches.flatMap fun l => l.entered.flatMap fun e => if e.2.members.contains uid then e.2.members else []).filter fun u => decide (u ≠ uid)

/-- A skein that ends a latch wait another way leaves the latches (16 R412). Its gang's issue leaves the cluster latch with it: the other
members issue again. -/
def leaveLatches (uid : Nat) (s : State) : State :=
  let keep := fun l : Latch => { l with entered := l.entered.filter fun e => decide (e.2.uid ≠ uid) }
  let keepC := fun l : ClusterLatch => { l with entered := l.entered.filter fun e => decide (e.2.uid ≠ uid) && !e.2.members.contains uid }
  let s1 := modEn (fun e => { e with latches := (e.latches.map keep).filter (fun l => !l.entered.isEmpty),
                                     clatches := (e.clatches.map keepC).filter fun l => !l.entered.isEmpty }) s
  (clusterMates uid s).foldl (fun s u => modSkein u (fun k => { k with wait := k.wait.map fun w => { w with asleep := false } }) s) s1

/-- A deferred trap of the skein is to be taken before its waiting instruction has its effect (16 R413). -/
def trapDue (s : State) (uid : Nat) : Bool :=
  (allCrews s).any fun c => c.skeins.any fun k => decide (k.uid = uid) && !k.pending.isEmpty && !k.handler

/-- Adds a member's entry to its latch. -/
def enterLatch (o : Op) (s : State) : State :=
  let issue := s.k.gangIssues + 1
  let mine := fun l : Latch => decide (l.cuid = o.cuid) && decide (l.gang = s.k.gang) && decide (l.issue = issue)
  let e := (s.k.sid, o)
  if s.en.latches.any mine then modEn (fun x => { x with latches := x.latches.map fun l => if mine l then { l with entered := l.entered ++ [e] } else l }) s
  else modEn (fun x => { x with latches := x.latches ++ [{ cuid := o.cuid, gang := s.k.gang, issue := issue, entered := [e] }] }) s

/-- The gang's operation once every member has entered, with no trap of theirs to take first, as issued by M0, and the state without the latch. -/
def latchFull (s : State) : Option (Op × State) :=
  let mine := fun l : Latch => decide (l.cuid = s.crew.uid) && decide (l.gang = s.k.gang) && decide (l.issue = s.k.gangIssues + 1)
  match s.en.latches.find? mine with
  | none => none
  | some l =>
    let ids := gangMembers s.k.gang
    if ids.all (fun i => l.entered.any fun e => decide (e.1 = i)) && l.entered.all (fun e => !trapDue s e.2.uid) then
      (l.entered.find? fun e => decide (e.1 = ids.headD 0)).map fun e =>
        ({ e.2 with members := l.entered.map fun x => x.2.uid }, modEn (fun x => { x with latches := x.latches.filter fun y => !mine y }) s)
    else none

/-- A matrix operation of one crew goes to the sequencer and its members go on. -/
def goProd (gang : Bool) (o : Op) (s : State) : Res State := .ok (releaseSkeins gang o.members (enqueueOp o s))

/-! ### The cluster latch (11 R321, R322) -/

/-- A level whose instances are 16 crews of a cluster, each on a core of its own. -/
def level16 (r : LaunchRec) : Option Nat :=
  if coreTasks r ≠ 1 then none
  else [3, 4, 5, 6, 7].find? fun l => decide ((levelRec r l).size ≠ 0) && decide ((levelRec r l).domain = 3) && decide (instSize r l = 16)

/-- The level at which the crew in focus may issue cmma: crew i of its instance stands on cluster core i (11 R321). -/
def cluster16 (s : State) : Option Nat :=
  match level16 s.crew.lrec with
  | none => none
  | some lv =>
    let mine := fun c : CrewRec => decide (c.crew.launch = s.crew.launch) && decide (instanceOf s.crew.lrec lv c.crew.t = instanceOf s.crew.lrec lv s.crew.t)
    if (allCrews s).all fun c => !mine c || decide (c.crew.core % 16 = c.crew.t % 16) then some lv else none

/-- The lowest number above the crew's executed cmmas that no waiting issue of the crew has. -/
def clusterIssue (s : State) (inst : Nat) : Nat :=
  let used := (s.en.clatches.filter fun l => decide (l.launch = s.crew.launch) && decide (l.inst = inst) && l.entered.any fun e => decide (e.2.cuid = s.crew.uid)).map (·.issue)
  ((List.range (used.length + 1)).map fun i => s.crew.cmmaCount + 1 + i).find? (fun j => !used.contains j) |>.getD 0

/-- What the sixteen issues must have in common. -/
def sameIssue (a b : Op) : Bool := decide (a.tiles = b.tiles) && decide (a.handles = b.handles) && decide (a.index = b.index) && decide (a.obj = b.obj)

/-- The sixteen operations of a full latch, each in its own core's sequencer. -/
def fireCluster (l : ClusterLatch) (s : State) : State :=
  let byIdx := (List.range 16).filterMap fun i => l.entered.find? fun e => decide (e.1 = i)
  let ts := byIdx.map fun e => (e.2.cuid, 0)
  let s1 := modEn (fun e => { e with clatches := e.clatches.filter fun x => !(decide (x.launch = l.launch) && decide (x.inst = l.inst) && decide (x.issue = l.issue)) }) s
  byIdx.foldl (fun s e =>
    let many := decide (2 ≤ e.2.members.length)
    modCrew e.2.cuid (fun c => { c with cmmaCount := c.cmmaCount + 1 })
      (releaseSkeins many e.2.members (enqueueOp { e.2 with targets := ts } s))) s1

/-- A crew's cmma enters the cluster latch and fires it when it is the sixteenth of one kind. -/
def goCluster (_gang : Bool) (o : Op) (s : State) : Res State :=
  match cluster16 s with
  | none => .error (illOp 5)
  | some lv =>
    let inst := instanceOf s.crew.lrec lv s.crew.t
    let j := clusterIssue s inst
    let mine := fun l : ClusterLatch => decide (l.launch = s.crew.launch) && decide (l.inst = inst) && decide (l.issue = j)
    let e := (s.crew.t % 16, o)
    let l : ClusterLatch := match s.en.clatches.find? mine with
      | some l => { l with entered := l.entered ++ [e] }
      | none => { launch := s.crew.launch, inst := inst, issue := j, entered := [e] }
    let s1 := modEn (fun x => { x with clatches := (x.clatches.filter fun y => !mine y) ++ [l] }) s
    if l.entered.length = 16 ∧ l.entered.all (fun x => sameIssue x.2 o && x.2.members.all fun u => !trapDue s u) then .ok (fireCluster l s1)
    else .error (.wait s1 4 2)

def inCluster (s : State) (uid : Nat) : Bool := s.en.clatches.any fun l => l.entered.any fun e => e.2.members.contains uid

/-- What happens to a whole operation, by the kind that it was issued as. -/
def goOp (gang : Bool) (o : Op) (s : State) : Res State := if o.kind = .cmma then goCluster gang o s else goProd gang o s

/-- A matrix operation is issued: as `capture` gives it at once, or through the gang's latch as M0 issued it (06 R169). -/
def gangIssue (kind : OpKind) (capture : State → Res (Op × State)) (s : State) : Res State :=
  if inCluster s s.k.uid then .error (.wait s 4 2)
  else if inLatch s s.k.uid then .error (.wait s 4 1)
  else do
    let (o, s1) ← capture s
    if opFull kind s1 then .error (.wait s1 0 0)
    else if nb s1.k.gang.toNat 38 36 < 2 then goOp false { o with members := [o.uid] } s1
    else
      let s2 := enterLatch o s1
      match latchFull s2 with
      | some (q, s3) => goOp true q s3
      | none => .error (.wait s2 4 1)

def execMma (a t u g o : Nat) (s : State) : Out :=
  issue { tiles := [t, u], noMeld := true, full := true } s (gangIssue .mma (captureProd .mma false (decide (o = 1)) a t u g))

def execMmas (a t u g z o : Nat) (s : State) : Out :=
  issue { tiles := [t, u], noMeld := true, full := true } s (gangIssue .mmas (captureProd .mmas (decide (z = 1)) (decide (o = 1)) a t u g))

def execCmma (a t u g : Nat) (s : State) : Out :=
  match chkRegs { tiles := [t, u] } s.k, cluster16 s with
  | none, none => conclude false s (.error (illOp 5))
  | _, _ =>
    issue { tiles := [t, u], noMeld := true, full := true } s (gangIssue .cmma (captureProd .cmma false true a t u g))

/-! ### Accumulator moves (11 R324, R325) -/

/-- The handle that accz and accin use, and the skein with it installed. -/
def installHandle (a g : Nat) (s : State) : Res (Word64 × State) :=
  if g = 0 then (if (accOf (rdA s.k a)).valid then .ok (rdA s.k a, s) else .error (illOp 13))
  else if handleOk s.crew (rdG s.k g) then .ok (rdG s.k g, { s with k := wrA a (rdG s.k g) s.k })
  else .error (illOp 13)

/-- A tile operation of one skein without an object. -/
def moveOp (kind : OpKind) (hs : List Word64) (ts : List Word128) (s : State) : Op := { newOp kind .none s with handles := hs, tiles := ts }

/-- accz: `index` 1 keeps the entries. -/
def execAccz (a g : Nat) (s : State) : Out :=
  issue tileReq s fun s => do
    if opFull .accz s then .error (.wait s 0 0)
    else
      let (h, s1) ← installHandle a g s
      startOp { moveOp .accz [h] [] s1 with index := [b2 (decide (g ≠ 0) && (accOf h).keep)] } s1

def accinFmt (int : Bool) (f : Nat) : Bool := if int then [4, 2].contains f else [0x10, 0x11, 0x12].contains f

def execAccin (a t g : Nat) (s : State) : Out :=
  issue { tiles := [t], noMeld := true, full := true } s fun s => do
    if opFull .accin s then .error (.wait s 0 0)
    else
      let (h, s1) ← installHandle a g s
      let m := mapOf (rdT s.k t)
      let r := accOf h
      if m.rows ≠ r.rows ∨ m.cols ≠ r.cols ∨ !accinFmt r.int m.fmt then .error (illOp 13)
      else startOp (moveOp .accin [h] [rdT s.k t] s1) s1

def execAccmov (a b : Nat) (s : State) : Out :=
  issue tileReq s fun s =>
    let d := accOf (rdA s.k a)
    let x := accOf (rdA s.k b)
    if !d.valid || !x.valid || decide (d.rows ≠ x.rows) || decide (d.cols ≠ x.cols) || decide (d.int ≠ x.int) then .error (illOp 13)
    else startOp (moveOp .accmov [rdA s.k a, rdA s.k b] [] s) s

def zeroRegion (h : AccReg) (c : Crew) : Crew := accWrite (h.cells.map fun x => (h.key x.1 x.2, 0)) c

/-- A value of a map widened to an entry of the region's type. -/
def widen (int : Bool) (x : Fx) : Nat := if int then wrap64 (fxInt x) % 2 ^ 32 else (fround fp32 .rn true 0 x).1

def performAccin (o : Op) (c : Crew) : Crew × Nat :=
  let h := accOf (o.handles.headD 0#64)
  let m := mapOf (o.tiles.headD 0#128)
  let v := h.cells.map fun x => (h.key x.1 x.2, mapElem c m x.1 x.2)
  (accWrite (v.map fun x => (x.1, widen h.int x.2.1)) c, if v.any (fun x => x.2.2) then stUEOPND else 0)

def performAccmov (o : Op) (c : Crew) : Crew × Nat :=
  let d := accOf (o.handles.getD 0 0#64)
  let x := accOf (o.handles.getD 1 0#64)
  let v := d.cells.map fun p => (d.key p.1 p.2, accRead c (x.key p.1 p.2))
  (accWrite (v.map fun p => (p.1, p.2.1)) c, if v.any (fun p => p.2.2) then stUEACC else 0)

/-! ### The fused epilogue (11 R326, R327) -/

def actOk (a : Nat) : Bool := decide (a ≤ 1) || inRange 0x20 0x2C a || inRange 0x30 0x3F a

def epiBad (r : List Byte) : Option Nat :=
  if !actOk (leAt r 16 1) then some 16 else ((List.range 15).find? fun i => decide (leAt r (17 + i) 1 ≠ 0)).map (17 + ·)

/-- The epilogue record at an address, 32 zero bytes for none. -/
def fetchEpi (addr cols : Nat) (s : State) : Res (List Byte × State) := do
  if addr = 0 then pure (List.replicate 32 0#8, s)
  else if addr % 32 ≠ 0 then .error (shapeTrap addr 0)
  else
    let (r, s1) ← loadOne 32 addr s
    match epiBad r with
    | some o => .error (shapeTrap addr o)
    | none =>
      if leAt r 0 8 = 0 then pure () else chkGlob (leAt r 0 8) (4 * cols) s1
      if leAt r 8 8 = 0 then pure () else chkGlob (leAt r 8 8) (4 * cols) s1
      pure (r, s1)

def accoutFmt (f : Nat) : Bool := [0x10, 0x12, 0x11, 0x13, 0x14, 4, 2].contains f

def execAccout (a t g o : Nat) (s : State) : Out :=
  issue { tiles := [t], even := [g], noMeld := true, full := true } s fun s => do
    let h := rdA s.k a
    let r := accOf h
    let m := mapOf (rdT s.k t)
    if !r.valid || decide (m.rows ≠ r.rows) || decide (m.cols ≠ r.cols) || !accoutFmt m.fmt || decide (m.block ≠ 0) then .error (illOp 13)
    else
      let (e, s1) ← fetchEpi (rdG s.k (g + 1)).toNat r.cols s
      let (obj, s2) ← tileObj (decide (o = 1)) (rdG s.k g) s1
      startOp { newOp .accout obj s2 with tiles := [rdT s.k t], handles := [h], recs := [e], count := m.rows * m.cols * m.bits / 8 } s2

/-- Conversion of the epilogue's value: code and status bits. -/
def epiConvert (fmt : Nat) (fm : Word64) (idx : Nat) (y : Fx) : Nat × Nat :=
  let rm := rmOf (fmRnd fm)
  let draw := drawBits (fmSeed fm) 0x80000000 idx
  if 0x10 ≤ fmt then
    let r := fround (codeFmt fmt) rm (fmSat fm) draw y
    (r.1, (if Nat.land r.2 flOF ≠ 0 then stSAT else 0))
  else
    let bits := codeBits fmt
    let lo : Int := -(2 ^ (bits - 1) : Nat)
    let hi : Int := (2 ^ (bits - 1) : Nat) - 1
    match y with
    | .nan => (0, 0)
    | .inf neg => (wrap64 (if neg then lo else hi) % 2 ^ bits, stSAT)
    | .fin neg n d =>
      let x := sgnNum neg (roundToInt rm draw neg n d).1
      (wrap64 (satInt lo hi x) % 2 ^ bits, if satInt lo hi x = x then 0 else stSAT)

def slotAt (s : State) (n x : Nat) : Nat × Bool := match mget [] s.en.slots n with | [] => (nanCode fp32, false) | t => slotRun t x

/-- The activation (11 R327), and whether R258's overflow occurred in it. -/
def epiAct (s : State) (act : Nat) (y : Fx) : Fx × Bool :=
  let code := (fround fp32 .rn true 0 y).1
  if act = 0 then (y, false)
  else if act = 1 then (if fxIsNan y then y else if fxLe y fxZero then fxZero else y, false)
  else if act < 0x30 then (let r := sfnEval (act - 0x20) code; (fdec fp32 r.1, decide (Nat.land r.2 flOF ≠ 0)))
  else (let r := slotAt s (act - 0x30) code; (fdec fp32 r.1, r.2))

/-- One entry: code and status bits. -/
def epiEntry (s : State) (fmt act : Nat) (fm : Word64) (idx : Nat) (x : Fx) (sc bi : Option Fx) : Nat × Nat :=
  let y1 := match sc with | some c => rn32 (fxMul x c) | none => x
  let sum := match bi with
    | some c => fpAdd fp32 .rn 0 (fround fp32 .rn true 0 y1).1 (fround fp32 .rn true 0 c).1
    | none => (0, 0)
  let y2 := if bi.isSome then fdec fp32 sum.1 else y1
  let a := epiAct s act y2
  let y3 := a.1
  let r := epiConvert fmt fm idx y3
  let scaled := match sc with | some c => (match fxMul x c with | some y => (fround fp32 .rn true 0 y).2 | none => 0) | none => 0
  let tooBig := a.2 || decide (Nat.land (Nat.lor scaled sum.2) flOF ≠ 0)
  let seen := fxIsNan x || fxIsNan y1 || fxIsNan y2 || fxIsNan y3 || sc.any fxIsNan || bi.any fxIsNan ||
    (decide (0x10 ≤ fmt) && fxIsNan (fdec (codeFmt fmt) r.1))
  (r.1, Nat.lor r.2 ((if seen then stNAN else 0) + (if tooBig then stSAT else 0)))

/-- The columns' scales or biases: values, columns that failed, status, pages. -/
def epiColumns (o : Op) (addr cols : Nat) (s : State) : List (Option Fx) × List Bool × Nat × List Need :=
  if addr = 0 then (List.replicate cols none, List.replicate cols false, 0, [])
  else
    let r := (List.range cols).map fun c => engRead o ((addr + 4 * c) % 2 ^ 64) 4 s
    (r.map fun x => some (fdec fp32 (ofBytes x.bytes)), r.map fun x => decide (Nat.land x.st stFAULT ≠ 0),
     r.foldl (fun m x => Nat.lor m x.st) 0, (r.map (·.need)).flatten)

/-- The epilogue's reads and writes. An uncorrectable word of a scale or bias counts as zero and sets UEOPND, as 05 R141 has every such
read; the row of accout in R136 does not list the bit (log entry 90). -/
def accoutPlan (o : Op) (c : Crew) (s : State) : Plan :=
  let h := accOf (o.handles.headD 0#64)
  let m := mapOf (o.tiles.headD 0#128)
  let e := o.recs.headD []
  let (scs, f1, st1, n1) := epiColumns o (leAt e 0 8) h.cols s
  let (bis, f2, st2, n2) := epiColumns o (leAt e 8 8) h.cols s
  let size := m.bits / 8
  let out := h.cells.map fun x =>
    let d := accRead c (h.key x.1 x.2)
    let v := if h.int then fxOfInt (sxt 32 d.1) else fdec fp32 d.1
    let fail := f1.getD x.2 false || f2.getD x.2 false
    let r := if fail then (0, 0) else epiEntry s m.fmt (leAt e 16 1) o.fmode (x.1 * h.cols + x.2) v (scs.getD x.2 none) (bis.getD x.2 none)
    let (q, row) := quarterRow m x.1
    (bankOff q (16 * m.base + row * 16 * m.stride + x.2 * size), toBytes size r.1, Nat.lor r.2 (if d.2 then stUEACC else 0))
  { writes := out.map fun x => { scr := some o.cuid, addr := x.1, bytes := x.2.1, keep := true },
    st := out.foldl (fun m x => Nat.lor m x.2.2) (Nat.lor st1 st2), need := n1 ++ n2 }

/-! ### The sequencer (11 R311) -/

def isSeq (k : OpKind) : Bool := isTileOp k && (match k with | .trow _ => false | _ => true)

/-- Single-bit errors in the words of an operand map are corrected and counted as they are read (02 R53). -/
def correctMap (cuid : Nat) (m : TMap) (s : State) : State :=
  (List.range 4).foldl (fun s q => (mapRanges m).foldl (fun s r => (List.range ((r.1 + r.2 + 15) / 16 - r.1 / 16)).foldl (fun s i =>
    correctWin cuid (bankOff q (16 * (r.1 / 16 + i))) 16 s) s) s) s

/-- The crews whose windows an operation's operands lie in, each with the map. -/
def operandMaps (o : Op) (s : State) : List (Nat × TMap) :=
  let ma := mapOf (o.tiles.getD 0 0#128)
  let mb := mapOf (o.tiles.getD 1 0#128)
  match o.kind with
  | .cmma => (streamed o s).1.map (fun c => (c.uid, ma)) ++ (streamed o s).2.map (fun c => (c.uid, mb))
  | .mma => [(o.cuid, ma), (o.cuid, mb)]
  | .mmas => [(o.cuid, ma), (o.cuid, mb)]
  | .accin => [(o.cuid, ma)]
  | _ => []

/-- Single-bit errors in what an operation reads: window words of its operands, accumulator words of its region. -/
def correctOp (o : Op) (s : State) : State :=
  let s1 := if (allCrews s).any (fun c => !c.crew.winSoft.isEmpty) then (operandMaps o s).foldl (fun s x => correctMap x.1 x.2 s) s else s
  match crewOf s1 o.cuid with
  | none => s1
  | some c =>
    if c.accSoft = [] ∨ o.kind = .accz then s1
    else
      let h := accOf (o.handles.getLastD 0#64)
      let hit := fun w => h.cells.any fun x => decide (h.key x.1 x.2 / 2 = w)
      countCorr (c.accSoft.filter hit).length (modCrewAll o.cuid (fun c => { c with accSoft := c.accSoft.filter fun w => !hit w }) s1)

/-- Performs one operation whole. -/
def performSeq (o : Op) (s0 : State) : State :=
  let s := correctOp o s0
  match crewOf s o.cuid with
  | none => dropOp o.id s
  | some c =>
    let upd := fun (r : Crew × Nat) => modCrew o.cuid (fun _ => r.1) s
    match o.kind with
    | .accz => seqDone o 0 none (if o.index.headD 0 = 1 then s else modCrew o.cuid (zeroRegion (accOf (o.handles.headD 0#64))) s)
    | .accin => let r := performAccin o c; seqDone o r.2 none (upd r)
    | .accmov => let r := performAccmov o c; seqDone o r.2 none (upd r)
    | .accout => performPlan o (accoutPlan o c s) s
    | _ => performProd o s

def execSequencerOpStart (core : Nat) (s : State) : Out :=
  match s.en.ops.find? (fun o => decide (o.core = core) && isSeq o.kind && !o.performed) with
  | none => idle s
  | some o => .next (performSeq o s)

/-- The barrier-stall timeout of a gang or cluster latch: the waiting skein leaves it and traps (R169, R322, 16 R412). -/
def execGangLatchTimeout (r : Ref) (s : State) : Out :=
  match focusOn r s with
  | none => idle s
  | some s1 =>
    match s1.k.wait with
    | none => idle s
    | some w =>
      if w.kind = 4 ∧ w.exp ≠ 0 ∧ w.since + 2 ^ w.exp ≤ s1.clocks ∧ (s1.k.pending.isEmpty ∨ s1.k.handler) then
        .next (takeTrap false { code := 12, cause := 4, addr := w.pc } (leaveLatches s1.k.uid s1))
      else idle s

end Sys2Proof.Machine
end

