-- ==== Sys2Proof/Machine/Rows.lean ====
section
/-! DEFINITION. Row statistics: trow (09 R276 to R282). -/
namespace Sys2Proof.Machine

/-! ### Parameters (09 R276) -/

structure RowPar where
  dst : Nat
  src : Nat
  aux : Nat
  stride : Nat
  masked : Bool
  dfmt : Nat
  sfmt : Nat
  rows : Nat
  n : Nat
  deriving DecidableEq, Repr

def rowPar (d s p : Nat) : RowPar :=
  { dst := d, src := s, aux := 16 * nb p 63 48, stride := nb p 47 32, masked := nbit p 24, dfmt := nb p 23 22, sfmt := nb p 21 20,
    rows := nb p 19 12 + 1, n := nb p 11 0 + 1 }

/-- 00 FP32, 01 BF16, 10 FP16. -/
def rowFmt (c : Nat) : Fmt := pkFmt c
def rowSize (c : Nat) : Nat := if c = 0 then 4 else 2

/-- Modes: 0 sum, 1 max, 2 smax, 3 norm. -/
def rowOk (mode p : Nat) (x : RowPar) : Bool :=
  decide (nb p 31 25 = 0) && decide (x.dfmt ≠ 3) && decide (x.sfmt ≠ 3) && decide (x.stride % 16 = 0) && decide (x.n * rowSize x.sfmt ≤ x.stride) &&
    (if mode ≤ 1 then decide (x.dfmt = 0) && decide (x.aux = 0) else decide (x.n * rowSize x.dfmt ≤ x.stride)) &&
    decide (x.dst % 16 = 0) && decide (x.src % 16 = 0) && !(x.masked && decide (mode ≠ 2))

def rowDst (mode : Nat) (x : RowPar) (r : Nat) : Nat := if mode ≤ 1 then x.dst + 16 * r else x.dst + r * x.stride
def rowOut (mode : Nat) (x : RowPar) : Nat := if mode ≤ 1 then 16 else x.n * rowSize x.dfmt
def maskAt (x : RowPar) (r : Nat) : Nat := x.aux + pad16 x.rows + r * pad16 ((x.n + 7) / 8)

/-- Every range that is read or written. -/
def rowRanges (mode : Nat) (x : RowPar) : List (Nat × Nat) :=
  let rs := List.range x.rows
  (rs.map fun r => (x.src + r * x.stride, x.n * rowSize x.sfmt)) ++ (rs.map fun r => (rowDst mode x r, rowOut mode x)) ++
  (match mode with
   | 2 => (x.aux, x.rows) :: (if x.masked then rs.map fun r => (maskAt x r, (x.n + 7) / 8) else [])
   | 3 => [(x.aux, 4)]
   | _ => [])

def chkWins (W : Nat) : List (Nat × Nat) → Res Unit
  | [] => .ok ()
  | r :: l => do
    chkWin W r.1 r.2
    chkWins W l

def trow (mode a b c o : Nat) (s : State) : Out :=
  issue { even := [c], full := true } s fun s => do
    let p := (rdG s.k c).toNat
    let x := rowPar (rdG s.k a).toNat (rdG s.k b).toNat p
    if !rowOk mode p x then .error (illOp 10)
    else
      chkWins (winSize s.crew) (rowRanges mode x)
      let (obj, s1) ← tileObj (decide (o = 1)) (rdG s.k (c + 1)) s
      startOp { newOp (.trow mode) obj s1 with args := [rdG s.k a, rdG s.k b, rdG s.k c], count := x.rows * rowOut mode x } s1

def execTrowSum (a b c o : Nat) (s : State) : Out := trow 0 a b c o s
def execTrowMax (a b c o : Nat) (s : State) : Out := trow 1 a b c o s
def execTrowSmax (a b c o : Nat) (s : State) : Out := trow 2 a b c o s
def execTrowNorm (a b c o : Nat) (s : State) : Out := trow 3 a b c o s

/-! ### The statistics of a row -/

/-- Σ x and Σ x², exact; infinities and their signs. -/
def rowSums (l : List Fx) : Fx × Fx :=
  let pos := l.any fun x => fxIsInf x && !fxSign x
  let neg := l.any fun x => fxIsInf x && fxSign x
  if pos || neg then (if pos && neg then .nan else .inf neg, .inf false)
  else (fxSum l, fxSum (l.map fun x => (fxMul x x).getD .nan))

def fxDivNat (x : Fx) (n : Nat) : Fx := match x with | .fin s a d => .fin s a (d * n) | y => y

/-- S, Q, mean and variance, as FP32 codes (R279). -/
def rowStat (l : List Fx) : List Nat :=
  if l.any fxIsNan then List.replicate 4 (nanCode fp32)
  else
    let (S, Q) := rowSums l
    let n := l.length
    let var := if l.any fxIsInf then .nan
      else (fxAdd false (fxDivNat Q n) (fxNeg (fxDivNat (fxDivNat ((fxMul S S).getD .nan) n) n))).getD .nan
    [roundPos S, roundPos Q, roundPos (fxDivNat S n), roundPos var]

/-- a < b with −0 below +0. -/
def fxBelow (a b : Fx) : Bool := fxLt a b || (fxIsZero a && fxIsZero b && fxSign a && !fxSign b)

/-- The largest non-NaN element and the lowest index that attains it. -/
def rowMax (l : List Fx) : Option (Fx × Nat) :=
  l.zipIdx.foldl (fun m x => if fxIsNan x.1 then m else match m with
    | none => some x
    | some b => if fxBelow b.1 x.1 then some x else m) none

/-- The four words of trow.max (R280). -/
def rowMaxOut (l : List Fx) : List Nat :=
  let nans := (l.filter fxIsNan).length
  match rowMax l with
  | none => [nanCode fp32, 0xFFFFFFFF, nans, 0]
  | some (x, i) => [(fround fp32 .rn true 0 x).1, i, nans, 0]

/-! ### The soft maximum (R281) -/

/-- e^(−n/d) as an enclosure in units of 2^-P: the series at an argument halved until it is below 1/2, then as many squarings. -/
def expNeg (P n d : Nat) : Enc :=
  if P * d < n then { c := 0, e := 1 }
  else
    let h := Nat.log2 (n / d + 1) + 2
    let r : Int := (n * 2 ^ P / (d * 2 ^ h) : Nat)
    let m := P / 4 + 16
    (List.range h).foldl (fun a _ => { c := fixMul P a.c a.c, e := 2 * a.e + 2 }) { c := expHorner P (-r) m m (2 ^ P), e := 16 }

/-- e^(x − m) for x ≤ m. -/
def expBelow (P : Nat) (m x : Fx) : Enc :=
  match fxAdd false m (fxNeg x) with
  | some (.fin _ n d) => expNeg P n d
  | _ => { c := 0, e := 0 }

def smaxSum (P : Nat) (m : Fx) (u : List Fx) : Enc := u.foldl (fun a x => let y := expBelow P m x; { c := a.c + y.c, e := a.e + y.e : Enc }) { c := 0, e := 0 }

/-- A quotient of enclosures rounded, where both its ends round alike. -/
def roundAlike (F : Fmt) (a b : Enc) : Option Nat :=
  let lo := (fround F .rn true 0 (.fin false (a.c - a.e).toNat (b.c + b.e).toNat)).1
  let hi := (fround F .rn true 0 (.fin false (a.c + a.e).toNat (b.c - b.e).toNat)).1
  if b.e < b.c ∧ lo = hi then some lo else none

/-- One output, correctly rounded: at `P` bits, or at twice as many while they do not decide. The exact quotient, where its terms are not all
equal, is irrational and so no tie. -/
def smaxGo (F : Fmt) (m : Fx) (u : List Fx) (y : Fx) : Nat → Nat → Nat
  | 0, P => (fround F .rn true 0 (.fin false (expBelow P m y).c.toNat (max 1 (smaxSum P m u).c.toNat))).1
  | n + 1, P => (roundAlike F (expBelow P m y) (smaxSum P m u)).getD (smaxGo F m u y n (2 * P))

def smaxOut (F : Fmt) (m : Fx) (u : List Fx) (first : Enc) (y : Fx) : Nat := (roundAlike F (expBelow 480 m y) first).getD (smaxGo F m u y 16 960)

/-- Outputs at unmasked positions (none at masked ones), flags and status. -/
def rowSmax (F : Fmt) (l : List (Option Fx)) : List Nat × Nat × Nat :=
  let u := l.filterMap id
  let each := fun (f : Fx → Nat) => l.map fun x => match x with | some y => f y | none => 0
  let one := fun (k : Nat) => (fround F .rn true 0 (.fin false 1 k)).1
  let isTop := fun x : Fx => fxIsInf x && !fxSign x
  if u.any fxIsNan then (each fun _ => nanCode F, 4, stNAN)
  else if u = [] then (each fun _ => 0, 1, 0)
  else if u.any isTop then (each fun y => if isTop y then one (u.filter isTop).length else 0, 2, 0)
  else if u.all fxIsInf then (each fun _ => one u.length, 0, 0)
  else
    let m := (u.filter fun x => !fxIsInf x).foldl fxMax (.inf true)
    let first := smaxSum 480 m u
    (each fun y => if fxIsInf y then 0 else smaxOut F m u first y, 0, 0)

/-! ### Normalisation (R282) -/

def normOut (F : Fmt) (mu ve x : Fx) : Nat × Nat :=
  match fxAdd false x (fxNeg mu), ve with
  | some (.fin s n d), .fin _ a b =>
    if n = 0 then (0, 0)
    else
      let q := sqrtRatio (n * n * b) (d * d * a)
      let r := fround F .rn true 0 (.fin s q.1 q.2)
      if Nat.land r.2 flOF ≠ 0 then (withSign F s (maxCode F), stSAT) else (r.1, 0)
  | some _, .inf _ => (0, 0)
  | _, _ => (nanCode F, stNAN)

def rowNorm (F : Fmt) (l : List Fx) (eps : Fx) : List Nat × Nat :=
  let st := rowStat l
  let ve := fxAdd false (fdec fp32 (st.getD 3 0)) eps
  let bad := l.any (fun x => fxIsNan x || fxIsInf x) || fxIsNan eps || (match ve with | some v => fxIsNan v || fxLe v fxZero | none => true)
  if bad then (l.map fun _ => nanCode F, stNAN)
  else
    let o := l.map (normOut F (fdec fp32 (st.getD 2 0)) (ve.getD .nan))
    (o.map (·.1), o.foldl (fun m x => Nat.lor m x.2) 0)

/-! ### Performing trow, a row at a time (R278) -/

def rowElems (c : Crew) (x : RowPar) (r : Nat) : List Fx × Nat :=
  let b := engWin c (x.src + r * x.stride) (x.n * rowSize x.sfmt)
  ((List.range x.n).map fun j => fdec (rowFmt x.sfmt) (leAt b.1 (j * rowSize x.sfmt) (rowSize x.sfmt)), b.2)

def codesBytes (size : Nat) (l : List Nat) : List Byte := (l.map (toBytes size)).flatten

def rowStep (mode : Nat) (x : RowPar) (acc : Crew × Nat) (r : Nat) : Crew × Nat :=
  let c := acc.1
  let F := rowFmt x.dfmt
  let e := rowElems c x r
  let seen := if e.1.any fxIsNan then stNAN else 0
  let put := fun (l : List Byte) (st : Nat) => (putWin (rowDst mode x r) l c, Nat.lor acc.2 st)
  match mode with
  | 0 => let o := rowStat e.1; put (codesBytes 4 o) (Nat.lor e.2 (if o.any isNan32 then stNAN else 0))
  | 1 => put (codesBytes 4 (rowMaxOut e.1)) (Nat.lor e.2 seen)
  | 2 =>
    let m := if x.masked then engWin c (maskAt x r) ((x.n + 7) / 8) else ([], 0)
    let l := e.1.zipIdx.map fun y => if nbit (m.1.getD (y.2 / 8) 0#8).toNat (y.2 % 8) then none else some y.1
    let o := rowSmax F l
    let read := fun j => (l.getD j none).isSome && decide ((engWin c (x.src + r * x.stride + j * rowSize x.sfmt) (rowSize x.sfmt)).2 ≠ 0)
    let r1 := put (codesBytes (rowSize x.dfmt) o.1) (Nat.lor m.2 (Nat.lor o.2.2 (if (List.range x.n).any read then stUEOPND else 0)))
    (putWin (x.aux + r) [BitVec.ofNat 8 o.2.1] r1.1, r1.2)
  | _ =>
    let a := engWin c x.aux 4
    let o := rowNorm F e.1 (fdec fp32 (ofBytes a.1))
    put (codesBytes (rowSize x.dfmt) o.1) (Nat.lor e.2 (Nat.lor a.2 o.2))

def performTrow (mode : Nat) (o : Op) (s : State) : State :=
  match crewOf s o.cuid with
  | none => dropOp o.id s
  | some c =>
    let x := rowPar (o.args.getD 0 0#64).toNat (o.args.getD 1 0#64).toNat (o.args.getD 2 0#64).toNat
    let r := (List.range x.rows).foldl (rowStep mode x) (c, 0)
    setOp { o with performed := true, due := s.gtime + objDelta o s 0, status := Nat.lor o.status r.2 } (countErrors r.2 (modCrew o.cuid (fun _ => r.1) s))

end Sys2Proof.Machine
end

