-- ==== Sys2Proof/Machine/Grid.lean ====
section
/-! DEFINITION. The neighbour-list engine: grid records, binning, pairs, statistics (13 R363 to R378). -/
namespace Sys2Proof.Machine

/-! ### Exact arithmetic on finite values -/

def qAdd (a b : Fx) : Fx := (fxAdd false a b).getD .nan
def qSub (a b : Fx) : Fx := qAdd a (fxNeg b)
def qMul (a b : Fx) : Fx := (fxMul a b).getD .nan
/-- Division by a non-zero finite value. -/
def qDiv (a b : Fx) : Fx :=
  match a, b with
  | .fin s n d, .fin t m e => if m = 0 then .nan else .fin (s != t) (n * e) (d * m)
  | _, _ => .nan
def qInt (i : Int) : Fx := fxOfInt i
def qHalf : Fx := .fin false 1 2

def qFloor (x : Fx) : Int :=
  match x with
  | .fin false n d => ((n / d : Nat) : Int)
  | .fin true n d => -(((n + d - 1) / d : Nat) : Int)
  | _ => 0

def f32 (x : Nat) : Fx := fdec fp32 x
def rnBits (x : Fx) : Nat := (fround fp32 .rn true 0 x).1
def isFinite32 (x : Nat) : Bool := decide (nb x 30 23 ≠ 255)

/-! ### The grid record (13 R363 to R365) -/

structure Grid where
  addr : Nat
  origin : List Fx
  cell : Fx
  cutoff : Fx
  skin : Fx
  dim : List Nat
  per : Nat
  cap : Nat
  cells : Nat
  spill : Nat
  spillcap : Nat
  pos : Nat
  npart : Nat
  nspill : Nat
  state : Nat
  deriving DecidableEq, Repr

def gridOf (addr : Nat) (r : List Byte) : Grid :=
  let q := fun o => f32 (leAt r o 4)
  { addr := addr, origin := [q 0, q 4, q 8], cell := q 12, cutoff := q 16, skin := q 20, dim := [leAt r 24 2, leAt r 26 2, leAt r 28 2],
    per := leAt r 30 1, cap := leAt r 31 1, cells := leAt r 32 8, spill := leAt r 40 8, spillcap := leAt r 48 4, pos := leAt r 56 8,
    npart := leAt r 68 4, nspill := leAt r 72 4, state := leAt r 76 4 }

def Grid.d (g : Grid) (a : Nat) : Nat := g.dim.getD a 1
def Grid.o (g : Grid) (a : Nat) : Fx := g.origin.getD a fxZero
def Grid.count (g : Grid) : Nat := g.d 0 * g.d 1 * g.d 2
def Grid.es (g : Grid) : Nat := 16 * ((g.cap + 4) / 4)
def Grid.periodic (g : Grid) (a : Nat) : Bool := nbit g.per a
/-- The box length on an axis. -/
def Grid.len (g : Grid) (a : Nat) : Fx := qMul (qInt (g.d a)) g.cell

/-- A table's range lies in the lower half without wrap. -/
def lowRange (base n : Nat) : Bool := decide (base % 16 = 0) && (decide (n = 0) || decide (base + n ≤ 2 ^ 55))

/-- The fields blamed by the rules of R364; `n` is the length of the position copy. -/
def gridBlames (r : List Byte) (n : Nat) (valid : Bool) : List Nat :=
  let g := gridOf 0 r
  let fin := fun o => isFinite32 (leAt r o 4)
  let when := fun (b : Bool) (o : Nat) => if b then [o] else []
  when (!(fin 0 && fin 4 && fin 8)) 0 ++ when (!(fin 12 && fxLt fxZero g.cell)) 12 ++ when (!(fin 16 && fxLe fxZero g.cutoff)) 16 ++
  when (!(fin 20 && fxLe fxZero g.skin)) 20 ++ when (fin 12 && fin 16 && fin 20 && !fxLe (qAdd g.cutoff g.skin) g.cell) 12 ++
  when ((List.range 3).any fun a => !inRange 1 1024 (g.d a) || (g.periodic a && decide (g.d a < 3))) 24 ++
  when (!inRange 1 64 g.cap) 31 ++ when (decide (2 ^ 24 < g.spillcap)) 48 ++ when (decide (8 ≤ g.per)) 30 ++ when (decide (leAt r 52 4 ≠ 0)) 52 ++
  when (decide (leAt r 100 28 ≠ 0)) 100 ++ when (decide (nb g.state 7 2 ≠ 0) || decide (nb g.state 31 16 ≠ 0) || (valid && !nbit g.state 0)) 76 ++
  when (!lowRange g.cells (g.count * g.es)) 32 ++ when (!lowRange g.spill (8 * g.spillcap)) 40 ++ when (!lowRange g.pos n) 56

/-- Reads a grid record at issue and then checks it, its alignment included; `n` none takes the record's own NPART. -/
def fetchGrid (addr : Nat) (n : Option Nat) (valid : Bool) (s : State) : Res (List Byte × State) := do
  let (r, s1) ← loadOne 128 addr s
  match least ((if addr % 64 = 0 then [] else [0]) ++ gridBlames r (16 * n.getD (leAt r 68 4)) valid) with
  | some o => .error (shapeTrap addr o)
  | none => pure (r, s1)

/-- The cell index of a coordinate on an axis (R366). -/
def axisCell (g : Grid) (a x : Nat) : Nat :=
  if !isFinite32 x then 0
  else
    let k := qFloor (qDiv (qSub (f32 x) (g.o a)) g.cell)
    if g.periodic a then (k % (g.d a : Int)).toNat else (max 0 (min k ((g.d a : Int) - 1))).toNat

def cellNo (g : Grid) (c : List Nat) : Nat := c.getD 0 0 + g.d 0 * (c.getD 1 0 + g.d 1 * c.getD 2 0)
def cellAxes (g : Grid) (c : Nat) : List Nat := [c % g.d 0, c / g.d 0 % g.d 1, c / (g.d 0 * g.d 1)]
def cellFor (g : Grid) (p : List Nat) : Nat := cellNo g ((List.range 3).map fun a => axisCell g a (p.getD a 0))

/-! ### Binning (R367 to R369) -/

/-- The particles of a cell in ascending index. -/
def inCell (cells : List Nat) (c : Nat) : List Nat := (cells.zipIdx.filter fun x => decide (x.1 = c)).map (·.2)

/-- The three words of positions `i` of an array image. -/
def posAt (l : List Byte) (i : Nat) : List Nat := (List.range 3).map fun a => leAt l (16 * i + 4 * a) 4

structure Binned where
  table : List Byte
  spill : List (Nat × Nat)
  excess : List (Nat × Nat)
  occ : Nat
  cells : List Nat
  deriving DecidableEq, Repr

def binUp (g : Grid) (pos : List (List Nat)) : Binned :=
  let cells := pos.map (cellFor g)
  let lists := (List.range g.count).map fun c => (c, inCell cells c)
  let entry := fun (l : List Nat) => padTo g.es ((((min l.length g.cap) :: l.take g.cap).map (toBytes 4)).flatten)
  let rest := (lists.map fun x => (x.2.drop g.cap).map fun i => (x.1, i)).flatten
  { table := (lists.map fun x => entry x.2).flatten, spill := rest.take g.spillcap, excess := rest.drop g.spillcap,
    occ := lists.foldl (fun m x => max m x.2.length) 0, cells := cells }

def nbinPlan (o : Op) (s : State) : Plan :=
  let addr := (o.args.getD 0 0#64).toNat
  let arr := (o.args.getD 1 0#64).toNat
  let n := (o.args.getD 2 0#64).toNat
  let g := gridOf addr (o.recs.headD [])
  let reads := (List.range n).map fun i => engRead o (arr + 16 * i) 16 s
  let gen := engRead o (addr + 64) 4 s
  let pos := reads.map fun r => if nbit r.st 1 then [0, 0, 0] else posAt r.bytes 0
  let b := binUp g pos
  let flag := fun i => if b.spill.any (fun x => decide (x.2 = i)) then 2 ^ 30 else if b.excess.any (fun x => decide (x.2 = i)) then 2 ^ 31 else 0
  let copy := (pos.zipIdx.map fun x => ((x.1 ++ [b.cells.getD x.2 0 + flag x.2]).map (toBytes 4)).flatten).flatten
  let state := 1 + 2 * b2 (!b.excess.isEmpty) + min b.occ 255 * 256
  let tail := toBytes 4 (ofBytes gen.bytes + 1) ++ toBytes 4 n ++ toBytes 4 b.spill.length ++ toBytes 4 state ++ List.replicate 48 0#8
  let w := fun a l => { scr := none, addr := a, bytes := l : Wr }
  { writes := [w g.cells b.table, w g.spill (b.spill.map fun x => toBytes 4 x.2 ++ toBytes 4 x.1).flatten, w g.pos copy, w (addr + 64) tail],
    st := reads.foldl (fun m r => Nat.lor m r.st) (Nat.lor gen.st (if b.excess.isEmpty then 0 else stOVERFLOW)), need := reads.flatMap (·.need) ++ gen.need }

/-- The barrier object of an engine's operation; `opt` lets a zero address without OSCR name none. -/
def engObj (opt scr : Bool) (x : Word64) (s : State) : Res (Obj × State) := do
  if opt then tileObj scr x s
  else
    let s1 ← checkObj scr x s
    pure (if scr then .scr x.toNat else .va x, s1)

/-- A 16-byte aligned array of positions (R368, R374 step 5). -/
def chkArray (a n : Nat) (s : State) : Res Unit := if a % 16 ≠ 0 then .error (trapAt 8 4 0xFF a) else chkGlob a (16 * n) s

def engineReq (l : List Nat) : Req := { even := l, noMeld := true, full := true }

def execNbin (a b c o : Nat) (s : State) : Out :=
  issue (engineReq [c]) s fun s => do
    let n := (rdG s.k c).toNat
    if !inRange 1 (2 ^ 24) n then .error (illOp 16)
    else
      let (obj, s1) ← engObj true (decide (o = 1)) (rdG s.k (c + 1)) s
      let addr := (rdG s.k a).toNat
      let (r, s2) ← fetchGrid addr (some n) false s1
      let g := gridOf addr r
      chkArray (rdG s.k b).toNat n s2
      chkMerges s2.crew [(g.cells, g.count * g.es), (g.spill, 8 * g.spillcap), (g.pos, 16 * n), (addr, 128)]
      startOp { newOp .nbin obj s2 with args := [rdG s.k a, rdG s.k b, w64 n], recs := [r], count := 16 * n } s2

/-! ### Pairs (R370 to R373) -/

/-- A listed particle: cell, index, whether from the spill list. -/
abbrev Listed := Nat × Nat × Bool

/-- What the engine reads: values, status, pages. -/
structure Seen (α : Type) where
  val : α
  st : Nat := 0
  need : List Need := []

/-- The particles that one cell's entry lists; a failing or bad entry is empty. -/
def readCell (o : Op) (s : State) (g : Grid) (c : Nat) : Seen (List Listed) :=
  let r := engRead o (g.cells + g.es * c) g.es s
  let n := min (leAt r.bytes 0 4) g.cap
  { val := if r.st ≠ 0 then [] else (List.range n).map fun i => (c, leAt r.bytes (4 + 4 * i) 4, false), st := r.st, need := r.need }

def readSpill (o : Op) (s : State) (g : Grid) (e : Nat) : Seen (List Listed) :=
  let r := engRead o (g.spill + 8 * e) 8 s
  { val := if r.st ≠ 0 then [] else [(leAt r.bytes 4 4, leAt r.bytes 0 4, true)], st := r.st, need := r.need }

/-- A position, NaN in a failing page or with an uncorrectable error, and its word 3. -/
def readPos (o : Op) (s : State) (base i : Nat) : Seen (List Nat × Nat) :=
  let r := engRead o (base + 16 * i) 16 s
  { val := if r.st ≠ 0 then (List.replicate 3 (nanCode fp32), leAt r.bytes 12 4) else (posAt r.bytes 0, leAt r.bytes 12 4), st := r.st, need := r.need }

def gather {α β : Type} (f : α → Seen (List β)) (l : List α) : Seen (List β) :=
  let r := l.map f
  { val := (r.map (·.val)).flatten, st := r.foldl (fun m x => Nat.lor m x.st) 0, need := (r.map (·.need)).flatten }

/-- The listed particles of the grid with an index below NPART, in some order. -/
def listedAll (o : Op) (s : State) (g : Grid) : Seen (List Listed) :=
  let a := gather (readCell o s g) (List.range g.count)
  let b := gather (readSpill o s g) (List.range (min g.nspill g.spillcap))
  { val := (a.val ++ b.val).filter fun x => decide (x.2.1 < g.npart) && decide (x.1 < g.count), st := Nat.lor a.st b.st, need := a.need ++ b.need }

/-- A coordinate wrapped into the box; none when it is not finite. -/
def wrapAxis (g : Grid) (a x : Nat) : Option Fx :=
  if !isFinite32 x then none
  else if g.periodic a then
    let L := g.len a
    let w := f32 (rnBits (qSub (f32 x) (qMul L (qInt (qFloor (qDiv (qSub (f32 x) (g.o a)) L))))))
    if fxIsInf w then none else some w
  else some (f32 x)

def wrapPos (g : Grid) (p : List Nat) : Option (List Fx) :=
  match (List.range 3).filterMap fun a => wrapAxis g a (p.getD a 0) with
  | [x, y, z] => some [x, y, z]
  | _ => none

/-- The shift of an axis: the smallest magnitude, 0 on a tie. -/
def shiftOf (g : Grid) (a : Nat) (d : Fx) : Int :=
  if !g.periodic a then 0
  else
    let m := fun (t : Int) => fxAbs (qAdd d (qMul (qInt t) (g.len a)))
    if fxLt (m (-1)) (m 0) && fxLe (m (-1)) (m 1) then -1 else if fxLt (m 1) (m 0) then 1 else 0

/-- r² and the image code of a pair. -/
def separation (g : Grid) (wi wj : List Fx) : Fx × Nat :=
  (List.range 3).foldl (fun acc a =>
    let d := qSub (wj.getD a fxZero) (wi.getD a fxZero)
    let t := shiftOf g a d
    let e := qAdd d (qMul (qInt t) (g.len a))
    (qAdd acc.1 (qMul e e), acc.2 + (if t = 1 then 1 else if t = -1 then 2 else 0) * 4 ^ a)) (fxZero, 0)

/-- A particle has moved more than half the skin since binning (R373). -/
def isStale (g : Grid) (cur bnd : List Nat) : Bool :=
  if (cur ++ bnd).any (fun x => !isFinite32 x) then true
  else
    let t := (List.range 3).foldl (fun t a =>
      let d := qSub (f32 (cur.getD a 0)) (f32 (bnd.getD a 0))
      let m : Int := if g.periodic a then -(qFloor (qSub qHalf (qDiv d (g.len a)))) else 0
      let e := qSub d (qMul (qInt m) (g.len a))
      qAdd t (qMul e e)) fxZero
    let h := qMul g.skin qHalf
    fxLt (qMul h h) t

/-- Cells of difference −1, 0 or +1 on each axis (R371). -/
def isNeighbour (g : Grid) (c d : Nat) : Bool :=
  (List.range 3).all fun a =>
    let x := (cellAxes g c).getD a 0
    let y := (cellAxes g d).getD a 0
    decide (x = y) || decide (x + 1 = y) || decide (y + 1 = x) || (g.periodic a && (decide ((x + 1) % g.d a = y) || decide ((y + 1) % g.d a = x)))

/-- Insertion by a key. -/
def insBy {α : Type} (key : α → List Nat) (x : α) : List α → List α
  | [] => [x]
  | y :: l => if (key x).lex (key y) then x :: y :: l else y :: insBy key x l
def sortBy {α : Type} (key : α → List Nat) (l : List α) : List α := l.foldr (insBy key) []

/-- Everything npairs finds: records in order, candidates, stale particles, status, pages. -/
structure PairsFound where
  recs : List (List Byte)
  cand : Nat
  stale : Nat
  st : Nat
  need : List Need
  deriving DecidableEq, Repr

def pairRecord (i j dist img flags : Nat) : List Byte := toBytes 4 i ++ toBytes 4 j ++ toBytes 4 dist ++ [BitVec.ofNat 8 img, BitVec.ofNat 8 flags, 0#8, 0#8]

def findPairs (o : Op) (s : State) : PairsFound :=
  let g := gridOf (o.args.getD 0 0#64).toNat (o.recs.headD [])
  let arr := (o.args.getD 1 0#64).toNat
  let lo := o.index.getD 0 0
  let hi := o.index.getD 1 0
  let listed := listedAll o s g
  let cur := (List.range g.npart).map (readPos o s arr)
  let bnd := (List.range g.npart).map (readPos o s g.pos)
  let curAt := fun i => (cur.getD i { val := ([], 0) }).val.1
  let stale := fun i => isStale g (curAt i) (bnd.getD i { val := ([], 0) }).val.1
  let cands := ((listed.val.filter fun x => decide (lo ≤ x.1) && decide (x.1 < hi)).map fun x =>
    (listed.val.filter fun y => (decide (x.1 < y.1) || (decide (x.1 = y.1) && decide (x.2.1 < y.2.1))) && isNeighbour g x.1 y.1).map fun y => (x, y)).flatten
  let hits := cands.filterMap fun p =>
    match wrapPos g (curAt p.1.2.1), wrapPos g (curAt p.2.2.1) with
    | some wi, some wj =>
      let r := separation g wi wj
      if fxLe r.1 (qMul g.cutoff g.cutoff) then some (p, rnBits r.1, r.2) else none
    | _, _ => none
  let order := sortBy (fun h => [h.1.1.1, h.1.1.2.1, h.1.2.2.1]) hits
  let recs := order.zipIdx.map fun h =>
    let p := h.1.1
    pairRecord p.1.2.1 p.2.2.1 h.1.2.1 h.1.2.2
      (b2 (stale p.1.2.1 || stale p.2.2.1) + 2 * b2 (p.1.2.2 || p.2.2.2) + 4 * b2 (decide (h.2 + 1 = order.length)))
  let nst := ((List.range g.npart).filter fun i =>
    let c := (bnd.getD i { val := ([], 0) }).val.2 % 2 ^ 30
    decide (lo ≤ c) && decide (c < hi) && stale i).length
  { recs := recs, cand := cands.length, stale := nst,
    st := (cur ++ bnd).foldl (fun m x => Nat.lor m x.st) (Nat.lor listed.st ((if nbit g.state 1 then stOVERFLOW else 0) + (if nst ≠ 0 then stSTALE else 0))),
    need := listed.need ++ ((cur ++ bnd).map (·.need)).flatten }

/-! ### npairs (R372, R374) -/

def execNpairs (a b c o : Nat) (s : State) : Out :=
  issue (engineReq [b, c]) s fun s => do
    let x := (rdG s.k (b + 1)).toNat
    let p := (rdG s.k c).toNat
    if nb x 63 62 ≠ 0 ∨ nb x 31 30 ≠ 0 ∨ nb p 47 44 ≠ 0 ∨ nb p 31 0 ≠ 0 then .error (illOp 16)
    else
      let (obj, s1) ← engObj false (decide (o = 1)) (rdG s.k (c + 1)) s
      let addr := (rdG s.k a).toNat
      let (r, s2) ← fetchGrid addr none true s1
      let g := gridOf addr r
      chkArray (rdG s.k b).toNat g.npart s2
      let ring := 16 * nb p 63 48
      let slots := nb p 43 32 + 1
      chkWin (winSize s2.crew) ring (16 * slots)
      let first := nb x 29 0
      let n := nb x 61 32
      let last := if n = 0 then g.count else first + n
      if g.count ≤ first ∨ g.count < last then .error (illOp 16) else pure ()
      chkMerge s2.crew (addr + 80) 20
      startOp { newOp .npairs obj s2 with args := [rdG s.k a, rdG s.k b], recs := [r], index := [first, last, ring, slots] } s2

/-- Progress of npairs, in `count`: 0 nothing read, 1 records found. -/
def pairsReady (o : Op) : Bool := decide (o.count ≠ 0)

/-- An arrival of 16 for a written record (R128), once its write is past. -/
def arriveCount (o : Op) (n st : Nat) (closing : Bool) (s : State) : State :=
  match o.obj with
  | .scr off => arriveScr o.cuid off n st none closing s
  | .va a => arriveVa o.ctx a n st none closing s
  | .none => s

/-- Finds the records, or asks for the pages that the search needs. -/
def startPairs (o : Op) (s : State) : State :=
  let f := findPairs o s
  match waitingPages o f.need s with
  | [] => setOp { o with count := 1, recs := o.recs ++ f.recs, index := o.index ++ [f.cand, f.stale], status := f.st } (countErrors f.st (f.need.foldl (touchNeed o) s))
  | l => l.foldl (fun s n => opRequest o n s) s

/-- Writes record `pos` into its slot when that is empty. -/
def writePair (o : Op) (c : Crew) (r : List Byte) (s : State) : State :=
  let off := o.index.getD 2 0 + 16 * (o.pos % o.index.getD 3 1)
  if isFull c (off / 16) then s
  else setOp { o with started := true, due := s.gtime + objDelta o s 0 } (modCrew o.cuid (engineWin off r) s)

def findOp (s : State) (id : Nat) : Option Op := s.en.ops.find? fun o => decide (o.id = id)

/-- One step of npairs: the search, a record's write, or the record's arrival; none while its crew is saved (R376). -/
def execPairRecordEmit (id : Nat) (s : State) : Out :=
  match findOp s id with
  | none => idle s
  | some o =>
    if o.kind ≠ .npairs ∨ opStops o s then idle s
    else if !pairsReady o then serveUnit startPairs o s
    else if o.started then
      if s.gtime ≤ o.due then idle s
      else match objWaits o s with
        | some n => .next (opRequest o n s)
        | none => .next (setOp { o with started := false, pos := o.pos + 1 } (arriveCount o 16 0 false s))
    else match crewOf s o.cuid, o.recs[o.pos + 1]? with
      | some c, some r => .next (writePair o c r s)
      | _, _ => idle s

/-! The counters of npairs (R375, R376). -/

/-- `n` bytes at a home become `x`, as an atomic of an operation. -/
def addHome (o : Op) (key n x : Nat) (s : State) : State :=
  let cells := (List.range n).zip (toBytes n x) |>.map fun c => (key + c.1, c.2)
  homeAccept { sn := s.seqNo, uid := 0, cuid := o.cuid, core := o.core, ctx := o.ctx, remote := keyDev key, line := lineOf key, cells := cells, op := o.id }
    { s with seqNo := s.seqNo + 1 }

/-- The counters in the grid record: address, width, what is added. -/
def pairCounters (o : Op) : List (Nat × Nat × Nat) :=
  let addr := (o.args.getD 0 0#64).toNat
  [(addr + 80, 8, o.recs.length - 1), (addr + 88, 8, o.index.getD 4 0), (addr + 96, 4, o.index.getD 5 0)]

/-- A device-scope atomic add of `n` bytes at a home: the status. The page must allow an atomic; a word with an uncorrectable error counts as
zero (01 R23, 05 R142). -/
def addAt (o : Op) (va n x : Nat) (s : State) : State × Nat :=
  match pageSt o .atomic va s with
  | .ok l =>
    let key := keyOf l va
    let bad := (List.range n).any fun i => s.hm.memBad.contains ((key + i) / 8)
    (addHome o key n ((if bad then 0 else finalNat s key n) + x) s, if bad then stUEOPND else 0)
  | _ => (s, stFAULT)

/-- Adds the pair, candidate and stale counts to the record: the state, the status, the time that covers the additions. -/
def addCounters (o : Op) (s : State) : State × Nat × Nat :=
  let r := (pairCounters o).foldl (fun (acc : State × Nat × List Nat) c =>
    let a := addAt o c.1 c.2.1 c.2.2 acc.1
    (a.1, Nat.lor acc.2.1 a.2, if a.2 = stFAULT then acc.2.2 else (keyAt a.1 o.ctx c.1).toList ++ acc.2.2)) (s, 0, [])
  (r.1, r.2.1, r.2.2.foldl (fun t k => max t (mget 0 r.1.hm.lineC (lineOf k) + objDelta o r.1 (lineOf k))) 0)

/-- The next atomic on the line of an object in memory takes no completion time before `t`. -/
def objectAfter (o : Op) (t : Nat) (s : State) : State :=
  match o.obj with
  | .va a => (match objKey s o.ctx a with
    | some key => modHm (fun h => { h with lineC := mset 0 h.lineC (lineOf key) (max t (mget 0 h.lineC (lineOf key))) }) s
    | none => s)
  | _ => s

/-- What the end of npairs touches: the counters of the record. -/
def endNeeds (o : Op) : List Need := (pairCounters o).map fun c => .mem .atomic c.1 c.2.1

/-- The counters and the closing arrival that covers them. An object in memory takes the arrival in the same step as the additions, with
a completion time past theirs; an object in scratch takes it once their time has passed: in either case no kill of the context, which ends
the crew and its window, finds an addition without the arrival (R376, log entry 114). -/
def closePairs (o : Op) (s : State) : State :=
  let r := addCounters o s
  let st := Nat.lor o.status r.2.1
  let s1 := countErrors r.2.1 r.1
  match o.obj with
  | .scr _ => setOp { o with performed := true, due := r.2.2, status := st } s1
  | _ => dropOp o.id (arriveCount o 0 (Nat.lor st stCLOSED) true (objectAfter o (r.2.2 + 1) s1))

/-- After the last record's arrival: the counters, then the closing arrival that covers them (R137, R372, R375). -/
def execNpairsClosingArrival (id : Nat) (s : State) : Out :=
  match findOp s id with
  | none => idle s
  | some o =>
    if o.kind ≠ .npairs ∨ o.started ∨ o.pos + 1 < o.recs.length ∨ o.count = 0 ∨ opStops o s then idle s
    else if o.performed then
      if s.gtime ≤ o.due then idle s else .next (dropOp o.id (arriveCount o 0 (Nat.lor o.status stCLOSED) true s))
    else
      match waitingPages o (endNeeds o) s ++ (objWaits o s).toList with
      | n :: _ => .next (opRequest o n s)
      | [] => .next (closePairs o s)

/-! ### nstat (R378) -/

/-- Offset and width of a statistic. -/
def statField (c : Nat) : Nat × Nat :=
  match c with
  | 0 => (64, 4) | 1 => (68, 4) | 2 => (72, 4) | 3 => (76, 4) | 4 => (80, 8) | 5 => (88, 8) | _ => (96, 4)

def execNstat (d a b : Nat) (s : State) : Out :=
  issue {} s fun s => do
    let c := (rdG s.k b).toNat
    if 7 ≤ c then .error (illOp 16)
    else
      let f := statField c
      let base := (rdG s.k a).toNat
      let (r, s1) ← loadLanes true false 0 8 [(0xFF, (base + f.1) % 2 ^ 64)] s
      pure (retire 1 { s1 with k := wrG d (w64 (leAt (laneBytes r 0xFF) 0 f.2)) s1.k })

end Sys2Proof.Machine
end

