-- ==== Sys2Proof/Machine/Field.lean ====
section
/-! DEFINITION. Field-code programs: their check, interval and affine values, and one evaluation over a segment
(12 R329 to R342, 03 R85, R86, R100, R101). -/
namespace Sys2Proof.Machine

/-! ### The text of a program (R329) -/

/-- An operation: its offset from the header, opcode byte and operand. -/
structure FOp where
  off : Nat
  code : Nat
  arg : Nat
  deriving DecidableEq, Repr

/-- Operand kind of an assigned opcode (0 none, 1 constant, 2 identifier), constants read, entries popped and pushed. -/
def fopInfo (c : Nat) : Option (Nat × Nat × Nat × Nat) :=
  match c with
  | 0x00 => some (0, 0, 0, 0)
  | 0x01 => some (1, 1, 0, 1)
  | 0x02 => some (0, 0, 0, 1)
  | 0x03 => some (0, 0, 0, 1)
  | 0x04 => some (0, 0, 0, 1)
  | 0x05 => some (0, 0, 1, 2)
  | 0x06 => some (0, 0, 2, 2)
  | 0x07 => some (0, 0, 1, 0)
  | 0x08 => some (0, 0, 2, 3)
  | 0x10 => some (0, 0, 0, 0)
  | 0x11 => some (0, 0, 0, 0)
  | 0x12 => some (1, 12, 0, 0)
  | 0x20 => some (0, 0, 2, 1)
  | 0x21 => some (0, 0, 2, 1)
  | 0x22 => some (0, 0, 2, 1)
  | 0x23 => some (0, 0, 2, 1)
  | 0x24 => some (0, 0, 1, 1)
  | 0x25 => some (0, 0, 1, 1)
  | 0x26 => some (0, 0, 1, 1)
  | 0x27 => some (0, 0, 1, 1)
  | 0x28 => some (0, 0, 2, 1)
  | 0x29 => some (0, 0, 2, 1)
  | 0x2A => some (1, 1, 2, 1)
  | 0x2B => some (1, 2, 1, 1)
  | 0x2C => some (0, 0, 1, 1)
  | 0x2D => some (0, 0, 1, 1)
  | 0x2E => some (1, 1, 1, 1)
  | 0x30 => some (0, 0, 2, 1)
  | 0x31 => some (0, 0, 3, 1)
  | 0x32 => some (1, 1, 0, 1)
  | 0x33 => some (1, 3, 0, 1)
  | 0x34 => some (1, 2, 0, 1)
  | 0x35 => some (1, 4, 0, 1)
  | 0x36 => some (1, 8, 0, 1)
  | 0x40 => some (1, 6, 0, 1)
  | 0x41 => some (1, 4, 0, 1)
  | 0x50 => some (2, 0, 0, 1)
  | 0x51 => some (2, 0, 0, 0)
  | _ => none

/-- The operations of a code, up to the first that is unassigned or cut; its offset when there is one. -/
def scanCode : Nat → Nat → List Byte → List FOp × Option Nat
  | 0, _, _ => ([], none)
  | _ + 1, _, [] => ([], none)
  | n + 1, off, b :: l =>
    match fopInfo b.toNat with
    | none => ([], some off)
    | some (0, _) => let r := scanCode n (off + 1) l; ({ off := off, code := b.toNat, arg := 0 } :: r.1, r.2)
    | some _ =>
      if l.length < 2 then ([], some off)
      else let r := scanCode n (off + 3) (l.drop 2); ({ off := off, code := b.toNat, arg := leAt l 0 2 } :: r.1, r.2)

structure Prog where
  codelen : Nat
  constoff : Nat
  nconst : Nat
  stack : Nat
  nodes : Nat
  flags : Nat
  ops : List FOp
  cut : Option Nat
  consts : List Nat
  deriving DecidableEq, Repr

def progOf (b : List Byte) : Prog :=
  let n := leAt b 4 4
  let c := leAt b 8 4
  let sc := scanCode n 32 ((b.drop 32).take n)
  { codelen := n, constoff := c, nconst := leAt b 12 2, stack := leAt b 14 2, nodes := leAt b 16 2, flags := leAt b 3 1,
    ops := sc.1, cut := sc.2, consts := (List.range (leAt b 12 2)).map fun i => leAt b (c + 4 * i) 4 }

def Prog.k (p : Prog) (i : Nat) : Nat := p.consts.getD i 0

/-! ### The checks (R101, R330) -/

/-- The lowest blamed offset of a header. -/
def headerBad (scr : Bool) (b : List Byte) : Option Nat :=
  let when := fun (x : Bool) (o : Nat) => if x then [o] else []
  let n := leAt b 4 4
  let c := leAt b 8 4
  let f := leAt b 3 1
  least (when (decide (leAt b 0 2 ≠ 0x4346)) 0 ++ when (decide (leAt b 2 1 ≠ 1)) 2 ++ when (decide (4 ≤ f)) 3 ++ when (decide (leAt b 18 2 ≠ 0)) 18 ++
    when (!inRange 1 32768 n) 4 ++ when (decide (c % 4 ≠ 0) || decide (c < 32 + n) || (scr && decide (4096 < c + 4 * leAt b 12 2))) 8 ++
    when (decide (4096 < leAt b 12 2)) 12 ++ when (!inRange 1 32 (leAt b 14 2)) 14 ++ when (decide (4096 < leAt b 16 2)) 16 ++
    when (decide (f % 2 = 0) && decide (leAt b 20 4 ≠ 0)) 20 ++ when (decide (f % 2 = 0) && decide (leAt b 24 8 ≠ 0)) 24)

/-- Bytes from the header to the end of the constants. -/
def progSize (b : List Byte) : Nat := leAt b 8 4 + 4 * leAt b 12 2

/-- What the check of the code carries: stack depth, frame depth, open nodes (stack depth, frame depth, offset), calls. -/
structure FChk where
  depth : Nat := 0
  fdepth : Nat := 0
  opened : List (Nat × Nat × Nat) := []
  calls : List Nat := []
  deriving DecidableEq, Repr

/-- Constants of an operation that are read as numbers: brick and part start with an address. -/
def numbered (x : FOp) (n : Nat) : List Nat := (List.range n).filterMap fun i => if (x.code = 0x40 ∨ x.code = 0x41) ∧ i < 2 then none else some (x.arg + i)

def chkOp (p : Prog) (c : FChk) (x : FOp) : Except Nat FChk :=
  match fopInfo x.code with
  | none => .error x.off
  | some (kind, n, pop, push) =>
    if kind = 1 ∧ p.nconst < x.arg + n then .error x.off
    else match (if kind = 1 then (numbered x n).find? (fun i => !isFinite32 (p.k i)) else none) with
      | some i => .error (p.constoff + 4 * i)
      | none =>
        let floor := (c.opened.head?.map (·.1)).getD 0
        if (kind = 2 ∧ p.nodes ≤ x.arg) ∨ c.depth < floor + pop ∨ p.stack + pop < c.depth + push then .error x.off
        else
          let d := { c with depth := c.depth + push - pop }
          match x.code with
          | 0x10 => if 8 ≤ c.fdepth then .error x.off else .ok { d with fdepth := c.fdepth + 1 }
          | 0x11 => if c.fdepth = 0 then .error x.off else .ok { d with fdepth := c.fdepth - 1 }
          | 0x12 => if c.opened.any (fun o => decide (c.fdepth ≤ o.2.1)) then .error x.off else .ok d
          | 0x51 => if 16 ≤ c.opened.length then .error x.off else .ok { d with opened := (c.depth, c.fdepth, x.off) :: c.opened }
          | 0x00 =>
            match c.opened with
            | [] => .error x.off
            | o :: l => if c.depth ≠ o.1 + 1 ∨ c.fdepth ≠ o.2.1 then .error x.off else .ok { d with opened := l }
          | 0x50 => if c.calls.contains x.arg ∨ 2 ≤ c.calls.length then .error x.off else .ok { d with calls := c.calls ++ [x.arg] }
          | _ => .ok d

/-- The offset that the first broken rule names. -/
def progBad (scr : Bool) (b : List Byte) : Option Nat :=
  match headerBad scr b with
  | some o => some o
  | none =>
    let p := progOf b
    match p.ops.foldlM (chkOp p) {} with
    | .error o => some o
    | .ok c =>
      match p.cut, c.opened with
      | some o, _ => some o
      | none, o :: _ => some o.2.2
      | none, [] =>
        if c.depth ≠ 1 then some ((p.ops.getLast?.map (·.off)).getD 32)
        else if nbit p.flags 1 != decide (c.calls ≠ []) then some 3
        else none

/-! ### Values (R333 to R337) -/

inductive FVal where
  | itv (x : Word64)
  | aff (c g e : Fx)
  deriving DecidableEq, Repr

def affWhole : FVal := .aff fxZero fxZero (.inf false)
def wholeIn (aff : Bool) : FVal := if aff then affWhole else .itv itvWhole

/-- The interval that bounds a value (R86). -/
def vBound : FVal → Word64
  | .itv x => x
  | .aff c g e => if fxIsInf e then itvWhole else itvPack (qSub (qSub c (fxAbs g)) e) (qAdd (qAdd c (fxAbs g)) e)

def itvLo (x : Word64) : Fx := f32 (x.toNat % 2 ^ 32)
def itvHi (x : Word64) : Fx := f32 (x.toNat / 2 ^ 32)

def rnFx (x : Fx) : Fx := f32 (rnBits x)
def ruFx (x : Fx) : Fx := f32 (fround fp32 .ru true 0 x).1
def rdFx (x : Fx) : Fx := f32 (fround fp32 .rd true 0 x).1

/-- R337. -/
def toAff (x : Word64) : FVal :=
  match itvOf x with
  | .set lo hi =>
    if finiteFx lo && finiteFx hi then
      let c := rnFx (qMul (qAdd lo hi) qHalf)
      .aff c fxZero (ruFx (fxMax (qSub hi c) (qSub c lo)))
    else affWhole
  | _ => affWhole

def ofItv (aff : Bool) (x : Word64) : FVal := if aff then toAff x else .itv x

/-- R335. -/
def around (cs gs es : Fx) : FVal :=
  let c := rnFx cs
  let g := rnFx gs
  if fxIsInf c || fxIsInf g then affWhole
  else
    let e := ruFx (qAdd (qAdd es (fxAbs (qSub c cs))) (fxAbs (qSub g gs)))
    if fxIsInf e then affWhole else .aff c g e

def isAff : FVal → Bool
  | .aff _ _ _ => true
  | .itv _ => false

/-- The interval rule, converted back in affine mode. -/
def byItv (f : Fx → Fx → Fx → Fx → Word64) (a b : FVal) : FVal :=
  ofItv (isAff a) (itvCases false (itvOf (vBound a)) (itvOf (vBound b)) f).1
def byItv1 (f : Fx → Fx → Word64) (a : FVal) : FVal := byItv (fun x y _ _ => f x y) a a

def constVal (aff : Bool) (code : Nat) : FVal :=
  if aff then .aff (f32 code) fxZero fxZero else .itv (itvPack (f32 code) (f32 code))

/-- An affine rule for two operands of which neither is the whole line. -/
def affOp (f : Fx → Fx → Fx → Fx → Fx → Fx → FVal) (g : Fx → Fx → Fx → Fx → Word64) (a b : FVal) : FVal :=
  match a, b with
  | .aff c1 g1 e1, .aff c2 g2 e2 => if fxIsInf e1 || fxIsInf e2 then affWhole else f c1 g1 e1 c2 g2 e2
  | _, _ => byItv g a b

def fAdd : FVal → FVal → FVal := affOp (fun c1 g1 e1 c2 g2 e2 => around (qAdd c1 c2) (qAdd g1 g2) (qAdd e1 e2)) itvAdd
def fSub : FVal → FVal → FVal := affOp (fun c1 g1 e1 c2 g2 e2 => around (qSub c1 c2) (qSub g1 g2) (qAdd e1 e2)) itvSub
def fMul : FVal → FVal → FVal :=
  affOp (fun c1 g1 e1 c2 g2 e2 =>
    around (qAdd (qMul c1 c2) (qMul (qMul g1 g2) qHalf)) (qAdd (qMul c1 g2) (qMul c2 g1))
      (qAdd (qMul (fxAbs (qMul g1 g2)) qHalf)
        (qAdd (qMul e1 (qAdd (fxAbs c2) (fxAbs g2))) (qAdd (qMul e2 (qAdd (fxAbs c1) (fxAbs g1))) (qMul e1 e2))))) itvMul
def fDiv : FVal → FVal → FVal := byItv itvDiv

def itvNeg (a b : Fx) : Word64 := itvPack (fxNeg b) (fxNeg a)
def fNeg (a : FVal) : FVal :=
  match a with
  | .aff c g e => if fxIsInf e then affWhole else .aff (fxNeg c) (fxNeg g) e
  | .itv _ => byItv1 itvNeg a

def fSqr (a : FVal) : FVal :=
  match a with
  | .aff c g e =>
    if fxIsInf e then affWhole
    else around (qAdd (qMul c c) (qMul (qMul g g) qHalf)) (qMul (qInt 2) (qMul c g))
      (qAdd (qMul (qMul g g) qHalf) (qAdd (qMul (qInt 2) (qMul e (qAdd (fxAbs c) (fxAbs g)))) (qMul e e)))
  | .itv _ => byItv1 itvSq a

/-- √x with 1,000 bits, odd in the last when inexact. -/
def sqrtFine (x : Fx) : Fx :=
  match x with
  | .fin false n d => let r := sqrtRatio (n * 2 ^ 800) (d * 2 ^ 800); .fin false r.1 r.2
  | y => fxSqrt y

/-- The chord constants α, L and U of the square root (R336). -/
def sqrtTerms (lo hi : Fx) : Fx × Fx × Fx :=
  let a := fxMax lo fxZero
  let al := rdFx (sqrtFine (qDiv (qInt 1) (qMul (qInt 4) hi)))
  (al, rdFx (qSub (sqrtFine a) (qMul al a)), ruFx (qSub (sqrtFine hi) (qMul al hi)))

def fSqrt (a : FVal) : FVal :=
  match a with
  | .aff c g e =>
    let hi := itvHi (vBound a)
    if fxIsInf e then affWhole
    else if fxLt fxZero hi && finiteFx hi then
      let t := sqrtTerms (itvLo (vBound a)) hi
      around (qAdd (qMul t.1 c) (qMul (qAdd t.2.1 t.2.2) qHalf)) (qMul t.1 g) (qAdd (qMul t.1 e) (qMul (qSub t.2.2 t.2.1) qHalf))
    else byItv1 itvSqrt a
  | .itv _ => byItv1 itvSqrt a

def fAbs (a : FVal) : FVal :=
  if isAff a then
    if fxLe fxZero (itvLo (vBound a)) then a
    else if fxLe (itvHi (vBound a)) fxZero then fNeg a
    else byItv1 itvAbs a
  else byItv1 itvAbs a

def fMin (a b : FVal) : FVal :=
  if isAff a then
    if fxLe (itvHi (vBound b)) (itvLo (vBound a)) then b
    else if fxLe (itvHi (vBound a)) (itvLo (vBound b)) then a
    else byItv itvMin a b
  else byItv itvMin a b

def fMax (a b : FVal) : FVal :=
  if isAff a then
    if fxLe (itvHi (vBound b)) (itvLo (vBound a)) then a
    else if fxLe (itvHi (vBound a)) (itvLo (vBound b)) then b
    else byItv itvMax a b
  else byItv itvMax a b

/-- smin of intervals with K > 0 (R334). -/
def itvSmin (K a1 a2 b1 b2 : Fx) : Word64 :=
  if fxLe (qAdd b2 K) a1 then itvPack b1 b2
  else if fxLe (qAdd a2 K) b1 then itvPack a1 a2
  else itvPack (qSub (fxMin a1 b1) (qMul K (.fin false 1 4))) (fxMin a2 b2)

/-- With K at or below 0 the value is min(a, b), in affine mode by the fallback of R336 (log entry 81). -/
def fSmin (K : Fx) (a b : FVal) : FVal :=
  if fxLe K fxZero then byItv itvMin a b
  else if isAff a then
    if fxLe (qAdd (itvHi (vBound b)) K) (itvLo (vBound a)) then b
    else if fxLe (qAdd (itvHi (vBound a)) K) (itvLo (vBound b)) then a
    else byItv (itvSmin K) a b
  else byItv (itvSmin K) a b

/-- The period of modr that a bound lies in. -/
def modrIdx (C x : Fx) : Int := qFloor (qAdd (qDiv x C) qHalf)

def itvModr (C lo hi : Fx) : Word64 :=
  if finiteFx lo && finiteFx hi && decide (modrIdx C lo = modrIdx C hi) then
    itvPack (qSub lo (qMul (qInt (modrIdx C lo)) C)) (qSub hi (qMul (qInt (modrIdx C lo)) C))
  else itvPack (fxNeg (qMul C qHalf)) (qMul C qHalf)

/-- With C at or below 0 the value is a, in affine mode by the fallback of R336 (log entry 81). -/
def fModr (C : Fx) (a : FVal) : FVal :=
  if fxLe C fxZero then byItv1 itvPack a
  else match a with
    | .aff c g e =>
      let lo := itvLo (vBound a)
      let hi := itvHi (vBound a)
      if fxIsInf e then affWhole
      else if finiteFx lo && finiteFx hi && decide (modrIdx C lo = modrIdx C hi) then around (qSub c (qMul (qInt (modrIdx C lo)) C)) g e
      else byItv1 (itvModr C) a
    | .itv _ => byItv1 (itvModr C) a

/-! ### sin and cos (R334) -/

/-- Some k·π/2 + 2πn lies in [lo, hi]. -/
def hitsPhase (k : Nat) (lo hi : Fx) : Bool :=
  let h := constAt piC 780 / 2
  let q := fun x => toFix 780 x - (k : Int) * h
  decide (-((-(q lo)) / (4 * h)) ≤ q hi / (4 * h))

/-- The value at one argument as lower and upper enclosure. -/
def trigAt (cos : Bool) (x : Fx) : Fx × Fx :=
  if fxIsZero x then (if cos then qInt 1 else fxZero, if cos then qInt 1 else fxZero)
  else let e := trigEnc 480 (b2 cos) x; (ofFix 480 (e.c - e.e), ofFix 480 (e.c + e.e))

def clip1 (x : Fx) : Fx := fxMax (qInt (-1)) (fxMin (qInt 1) x)

def itvTrig (cos : Bool) (lo hi : Fx) : Word64 :=
  if finiteFx lo && finiteFx hi then
    let a := trigAt cos lo
    let b := trigAt cos hi
    let top := if cos then 0 else 1
    let bot := if cos then 2 else 3
    itvPack (if hitsPhase bot lo hi then qInt (-1) else clip1 (fxMin a.1 b.1)) (if hitsPhase top lo hi then qInt 1 else clip1 (fxMax a.2 b.2))
  else itvPack (qInt (-1)) (qInt 1)

/-! ### lin and the shapes (R334, R336, R338) -/

/-- m · x with 0 · ±∞ = 0. -/
def sumOpt (l : List Fx) (d : Fx) : Option Fx := l.foldl (fun a x => a.bind fun y => fxAdd false y x) (some d)

def itvLin (l : List (Fx × Fx × Fx)) (d : Fx) : Word64 :=
  itvOpt (sumOpt (l.map fun x => fxMin (iMul x.1 x.2.1) (iMul x.1 x.2.2)) d) (sumOpt (l.map fun x => fxMax (iMul x.1 x.2.1) (iMul x.1 x.2.2)) d)

/-- lin of three values with constants m and d. -/
def fLin (v : List FVal) (m : List Fx) (d : Fx) : FVal :=
  let z := m.zip v
  if v.any isAff then
    let cs := z.map fun x => match x.2 with | .aff c g e => (x.1, c, g, e) | .itv _ => (x.1, fxZero, fxZero, .inf false)
    if cs.any fun x => fxIsInf x.2.2.2 then affWhole
    else around (fxSum (d :: cs.map fun x => qMul x.1 x.2.1)) (fxSum (cs.map fun x => qMul x.1 x.2.2.1)) (fxSum (cs.map fun x => qMul (fxAbs x.1) x.2.2.2))
  else
    let is := v.map fun x => itvOf (vBound x)
    if is.any (fun x => decide (x = .bad)) then .itv itvWhole
    else if is.any (fun x => decide (x = .empty)) then .itv itvEmpty
    else .itv (itvLin (z.map fun x => (x.1, itvLo (vBound x.2), itvHi (vBound x.2))) d)

def fLen2 (a b : FVal) : FVal := fSqrt (fAdd (fSqr a) (fSqr b))
def fLen3 (a b c : FVal) : FVal := fSqrt (fAdd (fAdd (fSqr a) (fSqr b)) (fSqr c))

/-- The trees of R338; `k` reads constants from the operand on. -/
def fShape (aff : Bool) (code : Nat) (k : Nat → Nat) (x y z : FVal) : FVal :=
  let c := fun i => constVal aff (k i)
  let q := fun i => f32 (k i)
  let zero := constVal aff 0
  match code with
  | 0x32 => fSub (fLen3 x y z) (c 0)
  | 0x33 =>
    let qx := fSub (fAbs x) (c 0)
    let qy := fSub (fAbs y) (c 1)
    let qz := fSub (fAbs z) (c 2)
    fAdd (fLen3 (fMax qx zero) (fMax qy zero) (fMax qz zero)) (fMin (fMax qx (fMax qy qz)) zero)
  | 0x34 => fSub (fLen2 (fSub (fLen2 x z) (c 0)) y) (c 1)
  | 0x35 => fLin [x, y, z] [q 0, q 1, q 2] (q 3)
  | _ =>
    let p := [fSub x (c 0), fSub y (c 1), fSub z (c 2)]
    let h := fMin (fMax (fMul (fLin p [q 3, q 4, q 5] fxZero) (c 7)) zero) (constVal aff 0x3F800000)
    let w := fun i => fSub (p.getD i zero) (fMul (c (3 + i)) h)
    fSub (fLen3 (w 0) (w 1) (w 2)) (c 6)

/-! ### Data nodes (R340, R341) -/

/-- The bound of a data node, its status bits, the pages it reads. -/
structure Sampled where
  val : Word64
  st : Nat := 0
  need : List Need := []
  deriving DecidableEq, Repr

/-- The cells of one axis: first and last. -/
def cellSpan (D : Nat) (lo hi : Fx) : Nat × Nat := ((cellOf lo (7 * D) (7 * D - 1)).1, (cellOf hi (7 * D) (7 * D - 1)).1)

def spanList (x : Nat × Nat) : List Nat := (List.range (x.2 + 1 - x.1)).map (x.1 + ·)

/-- All triples of the ranges. -/
def cross3 (a b c : List Nat) : List (List Nat) := (c.map fun z => (b.map fun y => a.map fun x => [x, y, z]).flatten).flatten

/-- Sample values of a cell given its brick's entry: the EMPTY value, or eight reads through the brick partition. -/
def cellSamples (o : Op) (s : State) (pool : Nat) (p : Brick) (n : Nat) (cell : List Nat) : List Fx × Nat × List Need :=
  if n = 0xFFFFFFFF then ([f32 p.empty], 0, [])
  else
    let b := cell.map (· / 7)
    let va := (p.bricks + 1024 * n) % 2 ^ 64
    let read := fun a => match opBrick o s pool b va with
      | some x => heldBytes s ((List.range 2).map fun i => x.key + (a + 2 ^ 64 - va) % 2 ^ 64 + i)
      | none => engRead o a 2 s
    let r := (corners 3).map fun c => read (brickSample p n (cell.map (· % 7)) c % 2 ^ 64)
    (r.map fun x => fdec fp16 (ofBytes x.bytes), r.foldl (fun m x => Nat.lor m x.st) 0, (r.map (·.need)).flatten ++ [.brick pool b va])

/-- The bound of a brick node. Where an axis covers no cell, as with a negative inverse cell size, the rule states no bound: a free value
(log entry 17). -/
def brickNode (o : Op) (s : State) (rec_ : List Byte) (k : Nat → Nat) (fr : List Word64) : Sampled :=
  let p := brickOf rec_
  let pool := k 0 + 2 ^ 32 * k 1
  let is := fr.map itvOf
  if is.any (fun x => decide (x = .bad)) then { val := itvWhole }
  else if is.any (fun x => decide (x = .empty)) then { val := itvEmpty }
  else
    let inv := f32 (k 5)
    let unit := fun (m : Rm) (a : Nat) (x : Fx) => (fxMul (qSub x (f32 (k (2 + a)))) inv).map fun y => f32 (fround fp32 m true 0 y).1
    let ws := (List.range 3).map fun a => (unit .rd a (itvLo (fr.getD a 0#64)), unit .ru a (itvHi (fr.getD a 0#64)))
    if ws.any (fun w => w.1.isNone || w.2.isNone) then { val := itvWhole }
    else
      let w := ws.map fun w => (w.1.getD fxZero, w.2.getD fxZero)
      let sp := fun a => cellSpan (p.ext.getD a 1) (w.getD a (fxZero, fxZero)).1 (w.getD a (fxZero, fxZero)).2
      if (List.range 3).any (fun a => decide ((sp a).2 < (sp a).1)) then { val := Config.unstated 0 ((w.map fun x => [(fround fp32 .rn true 0 x.1).1, (fround fp32 .rn true 0 x.2).1]).flatten) }
      else
        let cnt := fun a => (sp a).2 + 1 - (sp a).1
        if 64 < cnt 0 * cnt 1 * cnt 2 then { val := itvWhole }
        else
          let cells := cross3 (spanList (sp 0)) (spanList (sp 1)) (spanList (sp 2))
          let idx := cells.map fun c => engRead o (brickEntry p (c.map (· / 7)) % 2 ^ 64) 4 s
          let n1 := (idx.map (·.need)).flatten
          let st1 := idx.foldl (fun m x => Nat.lor m x.st) 0
          if st1 ≠ 0 ∨ !(waitingPages o n1 s).isEmpty then { val := itvWhole, st := st1, need := n1 }
          else
            let r := (cells.zip idx).map fun c => cellSamples o s pool p (ofBytes c.2.bytes) c.1
            let st := r.foldl (fun m x => Nat.lor m x.2.1) 0
            let need := n1 ++ (r.map (·.2.2)).flatten
            let v := (r.map (·.1)).flatten
            if st ≠ 0 then { val := itvWhole, st := st, need := need }
            else if v.all finiteFx then
              match v with
              | x :: l => { val := itvPack (l.foldl fxMin x) (l.foldl fxMax x), need := need }
              | [] => { val := itvWhole, need := need }
            else { val := itvWhole, st := stNAN, need := need }

/-- The cell indices of an axis that hold positions from lo to hi, periodic flags ignored (R341, R366). -/
def partSpan (g : Grid) (a : Nat) (lo hi : Fx) : Nat × Nat :=
  let at_ := fun x : Fx => match x with
    | .inf n => if n then 0 else g.d a - 1
    | y => (max 0 (min (qFloor (qDiv (qSub y (g.o a)) g.cell)) ((g.d a : Int) - 1))).toNat
  (at_ lo, at_ hi)

/-- Squared distances from a particle to the nearest point and to the farthest corner of the box. -/
def boxDist (fr : List Word64) (x : List Fx) : Fx × Fx :=
  (List.range 3).foldl (fun acc a =>
    let lo := itvLo (fr.getD a 0#64)
    let hi := itvHi (fr.getD a 0#64)
    let p := x.getD a fxZero
    let gap := fun u v => fxAbs ((fxAdd false u (fxNeg v)).getD (.inf false))
    let near := if fxLt p lo then gap lo p else if fxLt hi p then gap p hi else fxZero
    let far := fxMax (gap p lo) (gap hi p)
    (qAdd acc.1 (qMul near near), qAdd acc.2 (qMul far far))) (fxZero, fxZero)

/-- (1 − q)³ for q = d²/ρ² below 1. -/
def blobW (r2 d2 : Fx) : Fx :=
  if fxLt d2 r2 then let t := qDiv (qSub r2 d2) r2; qMul t (qMul t t) else fxZero

def partNode (o : Op) (s : State) (addr : Nat) (rec_ : List Byte) (k : Nat → Nat) (fr : List Word64) : Sampled :=
  let g := gridOf addr rec_
  let rho := f32 (k 2)
  let is := fr.map itvOf
  if is.any (fun x => decide (x = .bad)) || fxLe rho fxZero || nbit g.state 1 then { val := itvWhole }
  else if is.any (fun x => decide (x = .empty)) then { val := itvEmpty }
  else
    let sp := fun a => partSpan g a (qSub (itvLo (fr.getD a 0#64)) rho) (qAdd (itvHi (fr.getD a 0#64)) rho)
    let cnt := fun a => (sp a).2 + 1 - (sp a).1
    if 64 < cnt 0 * cnt 1 * cnt 2 then { val := itvWhole }
    else
      let cells := (cross3 (spanList (sp 0)) (spanList (sp 1)) (spanList (sp 2))).map (cellNo g)
      let a := gather (readCell o s g) cells
      let b := gather (readSpill o s g) (List.range (min g.nspill g.spillcap))
      let st1 := Nat.lor a.st b.st
      let n1 := a.need ++ b.need
      let listed := (a.val ++ b.val.filter fun x => cells.contains x.1).filter fun x => decide (x.2.1 < g.npart)
      if st1 ≠ 0 ∨ 256 < listed.length ∨ !(waitingPages o n1 s).isEmpty then { val := itvWhole, st := st1, need := n1 }
      else
        let ps := listed.map fun x => readPos o s g.pos x.2.1
        let st := ps.foldl (fun m x => Nat.lor m x.st) 0
        let need := n1 ++ (ps.map (·.need)).flatten
        let xs := ps.map fun x => x.val.1.map f32
        if st ≠ 0 ∨ xs.any (fun x => x.any fxIsNan) then { val := itvWhole, st := st, need := need }
        else
          let d := xs.map (boxDist fr)
          let r2 := qMul rho rho
          let T := f32 (k 3)
          { val := itvPack (qSub T (fxSum (d.map fun x => blobW r2 x.1))) (qSub T (fxSum (d.map fun x => blobW r2 x.2))), need := need }

/-! ### One evaluation (R331, R333, R339, R342) -/

def noTag : Nat := 0xFFFFFFFF

/-- An evaluation in progress. -/
structure Ev where
  stack : List (FVal × Nat) := []
  frame : List FVal
  fst : List (List FVal) := []
  nodes : List (Nat × Nat) := []
  /-- records of the data nodes still to come, in code order -/
  recs : List (List Byte)
  st : Nat := 0
  need : List Need := []
  /-- the unresolved call that stopped it -/
  call : Option Nat := none
  /-- a page it needs is ABSENT -/
  wait : Bool := false
  /-- bounds of the nodes closed so far, by the offset of their node operation -/
  bounds : List (Nat × Word64) := []
  deriving DecidableEq, Repr

def Ev.push (v : FVal) (t : Nat) (e : Ev) : Ev := { e with stack := (v, t) :: e.stack }

/-- What an evaluation is made with: the mode, whether calls push the whole line (fprep), and the bounds resolved. -/
structure EvIn where
  op : Op
  aff : Bool
  prep : Bool
  resolved : List (Nat × Word64)
  prog : Prog

def isNanItv (x : Word64) : Bool := match itvOf x with | .bad => true | _ => false

/-- Replaces the top entry's value and keeps its tag. -/
def unary (f : FVal → FVal) (e : Ev) : Ev :=
  match e.stack with
  | (a, t) :: l => { e with stack := (f a, t) :: l }
  | [] => e

/-- Two operands, the first of them below. -/
def binary (f : FVal → FVal → FVal) (tag : (FVal × Nat) → (FVal × Nat) → Nat) (e : Ev) : Ev :=
  match e.stack with
  | b :: a :: l => { e with stack := (f a.1 b.1, tag a b) :: l }
  | _ => e

def tagA (a _b : FVal × Nat) : Nat := a.2
def tagLow (a b : FVal × Nat) : Nat := if fxLt (itvLo (vBound b.1)) (itvLo (vBound a.1)) then b.2 else a.2
def tagHigh (a b : FVal × Nat) : Nat := if fxLt (itvHi (vBound a.1)) (itvHi (vBound b.1)) then b.2 else a.2

def pushSampled (i : EvIn) (s : State) (r : Sampled) (e : Ev) : Ev :=
  { (e.push (ofItv i.aff r.val) noTag) with
    recs := e.recs.drop 1, st := Nat.lor e.st r.st, need := e.need ++ r.need, wait := !(waitingPages i.op r.need s).isEmpty }

def callNode (i : EvIn) (id : Nat) (e : Ev) : Ev :=
  if i.prep then e.push (wholeIn i.aff) noTag
  else match i.resolved.find? fun r => decide (r.1 = id) with
    | none => { e with call := some id }
    | some (_, x) =>
      if isNanItv x then { (e.push (wholeIn i.aff) id) with st := Nat.lor e.st stNAN } else e.push (ofItv i.aff x) id

def evOp (i : EvIn) (s : State) (e : Ev) (x : FOp) : Ev :=
  if e.call.isSome || e.wait then e
  else
    let k := fun j => i.prog.k (x.arg + j)
    let fr := e.frame
    let f := fun j => fr.getD j (wholeIn i.aff)
    match x.code with
    | 0x00 =>
      match e.nodes, e.stack with
      | (id, off) :: ns, (v, _) :: l => { e with nodes := ns, stack := (v, id) :: l, bounds := e.bounds ++ [(off, vBound v)] }
      | _, _ => e
    | 0x51 => { e with nodes := (x.arg, x.off) :: e.nodes }
    | 0x01 => e.push (constVal i.aff (k 0)) noTag
    | 0x02 => e.push (f 0) noTag
    | 0x03 => e.push (f 1) noTag
    | 0x04 => e.push (f 2) noTag
    | 0x05 => match e.stack with | a :: l => { e with stack := a :: a :: l } | _ => e
    | 0x06 => match e.stack with | b :: a :: l => { e with stack := a :: b :: l } | _ => e
    | 0x07 => { e with stack := e.stack.drop 1 }
    | 0x08 => match e.stack with | b :: a :: l => { e with stack := a :: b :: a :: l } | _ => e
    | 0x10 => { e with fst := fr :: e.fst }
    | 0x11 => match e.fst with | p :: l => { e with frame := p, fst := l } | [] => e
    | 0x12 => { e with frame := (List.range 3).map fun j => fLin fr [f32 (k (4 * j)), f32 (k (4 * j + 1)), f32 (k (4 * j + 2))] (f32 (k (4 * j + 3))) }
    | 0x20 => binary fAdd tagA e
    | 0x21 => binary fSub tagA e
    | 0x22 => binary fMul tagA e
    | 0x23 => binary fDiv tagA e
    | 0x24 => unary fNeg e
    | 0x25 => unary fAbs e
    | 0x26 => unary fSqr e
    | 0x27 => unary fSqrt e
    | 0x28 => binary fMin tagLow e
    | 0x29 => binary fMax tagHigh e
    | 0x2A => binary (fSmin (f32 (k 0))) tagLow e
    | 0x2B => unary (fun a => fMin (fMax a (constVal i.aff (k 0))) (constVal i.aff (k 1))) e
    | 0x2C => unary (byItv1 (itvTrig false)) e
    | 0x2D => unary (byItv1 (itvTrig true)) e
    | 0x2E => unary (fModr (f32 (k 0))) e
    | 0x30 => binary fLen2 tagA e
    | 0x31 => match e.stack with | c :: b :: a :: l => { e with stack := (fLen3 a.1 b.1 c.1, a.2) :: l } | _ => e
    | 0x40 => pushSampled i s (brickNode i.op s (e.recs.headD []) k (fr.map vBound)) e
    | 0x41 => pushSampled i s (partNode i.op s (k 0 + 2 ^ 32 * k 1) (e.recs.headD []) k (fr.map vBound)) e
    | 0x50 => callNode i x.arg e
    | c => e.push (fShape i.aff c k (f 0) (f 1) (f 2)) noTag

/-- Runs the code over a frame point. -/
def evaluate (i : EvIn) (recs : List (List Byte)) (frame : List FVal) (s : State) : Ev :=
  i.prog.ops.foldl (evOp i s) { frame := frame, recs := recs }

/-- The bound that remains; an empty interval counts as the whole line (R343). -/
def Ev.result (e : Ev) : Word64 × Nat :=
  match e.stack with
  | (v, t) :: _ => (match itvOf (vBound v) with | .set _ _ => vBound v | _ => itvWhole, t)
  | [] => (itvWhole, noTag)

/-- The ray over [t0, t1] (R339). -/
def rayFrame (aff : Bool) (o d : List Nat) (t0 t1 : Nat) : List FVal :=
  (List.range 3).map fun a =>
    let p := f32 (o.getD a 0)
    let v := f32 (d.getD a 0)
    let x := f32 t0
    let y := f32 t1
    if aff then
      if finiteFx x && finiteFx y then around (qAdd p (qMul v (qMul (qAdd x y) qHalf))) (qMul v (qMul (qSub y x) qHalf)) fxZero else affWhole
    else
      match fxAdd false p (iMul v x), fxAdd false p (iMul v y) with
      | some m, some n => .itv (itvPack (fxMin m n) (fxMax m n))
      | _, _ => .itv itvWhole

end Sys2Proof.Machine
end

