-- ==== Sys2Proof/Machine/Press.lean ====
section
/-! DEFINITION. Reading and capturing field-code programs, and the tile pre-pass fprep (12 R350, R356 to R361). -/
namespace Sys2Proof.Machine

/-! ### Reading a program at issue (R101, R350 steps 6 and 7) -/

def shapeErr (addr : Nat) (b : Option Nat) : Res Unit :=
  match b with
  | some o => .error (shapeTrap addr o)
  | none => .ok ()

/-- Window bytes read by the issuing skein itself. -/
def winRead (off n : Nat) (s : State) : Res (List Byte × State) := do
  chkWin (winSize s.crew) off n
  match winBadAt s.crew off n with
  | some x => .error (trapAt 17 1 0xFF x)
  | none => .ok (winBytes s.crew off n, correctScr [(0xFF, off, n)] s)

/-- Global bytes of a program: an ABSENT page raises 0x07, cause 0x04 (R14, R46). -/
def progLoad (va n : Nat) (s : State) : Res (List Byte × State) := do
  let (_, s1) ← resolve .read false (some 4) n [(0xFF, va)] s
  loadOne n va s1

def readProg (scr : Bool) (addr : Nat) (s : State) : Res (List Byte × State) := do
  if addr % 16 ≠ 0 then .error (shapeTrap addr 0)
  else if scr then
    let (h, s1) ← winRead addr 32 s
    shapeErr addr (headerBad true h)
    let (b, s2) ← winRead addr (progSize h) s1
    shapeErr addr (progBad true b)
    pure (b, s2)
  else
    let (h, s1) ← progLoad addr 32 s
    shapeErr addr (headerBad false h)
    let (b, s2) ← progLoad addr (progSize h) s1
    shapeErr addr (progBad false b)
    pure (b, s2)

/-- The records that the data nodes name, in code order. -/
def readNodes (p : Prog) : List FOp → State → Res (List (List Byte) × State)
  | [], s => .ok ([], s)
  | x :: l, s => do
    let addr := p.k x.arg + 2 ^ 32 * p.k (x.arg + 1)
    if x.code = 0x40 then
      let (r, s1) ← fetchRecord 32 32 brickBad addr s
      let (rs, s2) ← readNodes p l s1
      pure (r :: rs, s2)
    else if x.code = 0x41 then
      let (r, s1) ← fetchGrid addr none true s
      let (rs, s2) ← readNodes p l s1
      pure (r :: rs, s2)
    else readNodes p l s

/-- A program and its records, captured. -/
def capture (scr : Bool) (addr : Nat) (s : State) : Res (List (List Byte) × State) := do
  let (b, s1) ← readProg scr addr s
  let p := progOf b
  let (rs, s2) ← readNodes p p.ops s1
  pure (b :: rs, s2)

/-! ### fprep (R356 to R358) -/

def tileBad (b : List Byte) : Bool :=
  let x := fun i => f32 (leAt b (4 * i) 4)
  (List.range 7).any (fun i => fxIsNan (x i)) || fxLt (x 1) (x 0) || fxLt (x 3) (x 2) || fxLt (x 5) (x 4) || fxLt (x 6) fxZero

def execFprep (d g q o : Nat) (s : State) : Out :=
  issue (engineReq [g, q]) s fun s => do
    let p := (rdG s.k q).toNat
    let cap := nb p 47 32
    let dst := (rdG s.k d).toNat
    let tile := (rdG s.k (g + 1)).toNat
    if nb p 63 48 ≠ 0 ∨ nb p 31 0 ≠ 0 ∨ !inRange 3 256 cap ∨ dst % 16 ≠ 0 ∨ tile % 16 ≠ 0 then .error (illOp 14)
    else
      chkWin (winSize s.crew) dst (16 * cap)
      let (t, s0) ← winRead tile 32 s
      if tileBad t then .error (illOp 14)
      else
        let (obj, s1) ← engObj true (decide (o = 1)) (rdG s.k (q + 1)) s0
        let (r, s2) ← capture false (rdG s.k g).toNat s1
        startOp { newOp .fprep obj s2 with args := [w64 dst, rdG s.k g, w64 (16 * cap)], recs := t :: r, count := 16 * cap } s2

/-! ### What is dropped (R359) -/

/-- The nodes of a code: places of node and end in the list of operations, offset of the node. -/
def nodeSpans : List FOp → Nat → List (Nat × Nat) → List (Nat × Nat × Nat)
  | [], _, _ => []
  | x :: l, i, st =>
    if x.code = 0x51 then nodeSpans l (i + 1) ((i, x.off) :: st)
    else if x.code = 0 then
      match st with
      | (j, off) :: st' => (j, i, off) :: nodeSpans l (i + 1) st'
      | [] => nodeSpans l (i + 1) []
    else nodeSpans l (i + 1) st

/-- Whether min, max or smin drops its first operand, its second or none. -/
def drops (code : Nat) (K : Fx) (a b : Word64) : Option Bool :=
  let pick := fun (x y : Bool) => if x then some true else if y then some false else none
  let lo := itvLo
  let hi := itvHi
  if code = 0x29 then pick (fxLe (hi a) (lo b)) (fxLe (hi b) (lo a))
  else
    let k := if code = 0x2A && fxLt fxZero K then K else fxZero
    pick (fxLe (qAdd (hi b) k) (lo a)) (fxLe (qAdd (hi a) k) (lo b))

/-- The node that the operation at place `i` drops: both operands are nodes written one after the other just before it. -/
def droppedBy (p : Prog) (spans : List (Nat × Nat × Nat)) (bounds : List (Nat × Word64)) (x : FOp) (i : Nat) : Option Nat :=
  if x.code = 0x28 ∨ x.code = 0x29 ∨ x.code = 0x2A then
    match spans.find? fun n => decide (n.2.1 + 1 = i) with
    | none => none
    | some nb =>
      match spans.find? fun n => decide (n.2.1 + 1 = nb.1) with
      | none => none
      | some na =>
        let bd := fun (off : Nat) => ((bounds.find? fun y => decide (y.1 = off)).map (·.2)).getD itvWhole
        match drops x.code (f32 (p.k x.arg)) (bd na.2.2) (bd nb.2.2) with
        | some true => some na.1
        | some false => some nb.1
        | none => none
  else none

/-- A retained operation, or the constant of a far node. -/
inductive Kept where
  | op (x : FOp)
  | far (lo : Nat)
  deriving DecidableEq, Repr

/-- What a node becomes at its first place: removed or replaced up to its end. -/
structure Cut where
  first : Nat
  last : Nat
  far : Option Nat
  deriving DecidableEq, Repr

/-- The code with its cuts made; `skip` is the place up to which operations are inside a cut range. -/
def cutCode (cuts : List Cut) (ops : List Nat) : List FOp → Nat → Nat → List Kept
  | [], _, _ => []
  | x :: l, i, skip =>
    if i < skip then cutCode cuts ops l (i + 1) skip
    else match cuts.find? fun c => decide (c.first = i) with
      | some c => (match c.far with | some v => [Kept.far v] | none => []) ++ cutCode cuts ops l (i + 1) (c.last + 1)
      | none => (if ops.contains i then [] else [Kept.op x]) ++ cutCode cuts ops l (i + 1) skip

/-- Decisions of one evaluation: cuts, dropping first, and the operations removed with a dropped operand. -/
def decide359 (p : Prog) (bounds : List (Nat × Word64)) (far : Fx) : List Cut × List Nat :=
  let spans := nodeSpans p.ops 0 []
  let dr := p.ops.zipIdx.filterMap fun x => (droppedBy p spans bounds x.1 x.2).map fun j => (j, x.2)
  let gone := spans.filterMap fun n => if dr.any (fun d => decide (d.1 = n.1)) then some { first := n.1, last := n.2.1, far := none : Cut } else none
  let fars := spans.filterMap fun n =>
    let lo := ((bounds.find? fun y => decide (y.1 = n.2.2)).map (·.2)).getD itvWhole
    if finiteFx (itvLo lo) && fxLt far (itvLo lo) then some { first := n.1, last := n.2.1, far := some (lo.toNat % 2 ^ 32) : Cut } else none
  (gone ++ fars, dr.map (·.2))

/-! ### The pressed program (R360) -/

def constRange (x : FOp) : List Nat :=
  match fopInfo x.code with
  | some (1, n, _, _) => (List.range n).map (x.arg + ·)
  | _ => []

/-- Constants kept, ascending; values of far nodes, in code order. -/
def keptConsts (p : Prog) (l : List Kept) : List Nat :=
  let used := (l.map fun x => match x with | .op y => constRange y | .far _ => []).flatten
  (List.range p.nconst).filter fun i => used.contains i
def farConsts (l : List Kept) : List Nat := l.filterMap fun x => match x with | .far v => some v | .op _ => none

/-- The code bytes; `next` numbers the new constants. -/
def emitCode (keep : List Nat) : List Kept → Nat → List Byte
  | [], _ => []
  | .far _ :: l, next => (1#8 :: toBytes 2 next) ++ emitCode keep l (next + 1)
  | .op x :: l, next =>
    (match fopInfo x.code with
     | some (0, _) => [BitVec.ofNat 8 x.code]
     | some (1, _) => BitVec.ofNat 8 x.code :: toBytes 2 (keep.findIdx fun i => decide (i = x.arg))
     | _ => BitVec.ofNat 8 x.code :: toBytes 2 x.arg) ++ emitCode keep l next

def pressHeader (flags n coff nconst : Nat) (p : Prog) (tile source : Nat) : List Byte :=
  toBytes 2 0x4346 ++ [1#8, BitVec.ofNat 8 flags] ++ toBytes 4 n ++ toBytes 4 coff ++ toBytes 2 nconst ++ toBytes 2 p.stack ++
  toBytes 2 p.nodes ++ toBytes 2 0 ++ toBytes 4 tile ++ toBytes 8 source

/-- The pressed program, or its header alone when it exceeds `cap` bytes. -/
def press (p : Prog) (bounds : List (Nat × Word64)) (far : Fx) (tile source cap : Nat) : List Byte :=
  let d := decide359 p bounds far
  let l := cutCode d.1 d.2 p.ops 0 0
  let keep := keptConsts p l
  let new := farConsts l
  let code := emitCode keep l keep.length
  let flags := 1 + 2 * b2 (l.any fun x => match x with | .op y => decide (y.code = 0x50) | .far _ => false)
  let n := code.length
  let coff := 32 + (n + 3) / 4 * 4
  let nconst := keep.length + new.length
  if cap < coff + 4 * nconst then pressHeader flags 0 0 0 p tile source
  else pressHeader flags n coff nconst p tile source ++ padTo (coff - 32) code ++ ((keep.map p.k ++ new).map (toBytes 4)).flatten

/-- fprep after issue: one evaluation over the box, then the pressed program (R359, R361). -/
def fprepPlan (o : Op) (s : State) : Plan :=
  let tile := o.recs.headD []
  let p := progOf (o.recs.getD 1 [])
  let box := (List.range 3).map fun a => FVal.itv (w64 (leAt tile (8 * a) 8))
  let e := evaluate { op := o, aff := false, prep := true, resolved := [], prog := p } (o.recs.drop 2) box s
  let b := press p e.bounds (f32 (leAt tile 24 4)) (leAt tile 28 4) (o.args.getD 1 0#64).toNat (o.args.getD 2 0#64).toNat
  { writes := [{ scr := some o.cuid, addr := (o.args.getD 0 0#64).toNat, bytes := b, keep := true }], st := e.st, need := e.need }

end Sys2Proof.Machine
end

