-- ==== Sys2Proof/Machine/March.lean ====
section
/-! DEFINITION. march, march.iv and mresume: issue, stepping, results and continuation records (12 R343 to R355). -/
namespace Sys2Proof.Machine

/-! ### Stepping (R343) -/

/-- Next FP32 above. -/
def nextUp (x : Nat) : Nat :=
  if x % 2 ^ 31 = 0 then 1 else if x < 2 ^ 31 then (if x = 0x7F800000 then x else x + 1) else x - 1

def min32 (a b : Nat) : Nat := if fxLt (f32 b) (f32 a) then b else a
def max32 (a b : Nat) : Nat := if fxLt (f32 a) (f32 b) then b else a

/-- What a lane marches with: the twelve inputs of R348 (FP32 codes and the budget) and HMAX. -/
structure MarchIn where
  inp : List Nat
  hmax : Nat
  deriving DecidableEq, Repr

def MarchIn.i (m : MarchIn) (j : Nat) : Nat := m.inp.getD j 0
def MarchIn.x (m : MarchIn) (j : Nat) : Fx := f32 (m.i j)

/-- The state of a lane between evaluations (R352): 0 MARCH, 1 LEFT, 2 RIGHT; `t1` the end of a segment to run again. -/
structure MarchSt where
  st : Nat := 0
  t : Nat := 0
  h : Nat := 0
  a : Nat := 0
  b : Nat := 0
  tag : Nat := 0
  n : Nat := 0
  t1 : Option Nat := none
  resolved : List (Nat × Word64) := []
  status : Nat := 0
  /-- what its evaluations have read -/
  need : List Need := []
  deriving DecidableEq, Repr

/-- A lane's end: results +12 to +14, and for a call the segment's state and frame point. -/
structure LaneEnd where
  thit : Nat
  status : Nat
  node : Nat
  seg : Nat × Nat := (0, 0)
  frame : List Word64 := []
  deriving DecidableEq, Repr

inductive MarchOut where
  | more (m : MarchSt)
  | ended (m : MarchSt) (e : LaneEnd)
  | waits (need : List Need)
  deriving DecidableEq, Repr

def missed (m : MarchSt) : MarchOut := .ended m { thit := 0x7F800000, status := 1, node := noTag }
def spent (m : MarchSt) (t : Nat) : MarchOut := .ended m { thit := t, status := 2, node := noTag }
def hit (m : MarchSt) : MarchOut := .ended m { thit := m.a, status := 0, node := m.tag }

/-- One evaluation over [t0, t1], then `f` with its bound and tag. -/
def evalSeg (ev : List (Nat × Word64) → Nat → Nat → Ev) (wait : List Need → Bool) (m : MarchSt) (t0 t1 : Nat)
    (f : MarchSt → Fx → Nat → MarchSt) : MarchOut :=
  let e := ev m.resolved t0 t1
  if wait e.need then .waits e.need
  else
    let m1 := { m with status := Nat.lor m.status e.st, t1 := none, need := m.need ++ e.need.filter fun n => !m.need.contains n }
    match e.call with
    | some id => .ended m1 { thit := t0, status := 3, node := id, seg := (t0, t1), frame := e.frame.map vBound }
    | none => .more (f { m1 with n := m1.n + 1, resolved := [] } (itvLo e.result.1) e.result.2)

/-- The end of the segment that a lane in MARCH evaluates next (R343): t1 as saved, else t + h held to tmax, one value above t at least. -/
def segEnd (c : MarchIn) (m : MarchSt) : Nat :=
  let r := min32 (rnBits (qAdd (f32 m.t) (f32 m.h))) (c.i 7)
  m.t1.getD (if fxLe (f32 r) (f32 m.t) then min32 (nextUp m.t) (c.i 7) else r)

/-- The procedure of R343 from one evaluation to the next. -/
def marchStep (ev : List (Nat × Word64) → Nat → Nat → Ev) (wait : List Need → Bool) (c : MarchIn) (m : MarchSt) : MarchOut :=
  let tol := c.x 10
  let hmin := c.i 9
  match m.st with
  | 0 =>
    if fxLe (c.x 7) (f32 m.t) then missed m
    else if m.n = c.i 11 then spent m m.t
    else
      let t1 := segEnd c m
      evalSeg ev wait m m.t t1 fun m lo tag =>
        if fxLt tol lo then { m with t := t1, h := min32 (rnBits (qMul (qInt 2) (f32 m.h))) c.hmax }
        else if fxLt (f32 hmin) (f32 m.h) then { m with h := max32 (rnBits (qMul (f32 m.h) qHalf)) hmin }
        else { m with st := 1, a := m.t, b := t1, tag := tag }
  | 1 =>
    let mid := rnBits (qMul (qAdd (f32 m.a) (f32 m.b)) qHalf)
    if fxLe (qSub (f32 m.b) (f32 m.a)) tol || fxLe (f32 mid) (f32 m.a) || fxLe (f32 m.b) (f32 mid) then hit m
    else if m.n = c.i 11 then spent m m.a
    else evalSeg ev wait m m.a mid fun m lo tag => if fxLe lo tol then { m with b := mid, tag := tag } else { m with st := 2 }
  | _ =>
    let mid := rnBits (qMul (qAdd (f32 m.a) (f32 m.b)) qHalf)
    if m.n = c.i 11 then spent m mid
    else evalSeg ev wait m mid m.b fun m lo tag =>
      if fxLe lo tol then { m with st := 1, a := mid, tag := tag } else { m with st := 0, t := m.b, h := hmin }

/-- Steps until the lane ends or needs a page; `fuel` bounds the evaluations left by the budget. -/
def marchRun (ev : List (Nat × Word64) → Nat → Nat → Ev) (wait : List Need → Bool) (c : MarchIn) : Nat → MarchSt → MarchOut
  | 0, m => spent m m.t
  | k + 1, m =>
    match marchStep ev wait c m with
    | .more m1 => marchRun ev wait c k m1
    | r => r

/-- The tests before the first step. -/
def marchStart (c : MarchIn) : Except LaneEnd MarchSt :=
  let ps := (List.range 11).map c.x
  let miss : LaneEnd := { thit := 0x7F800000, status := 1, node := noTag }
  let fin := fun j => finiteFx (c.x j)
  if ps.any fxIsNan then .error miss
  else if !((List.range 7).all fin && fin 8 && fin 9 && fin 10) || fxLe (c.x 8) fxZero || fxLe (c.x 9) fxZero || fxLt (c.x 10) fxZero then .error miss
  else .ok { t := c.i 6, h := min32 (c.i 8) c.hmax }

/-! ### Issue (R347 to R350, R355) -/

/-- A non-zero continuation entry needs a basket role of sixteen registers (R350 step 4). -/
def contBad (e : Word64) (s : State) : Bool := decide (e ≠ 0#64) && (!hasBaskets s.crew || decide ((basketRole s.crew).regs < 16))

def paramBad (resume : Bool) (p : Nat) (e : Word64) : Bool :=
  decide (nb p 31 11 ≠ 0) || decide (nb p 7 1 ≠ 0) || !isFinite32 (nb p 63 32) || fxLe (f32 (nb p 63 32)) fxZero || decide (e.toNat % 4 ≠ 0) ||
    (resume && nbit p 0)

/-- The lanes marched. -/
def marchLanes (p : Nat) (k : Skein) : Word32 := k.e.mask &&& rdP k (nb p 10 8)

/-- Captured words of the lanes: key 32·j + L. -/
def captured (lanes : Word32) (n : Nat) (f : Nat → Nat → Word32) : SMap Word32 :=
  (List.range n).foldl (fun m j => (lanesOf lanes).foldl (fun m L => mset 0#32 m (32 * j + L) (f j L)) m) []

def marchReq (k p q : Nat) : Req := { blocks := [(2 * k, 16)], even := [p, q], noMeld := true, full := true }

/-- march reads no instance record (log entry 105). -/
def march (iv : Bool) (k p q o : Nat) (s : State) : Out :=
  issue (marchReq k p q) s fun s => do
    let w := (rdG s.k q).toNat
    let cont := rdG s.k (p + 1)
    if paramBad false w cont then .error (illOp 14)
    else if contBad cont s then .error (illOp 5)
    else
      let (obj, s1) ← engObj true (decide (o = 1)) (rdG s.k (q + 1)) s
      let (r, s2) ← capture (nbit w 0) (rdG s.k p).toNat s1
      let lanes := marchLanes w s2.k
      startOp { newOp (.march iv) obj s2 with
        args := [w64 w, cont, w64 (2 * k), rdG s2.k p], recs := r, lanes := lanes, count := 16 * laneCount lanes,
        lane := captured lanes 12 fun j L => getV s2.k.v (2 * k + j) L } s2

def execMarch (k p q o : Nat) (s : State) : Out := march false k p q o s
def execMarchIv (k p q o : Nat) (s : State) : Out := march true k p q o s

/-- The launching record of a lane, when it is of KIND 3 and still held. -/
def kind3Of (s : State) (L : Nat) : Option SpawnRec :=
  match s.k.laneRecs.find? fun x => decide (x.1 = L) with
  | none => none
  | some x => s.crew.recs.find? fun r => decide (r.idx = x.2) && decide (r.kind = 3)

/-- Word j of a record: CARRY 0 to 15, then EXTRA (R352). -/
def recWord (r : SpawnRec) (j : Nat) : Word32 := if j < 16 then r.carry.getD j 0#32 else w32 (leAt r.extra (4 * (j - 16)) 4)

/-- The programs of several records in lane order; where each starts in the list of captured records. -/
def captureAll : List SpawnRec → State → Res (List (List Byte) × List Nat × State)
  | [], s => .ok ([], [], s)
  | r :: l, s => do
    let (b, s1) ← capture (nbit (recWord r 14).toNat 9) (leAt r.extra 4 8) s
    let (bs, ix, s2) ← captureAll l s1
    pure (b ++ bs, 0 :: ix.map (b.length + ·), s2)

def execMresume (k p q o : Nat) (s : State) : Out :=
  issue (marchReq k p q) s fun s => do
    let w := (rdG s.k q).toNat
    let cont := rdG s.k (p + 1)
    if paramBad true w cont then .error (illOp 14)
    else if contBad cont s then .error (illOp 5)
    else
      let (obj, s1) ← engObj true (decide (o = 1)) (rdG s.k (q + 1)) s
      let lanes := marchLanes w s1.k
      let rs := (lanesOf lanes).filterMap (kind3Of s1)
      if rs.length ≠ laneCount lanes then .error (illOp 15)
      else
        let (bs, ix, s2) ← captureAll rs s1
        let word := fun j L => match kind3Of s2 L with
          | some r => if j < 28 then recWord r j else getV s2.k.v (2 * k + (j - 28)) L
          | none => 0#32
        startOp { newOp .mresume obj s2 with
          args := [w64 w, cont, w64 (2 * k)], recs := bs, index := ix, lanes := lanes, count := 16 * laneCount lanes,
          lane := captured lanes 30 word } s2

/-! ### One lane (R346, R351, R352, R355) -/

/-- A lane as it starts or resumes: inputs, first state, mode, program flag and address, program with its records. -/
structure LaneRun where
  c : MarchIn
  first : Except LaneEnd MarchSt
  iv : Bool
  scr : Bool
  prog : Nat
  recs : List (List Byte)

def laneRun (o : Op) (L i : Nat) : LaneRun :=
  let w := fun j => (mget 0#32 o.lane (32 * j + L)).toNat
  let p := (o.args.getD 0 0#64).toNat
  let hmax := nb p 63 32
  match o.kind with
  | .mresume =>
    let c : MarchIn := { inp := (List.range 6).map w ++ [w 6, w 8, w 9, w 10, w 11, w 12], hmax := hmax }
    let st := w 14 % 4
    let bound := fun j => w64 (w j + 2 ^ 32 * w (j + 1))
    let rid := if nbit (w 19) 31 then [(w 19 % 2 ^ 16, bound 20)] else []
    let m : MarchSt := { st := st, t := if st = 0 then w 6 else 0, h := w 9, a := w 6, b := w 7, tag := w 15, n := w 13,
                         t1 := if st = 0 then some (w 7) else none, resolved := (w 16 % 2 ^ 16, bound 28) :: rid }
    { c := c, first := .ok m, iv := nbit (w 14) 8, scr := nbit (w 14) 9, prog := w 17 + 2 ^ 32 * w 18, recs := o.recs.drop (o.index.getD i 0) }
  | k =>
    let c : MarchIn := { inp := (List.range 12).map w, hmax := hmax }
    { c := c, first := marchStart c, iv := match k with | .march b => b | _ => false, scr := nbit p 0, prog := (o.args.getD 3 0#64).toNat, recs := o.recs }

def nanInput (o : Op) (c : MarchIn) : Nat := if o.kind ≠ .mresume ∧ ((List.range 11).any fun j => fxIsNan (c.x j)) then stNAN else 0

/-- The march of one lane, data as memory stands. -/
def laneMarch (o : Op) (r : LaneRun) (s : State) : MarchOut :=
  let p := progOf (r.recs.headD [])
  let ev := fun res t0 t1 =>
    evaluate { op := o, aff := !r.iv, prep := false, resolved := res, prog := p } (r.recs.drop 1) (rayFrame (!r.iv) (r.c.inp.take 3) ((r.c.inp.drop 3).take 3) t0 t1) s
  match r.first with
  | .error e => .ended { status := nanInput o r.c } e
  | .ok m => marchRun ev (fun need => !(waitingPages o need s).isEmpty) r.c (r.c.i 11 + 3) m

/-- The continuation record of a lane that stopped on a call. -/
def contRec (o : Op) (L : Nat) (r : LaneRun) (m : MarchSt) (e : LaneEnd) : SpawnRec :=
  let st := m.st
  let c := r.c
  let sa := if st = 0 then e.seg.1 else m.a
  let sb := if st = 0 then e.seg.2 else m.b
  let state := st + 256 * b2 r.iv + 512 * b2 r.scr
  let rid := match m.resolved with | x :: _ => (x.1 + 2 ^ 31, x.2) | [] => (0, 0#64)
  { idx := 0, order := 0,
    carry := ((List.range 6).map c.i ++ [sa, sb, c.i 7, if st = 0 then m.h else 0, c.i 9, c.i 10, c.i 11, m.n, state, if st = 0 then 0 else m.tag]).map w32,
    entry := o.args.getD 1 0#64, ncarry := 16, kind := 3, skein := o.sid, lane := L,
    extra := toBytes 2 e.node ++ toBytes 2 0 ++ toBytes 8 r.prog ++ toBytes 4 rid.1 ++ toBytes 8 rid.2.toNat ++ (e.frame.map fun x => toBytes 8 x.toNat).flatten }

/-- Writes registers 12 to 15 of the lane's block. -/
def putResults (o : Op) (L : Nat) (l : List Nat) (s : State) : State :=
  let b := (o.args.getD 2 0#64).toNat + 12
  modSkein o.uid (fun k => { k with v := l.zipIdx.foldl (fun v x => mset 0#32 v (32 * (b + x.2) + L) (w32 x.1)) k.v }) s

/-- One lane of the operation is marched: its record first, when there is room, then its results. -/
def marchLane (o : Op) (c : Crew) (L : Nat) (s : State) : State :=
  let r := laneRun o L o.pos
  match laneMarch o r s with
  | .waits need => (waitingPages o need s).foldl (fun s n => opRequest o n s) s
  | .more _ => s
  | .ended m e =>
    let res := [e.thit, e.status, e.node, m.n]
    let o1 := { o with pos := o.pos + 1, status := Nat.lor o.status m.status }
    let seen := fun s => m.need.foldl (touchNeed o) s
    if e.status = 3 ∧ o.args.getD 1 0#64 ≠ 0#64 then
      let rec_ := contRec o L r m e
      if areaSize c ≤ c.recs.length then s
      else if (basketFor c rec_.entry).isNone then modCrew o.cuid forceOldest s
      else setOp o1 (putResults o L res (modCrew o.cuid (fun c => forceFull (addRec (ctxBtimer s o.ctx) s.clocks rec_ c)) (seen s)))
    else setOp o1 (putResults o L res (seen s))

/-- One step of a march: the next lane, or the end once every lane is written (log entry 7). -/
def performMarch (o : Op) (s : State) : State :=
  match crewOf s o.cuid with
  | none => s
  | some c =>
    match (lanesOf o.lanes)[o.pos]? with
    | some L => marchLane o c L s
    | none => setOp { o with performed := true, due := s.gtime } (countErrors o.status s)

end Sys2Proof.Machine
end

