-- ==== Sys2Proof/Machine/Raster.lean ====
section
/-! DEFINITION. Box and triangle tests, short stacks, depth and rasterisation (14 R380 to R391). -/
namespace Sys2Proof.Machine

/-! ### Operands (R380) -/

/-- The lanes served, or the trap of a selector out of range. -/
def served (m : Nat) (s : State) : Res Word32 :=
  let x := (rdG s.k m).toNat
  if 8 ≤ x then .error (illOp 17) else .ok (s.k.e.mask &&& rdP s.k x)

/-- Word j of a lane's block; the block is not renamed. -/
def blk (s : State) (k j L : Nat) : Nat := (getV s.k.v (2 * k + j) L).toNat

/-- Writes words of the lanes' blocks from register `first` on. -/
def putBlk (k first : Nat) (lanes : Word32) (f : Nat → List Nat) (s : State) : State :=
  let v := (lanesOf lanes).foldl (fun v L => (f L).zipIdx.foldl (fun v x => mset 0#32 v (32 * (2 * k + first + x.2) + L) (w32 x.1)) v) s.k.v
  { s with k := { s.k with v := v } }

def blockReq (k n : Nat) : Req := { blocks := [(2 * k, n)] }

/-- The shape-record trap of the lowest lane whose record is not aligned as R94 says; else loads of `n` bytes. -/
def nodesOf (n align : Nat) (lanes : List (Nat × Nat)) (ls : List Nat) (s : State) : Res (List Loaded × State) :=
  let l := lanes.filter fun x => ls.contains x.1
  match l.find? fun x => decide (x.2 % align ≠ 0) with
  | some x => .error (.trap { code := 10, cause := 0, lane := x.1, addr := w64 x.2, info0 := 0#64 })
  | none => loadLanes false false 0 n l s

/-- Loads a record of `n` bytes for each lane; the lowest lane that faults decides (01 R47). -/
def loadNodes (n align : Nat) (lanes : List (Nat × Nat)) (s : State) : Res (List Loaded × State) :=
  lowestFirst (nodesOf n align lanes) (nodesOf n align lanes) (lanes.map (·.1)) s

/-! ### boxt (R381, R382, 03 R97) -/

/-- A quotient of exact values by a non-zero divisor; none where an infinity makes it undefined. -/
def quot (a b d : Fx) : Option Fx := (fxAdd false a (fxNeg b)).bind fun x => iDiv x d

/-- Entry and exit of a slab; none when the child misses. -/
def slab (lo hi o d : Nat) : Option (Fx × Fx) :=
  let l := f32 lo
  let h := f32 hi
  let p := f32 o
  if fxIsZero (f32 d) then (if fxLe l p && fxLe p h then some (.inf true, .inf false) else none)
  else match quot l p (f32 d), quot h p (f32 d) with
    | some q, some r => some (rdFx (fxMin q r), ruFx (fxMax q r))
    | _, _ => let x := Config.unstated 1 [lo, hi, o, d]; some (itvLo x, itvHi x)

/-- The entry distance of a child's box, none when it is missed. -/
def boxHit (ray box : List Nat) : Option Fx :=
  let bad := (ray.any fun x => fxIsNan (f32 x)) || (box.any fun x => fxIsNan (f32 x)) ||
    (List.range 3).any fun a => fxLt (f32 (box.getD (3 + a) 0)) (f32 (box.getD a 0))
  if bad then none
  else
    (((List.range 3).map fun a => slab (box.getD a 0) (box.getD (3 + a) 0) (ray.getD a 0) (ray.getD (3 + a) 0)).foldl
      (fun acc x => acc.bind fun y => x.map fun z => (fxMax y.1 z.1, fxMin y.2 z.2)) (some (f32 (ray.getD 6 0), f32 (ray.getD 7 0)))).bind
      fun r => if fxLe r.1 r.2 then some r.1 else none

/-- Ascending distance, lower child first on a tie. -/
def insHit (x : Nat × Fx) : List (Nat × Fx) → List (Nat × Fx)
  | [] => [x]
  | y :: l => if fxLt x.2 y.2 || (fxEq x.2 y.2 && decide (x.1 < y.1)) then x :: y :: l else y :: insHit x l

/-- Registers +10 to +14. -/
def boxResult (ray : List Nat) (node : List Byte) : List Nat :=
  let hits := (List.range 4).filterMap fun c =>
    if leAt node (96 + 8 * c) 8 / 4 % 4 = 0 then none
    else (boxHit ray ((List.range 6).map fun j => leAt node (24 * c + 4 * j) 4)).map fun d => (c, d)
  let order := hits.foldr insHit []
  let mask := hits.foldl (fun m x => m + 2 ^ x.1) 0
  let ord := order.zipIdx.foldl (fun m x => m + x.1.1 * 4 ^ x.2) 0
  (mask + 16 * hits.length + 256 * ord) :: (List.range 4).map fun i =>
    match order[i]? with
    | some x => roundPos x.2
    | none => 0x7F800000

def rayOf (s : State) (k L : Nat) : List Nat := (List.range 8).map fun j => blk s k j L
def recAddr (s : State) (k L : Nat) : Nat := blk s k 8 L + 2 ^ 32 * blk s k 9 L

def execBoxt (k m : Nat) (s : State) : Out :=
  issue (blockReq k 16) s fun s => do
    let act ← served m s
    let (r, s1) ← loadNodes 128 128 ((lanesOf act).map fun L => (L, recAddr s k L)) s
    pure (retire 1 (putBlk k 10 act (fun L => boxResult (rayOf s1 k L) (laneBytes r L)) s1))

/-! ### trit (R383, 03 R98) -/

def sub3 (a b : List Fx) : List Fx := (List.range 3).map fun i => qSub (a.getD i fxZero) (b.getD i fxZero)
def dot3 (a b : List Fx) : Fx := fxSum ((List.range 3).map fun i => qMul (a.getD i fxZero) (b.getD i fxZero))
def cross (a b : List Fx) : List Fx :=
  let x := fun (l : List Fx) i => l.getD i fxZero
  [qSub (qMul (x a 1) (x b 2)) (qMul (x a 2) (x b 1)), qSub (qMul (x a 2) (x b 0)) (qMul (x a 0) (x b 2)), qSub (qMul (x a 0) (x b 1)) (qMul (x a 1) (x b 0))]

def triMiss : List Nat := [0x7F800000, 0, 0, 0, 0xFFFFFFFF, 0xFFFFFFFF]

/-- The hit of a finite ray: t*, b1, b2 and back face, exactly; none on a miss. -/
def triExact (o d v0 v1 v2 : List Fx) (tmin tmax : Fx) (cull : Bool) : Option (Fx × Fx × Fx × Bool) :=
  let n := cross (sub3 v1 v0) (sub3 v2 v0)
  let nd := dot3 n d
  if n.all fxIsZero || fxIsZero nd then none
  else
    let back := fxLt fxZero nd
    if back && cull then none
    else
      let t := qDiv (dot3 n (sub3 v0 o)) nd
      let p := (List.range 3).map fun i => qAdd (o.getD i fxZero) (qMul t (d.getD i fxZero))
      let nn := dot3 n n
      let b1 := qDiv (dot3 n (cross (sub3 p v0) (sub3 v2 v0))) nn
      let b2 := qDiv (dot3 n (cross (sub3 v1 v0) (sub3 p v0))) nn
      let b0 := qSub (qSub (qInt 1) b1) b2
      if fxLe fxZero b0 && fxLe fxZero b1 && fxLe fxZero b2 && fxLe tmin t && fxLe t tmax then some (t, b1, b2, back) else none

/-- A sum of products of exact values; none where an infinity makes it undefined. -/
def dotOpt (a b : List Fx) : Option Fx :=
  (List.range 3).foldl (fun t i => t.bind fun x => (fxMul (a.getD i fxZero) (b.getD i fxZero)).bind fun y => fxAdd false x y) (some fxZero)

/-- Registers +10 to +15. With an infinite origin or direction, what the rule defines still holds: a miss for n·d = 0 and for a culled back
face, BACK, and t* where it is a number or an infinity; the rest is a free value (log entry 17). -/
def triResult (ray : List Nat) (r : List Byte) : List Nat :=
  let v := fun i => (List.range 3).map fun j => f32 (leAt r (12 * i + 4 * j) 4)
  let opq := leAt r 44 4 % 2
  let out := fun (t u w : Nat) (back : Bool) => [t, u, w, 1 + 2 * b2 back + 4 * opq, leAt r 36 4, leAt r 40 4]
  let o := (ray.take 3).map f32
  let d := ((ray.drop 3).take 3).map f32
  let n := cross (sub3 (v 1) (v 0)) (sub3 (v 2) (v 0))
  let cull := nbit (leAt r 44 4) 1
  let x := fun i => (Config.unstated 2 (i :: ray ++ r.map (·.toNat))).toNat
  let free := fun (back : Bool) (t : Nat) => if nbit (x 0) 0 then out t (x 2 % 2 ^ 32) (x 3 % 2 ^ 32) back else triMiss
  if (ray.any fun x => fxIsNan (f32 x)) || !((v 0 ++ v 1 ++ v 2).all finiteFx) || n.all fxIsZero then triMiss
  else if !((o ++ d).all finiteFx) then
    match dotOpt n d with
    | none => if nbit (x 0) 1 && cull then triMiss else free (nbit (x 0) 1) (x 1 % 2 ^ 32)
    | some nd =>
      let back := fxLt fxZero nd
      if fxIsZero nd || (back && cull) then triMiss
      else match (if d.all finiteFx then (dotOpt n ((List.range 3).map fun i => (fxAdd false ((v 0).getD i fxZero) (fxNeg (o.getD i fxZero))).getD .nan)).bind fun y => iDiv y nd else none) with
        | some t => if fxLe (f32 (ray.getD 6 0)) t && fxLe t (f32 (ray.getD 7 0)) then free back (roundPos t) else triMiss
        | none => free back (x 1 % 2 ^ 32)
  else match triExact o d (v 0) (v 1) (v 2) (f32 (ray.getD 6 0)) (f32 (ray.getD 7 0)) cull with
    | some (t, b1, b2, back) => out (roundPos t) (roundPos b1) (roundPos b2) back
    | none => triMiss

def execTrit (k m : Nat) (s : State) : Out :=
  issue (blockReq k 16) s fun s => do
    let act ← served m s
    let (r, s1) ← loadNodes 48 16 ((lanesOf act).map fun L => (L, recAddr s k L)) s
    pure (retire 1 (putBlk k 10 act (fun L => triResult (rayOf s1 k L) (laneBytes r L)) s1))

/-! ### Short stacks (R384) -/

structure Stk where
  area : Nat
  scap : Nat
  spill : Nat
  deriving DecidableEq, Repr

def stkOf (g s : Nat) (t : State) : Res (Stk × Word32) := do
  let x := (rdG t.k g).toNat
  let act ← served s t
  let b := (rdG t.k (g + 1)).toNat
  if nb x 31 0 ≠ 0 ∨ b % 8 ≠ 0 then .error (illOp 17) else .ok ({ area := 16 * nb x 63 48, scap := nb x 47 32, spill := b }, act)

def slotOff (x : Stk) (L j : Nat) : Nat := x.area + 128 * L + 8 * j
def spillAt (x : Stk) (L e : Nat) : Nat := (x.spill + 8 * (x.scap * L + e)) % 2 ^ 64

/-- The slots of lanes as ranges of the window. -/
def slotRanges (slot : Nat → Nat) (ls : List Nat) : List (Nat × Int × Nat) := ls.map fun L => (L, (slot L : Int), 8)

/-- The window check of the lanes' slots and then the spill accesses `f` of those lanes; the lowest lane that faults decides (01 R47). -/
def slotsFirst {α : Type} (slot : Nat → Nat) (f : List Nat → State → Res α) (live : List Nat) (s : State) : Res α :=
  let g := fun ls s => match scrCheck (winSize s.crew) (slotRanges slot ls) with
    | some t => .error t
    | none => f ls s
  lowestFirst g g live s

/-- Uncorrectable words among the slots that are read; single-bit errors are corrected (02 R53). -/
def readSlots (l : List (Nat × Int × Nat)) (s : State) : Res State :=
  match winUncorr s.crew l with
  | some t => .error t
  | none => .ok (correctScr l s)

def putSlots (l : List (Nat × List Byte)) (c : Crew) : Crew := l.foldl (fun c x => putWin x.1 x.2 c) c

def execStkpush (k g m : Nat) (s : State) : Out :=
  issue { blockReq k 4 with even := [g], stores := true } s fun s => do
    let (x, act) ← stkOf g m s
    let D := fun L => blk s k 2 L
    let live := (lanesOf act).filter fun L => decide (D L < 16 + x.scap)
    let deep := live.filter fun L => decide (16 ≤ D L)
    let slot := fun L => slotOff x L (D L % 16)
    let spilled := fun (ls : List Nat) s => storeLanes 8 ((deep.filter ls.contains).map fun L => (L, spillAt x L (D L - 16))) (fun L => winBytes s.crew (slot L) 8) s
    let s0 ← slotsFirst slot spilled live s
    let s1 ← readSlots (slotRanges slot deep) s0
    let s2 := { s1 with crew := putSlots (live.map fun L => (slot L, toBytes 4 (blk s k 0 L) ++ toBytes 4 (blk s k 1 L))) s1.crew }
    pure (retire 1 (putBlk k 2 act (fun L => if live.contains L then [D L + 1, 0] else [D L, 2]) s2))

def execStkpop (k g m : Nat) (s : State) : Out :=
  issue { blockReq k 4 with even := [g] } s fun s => do
    let (x, act) ← stkOf g m s
    let D := fun L => blk s k 2 L
    let live := (lanesOf act).filter fun L => decide (D L ≠ 0)
    let deep := live.filter fun L => decide (17 ≤ D L)
    let slot := fun L => slotOff x L ((D L - 1) % 16)
    let (r, s0) ← slotsFirst slot (fun ls s => loadLanes false false 0 8 ((deep.filter ls.contains).map fun L => (L, spillAt x L (D L - 17))) s) live s
    let s1 ← readSlots (slotRanges slot live) s0
    let val := fun L => winNat s.crew (slot L) 8
    let s2 := { s1 with crew := putSlots (deep.map fun L => (slot L, laneBytes r L)) s1.crew }
    pure (retire 1 (putBlk k 0 act (fun L => if live.contains L then [val L % 2 ^ 32, val L / 2 ^ 32, D L - 1, 0] else [blk s k 0 L, blk s k 1 L, D L, 1]) s2))

/-! ### Depth (R385, R386) -/

/-- The depth tests by code. -/
def depthTest (code z d : Nat) : Bool :=
  match code with
  | 0 => fxLt (f32 d) (f32 z)
  | 1 => fxLe (f32 d) (f32 z)
  | 2 => fxEq (f32 z) (f32 d)
  | _ => true

/-- One step at the bank: whether the test passes, and the window after it. -/
def depthStep (off code z : Nat) (wr : Bool) (c : Crew) : Bool × Crew :=
  let ok := depthTest code z (ofBytes (engWin c off 4).1)
  (ok, if ok && wr then putWin off (toBytes 4 z) c else c)

def execDepthw (k t m : Nat) (s : State) : Out :=
  issue (blockReq k 3) s fun s => do
    let act ← served m s
    let x := (rdG s.k t).toNat
    if nb x 47 19 ≠ 0 then .error (illOp 17)
    else
      let off := 16 * nb x 63 48
      chkWin (winSize s.crew) off 4096
      let pix := fun L => blk s k 0 L
      let ok := fun L => decide (pix L % 2 ^ 5 + nb (pix L) 20 16 * 2 ^ 16 = pix L)
      let at_ := fun L => off + 4 * (32 * nb (pix L) 20 16 + pix L % 32)
      let lanes := (lanesOf act).filter ok
      let read := lanes.map fun L => (L, (at_ L : Int), 4)
      match winUncorr s.crew read with
      | some e => .error e
      | none =>
        let s := correctScr read s
        let r := lanes.foldl (fun (acc : List (Nat × Bool) × Crew) L =>
          let d := depthStep (at_ L) (nb x 17 16) (blk s k 1 L) (nbit x 18) acc.2
          (acc.1 ++ [(L, d.1)], d.2)) ([], s.crew)
        let res := fun L => match r.1.find? fun y => decide (y.1 = L) with | some y => b2 y.2 | none => 2
        pure (retire 1 (putBlk k 2 act (fun L => [res L]) { s with crew := r.2 }))

/-! ### draw: the record and its checks (R387, R388) -/

structure DrawRec where
  verts : Nat
  ntri : Nat
  primbase : Nat
  entry : Nat
  vieww : Nat
  viewh : Nat
  flags : Nat
  deriving DecidableEq, Repr

def drawOf (r : List Byte) : DrawRec :=
  { verts := leAt r 0 8, ntri := leAt r 8 4, primbase := leAt r 12 4, entry := leAt r 16 8, vieww := leAt r 24 2, viewh := leAt r 26 2, flags := leAt r 28 1 }

def drawBad (r : List Byte) : Option Nat :=
  let x := drawOf r
  let when := fun (b : Bool) (o : Nat) => if b then [o] else []
  least (when (decide (x.verts % 16 ≠ 0)) 0 ++ when (!inRange 1 (2 ^ 20) x.ntri) 8 ++ when (decide (x.entry % 4 ≠ 0)) 16 ++
    when (!inRange 1 8192 x.vieww) 24 ++ when (!inRange 1 8192 x.viewh) 26 ++ when (decide (16 ≤ x.flags)) 28 ++
    when (r.drop 29 |>.any fun b => decide (b ≠ 0#8)) 29)

def execDraw (r t g o : Nat) (s : State) : Out :=
  issue (engineReq []) s fun s => do
    let (obj, s1) ← engObj false (decide (o = 1)) (rdG s.k g) s
    let addr := (rdG s.k r).toNat
    if addr % 64 ≠ 0 then .error (shapeTrap addr 0)
    else
      let (b, s2) ← loadOne 64 addr s1
      shapeErr addr (drawBad b)
      let x := drawOf b
      let w := (rdG s2.k t).toNat
      if nb w 47 16 ≠ 0 ∨ x.vieww ≤ 32 * nb w 7 0 ∨ x.viewh ≤ 32 * nb w 15 8 then .error (illOp 17)
      else
        chkWin (winSize s2.crew) (16 * nb w 63 48) 4096
        if !hasBaskets s2.crew || decide ((basketRole s2.crew).regs < 8) then .error (illOp 5)
        else
          chkGlob x.verts (48 * x.ntri) s2
          startOp { newOp .draw obj s2 with args := [w64 addr, w64 w], recs := [b], count := 16 * x.ntri } s2

/-! ### Rasterisation (R389) -/

/-- A triangle set up: window coordinates in 1/256 pixel, depths, w, and the doubled signed area. -/
structure Tri where
  x : List Int
  y : List Int
  z : List Fx
  w : List Fx
  area : Int
  deriving DecidableEq, Repr

def edgeFn (x0 y0 x1 y1 x2 y2 : Int) : Int := (x1 - x0) * (y2 - y0) - (x2 - x0) * (y1 - y0)

def roundEven (v : Fx) : Int :=
  match v with
  | .fin s n d => sgnNum s (roundToInt .rn 0 s n d).1
  | _ => 0

/-- A triangle from its twelve words: none when discarded; whether a NaN or an infinity was met. -/
def setupTri (r : DrawRec) (b : List Byte) : Option Tri × Bool :=
  let q := fun i j => f32 (leAt b (16 * i + 4 * j) 4)
  let is := List.range 3
  let raw := is.all fun i => (List.range 4).all fun j => finiteFx (q i j)
  if !raw then (none, true)
  else if is.any (fun i => fxLe (q i 3) fxZero) then (none, false)
  else
    let X := is.map fun i => roundEven (qMul (qAdd (qDiv (q i 0) (q i 3)) (qInt 1)) (qInt (128 * r.vieww)))
    let Y := is.map fun i => roundEven (qMul (qSub (qInt 1) (qDiv (q i 1) (q i 3))) (qInt (128 * r.viewh)))
    let z := is.map fun i => rnFx (qDiv (q i 2) (q i 3))
    let p := fun (l : List Int) i => l.getD i 0
    let area := edgeFn (p X 0) (p Y 0) (p X 1) (p Y 1) (p X 2) (p Y 2)
    if !z.all finiteFx then (none, true)
    else if (X ++ Y).any (fun v => decide ((2 ^ 23 : Int) < v.natAbs)) || decide (area = 0) || (decide (area < 0) && nbit r.flags 0) then (none, false)
    else (some { x := X, y := Y, z := z, w := is.map fun i => q i 3, area := area }, false)

/-- An edge function of exactly 0 counts for one of two triangles that share the edge. -/
def edgeIn (e dx dy : Int) : Bool := decide (0 < e) || (decide (e = 0) && (decide (0 < dy) || (decide (dy = 0) && decide (dx < 0))))

/-- The edge functions of a pixel centre over the original vertices. -/
def edges (t : Tri) (px py : Nat) : List Int :=
  let cx : Int := 256 * px + 128
  let cy : Int := 256 * py + 128
  let X := fun i => t.x.getD i 0
  let Y := fun i => t.y.getD i 0
  [edgeFn cx cy (X 1) (Y 1) (X 2) (Y 2), edgeFn (X 0) (Y 0) cx cy (X 2) (Y 2), edgeFn (X 0) (Y 0) (X 1) (Y 1) cx cy]

/-- Coverage; a back face has V1 and V2 exchanged. -/
def covers (t : Tri) (px py : Nat) : Bool :=
  let e := edges t px py
  let sg : Int := if t.area < 0 then -1 else 1
  let X := fun i => t.x.getD i 0
  let Y := fun i => t.y.getD i 0
  (List.range 3).all fun i =>
    let a := (i + 1) % 3
    let b := (i + 2) % 3
    edgeIn (sg * e.getD i 0) (sg * (X b - X a)) (sg * (Y b - Y a))

/-- The fragment's depth and barycentrics b1 and b2, as FP32. -/
def fragment (t : Tri) (px py : Nat) : Nat × Nat × Nat :=
  let lam := (edges t px py).map fun e => qDiv (qInt e) (qInt t.area)
  let at_ := fun (l : List Fx) i => l.getD i fxZero
  let z := fxSum ((List.range 3).map fun i => qMul (at_ lam i) (at_ t.z i))
  let p := (List.range 3).map fun i => qDiv (at_ lam i) (at_ t.w i)
  let tot := fxSum p
  (roundPos z, roundPos (qDiv (at_ p 1) tot), roundPos (qDiv (at_ p 2) tot))

/-- The next covered pixel of the tile from number `i` on, by rows. -/
def nextPixel (r : DrawRec) (t : Tri) (col row i : Nat) : Option Nat :=
  ((List.range (1024 - i)).map (i + ·)).find? fun j =>
    let px := 32 * col + j % 32
    let py := 32 * row + j / 32
    decide (px < r.vieww) && decide (py < r.viewh) && covers t px py

/-- The spawn record of a passing fragment (R390). -/
def fragRec (o : Op) (r : DrawRec) (px py : Nat) (f : Nat × Nat × Nat) : SpawnRec :=
  { idx := 0, order := 0, carry := [f.2.1, f.2.2, px + 2 ^ 16 * py, (r.primbase + o.pos) % 2 ^ 32, f.1].map w32, entry := w64 r.entry, ncarry := 5,
    kind := 2, skein := o.sid, lane := 0, extra := toBytes 8 (o.args.getD 0 0#64).toNat ++ List.replicate 40 0#8 }

/-- Reads and sets up triangle `pos`, or discards it. -/
def drawSetup (o : Op) (r : DrawRec) (s : State) : State :=
  let v := engRead o ((r.verts + 48 * o.pos) % 2 ^ 64) 48 s
  match waitingPages o v.need s with
  | [] =>
    let t := setupTri r v.bytes
    let s := v.need.foldl (touchNeed o) s
    let o1 := { o with status := Nat.lor o.status (Nat.lor v.st (if t.2 then stNAN else 0)) }
    if Nat.land v.st stFAULT ≠ 0 ∨ t.1.isNone then setOp { o1 with pos := o.pos + 1 } s
    else setOp { o1 with started := true, recs := [o.recs.headD [], v.bytes], index := [0] } s
  | l => l.foldl (fun s n => opRequest o n s) s

/-- The next fragment of the triangle: its depth step and record, with room; or the triangle's end. -/
def drawFragment (o : Op) (c : Crew) (r : DrawRec) (s : State) : State :=
  let w := (o.args.getD 1 0#64).toNat
  let done := setOp { o with started := false, pos := o.pos + 1 } s
  match (setupTri r (o.recs.getD 1 [])).1 with
  | none => done
  | some t =>
    match nextPixel r t (nb w 7 0) (nb w 15 8) (o.index.headD 0) with
    | none => done
    | some j =>
      let px := 32 * nb w 7 0 + j % 32
      let py := 32 * nb w 15 8 + j / 32
      let f := fragment t px py
      let off := 16 * nb w 63 48 + 4 * j
      let o1 := { o with index := [j + 1], status := Nat.lor o.status (engWin c off 4).2 }
      let d := depthStep off (nb r.flags 3 2) f.1 (nbit r.flags 1) c
      let rec_ := fragRec o r px py f
      if !d.1 then setOp o1 (correctWin o.cuid off 4 s)
      else if areaSize c ≤ c.recs.length then s
      else if (basketFor c rec_.entry).isNone then modCrew o.cuid forceOldest s
      else setOp o1 (correctWin o.cuid off 4 (modCrew o.cuid (fun _ => forceFull (addRec (ctxBtimer s o.ctx) s.clocks rec_ d.2)) s))

/-- One step of draw: a triangle's set-up, a fragment, or the end (R390, R391, log entry 7). -/
def performDraw (o : Op) (s : State) : State :=
  let r := drawOf (o.recs.headD [])
  match crewOf s o.cuid with
  | none => s
  | some c =>
    if r.ntri ≤ o.pos then setOp { o with performed := true, due := s.gtime + objDelta o s 0 } (countErrors o.status s)
    else if o.started then drawFragment o c r s
    else drawSetup o r s

end Sys2Proof.Machine
end

