-- ==== Sys2Proof/Machine/Fetch.lean ====
section
/-! DEFINITION. The instruction cache, fetching and decoding the instruction at the program counter (01 R16, R23, R25, R31, 02 R64,
07 R190, R196, R211). -/
namespace Sys2Proof.Machine

/-! ### The instruction cache (02 R64) -/

/-- The line of the core's instruction cache that holds a word for the context of the skein in focus. -/
def codeHit (va : Nat) (s : State) : Option CodeLine :=
  s.hm.code.find? fun x => decide (x.core = s.crew.core) && decide (x.ctx = s.crew.ctx) && decide (x.line = va / 64) && decide (va % 64 ≤ 60)

/-- A 64-byte line of code is filled whole, through the L2, with what its home holds now; a full cache of 512 lines gives up its oldest (log
entry 14). A line of a host page, and one with an uncorrectable word, is not kept. `evict`: the page's lines are first to evict. -/
def fillCode (evict : Bool) (va key : Nat) (s0 : State) : State :=
  let first := key - va % 64
  let s := l2Access evict (first / 64) s0
  let bad := (List.range 8).any fun i => s.hm.memBad.contains (first / 8 + i)
  if 60 < va % 64 ∨ keyDev key = some 255 ∨ bad then s
  else
    let x : CodeLine := { core := s.crew.core, ctx := s.crew.ctx, line := va / 64, bytes := (List.range 64).map fun i => memByte s (first + i) }
    let mine := s.hm.code.filter fun y => decide (y.core = x.core)
    let kept := if mine.length < 512 then s.hm.code else match mine.head? with | some v => s.hm.code.erase v | none => s.hm.code
    modHm (fun h => { h with code := kept ++ [x] }) s

/-- One instruction word that the cache does not hold: an access that needs X (01 R23); an ABSENT page raises 0x07, cause 0x02. -/
def fetchHome (va : Nat) (s : State) : Res (Nat × State) := do
  let (r, s1) ← resolve .exec false (some 2) 4 [(0xFF, va)] s
  let s2 ← hostReady r s1
  if (r.flatMap (·.spans)).any (fun sp => (List.range sp.len).any fun i => s2.hm.memBad.contains ((sp.key + i) / 8)) then
    .error (trapAt 17 1 0xFF va)
  else
    let w := leWord ((r.map fun a => (a.spans.map fun sp => (List.range sp.len).map fun i => memByte s2 (sp.key + i)).flatten).flatten)
    match r.flatMap (·.spans) with
    | sp :: _ => pure (w, fillCode (nbit sp.leaf.cpol 1) va sp.key s2)
    | [] => pure (w, s2)

/-- One instruction word: from the instruction cache without a translation, or from its home (01 R25, 02 R64). -/
def fetchWord (va : Nat) (s : State) : Res (Nat × State) :=
  match codeHit va s with
  | some x => .ok (leWord ((x.bytes.drop (va % 64)).take 4), s)
  | none => fetchHome va s

/-- Checks 2 to 6 of R211 on a word or a pair. -/
def decodeAt (w0 w1 : Nat) (s : State) : Res (Instr × State) :=
  match decode w0 w1 with
  | .ok i => .ok (i, s)
  | .error e => .error (.trap { code := 1, cause := e.causeIn (isPriv s) })

/-- The instruction at the program counter: whether it is a pair, and the instruction or the trap of its fetch or decoding. -/
def fetchInstr (s : State) : Bool × Res (Instr × State) :=
  match fetchWord s.k.e.pc.toNat s with
  | .error x => (false, .error x)
  | .ok (w0, s1) =>
    if isPrefix w0 then
      match fetchWord ((s.k.e.pc.toNat + 4) % 2 ^ 64) s1 with
      | .error x => (true, .error x)
      | .ok (w1, s2) => (true, decodeAt w0 w1 s2)
    else (false, decodeAt w0 0 s1)

end Sys2Proof.Machine
end

