-- ==== Sys2Proof/Machine/Events.lean ====
section
/-! DEFINITION. What happens to waiting skeins and outstanding operations by itself: arrivals, the ends of waits, and the
timeouts of waits (02 R55, R57, 05 R128, 06 R161, R163, R180, 08 R244, 10 R304, 16 R413). -/
namespace Sys2Proof.Machine

/-! ### Asynchronous operations (05 R128) -/

/-- The operation's own work; the sequencers and the pair engine have events of their own. -/
def performOp (o : Op) (s : State) : State :=
  match o.kind with
  | .cpy mode => if o.later = [] then performPlan o (cpyPlan mode o s) s else performLater o s
  | .trow mode => performTrow mode o s
  | .march _ => performMarch o s
  | .mresume => performMarch o s
  | .fprep => performPlan o (fprepPlan o s) s
  | .nbin => performPlan o (nbinPlan o s) s
  | .draw => performDraw o s
  | _ => s

/-- An operation does its work, and once that is past it arrives and is gone; one that its crew's pre-emption has stopped does neither. -/
def driveOp (o : Op) (s : State) : Out :=
  if opStops o s then idle s
  else if o.performed then (if opDue o s then .next (finishOp o s) else idle s) else serveUnit performOp o s

def execArrival (id : Nat) (s : State) : Out :=
  match findOp s id with
  | none => idle s
  | some o => if o.obj = .none then idle s else driveOp o s

/-- An operation that counts into no object: it ends with its writes performed (08 R244). -/
def execAsyncOperationEnd (id : Nat) (s : State) : Out :=
  match findOp s id with
  | none => idle s
  | some o => if o.obj = .none then driveOp o s else idle s

/-! ### Ends of waits -/

/-- A waiting skein may go on, or take its own trap: no deferred trap is to be taken first (16 R413, R420). An atomic that has set out for its
homes is past that point. -/
def mayResume (s : State) : Bool := s.k.pending.isEmpty || s.k.handler || onTheWay s.k

/-- The hold after a trap entry or a restore is over (04 R124, 16 R417, R425), the fault record having its completion time. -/
def holdOver (s : State) (k : Skein) : Bool := k.holdOn.isNone && (decide (k.hold = 0) || decide (k.hold < s.gtime))

/-- Issues the waiting instruction of the skein in focus again, as `f` carries it out; a halted crew issues nothing (08 R250). -/
def reissue (f : Instr → State → Option Out) (s : State) : Out :=
  if !mayResume s || s.crew.halted || !holdOver s s.k then idle s
  else match (fetchInstr s).2 with
    | .ok (i, s1) => (f i s1).getD (idle s)
    | .error _ => idle s

/-- A consuming load whose granules are all full goes ahead (02 R55). -/
def execConsumingLoadProceed (r : Ref) (s : State) : Out :=
  match focusOn r s with
  | none => idle s
  | some s1 =>
    match s1.k.wait with
    | none => idle s
    | some w =>
      if w.kind = 2 ∧ w.grans.all (isFull s1.crew) then
        reissue (fun i t => match i with
          | .sldFe x g d a b => some (execSldFe x g d a b t)
          | .sldFeClr x g d a b => some (execSldFeClr x g d a b t)
          | _ => none) s1
      else idle s

/-- The skein waits at a level barrier whose phase is over: it observes the flip and acquires (06 R161 step 3). -/
def execLevelBarrierRelease (r : Ref) (s : State) : Out :=
  match focusOn r s with
  | none => idle s
  | some s1 =>
    match s1.k.wait with
    | none => idle s
    | some w =>
      if w.kind = 1 ∧ w.stage ≠ 2 then
        reissue (fun i t => match i with
          | .bar l b => if 3 ≤ l then some (execBar l b t) else none
          | .barArrive l b => if 3 ≤ l then some (execBarArrive l b t) else none
          | .barWait l b => if 3 ≤ l then some (execBarWait l b t) else none
          | _ => none) s1
      else idle s

/-! ### Timeouts -/

def timedOut (kind : Nat) (s : State) : Option WaitRec :=
  match s.k.wait with
  | some w => if w.kind = kind ∧ w.exp ≠ 0 ∧ w.since + 2 ^ w.exp ≤ s.clocks then some w else none
  | none => none

/-- A timeout that the waiting instruction raises precisely, unless a deferred trap is to be taken before its effect (16 R413, R420). -/
def waitTrap (kind : Nat) (f : WaitRec → TrapInfo) (pair : Bool) (r : Ref) (s : State) : Out :=
  match focusOn r s with
  | none => idle s
  | some s1 =>
    match timedOut kind s1 with
    | some w => if mayResume s1 then .next (takeTrap pair (f w) s1) else idle s
    | none => idle s

def execFullEmptyStall (r : Ref) (s : State) : Out :=
  waitTrap 2 (fun w => { code := 13, cause := 1, addr := w64 (16 * w.grans.headD 0) }) true r s
def execSpawnWaitTimeout (r : Ref) (s : State) : Out := waitTrap 3 (fun w => { code := 12, cause := 3, addr := w.pc }) false r s
def execBwaitTimeout (r : Ref) (s : State) : Out := waitTrap 5 (fun w => { code := 12, cause := 5, addr := w.pc }) false r s

def expired (stand : Option Nat) (exp : Nat) (s : State) : Bool :=
  match stand with
  | some c => decide (exp ≠ 0) && decide (c + 2 ^ exp ≤ s.clocks)
  | none => false

/-- The barrier of the crew in focus whose stall time is over: level, number, address. -/
def stalled (s : State) : Option (Nat × Nat × Word64) :=
  match (List.range 4).find? fun b => let x : CrewBar := mget {} s.crew.bars b; expired x.stand x.exp s with
  | some b => some (2, b, (mget {} s.crew.bars b : CrewBar).addr)
  | none =>
    match s.crew.levelArrs.find? fun a => expired a.clock a.exp s && decide (flipsOf s s.crew.ctx (levelObj s.crew a.level) = a.flips) with
    | some a => some (a.level, a.level, a.addr)
    | none => none

/-- The barrier instruction that the trap names: the one at which the skein itself waits, else `d` (log entry 91: R163 and 16 R415 leave it
open for a skein that waits at another barrier than the stalled one). -/
def ownBar (k : Skein) (d : Word64) : Word64 := match k.wait with | some w => if w.kind = 1 then w.pc else d | none => d

def unparked (e : Entry) : Entry := { e with parked := false }

/-- Every skein of the crew raises the stall trap at its next boundary; those that stand, in a handler after their eret, are to stand anew
(06 R163). -/
def raiseStall (l n : Nat) (addr : Word64) (s : State) : State :=
  let f := fun k : Skein =>
    { k with
      pending := k.pending ++ [{ code := 12, cause := if l = 2 then 1 else 2, addr := ownBar k addr, info0 := w64 n, deferred := true }],
      e := { k.e with parked := false }, rest := k.rest.map unparked,
      held := k.held.map fun h => { h with frontier := h.frontier.map unparked } }
  let c := if l = 2 then { s.crew with bars := mset {} s.crew.bars n { (mget {} s.crew.bars n : CrewBar) with standers := [], stand := none } }
           else setLevelArr { getLevelArr s.crew l with clock := none } s.crew
  { s with k := f s.k, peers := s.peers.map f, crew := c }

def execBarrierStallTimeout (r : Ref) (s : State) : Out :=
  match focusOn r s with
  | none => idle s
  | some s1 =>
    match stalled s1 with
    | some (l, n, a) => .next (raiseStall l n a s1)
    | none => idle s

/-! ### Deferred traps (16 R413, R417) -/

/-- The pending trap with the lowest code, and the others. -/
def takeLowest : List TrapInfo → Option (TrapInfo × List TrapInfo)
  | [] => none
  | t :: l =>
    match takeLowest l with
    | none => some (t, [])
    | some (u, r) => if u.code < t.code then some (u, t :: r) else some (t, l)

/-- The skein in focus takes its pending trap at an instruction boundary; parked entries count as eligible. -/
def takeDeferred (s : State) : Option State :=
  if s.k.handler || !holdOver s s.k || onTheWay s.k then none
  else match takeLowest s.k.pending with
    | none => none
    | some (t, l) =>
      match choose true s.k with
      | none => none
      | some k => some (takeTrap false t (leaveLatches k.uid { s with k := { k with pending := l } }))

def execDeferredTrapTake (r : Ref) (s : State) : Out :=
  match focusOn r s with
  | none => idle s
  | some s1 =>
    match takeDeferred s1 with
    | some s2 => .next s2
    | none => idle s

end Sys2Proof.Machine
end

