-- ==== Sys2Proof/Machine/Place.lean ====
section
/-! DEFINITION. Launch records as bytes, what a crew needs of a core, and the placement of units of crews
(06 R152 to R156, R159, R165, R166, 15 R401, R404, R406). -/
namespace Sys2Proof.Machine

/-! ### The launch record (06 R154 to R157) -/

def launchOf (r : List Byte) : LaunchRec :=
  let g := leAt r
  { entry := w64 (g 0 8), flags := g 8 4, alloc := g 12 4, gx := g 16 4, gy := g 20 4, gz := g 24 4, res28 := g 28 4,
    roles := (List.range 4).map fun i =>
      { skeins := g (32 + 8 * i) 1, regs := g (33 + 8 * i) 1, mode := g (34 + 8 * i) 1, b3 := g (35 + 8 * i) 1, entryOff := g (36 + 8 * i) 4 },
    levels := (List.range 5).map fun i =>
      { size := g (64 + 16 * i) 4, domain := g (68 + 16 * i) 1, scope := g (69 + 16 * i) 1, res := g (70 + 16 * i) 2, barrier := w64 (g (72 + 16 * i) 8) },
    deps := (List.range 4).map fun i => { obj := w64 (g (144 + 16 * i) 8), flips := g (152 + 16 * i) 4, res := g (156 + 16 * i) 4 },
    seed := w64 (g 208 8), merges := w64 (g 216 8), patchBase := w64 (g 224 8), cap := g 232 4, res236 := g 236 4, done := w64 (g 240 8),
    args := w64 (g 248 8) }

/-! ### What a crew needs (06 R153, 02 R50, R60) -/

/-- Skeinids with their roles, in order. -/
def roleSids (r : LaunchRec) : List (Nat × Nat) := ((roleRanges r).map fun x => (List.range x.2.2).map fun j => (x.2.1 + j, x.1)).flatten

/-- Per quadrant: skein slots, vector registers, tile registers. -/
def quadNeed (r : LaunchRec) (sids : List (Nat × Nat)) (q : Nat) : Nat × Nat × Nat :=
  (sids.filter fun x => decide (x.1 % 4 = q)).foldl (fun n x =>
    let o := r.roles.getD x.2 {}
    (n.1 + 1, n.2.1 + o.regs, n.2.2 + (if nbit o.mode 2 then 16 else 8))) (0, 0, 0)

def bankNeed (r : LaunchRec) (q : Nat) : Nat := (nb r.alloc 6 0 + nb r.alloc 20 16 + 3 - q) / 4
def barNeed (r : LaunchRec) : Nat := nb r.flags 6 4
def accuNeed (r : LaunchRec) : Nat := nb r.alloc 11 8

/-- The skeinids that a resident crew holds: those not ended, and those of its basket role. -/
def heldSids (c : CrewRec) : List (Nat × Nat) :=
  (roleSids c.crew.lrec).filter fun x =>
    (hasBaskets c.crew && decide (x.2 = nb c.crew.lrec.flags 9 8)) || c.skeins.any fun k => decide (k.sid = x.1)

def onCore (core : Nat) (s : State) : List CrewRec := (allCrews s).filter fun c => decide (c.crew.core = core)


/-- Room for a crew with these skeinids beside the crews `cs` of a core. -/
def roomFor (r : LaunchRec) (ctx : Nat) (sids : List (Nat × Nat)) (cs : List CrewRec) : Bool :=
  let ctxs := cs.foldl (fun (l : List Nat) c => if l.contains c.crew.ctx then l else l ++ [c.crew.ctx]) [ctx]
  decide (cs.length < 64) && decide (ctxs.length ≤ 4) && decide (sumOf (fun c => barNeed c.crew.lrec) cs + barNeed r ≤ 16) &&
    decide (sumOf (fun c => accuNeed c.crew.lrec) cs + accuNeed r ≤ 8) &&
    (List.range 4).all fun q =>
      let use := fun (f : Nat × Nat × Nat → Nat) => sumOf (fun c => f (quadNeed c.crew.lrec (heldSids c) q)) cs + f (quadNeed r sids q)
      decide (use (·.1) ≤ 16) && decide (use (·.2.1) ≤ 512) && decide (use (·.2.2) ≤ 128) && decide (sumOf (fun c => bankNeed c.crew.lrec q) cs + bankNeed r q ≤ 16)

/-- The fused-L1 condition of a cluster (02 R68): it is kept for the launch until the last crew that ran there has ended. -/
def fuseOk (launch : Nat) (fused : Bool) (core : Nat) (s : State) : Bool :=
  (fusedCrews core s).all (fun c => decide (c.launch = launch)) &&
    (!fused || (allCrews s).all fun c => decide (clusterOf c.crew.core ≠ clusterOf core) || decide (c.crew.launch = launch))

/-- The crew of the record fits on the core (R404). -/
def fitsCore (c : Crew) (sids : List (Nat × Nat)) (core : Nat) (s : State) : Bool :=
  roomFor c.lrec c.ctx sids (onCore core s) && fuseOk c.launch (nbit c.lrec.flags 1) core s

/-! ### A crew and its skeins (06 R165) -/

/-- FMODE at skein start (09 R254, R255). -/
def startFmode (s : State) (ctx : Nat) : Word64 := preg s (ctxReg ctx 3) &&& 0xFFFFFFFF00001700#64

/-- A skein of a role as R165 starts it; `epc`, to which the spec gives no launch value, starts at 0 (log entry 93). -/
def newSkein (s : State) (c : Crew) (uid slot sid role : Nat) : Skein :=
  let o := c.lrec.roles.getD role {}
  { uid := uid, sid := sid, role := role, slot := slot, regs := o.regs, tile16 := nbit o.mode 2, prio := o.mode % 4, g := mset 0#64 [] 1 c.lrec.args,
    p := [(7, 0xFFFFFFFF#32)], fmode := startFmode s c.ctx, e := { pc := c.lrec.entry + w64 o.entryOff, mask := 0xFFFFFFFF#32 },
    lastIssue := s.clocks, since := s.clocks }

/-- The lowest free slot of a skein's quadrant on a core: slot 4·j + quadrant (log entry 18). -/
def freeSlot (used : List Nat) (sid : Nat) : Nat := (((List.range 16).map fun j => 4 * j + sid % 4).find? fun i => !used.contains i).getD (sid % 4)

/-- Skeins take their slots in order; the uids follow `ids`. -/
def newSkeins (s : State) (c : Crew) : List (Nat × Nat) → Nat → List Nat → List Skein
  | [], _, _ => []
  | x :: l, uid, used =>
    let slot := freeSlot used x.1
    newSkein s c (uid + 1) slot x.1 x.2 :: newSkeins s c l (uid + 1) (slot :: used)

def usedSlots (core : Nat) (s : State) : List Nat := ((onCore core s).map fun c => c.skeins.map (·.slot)).flatten
def freeCrewSlot (core : Nat) (s : State) : Nat :=
  let used := (onCore core s).map (·.crew.slot)
  ((List.range 64).find? fun i => !used.contains i).getD 0

/-- Entry to fused mode with the first crew of the launch on the cluster. -/
def enterFused (c : Crew) (core : Nat) (s : State) : State := if c.fused && !fusedOn s core then dropCluster core s else s

/-- The crew of task `t` of a launch. -/
def newCrew (l : Launch) (t : Nat) (s : State) : Crew :=
  { live := true, uid := s.ids + 1, ctx := l.ctx, launch := l.uid, queue := l.queue, tx := t % l.lrec.gx, ty := t / l.lrec.gx % l.lrec.gy,
    tz := t / (l.lrec.gx * l.lrec.gy), t := t, lrec := l.lrec, mergeRanges := l.mergeRanges, placedAt := s.gtime, fused := nbit l.lrec.flags 1, startAt := l.start }

/-- Places the crew of task `t` on `core`, if it fits. -/
def addCrew (l : Launch) (t core : Nat) (s : State) : Option State :=
  let c := newCrew l t s
  let sids := roleSids l.lrec
  if fitsCore c sids core s then
    let s1 := enterFused c core s
    let run := sids.filter fun x => !(hasBaskets c && decide (x.2 = nb l.lrec.flags 9 8))
    let c1 := { c with core := core, slot := freeCrewSlot core s }
    let ks := newSkeins s1 c1 run (s.ids + 1) (usedSlots core s)
    let s2 := modSch (fun x => { x with launches := x.launches.map fun y => if y.uid = l.uid then { y with crews := y.crews ++ [c.uid] } else y }) s1
    some (fitL1 core { withCrews (allCrews s1 ++ [{ crew := c1, skeins := ks }]) s2 with ids := s.ids + 1 + run.length })
  else none

/-! ### Where a unit goes (R404, R406) -/

/-- The least-loaded candidate on which `f` succeeds, the lowest number among equals. -/
def leastLoaded (load : Nat → Nat) (f : Nat → Option State) (l : List Nat) : Option State :=
  (l.foldl (fun (m : Option (Nat × State)) x =>
    let n := load x
    if (match m with | some b => decide (b.1 ≤ n) | none => false) then m
    else match f x with
      | some t => some (n, t)
      | none => m) none).map (·.2)

def coreLoad (s : State) (core : Nat) : Nat := sumOf (fun c => c.skeins.length) (onCore core s)
def clusterLoad (s : State) (k : Nat) : Nat := sumOf (fun c => c.skeins.length) ((allCrews s).filter fun c => decide (clusterOf c.crew.core = k))

/-- Every member of a group goes to one core; `add i core` places member i. -/
def onOneCore (add : Nat → Nat → State → Option State) (group : List Nat) (core : Nat) (s : State) : Option State :=
  group.foldlM (fun s i => add i core s) s

/-- Cuts 0 .. n - 1 into runs of `k`. -/
def chunks (n k : Nat) : List (List Nat) := (List.range (n / k)).map fun i => (List.range k).map (i * k + ·)

/-- A unit of a record with a cluster level, on a cluster: crew i of each 16-crew instance on core i (11 R321), else each core-level
instance, or crew, on the least-loaded core. -/
def onCluster (add : Nat → Nat → State → Option State) (r : LaunchRec) (cl : Nat) (s : State) : Option State :=
  if (level16 r).isSome then (List.range (unitTasks r)).foldlM (fun s i => add i (16 * cl + i % 16) s) s
  else (chunks (unitTasks r) (coreTasks r)).foldlM (fun s g => leastLoaded (coreLoad s) (fun c => onOneCore add g c s) ((List.range 16).map (16 * cl + ·))) s

/-- One unit at one candidate: a cluster or a core. -/
def atPlace (add : Nat → Nat → State → Option State) (r : LaunchRec) (x : Nat) (s : State) : Option State :=
  if (domainTasks r 3).isSome then onCluster add r x s
  else onOneCore add (List.range (unitTasks r)) x s

def places (r : LaunchRec) : Nat := if (domainTasks r 3).isSome then 128 else 2048

/-- The unit at the least-loaded place that fits. -/
def placeLeast (add : Nat → Nat → State → Option State) (r : LaunchRec) (s : State) : Option State :=
  leastLoaded (if (domainTasks r 3).isSome then clusterLoad s else coreLoad s) (fun x => atPlace add r x s) (List.range (places r))

/-- cand(j) of a deterministic launch (R406). -/
def candidate (r : LaunchRec) (u j : Nat) : Nat :=
  mix (mix (r.seed ^^^ 0xC6A4A7935BD1E995#64).toNat ^^^ (u % 2 ^ 48 * 2 ^ 16 + j)) * places r / 2 ^ 64

def probe (add : Nat → Nat → State → Option State) (r : LaunchRec) (u : Nat) (s : State) : Nat → Nat → Option State
  | 0, _ => none
  | n + 1, j =>
    match atPlace add r (candidate r u j) s with
    | some t => some t
    | none => probe add r u s n (j + 1)

/-- The next unit of a launch placed, if it fits now. -/
def placeNext (l : Launch) (s : State) : Option State :=
  if unitCount l.lrec ≤ l.nextUnit ∨ s.gtime ≤ l.ready ∨ underWay l.uid s then none
  else
    let add := fun i core s => addCrew l (l.nextUnit * unitTasks l.lrec + i) core s
    let r := if nbit l.lrec.flags 0 then probe add l.lrec l.nextUnit s 65536 0 else placeLeast add l.lrec s
    r.map fun t => modSch (fun x => { x with launches := x.launches.map fun y => if y.uid = l.uid then { y with nextUnit := y.nextUnit + 1 } else y }) t

end Sys2Proof.Machine
end

