-- ==== Sys2Proof/Machine/Preempt.lean ====
section
/-! DEFINITION. Pre-emption and restoring of crews, save slots, and charging (06 R164, R186, 07 R204, 15 R402, 16 R421 to
R425). -/
namespace Sys2Proof.Machine

/-! ### The blocks of a save slot (07 R204, 16 R423, R424) -/

def vecBlock (k : Skein) : List Byte := ((List.range k.regs).map fun n => (laneList.map fun L => toBytes 4 (getV k.v n L).toNat).flatten).flatten
def uniBlock (k : Skein) : List Byte := ((List.range 64).map fun n => toBytes 8 (rdG k n).toNat).flatten
def predBlock (k : Skein) : List Byte := ((List.range 8).map fun n => toBytes 4 (rdP k n).toNat).flatten
def tileBlock (k : Skein) : List Byte := ((List.range (if k.tile16 then 16 else 8)).map fun n => toBytes 16 (rdT k n).toNat).flatten
def accBlock (k : Skein) : List Byte := ((List.range 8).map fun n => toBytes 8 (rdA k n).toNat).flatten
def meldCode (m : MeldSt) : Nat := match m with | .closed => 0 | .mapping => 1 | .opened => 2
def meldBlock (m : Meld) : List Byte :=
  toBytes 4 m.path.toNat ++ toBytes 1 (meldCode m.st) ++ toBytes 1 0 ++ toBytes 2 m.words ++ toBytes 8 m.addr.toNat ++
    padTo 16 (m.ta.map (BitVec.ofNat 8)) ++ padTo 16 (m.tb.map (BitVec.ofNat 8)) ++ toBytes 16 0
def entryBytes (e : Entry) : List Byte :=
  toBytes 8 e.pc.toNat ++ toBytes 4 e.mask.toNat ++ toBytes 2 (min 65535 e.lift) ++
    toBytes 1 (b2 e.lifted + 2 * b2 e.parked + 4 * b2 e.suspended) ++ toBytes 1 e.burst
def frontierBlock (l : List Entry) : List Byte := padTo 512 ((l.map entryBytes).flatten)
def bracketBytes (b : Option (Word64 × Word32)) : List Byte :=
  match b with | some x => toBytes 8 x.1.toNat ++ toBytes 4 x.2.toNat | none => toBytes 12 0

def specialBlock (k : Skein) : List Byte :=
  toBytes 8 k.fmode.toNat ++ toBytes 8 k.gang.toNat ++ toBytes 8 k.floor ++ toBytes 8 k.hCrew ++ toBytes 8 k.hCluster ++ toBytes 8 k.hDevice ++
    toBytes 8 k.hFabric ++ toBytes 8 (max k.lastG k.lastRead) ++ toBytes 8 k.epc.toNat ++ toBytes 8 k.frec.toNat ++ bracketBytes k.bracket ++ toBytes 4 k.gangIssues

def pendingBits (l : List TrapInfo) : Nat :=
  let has := fun (code cause : Nat) => l.any fun t => decide (t.code = code) && (decide (cause = 0) || decide (t.cause = cause))
  b2 (has 12 1) + 2 * b2 (has 12 2) + 4 * b2 (has 20 0) + 8 * b2 (has 14 1)

def skeinBlock (k : Skein) : List Byte :=
  let h : Held := k.held.getD { frontier := [], mask := 0#32, meld := {}, bracket := none }
  let conf := match k.pending.find? (fun t => decide (t.code = 14)) with
    | some t => toBytes 8 t.addr.toNat ++ toBytes 8 t.info0.toNat ++ toBytes 8 t.info1.toNat
    | none => []
  padTo 0x400 (padTo 0x360 (uniBlock k ++ predBlock k ++ padTo 256 (tileBlock k) ++ accBlock k) ++ meldBlock k.meld ++ specialBlock k) ++
    frontierBlock ((k.e :: k.rest).filter fun e => decide (e.mask ≠ 0#32)) ++
    padTo 0xA00 (padTo 0x250 (frontierBlock h.frontier ++ padTo 64 (if k.held.isSome then meldBlock h.meld else []) ++ bracketBytes h.bracket) ++
      toBytes 8 (pendingBits k.pending) ++ conf)

def recordImage (r : SpawnRec) : List Byte :=
  padTo 64 ((r.carry.map fun x => toBytes 4 x.toNat).flatten) ++ toBytes 8 r.entry.toNat ++ toBytes 1 r.ncarry ++ toBytes 1 r.kind ++ toBytes 2 r.skein ++
    toBytes 1 r.lane ++ toBytes 3 0 ++ padTo 48 r.extra

/-- The spawn area, records at their places. -/
def areaImage (c : Crew) : List Byte :=
  ((List.range (areaSize c)).map fun i => match c.recs.find? (fun r => decide (r.idx = i)) with | some r => recordImage r | none => List.replicate 128 0#8).flatten

def basketWord (c : Crew) (clocks i : Nat) : Nat :=
  let b : Basket := mget {} c.baskets i
  let st := match b.st with | .empty => 0 | .filling => 1 | .ready => 2
  min 0xFFFF (b.timer - clocks) + 2 ^ 16 * min 63 (if b.st = .empty then 0 else (basketRecs c b.key).length) + 2 ^ 22 * st

def headerBlock (c : Crew) (skeins engines clocks : Nat) : List Byte :=
  toBytes 4 c.tx ++ toBytes 4 c.ty ++ toBytes 4 c.tz ++ toBytes 1 c.ctx ++ toBytes 1 (b2 c.halted) ++ toBytes 2 skeins ++
    ((List.range 4).map fun b => let x : CrewBar := mget {} c.bars b; toBytes 4 (x.arrived.length + 256 * (x.gen % 2))).flatten ++
    toBytes 4 c.children ++ ((List.range 16).map fun i => toBytes 4 (basketWord c clocks i)).flatten ++ toBytes 1 engines

def feBlock (c : Crew) : List Byte :=
  (List.range 2048).map fun i => BitVec.ofNat 8 ((List.range 8).foldl (fun n j => n + 2 ^ j * b2 (isFull c (8 * i + j))) 0)

def accImage (c : Crew) : List Byte :=
  ((List.range (accuNeed c.lrec)).map fun u => ((List.range 4).map fun q => ((List.range 1024).map fun e =>
    toBytes 4 (mget 0#32 c.acc (8192 * q + 1024 * u + e)).toNat).flatten).flatten).flatten

/-- The state of a lane that is still to run, in the form of R352: of an mresume the record that it resumes, with the call that stopped it
and the one resolved before. -/
def laneState (o : Op) (L i : Nat) : List Byte :=
  let r := laneRun o L i
  match o.kind, r.first with
  | .mresume, _ =>
    let w := fun j => toBytes 4 (mget 0#32 o.lane (32 * j + L)).toNat
    ((List.range 16).map w).flatten ++ toBytes 8 (o.args.getD 1 0#64).toNat ++ [16#8, 3#8] ++ toBytes 2 o.sid ++ [BitVec.ofNat 8 L] ++ toBytes 3 0 ++
      ((List.range 12).map fun j => w (16 + j)).flatten
  | _, .ok m => recordImage (contRec o L r m { thit := 0, status := 0, node := 0, seg := (m.t, segEnd r.c m) })
  | _, .error _ => List.replicate 128 0#8

/-- Lane states of a march, by lane. -/
def laneStates (o : Op) : List Byte :=
  (laneList.map fun L =>
    match (lanesOf o.lanes).findIdx? fun x => decide (x = L) with
    | some i => if i < o.pos then List.replicate 128 0#8 else laneState o L i
    | none => List.replicate 128 0#8).flatten

/-- The captured issue state of an operation, its position among it; the layout of these 256 bytes is the model's (log entry 92). -/
def issueState (o : Op) : List Byte :=
  let mode := match o.kind with | .march iv => b2 iv | .mresume => 2 | .npairs => 0x19 | _ => 0x20
  let obj := match o.obj with | .none => (0, 0) | .va a => (1, a.toNat) | .scr off => (2, off)
  padTo 256 (toBytes 1 mode ++ toBytes 1 obj.1 ++ toBytes 2 o.sid ++ toBytes 4 o.lanes.toNat ++ toBytes 8 obj.2 ++ toBytes 8 o.count ++ toBytes 8 o.pos ++
    toBytes 4 o.status ++ toBytes 4 (b2 o.started + 2 * b2 o.taken) ++ toBytes 8 o.floor ++ toBytes 8 o.fmode.toNat ++ (o.args.map fun x => toBytes 8 x.toNat).flatten ++
    (((o.index.take 16).map (toBytes 8)).flatten))

def engineBlock (o : Op) : List Byte :=
  issueState o ++ (match o.kind with | .march _ => laneStates o | .mresume => laneStates o | _ => List.replicate 4096 0#8)

/-- The parts of a save slot: offset and bytes. -/
def slotImage (c : CrewRec) (ops : List Op) (clocks : Nat) : List (Nat × List Byte) :=
  let ks := sortBy (fun k : Skein => [k.sid]) c.skeins
  [(0, padTo 256 (headerBlock c.crew c.skeins.length ops.length clocks)), (0x100, feBlock c.crew), (0x1000, winBytes c.crew 0 (winSize c.crew) ++ areaImage c.crew),
   (0x41000, accImage c.crew)] ++ (ks.map fun k => (0x61000 + 4096 * k.sid, skeinBlock k)) ++
  [(0xA1000, (ks.map vecBlock).flatten)] ++ ops.zipIdx.map fun x => (0xE1000 + 0x1100 * x.2, engineBlock x.1)

/-! ### Save slots (R422) -/

def slotBase (s : State) (ctx i : Nat) : Nat := nb (preg s (ctxReg ctx 7)).toNat 47 20 * 2 ^ 20 + 2 ^ 20 * i

/-- A free slot of the context, beside those in `busy`, that names memory. -/
def freeSave (s : State) (ctx : Nat) (busy : List Nat) : Option Nat :=
  let used := busy ++ (s.sch.saved.filter fun r => decide (r.crewRec.crew.ctx = ctx)).map (·.slot)
  (List.range (nb (preg s (ctxReg ctx 7)).toNat 11 0)).find? fun i => !used.contains i && physOk (slotBase s ctx i) (2 ^ 20)

/-! ### Pre-emption (R421, R139) -/

/-- An operation of R139 as far as the crew `uid` is concerned: it writes into its window or counts into an object in it. -/
def holdsCrew (uid : Nat) (o : Op) : Bool :=
  (decide (o.cuid = uid) && !pureGlobal o) || (o.targets.any fun t => decide (t.1 = uid)) || (decide (o.kind = .cpy 5) && o.index.contains uid)

/-- A long operation stands at a boundary: between lanes or fragments, or between pair records, with no arrival to make (12 R353, 13 R376,
14 R391). -/
def atBoundary (o : Op) : Bool := isLong o.kind && !o.performed && !(decide (o.kind = .npairs) && o.started)

/-- Steps 2, 3 and 5 of R421 are done for the crew: its loads and atomics have returned, its stores that are not parked have a completion
time, its operations have ended or stand at a boundary. -/
def drained (s : State) (c : CrewRec) : Bool :=
  s.hm.inflight.all (fun x => decide (x.cuid ≠ c.crew.uid)) && c.skeins.all (fun k => decide (k.lastRead ≤ s.gtime) && decide (k.floor ≤ s.gtime) && !onTheWay k) &&
    s.en.ops.all fun o => !holdsCrew c.crew.uid o || atBoundary o

/-- The crew with a skein in focus, to ask what it waits for. -/
def viewCrew (c : CrewRec) (s : State) : State := { s with crew := c.crew, k := c.skeins.headD {}, peers := c.skeins.drop 1 }

/-- What the skein waits for at a barrier of a die, device or fabric level whose phase is not over, in lwait or in launch.wait (06 R164,
08 R252). -/
def wideWait (s : State) (k : Skein) : Option (Nat × Nat × Nat) :=
  match k.wait with
  | none => none
  | some w =>
    match w.kind, w.grans with
    | 6, _ => some (6, 0, 0)
    | 7, _ => (s.sch.waiters.find? fun x => decide (x.2 = k.uid)).map fun x => (7, x.1, k.uid)
    | 1, l :: b :: _ =>
      match myArrival k l b with
      | some a => if w.stage ≠ 2 ∧ 3 ≤ l ∧ 4 ≤ (levelRec s.crew.lrec l).domain ∧ !phaseOver a s then some (1, l, b) else none
      | none => none
    | _, _ => none

/-- What the counted skeins of a crew wait for when every one of them waits so; else nothing. -/
def crewWaits (c : CrewRec) (s : State) : List (Nat × Nat × Nat) :=
  let v := viewCrew c s
  let ws := (if c.skeins.isEmpty then [] else countedSkeins v).map (wideWait v)
  if ws.all (·.isSome) then ws.filterMap id else []

/-- The crews pre-empted together with a crew: those of its unit, a cluster-level or core-level instance, or itself (06 R159). -/
def companions (c : Crew) (s : State) : List CrewRec :=
  (allCrews s).filter fun x => decide (x.crew.launch = c.launch) && decide (x.crew.t / unitTasks c.lrec = c.t / unitTasks c.lrec)

/-- What a skein and a crew keep while saved: waits are given up, timers hold what remains. -/
def packSkein (k : Skein) : Skein := { k with wait := none, yielded := none }
def packCrew (clocks : Nat) (c : Crew) : Crew := { c with baskets := c.baskets.map fun b => (b.1, { b.2 with timer := b.2.timer - clocks }), ran := 0 }

/-- The crew leaves its core. -/
def removeCrew (c : Crew) (s : State) : State := leaveCore c (withCrews ((allCrews s).filter fun x => decide (x.crew.uid ≠ c.uid)) s)

def saveOne (group : Nat) (c : CrewRec) (s : State) : State :=
  match freeSave s c.crew.ctx [] with
  | none => s
  | some i =>
    let ops := s.en.ops.filter fun o => decide (o.cuid = c.crew.uid) && isLong o.kind
    let base := slotBase s c.crew.ctx i
    let s1 := (slotImage c ops s.clocks).foldl (fun s p => physWrite (base + p.1) p.2 s) s
    let s2 := chargeCrew c (c.skeins.foldl (fun s k => leaveLatches k.uid s) s1)
    let sv : Saved := { crewRec := { crew := packCrew s.clocks c.crew, skeins := c.skeins.map packSkein }, slot := i, group := group, waits := crewWaits c s }
    settleDeficit c.crew.queue (removeCrew c.crew (modSch (fun x => { x with saved := x.saved ++ [sv] }) s2))

/-- Save slots enough for every crew of a list, by context. -/
def slotsFor (s : State) : List CrewRec → List Nat → Bool
  | [], _ => true
  | c :: l, busy =>
    match freeSave s c.crew.ctx busy with
    | some i => slotsFor s l (busy ++ [i])
    | none => false

/-- Pre-empts a crew with its companions, when they are drained and have save slots. -/
def preempt (c : Crew) (s : State) : Option State :=
  let cs := companions c s
  if cs.all (drained s) && slotsFor s cs [] then
    some (cs.foldl (fun s x => saveOne (s.ids) x s) { s with ids := s.ids + 1 })
  else none

def crewAt (core slot : Nat) (s : State) : Option CrewRec := (allCrews s).find? fun c => decide (c.crew.core = core) && decide (c.crew.slot = slot)

def execPreemptCrew (core slot : Nat) (s : State) : Out :=
  match crewAt core slot s with
  | some c => (match preempt c.crew s with | some t => .next t | none => idle s)
  | none => idle s

/-! ### Restoring (R425, 04 R124) -/

def unpackSkein (clocks slot : Nat) (k : Skein) : Skein :=
  { k with slot := slot, lastIssue := clocks, since := clocks, hold := max k.hold (max (max k.hCrew k.hCluster) (max (max k.hDevice k.hFabric) (max k.lastG k.lastRead))) }

def unpackSkeins (clocks : Nat) : List Skein → List Nat → List Skein
  | [], _ => []
  | k :: l, used => let i := freeSlot used k.sid; unpackSkein clocks i k :: unpackSkeins clocks l (i :: used)

/-- Basket timers go on from what remained; stall timers start afresh, under the exponent that the context has now (06 R173, R425). -/
def unpackCrew (s : State) (core slot : Nat) (c : Crew) : Crew :=
  { c with
    core := core, slot := slot, restored := true, placedAt := s.gtime, baskets := c.baskets.map fun b => (b.1, { b.2 with timer := b.2.timer + s.clocks }),
    bars := c.bars.map fun b => (b.1, { b.2 with stand := b.2.stand.map fun _ => s.clocks, exp := ctxBstall s c.ctx }),
    levelArrs := c.levelArrs.map fun a => { a with clock := a.clock.map fun _ => s.clocks, exp := ctxBstall s c.ctx } }

/-- One saved crew comes back to `core`, if it fits; a cluster that was kept for it alone is kept no longer. -/
def addSaved (r : Saved) (core : Nat) (s : State) : Option State :=
  if fitsCore r.crewRec.crew (heldSids r.crewRec) core s then
    let s1 := enterFused r.crewRec.crew core s
    let c := unpackCrew s core (freeCrewSlot core s) r.crewRec.crew
    let ks := unpackSkeins s.clocks r.crewRec.skeins (usedSlots core s)
    let s2 := withCrews (allCrews s1 ++ [{ crew := c, skeins := ks }]) s1
    let s3 := modEn (fun e => { e with ops := e.ops.map fun o => if o.cuid = c.uid then { o with core := core, slot := c.slot } else o }) s2
    let s4 := modSch (fun x => { x with saved := x.saved.filter fun y => decide (y.crewRec.crew.uid ≠ c.uid) }) s3
    some (fitL1 core (leaveCore r.crewRec.crew s4))
  else none

def groupOf (g : Nat) (s : State) : List Saved := sortBy (fun r => [r.crewRec.crew.t]) (s.sch.saved.filter fun r => decide (r.group = g))

/-- What a saved crew waited for has come: the flip, the count of children, or room in the ring, or an answer of DENIED. -/
def waitOver (r : Saved) (s : State) (w : Nat × Nat × Nat) : Bool :=
  match w.1 with
  | 1 => r.crewRec.skeins.any fun k => match myArrival k w.2.1 w.2.2 with | some a => phaseOver a (viewCrew r.crewRec s) | none => false
  | 6 => decide (r.crewRec.crew.children = 0)
  | _ => decide (r.crewRec.crew.children = 0) || s.sch.denied.contains w.2.2 || (match openQueue s w.2.1 with | some q => !ringFull q | none => true)

/-- A saved group may come back: a crew that waited does so only when such a wait is over (06 R164). -/
def restorable (l : List Saved) (s : State) : Bool := l.any fun r => r.waits.isEmpty || r.waits.any (waitOver r s)

/-- A save slot with an uncorrectable word. -/
def saveBad (s : State) (r : Saved) : Bool :=
  let b := slotBase s r.crewRec.crew.ctx r.slot
  s.hm.memBad.any fun w => decide (b ≤ 8 * w) && decide (8 * w < b + 2 ^ 20)

/-- The context is killed by an uncorrectable error in a save slot; the record of trap 0x11, cause 0x02, is kept (R417, R425). -/
def slotKill (r : Saved) (s : State) : State :=
  let f := keepFatal false { code := 17, cause := 2, deferred := true } (viewCrew r.crewRec s)
  kill r.crewRec.crew.ctx 17 (countUncorr 1 { s with mgt := f.mgt })

/-- A saved group restored where it fits, its crews at their places in the unit and ended ones left out, or its context killed by an
uncorrectable error in a slot. -/
def restoreGroup (g : Nat) (s : State) : Option State :=
  match groupOf g s with
  | [] => none
  | r :: l =>
    if !restorable (r :: l) s then none
    else match (r :: l).find? (saveBad s) with
      | some x => some (slotKill x s)
      | none =>
        let lr := r.crewRec.crew.lrec
        let add := fun i core s => match (r :: l).find? (fun x => decide (x.crewRec.crew.t % unitTasks lr = i)) with | some x => addSaved x core s | none => some s
        placeLeast add lr s

def execRestoreCrew (n : Nat) (s : State) : Out := match restoreGroup n s with | some t => .next t | none => idle s

end Sys2Proof.Machine
end

