-- ==== Sys2Proof/Machine/Launch.lean ====
section
/-! DEFINITION. The launch manager: taking and checking launch records, refusal, the choice of the unit to place, and
pre-emption for a queue (06 R154 to R160, 15 R399 to R405, 06 R164). -/
namespace Sys2Proof.Machine

/-! ### Dependencies (06 R157) -/

def depUsed (d : DepRec) : Bool := nbit d.obj.toNat 0
def depAddr (d : DepRec) : Nat := d.obj.toNat / 16 * 16

/-- The object of a dependency can be read: it is tested by a read of PHASE, and no object lies in a host page (R127). -/
def depReadable (s : State) (ctx va : Nat) : Bool :=
  dataOk s ctx va 16 false && decide (va % 16 = 0) &&
    (match leafAt s ctx va with
     | some l => !(decide (l.resid = 1) && decide (l.home = 255))
     | none => false)

/-- A dependency that can be tested. -/
def depTestable (s : State) (ctx : Nat) (d : DepRec) : Bool :=
  decide (nb d.obj.toNat 3 1 = 0) && depReadable s ctx (depAddr d)

/-- The dependency holds, or it cannot be tested and blocks nothing (R399). -/
def depHolds (s : State) (ctx : Nat) (d : DepRec) : Bool :=
  !depUsed d || !depTestable s ctx d ||
    (match keyAt s ctx (depAddr d) with
     | some key => flipHolds (memNat s (key + 8) 4) d.flips
     | none => true)

/-! ### The checks of a record (06 R158, 15 R400) -/

/-- A barrier-object address: canonical and 16-byte aligned. -/
def objAddrOk (a : Nat) : Bool := canonical a && decide (a % 16 = 0)

def fieldsBad (r : LaunchRec) : Bool :=
  !canonical r.entry.toNat || decide (r.entry.toNat % 4 ≠ 0) || nbit r.flags 7 || decide (nb r.flags 31 11 ≠ 0) || decide (nb r.flags 3 2 = 3) ||
    decide (4 < nb r.flags 6 4) || nbit r.alloc 7 || decide (nb r.alloc 15 12 ≠ 0) || decide (nb r.alloc 31 21 ≠ 0) || decide (r.res28 ≠ 0) ||
    decide (r.res236 ≠ 0) || decide (r.gx = 0) || decide (r.gy = 0) || decide (r.gz = 0) || !(decide (r.done = 0#64) || objAddrOk r.done.toNat) ||
    r.roles.any (fun o => decide (nb o.mode 7 3 ≠ 0) || decide (o.b3 ≠ 0) || (decide (o.skeins ≠ 0) && decide (o.entryOff % 4 ≠ 0))) ||
    r.levels.any (fun l => decide (l.res ≠ 0) || (decide (l.size ≠ 0) && !objAddrOk l.barrier.toNat)) ||
    r.deps.any (fun d => decide (d.res ≠ 0) || decide (nb d.obj.toNat 3 1 ≠ 0) || (depUsed d && !canonical (depAddr d))) ||
    (nbit r.flags 0 && !(canonical r.merges.toNat && decide (r.merges.toNat % 64 = 0)))

def allocBad (r : LaunchRec) : Bool :=
  decide (64 < nb r.alloc 6 0) || decide (8 < nb r.alloc 11 8) || decide (16 < nb r.alloc 20 16) || decide (64 < nb r.alloc 6 0 + nb r.alloc 20 16)

def basketsBad (r : LaunchRec) : Bool :=
  if nbit r.flags 10 then decide (nb r.alloc 20 16 = 0) || decide ((r.roles.getD (nb r.flags 9 8) {}).skeins = 0)
  else decide (nb r.flags 9 8 ≠ 0) || decide (nb r.alloc 20 16 ≠ 0)

def rolesBad (r : LaunchRec) : Bool :=
  decide ((r.roles.getD 0 {}).skeins = 0) || decide (64 < skeinTotal r) ||
    r.roles.any (fun o => decide (o.skeins ≠ 0) && !([8, 16, 32, 64, 128].contains o.regs)) ||
    (List.range 4).any fun q => let n := quadNeed r (roleSids r) q; decide (512 < n.2.1) || decide (128 < n.2.2)

/-- `n` crews of the record fit on one empty core. -/
def fitsEmpty (r : LaunchRec) (n : Nat) : Bool :=
  decide (n ≤ 64) && decide (n * barNeed r ≤ 16) && decide (n * accuNeed r ≤ 8) && (List.range 4).all fun q =>
    let x := quadNeed r (roleSids r) q
    decide (n * x.1 ≤ 16) && decide (n * x.2.1 ≤ 512) && decide (n * x.2.2 ≤ 128) && decide (n * bankNeed r q ≤ 16)

/-- Core-level instances of `k` crews that one empty core holds. -/
def groupsPerCore (r : LaunchRec) (k : Nat) : Nat := ((List.range 65).filter fun g => fitsEmpty r (g * k)).foldl max 0

def minScope (d : Nat) : Nat := match d with | 2 => 2 | 3 => 2 | 4 => 3 | 5 => 3 | _ => 4

def monotone : List Nat → Bool
  | a :: b :: l => decide (a ≤ b) && monotone (b :: l)
  | _ => true

def levelsBad (r : LaunchRec) : Bool :=
  let ls := usedLevels r
  !((r.levels.drop ls.length).all fun l => decide (l.size = 0)) || ls.any (fun l => decide (l.domain < 2) || decide (6 < l.domain)) || !monotone (ls.map (·.domain)) ||
    ls.any (fun l => decide (l.scope < minScope l.domain) || decide (4 < l.scope)) || (ls.dropLast.any fun l => decide (l.domain = 6)) ||
    decide (taskCount r % levelTasks r (2 + ls.length) ≠ 0) || !fitsEmpty r (coreTasks r) ||
    (match domainTasks r 3 with
     | some n => decide (16 * groupsPerCore r (coreTasks r) < n / coreTasks r)
     | none => false)

/-- The merge table: base and length of each entry. -/
def mergeTable (b : List Byte) : List (Nat × Nat) := (List.range 8).map fun i => (leAt b (16 * i) 8, leAt b (16 * i + 8) 8)

def disjoint : List (Nat × Nat) → Bool
  | [] => true
  | x :: l => l.all (fun y => decide (x.1 + x.2 ≤ y.1) || decide (y.1 + y.2 ≤ x.1)) && disjoint l

def detBad (r : LaunchRec) (table : Option (List (Nat × Nat))) : Bool :=
  if !nbit r.flags 0 then decide (r.seed ≠ 0#64) || decide (r.merges ≠ 0#64) || decide (r.patchBase ≠ 0#64) || decide (r.cap ≠ 0)
  else
    decide (r.cap = 0) || decide (65536 < r.cap) || decide (r.patchBase.toNat % 65536 ≠ 0) || decide (nb r.patchBase.toNat 63 55 ≠ 511) ||
      decide (2 ^ 64 < r.patchBase.toNat + 32 * r.cap * taskCount r) ||
      ((List.range (usedLevels r).length).map (3 + ·)).any (fun l => decide (3 ≤ (levelRec r l).scope) && decide (levelTasks r l ≠ taskCount r)) ||
      (match table with
       | none => false
       | some l =>
         let u := l.filter fun x => decide (x.2 ≠ 0)
         u.isEmpty || u.any (fun x => decide (x.1 % 64 ≠ 0) || decide (x.2 % 64 ≠ 0) || (rangeCheck x.1 x.2).isSome) || !disjoint u)

/-- Bytes of a level's object array. -/
def levelInstances (r : LaunchRec) (l : Nat) : Nat := taskCount r / levelTasks r l

/-- The merge ranges of a deterministic record whose table can be read. -/
def readTable (rd : Reader) (s : State) (ctx : Nat) (r : LaunchRec) : Option (List (Nat × Nat)) :=
  if nbit r.flags 0 then (recordAt rd s ctx r.merges.toNat 128).map mergeTable else none

/-- ENTRY, the merge table or an object cannot be accessed in the context. -/
def accessBad (rd : Reader) (s : State) (ctx : Nat) (r : LaunchRec) : Bool :=
  !dataOk s ctx r.entry.toNat 4 false || (nbit r.flags 0 && (readTable rd s ctx r).isNone) ||
    (decide (r.done ≠ 0#64) && !dataOk s ctx r.done.toNat 16 true) ||
    r.deps.any (fun d => depUsed d && !depReadable s ctx (depAddr d)) ||
    ((List.range (usedLevels r).length).map (3 + ·)).any fun l => !dataOk s ctx (levelRec r l).barrier.toNat (16 * max 1 (levelInstances r l)) true

/-- The code of the refusal, 0 for a sound record (R400). -/
def recordCode (rd : Reader) (s : State) (ctx : Nat) (raw : Option (List Byte)) : Nat :=
  if !ctxValid s ctx || isKilled s ctx then 8
  else match raw with
    | none => 7
    | some b =>
      let r := launchOf b
      if fieldsBad r then 1 else if allocBad r then 2 else if basketsBad r then 3 else if rolesBad r then 4 else if levelsBad r then 5
      else if detBad r (readTable rd s ctx r) then 6 else if accessBad rd s ctx r then 7 else 0

/-! ### Taking a record (15 R399) -/

/-- The record in a ring slot. -/
def slotRecord (s : State) (q : Queue) (i : Nat) : Option (List Byte) :=
  recordAt (slotReader q.n i) s q.ctx (q.ring.toNat + 256 * (i % q.size)) 256

/-- The READs of host pages that the record at HEAD and its merge table still need (17 R432). -/
def headGaps (s : State) (q : Queue) : List (Nat × Nat × Nat) :=
  hostGaps (slotReader q.n q.head) s q.ctx (q.ring.toNat + 256 * (q.head % q.size)) 256 ++
    (match slotRecord s q q.head with
     | some b => if nbit (launchOf b).flags 0 then hostGaps (slotReader q.n q.head) s q.ctx (launchOf b).merges.toNat 128 else []
     | none => [])

/-- The conditions of R399 but for the dependencies. -/
def headDue (s : State) (q : Queue) : Bool :=
  let h := q.head
  computeOn s && decide (h < q.tail) && s.sch.launches.all (fun l => !(decide (l.queue = q.n) && decide (l.nextUnit < unitCount l.lrec))) &&
    !(nbit q.flags 0 && s.sch.launches.any fun l => decide (l.uid = q.last)) &&
    s.sch.appends.all (fun a => !(decide (a.1 = q.n) && decide (a.2.1 = h) && (decide (s.gtime ≤ a.2.2.1) || underWay a.2.2.2 s)))

/-- The record at HEAD may be taken. -/
def takeable (s : State) (q : Queue) : Bool :=
  headDue s q && (headGaps s q).isEmpty && (match slotRecord s q q.head with | some b => (launchOf b).deps.all (depHolds s q.ctx) | none => true)

/-- A refused record's arrival on DONE (R400). -/
def refusedDone (ctx : Nat) (raw : Option (List Byte)) (s : State) : State :=
  match raw with
  | none => s
  | some b => let d := (launchOf b).done; if d ≠ 0#64 ∧ objAddrOk d.toNat then arriveVa ctx d 16 stFAULT none false s else s

def refuse (q : Queue) (h code : Nat) (raw : Option (List Byte)) (parent : Option Nat) (s : State) : State :=
  let s1 := setRefused q.n ((q.refused + 1) % 2 ^ 32) s
  let s2 := if q.errCode = 0 then setErr q.n code h s1 else s1
  let s3 := refusedDone q.ctx raw s2
  settleDeficit q.n (match parent with | some u => childEnded u s3 | none => s3)

/-- The objects of one level, as the manager writes them (06 R160). -/
def levelImage (r : LaunchRec) (l : Nat) : List Byte :=
  ((List.range (levelInstances r l)).map fun _ => toBytes 4 (16 * levelTasks r l) ++ List.replicate 12 0#8).flatten

/-- Writes every level object but those of a fabric level; the time their stores complete. -/
def writeLevels (op ctx : Nat) (r : LaunchRec) (s : State) : State × Nat :=
  ((List.range (usedLevels r).length).map (3 + ·)).foldl (fun acc l =>
    if (levelRec r l).domain = 6 then acc
    else
      let va := (levelRec r l).barrier.toNat
      let s1 := storeVa op ctx va (levelImage r l) acc.1
      (s1, max acc.2 (lastTime s1 ((List.range (levelInstances r l)).filterMap fun i => keyAt s1 ctx (va + 16 * i))))) (s, 0)

/-- A sound record becomes a launch: its level objects are written, and no instruction cache keeps a line of its context (02 R64). -/
def accept (q : Queue) (h : Nat) (b : List Byte) (parent : Option Nat) (s : State) : State :=
  let r := launchOf b
  let w := writeLevels (s.ids + 1) q.ctx r s
  let l : Launch := { uid := s.ids + 1, queue := q.n, ctx := q.ctx, lrec := r, start := s.gtime,
                      mergeRanges := ((readTable (slotReader q.n h) s q.ctx r).getD []).filter fun x => decide (x.2 ≠ 0), ready := w.2, crewsLeft := taskCount r, parent := parent }
  modHm (fun h => { h with code := h.code.filter fun x => decide (x.ctx ≠ q.ctx) })
    (modQueue q.n (fun x => { x with last := l.uid }) (modSch (fun x => { x with launches := x.launches ++ [l] }) { w.1 with ids := s.ids + 1 }))

/-- Copies the record at HEAD, advances HEAD, and checks the record. -/
def takeFrom (q : Queue) (s : State) : State :=
  let h := q.head
  let raw := slotRecord s q h
  let parent := (q.parents.find? fun p => decide (p.2 = h)).map (·.1)
  let s1 := setHead q.n (h + 1) s
  let s2 := modSch (fun x => { x with appends := x.appends.filter fun a => !(decide (a.1 = q.n) && decide (a.2.1 = h)) }) s1
  let s3 := modQueue q.n (fun x => { x with parents := x.parents.filter fun p => decide (p.2 ≠ h) }) s2
  let rd := slotReader q.n h
  dropHostReads rd.1 (match recordCode rd s q.ctx raw, raw with
    | 0, some b => accept q h b parent s3
    | c, _ => refuse q h c raw parent s3)

def execTakeRecord (n : Nat) (s : State) : Out :=
  match openQueue s n with
  | none => idle s
  | some q =>
    if takeable s q then .next (takeFrom q s)
    else if headDue s q then .next ((headGaps s q).foldl (askHost (slotReader q.n q.head) q.ctx) s) else idle s

/-! ### Choosing a unit (15 R401, R403) -/

/-- The unit at the front of a queue: saved crews that may come back, else the next unit of its oldest launch. -/
inductive Front where
  | none
  | group (g : Nat)
  | unit (l : Launch)
  deriving DecidableEq, Repr

def frontOf (s : State) (n : Nat) : Front :=
  match s.sch.saved.find? fun r => decide (r.crewRec.crew.queue = n) && restorable (groupOf r.group s) s with
  | some r => .group r.group
  | none =>
    match s.sch.launches.find? fun l => decide (l.queue = n) && decide (l.nextUnit < unitCount l.lrec) with
    | some l => if s.gtime ≤ l.ready || underWay l.uid s then .none else .unit l
    | none => .none

def placeFront (n : Nat) (s : State) : Option State :=
  match frontOf s n with
  | .none => none
  | .group g => restoreGroup g s
  | .unit l => placeNext l s

def placeable (s : State) (n : Nat) : Bool := (placeFront n s).isSome

/-- The front unit exists and fits nowhere. -/
def blocked (s : State) (n : Nat) : Bool := decide (frontOf s n ≠ .none) && !placeable s n

/-- The queues of a level from the pointer on, wrapping round. -/
def ringFrom (p : Nat) (l : List Nat) : List Nat := l.filter (fun n => decide (p ≤ n)) ++ l.filter fun n => decide (n < p)

def deficit (s : State) (n : Nat) : Int := ((findQueue s n).map (·.deficit)).getD 0
def quantumOf (s : State) (n : Nat) : Nat := ((findQueue s n).map (·.quantum)).getD 1

/-- Quanta a queue needs before its deficit is positive. -/
def rounds (s : State) (n : Nat) : Nat :=
  if 0 < deficit s n then 0 else (-(deficit s n)).toNat / max 1 (quantumOf s n) + 1

/-- The first queue of the ring with the fewest rounds. -/
def winner (s : State) : List Nat → Option Nat
  | [] => none
  | n :: l =>
    match winner s l with
    | none => some n
    | some m => if rounds s n ≤ rounds s m then some n else some m

/-- The quanta that the loop of R403 adds before the winner is served. -/
def addQuanta (w r : Nat) : List Nat → State → State
  | [], s => s
  | n :: l, s =>
    let times := fun (k : Nat) (s : State) => if k = 0 then s else setDeficit n (satInt64 (deficit s n + k * quantumOf s n)) s
    if n = w then l.foldl (fun s m => if r = 0 then s else setDeficit m (satInt64 (deficit s m + r * quantumOf s m)) s) (times r s)
    else addQuanta w r l (times (r + 1) s)

/-- decide(level) (R403). -/
def placeLevel (level : Nat) (s : State) : Option State :=
  let qs := (s.sch.queues.filter fun q => decide (q.prio = level)).map (·.n)
  let ring := (ringFrom (mget 0 s.sch.ptr level) qs).filter (placeable s)
  match winner s ring with
  | none => none
  | some w =>
    let s1 := addQuanta w (rounds s w) ring s
    (placeFront w s1).map fun t => settleDeficit w (modSch (fun x => { x with ptr := mset 0 x.ptr level (w + 1) }) t)

/-- The priority levels in use, highest first. -/
def levelsDown (s : State) : List Nat := ((List.range 256).map (255 - ·)).filter fun p => s.sch.queues.any fun q => decide (q.prio = p)

def execPlaceUnit (s : State) : Out :=
  if !computeOn s then idle s
  else match (levelsDown s).findSome? (fun p => placeLevel p s) with
    | some t => .next t
    | none => idle s

/-! ### Pre-emption by the manager (15 R405, 06 R164) -/

def prioOf (s : State) (n : Nat) : Nat := ((findQueue s n).map (·.prio)).getD 0

/-- The victims in order: waiting crews first, then the lowest level, then the crew placed last. -/
def victims (s : State) (prio : Nat) : List CrewRec :=
  let l := (allCrews s).filter fun c => decide (prioOf s c.crew.queue < prio)
  sortBy (fun c => [b2 (crewWaits c s).isEmpty, prioOf s c.crew.queue, s.gtime - c.crew.placedAt, s.ids - c.crew.uid]) l

/-- What stands at the front of a queue: a group's number, or a launch's and its unit's; every group and launch has a number of its own. -/
def frontId (s : State) (n : Nat) : Option (Nat × Nat) :=
  match frontOf s n with
  | .none => none
  | .group g => some (g, 0)
  | .unit l => some (l.uid, l.nextUnit)

/-- The unit that stands at the front now has fitted nowhere for 100 µs. -/
def longStuck (s : State) (q : Queue) : Bool :=
  match q.stuck, frontId s q.n with
  | some (t, a, b), some f => decide ((a, b) = f) && decide (t + 100000 ≤ s.gtime) && blocked s q.n
  | _, _ => false

def execPriorityPreemption (n : Nat) (s : State) : Out :=
  match findQueue s n with
  | none => idle s
  | some q =>
    if nbit q.flags 1 && longStuck s q then
      match (victims s q.prio).find? fun c => slotsFor s (companions c.crew s) [] with
      | some c => (match preempt c.crew s with | some u => .next u | none => idle s)
      | none => idle s
    else idle s

/-- A crew that only waits leaves its core to unplaced crews (R164) of a higher level, since no crew is pre-empted to make room for a level equal
to its own or lower (R405, log entry 96). -/
def execPreemptWaitingCrew (core slot : Nat) (s : State) : Out :=
  match crewAt core slot s with
  | none => idle s
  | some c =>
    if !(crewWaits c s).isEmpty && s.sch.queues.any (fun q => decide (prioOf s c.crew.queue < q.prio) && blocked s q.n) then
      match preempt c.crew s with
      | some t => .next t
      | none => idle s
    else idle s

def stuckSince (s : State) (q : Queue) : Queue :=
  match (if nbit q.flags 1 && blocked s q.n then frontId s q.n else none) with
  | none => { q with stuck := none }
  | some f => if (q.stuck.map (·.2)) = some f then q else { q with stuck := some (s.gtime, f) }

/-- The clock of R405 for every queue, at a tick of global time. -/
def noteStuck (s : State) : State := modSch (fun x => { x with queues := x.queues.map (stuckSince s) }) s

end Sys2Proof.Machine
end

