-- ==== Sys2Proof/Machine/Ends.lean ====
section
/-! DEFINITION. Basket launches, ends of skeins, crews and launches, merges of deterministic launches, and the watchdog
(05 R149, R150, 06 R181 to R185, 16 R419). -/
namespace Sys2Proof.Machine

/-! ### Baskets (06 R181, R182) -/

def basketAt (c : Crew) (i : Nat) : Basket := mget {} c.baskets i
def setBasket (i : Nat) (b : Basket) (c : Crew) : Crew := { c with baskets := mset {} c.baskets i b }

def execBasketTimerExpiry (core slot n : Nat) (s : State) : Out :=
  match crewAt core slot s with
  | none => idle s
  | some c =>
    let b := basketAt c.crew n
    if b.st = .filling ∧ b.timer ≤ s.clocks then .next (modCrew c.crew.uid (setBasket n { b with st := .ready }) s) else idle s

/-- Ready baskets with the order of their first records. -/
def readyBaskets (c : Crew) : List (Nat × Nat) :=
  (List.range 16).filterMap fun i =>
    let b := basketAt c i
    if b.st = .ready then (match basketRecs c b.key with | r :: _ => some (r.order, i) | [] => none) else none

def oldestReady (c : Crew) : Option Nat :=
  ((readyBaskets c).foldl (fun (m : Option (Nat × Nat)) x => match m with
    | some b => if x.1 < b.1 then some x else some b
    | none => some x) none).map (·.2)

/-- The lowest free skeinid of the basket role. -/
def basketSid (c : CrewRec) : Option (Nat × Nat) :=
  (roleSids c.crew.lrec).find? fun x => decide (x.2 = nb c.crew.lrec.flags 9 8) && c.skeins.all fun k => decide (k.sid ≠ x.1)

/-- The carried registers of the lanes, lane k from the k-th record. -/
def carried (recs : List SpawnRec) : SMap Word32 :=
  recs.zipIdx.foldl (fun m x => (x.1.carry.take x.1.ncarry).zipIdx.foldl (fun m y => mset 0#32 m (32 * y.2 + x.2) y.1) m) []

/-- The skein that runs records of one basket. -/
def basketSkein (s : State) (c : CrewRec) (key : Word64) (recs : List SpawnRec) (x : Nat × Nat) : Skein :=
  let k := newSkein s c.crew (s.ids + 1) (freeSlot (usedSlots c.crew.core s) x.1) x.1 x.2
  { k with basket := true, v := carried recs, e := { pc := key, mask := maskOf fun L => decide (L < recs.length) }, laneRecs := recs.zipIdx.map fun y => (y.2, y.1.idx) }

/-- The basket and its records after a launch of `taken`. -/
def afterLaunch (btimer clocks i : Nat) (taken : List SpawnRec) (c : Crew) : Crew :=
  let b := basketAt c i
  let c1 := { c with recs := c.recs.map fun r => if taken.any (fun t => decide (t.idx = r.idx)) then { r with started := true } else r }
  let left := (basketRecs c1 b.key).length
  setBasket i (if left = 0 then {} else if 32 ≤ left then b else { b with st := .filling, timer := clocks + btimer }) c1

def addSkein (uid : Nat) (k : Skein) (s : State) : State :=
  withCrews ((allCrews s).map fun c => if c.crew.uid = uid then { c with skeins := c.skeins ++ [k] } else c) s

def execBasketLaunch (core slot : Nat) (s : State) : Out :=
  match crewAt core slot s with
  | none => idle s
  | some c =>
    match oldestReady c.crew, basketSid c with
    | some i, some x =>
      let key := (basketAt c.crew i).key
      let recs := (basketRecs c.crew key).take 32
      let k := basketSkein s c key recs x
      .next (addSkein c.crew.uid k (modCrew c.crew.uid (fun c => forceFull (afterLaunch (ctxBtimer s c.ctx) s.clocks i recs c)) { s with ids := s.ids + 1 }))
    | _, _ => idle s

/-! ### Skeins and tracker entries (06 R183, R184) -/

def execSkeinEnd (r : Ref) (s : State) : Out :=
  match focusOn r s with
  | none => idle s
  | some s1 => if liveMask s1.k = 0#32 ∧ storesDone 3 s1 then .next (removeSkein s1) else idle s

def execRetirementEntryFree (n : Nat) (s : State) : Out :=
  match s.sch.tracker.find? fun t => decide (t.n = n) with
  | none => idle s
  | some t =>
    if s.hm.inflight.all (fun x => decide (x.uid ≠ t.uid)) && s.en.ops.all (fun o => !(decide (o.uid = t.uid) && !isTileOp o.kind)) then
      .next (modSch (fun x => { x with tracker := x.tracker.filter fun y => decide (y.n ≠ n) }) s)
    else idle s

/-! ### The end of a launch (06 R185) -/

def findLaunch (s : State) (uid : Nat) : Option Launch := s.sch.launches.find? fun l => decide (l.uid = uid)
def modLaunch (uid : Nat) (f : Launch → Launch) (s : State) : State :=
  modSch (fun x => { x with launches := x.launches.map fun l => if l.uid = uid then f l else l }) s

/-- The launch is over: its arrival on DONE is still to be made, once every byte that its crews stored is covered. -/
def endLaunch (l : Launch) (s : State) : State :=
  let done : List DoneRec := if l.lrec.done = 0#64 then [] else [{ uid := l.uid, ctx := l.ctx, va := l.lrec.done, crews := l.crews, hor := l.hor }]
  let s2 := match l.parent with | some u => childEnded u s | none => s
  settleDeficit l.queue (modSch (fun x => { x with dones := x.dones ++ done, launches := x.launches.filter fun y => decide (y.uid ≠ l.uid) }) s2)

/-- The arrival of a launch as an access of its context. -/
def doneOp (d : DoneRec) : Op := { id := 2 ^ 65 + d.uid, uid := 0, cuid := 0, core := 0, slot := 0, ctx := d.ctx, sid := 0, kind := .accz, obj := .va d.va }

/-- No byte that the launch's crews stored is parked, under way, or not yet seen everywhere. -/
def doneCovered (d : DoneRec) (s : State) : Bool :=
  s.hm.parked.all (fun p => !d.crews.contains p.cuid) && s.hm.inflight.all (fun p => !d.crews.contains p.cuid) && decide (d.hor < s.gtime)

/-- The manager makes an arrival on DONE that is due; it asks for an ABSENT page of the object, and an object that cannot be accessed any
longer gets none. -/
def serveDone (s : State) (d : DoneRec) : State :=
  if !doneCovered d s then s
  else match objWaits (doneOp d) s with
    | some n => opRequest (doneOp d) n s
    | none =>
      let s1 := match pageSt (doneOp d) .atomic d.va.toNat s with | .ok _ => arriveVa d.ctx d.va 16 0 none false s | _ => s
      forgetPages (doneOp d).id (modSch (fun x => { x with dones := x.dones.filter fun y => decide (y.uid ≠ d.uid) }) s1)

def serveDones (s : State) : State := s.sch.dones.foldl serveDone s

/-- The four conditions of R185: no skein, no record, no tracker entry, no operation of R139 (log entry 23). -/
def crewOver (c : CrewRec) (s : State) : Bool :=
  c.skeins.isEmpty && c.crew.recs.isEmpty && s.sch.tracker.all (fun t => decide (t.cuid ≠ c.crew.uid)) &&
    s.en.ops.all fun o => !holdsCrew c.crew.uid o

def endCrew (c : CrewRec) (s : State) : State :=
  let s1 := removeCrew c.crew (chargeCrew c s)
  let s2 := modLaunch c.crew.launch (fun l => { l with crewsLeft := l.crewsLeft - 1, hor := max l.hor c.crew.hor, patches := if c.crew.patch = [] then l.patches else l.patches ++ [(c.crew.t, c.crew.patch)] }) s1
  let s3 := settleDeficit c.crew.queue s2
  match findLaunch s3 c.crew.launch with
  | some l => if l.crewsLeft = 0 ∧ !nbit l.lrec.flags 0 then endLaunch l s3 else s3
  | none => s3

def execCrewEnd (core slot : Nat) (s : State) : Out :=
  match crewAt core slot s with
  | none => idle s
  | some c =>
    if !crewOver c s then idle s
    else if !c.crew.defStores.isEmpty then .next (kill c.crew.ctx 0xFE s)
    else .next (endCrew c s)

/-! ### Merges (05 R149, R150) -/

/-- What earlier tasks of the merge have left: bytes, and who touched each byte first and how. -/
structure Merging where
  bytes : SMap Byte := []
  owner : SMap (Nat × PatchByte) := []
  deriving DecidableEq, Repr

/-- Two tasks' states of one byte conflict (R150). -/
def clash (a b : PatchByte) : Bool :=
  match a, b with
  | .merged _ o n _, .merged _ p m _ => decide (o ≠ p) || decide (n ≠ m)
  | _, _ => true

/-- The first byte of a patch that conflicts with a lower task, and that task. -/
def clashWith (m : Merging) (p : SMap PatchByte) : Option (Nat × Nat) :=
  p.findSome? fun e => match m.owner.find? (fun o => decide (o.1 = e.1)) with
    | some (_, i, x) => if clash x e.2 then some (e.1, i) else none
    | none => none

/-- The byte at a virtual address in a context as the home's order leaves it. -/
def mergeBase (s : State) (ctx va : Nat) : Byte := match keyAt s ctx va with | some k => finalByte s k | none => 0#8

def mergeByte (s : State) (ctx : Nat) (m : SMap Byte) (va : Nat) : Byte :=
  match m.find? (fun e => decide (e.1 = va)) with
  | some (_, b) => b
  | none => mergeBase s ctx va

/-- Applies one task's patch: plain bytes are stored, a merged word once at its first byte. -/
def applyPatch (s : State) (ctx t : Nat) (p : SMap PatchByte) (m : Merging) : Merging :=
  let bytes := p.foldl (fun b e => match e.2 with
    | .plain v => mputAny b e.1 v
    | .merged w o n x =>
      if e.1 ≠ w then b
      else
        let old := ofBytes ((List.range n).map fun i => mergeByte s ctx b (w + i))
        let new := toBytes n (atomicOp o n old x.toNat 0)
        (List.range n).foldl (fun b i => mputAny b (w + i) (new.getD i 0#8)) b) m.bytes
  let owner := p.foldl (fun o e => if o.any (fun y => decide (y.1 = e.1)) then o else mputAny o e.1 (t, e.2)) m.owner
  { bytes := bytes, owner := owner }

def conflictTrap (va i j : Nat) : TrapInfo :=
  { code := 14, cause := 1, addr := w64 va, info0 := w64 i, info1 := w64 j, deferred := true, after := true }

/-- Every patch in task order, up to the first conflict. -/
def applyAll (s : State) (ctx : Nat) : List (Nat × SMap PatchByte) → Merging → SMap Byte × Option TrapInfo
  | [], m => (m.bytes, none)
  | (t, p) :: l, m =>
    match clashWith m p with
    | some (va, i) => (m.bytes, some (conflictTrap va i t))
    | none => applyAll s ctx l (applyPatch s ctx t p m)

/-- The patches of a launch by task: crews resident, saved and ended. -/
def launchPatches (l : Launch) (s : State) : List (Nat × SMap PatchByte) :=
  let live := ((allCrews s).map (·.crew) ++ s.sch.saved.map (·.crewRec.crew)).filter fun c => decide (c.launch = l.uid)
  sortBy (fun x => [x.1]) (((live.map fun c => (c.t, c.patch)) ++ l.patches).filter fun x => !x.2.isEmpty)

/-- The merge's accesses, as those of an operation of the launch's context. -/
def mergeOp (l : Launch) : Op := { id := 2 ^ 64 + l.uid, uid := 0, cuid := 0, core := 0, slot := 0, ctx := l.ctx, sid := 0, kind := .accz, obj := .none }

/-- The cause of R36 for a byte that a merge cannot store: how its request ended, or the lost permission or mapping. -/
def failCause (o : Op) (s : State) (va : Nat) : Nat :=
  match s.xl.failing.find? (fun f => decide (f.op = o.id) && decide (f.page ≤ va) && decide (va < f.page + f.size)) with
  | some f => f.cause
  | none => 3

/-- The first byte that cannot be stored, with the cause of its deferred store fault (01 R36). -/
def mergeFail (o : Op) (s : State) (m : SMap Byte) : Option (Nat × Nat) :=
  m.findSome? fun e => match pageSt o .write e.1 s with
    | .ok _ => none
    | .gone => some (e.1, 2)
    | _ => some (e.1, failCause o s e.1)

/-- Empties every patch of a launch. -/
def clearPatches (l : Launch) (s : State) : State :=
  let f := fun c : Crew => if c.launch = l.uid then { c with patch := [] } else c
  let g := fun r : CrewRec => { r with crew := f r.crew }
  let s1 := { s with crew := f s.crew, others := s.others.map g }
  modSch (fun x => { x with saved := x.saved.map fun r => { r with crewRec := g r.crewRec } }) s1

/-- The merged bytes as stores at their homes, with the time that must pass. -/
def storeMerged (o : Op) (m : SMap Byte) (s : State) : State × Nat :=
  let full := m.filterMap fun e => match pageSt o .write e.1 s with | .ok leaf => some (e.1, keyOf leaf e.1, e.2) | _ => none
  let cells := full.map (·.2)
  let lines := quotients 64 cells
  let vaOf := fun line => ((full.find? fun c => decide (c.2.1 / 64 = line)).map (·.1)).getD 0
  let first := fun line => match pageSt o .write (vaOf line) s with | .ok leaf => nbit leaf.cpol 1 | _ => false
  let s1 := lines.foldl (engLine o vaOf first cells) s
  (s1, lines.foldl (fun t line => max t (mget 0 s1.hm.lineC line)) 0)

/-- δ of a level's scope; the end of a launch is device scope, or fabric scope for a DONE elsewhere. -/
def mergeDelta (l : Launch) (level : Nat) (s : State) : Nat :=
  if level = 0 then (match keyAt s l.ctx l.lrec.done.toNat with | some k => deltaOf k | none => 2)
  else if (levelRec l.lrec level).scope = 4 then 25 else 2

/-- The patches are applied, or the pages they need are asked for (stage A). -/
def mergeApply (l : Launch) (level : Nat) (s : State) : State :=
  let o := mergeOp l
  let ps := launchPatches l s
  let need := ps.flatMap fun p => p.2.map fun e => Need.mem .write e.1 1
  match waitingPages o need s with
  | [] =>
    let r := applyAll s l.ctx ps {}
    let bad := mergeFail o s r.1
    let w := storeMerged o r.1 s
    let traps := r.2.toList ++ (bad.map fun b => failTrap b.1 b.2).toList
    let s1 := forgetPages o.id (clearPatches l w.1)
    modLaunch l.uid (fun x => { x with
      patches := [], mergeArr := x.mergeArr.filter (fun a => decide (a.1 ≠ level)),
      merged := x.merged.filter (fun a => decide (a.1 ≠ level)) ++ [(level, max 1 (w.2 + mergeDelta l level s), traps)] }) s1
  | ws => ws.foldl (fun s n => opRequest o n s (stores := true)) s

/-- Every task has arrived at the merge point. -/
def mergeReady (l : Launch) (level : Nat) : Bool :=
  if level = 0 then decide (l.crewsLeft = 0) else decide (3 ≤ level) && decide (taskCount l.lrec ≤ (l.mergeArr.filter fun a => decide (a.1 = level)).length)

/-- Once the stores are past, the barrier is released or the launch ends (stage B). -/
def mergeRelease (l : Launch) (level : Nat) (traps : List TrapInfo) (s : State) : State :=
  if level = 0 then (match traps with | _ :: _ => kill l.ctx 0xFD s | [] => endLaunch l s)
  else
    let obj := (levelRec l.lrec level).barrier
    let s1 := modLaunch l.uid (fun x => { x with merged := x.merged.map fun a => if a.1 = level then (level, 0, traps) else a }) s
    (List.range (taskCount l.lrec)).foldl (fun s _ => arriveVa l.ctx obj 16 0 none false s) s1

/-- gtime has passed the completion time and δ of every store of the merge, those that came to their homes later included (R149). -/
def mergePast (l : Launch) (level t : Nat) (s : State) : Bool :=
  decide (t < s.gtime) && decide (l.mergeC = 0 ∨ l.mergeC + mergeDelta l level s < s.gtime) && !underWay (mergeOp l).id s

def execMerge (launch level : Nat) (s : State) : Out :=
  match findLaunch s launch with
  | none => idle s
  | some l =>
    if !nbit l.lrec.flags 0 then idle s
    else match l.merged.find? (fun a => decide (a.1 = level) && decide (a.2.1 ≠ 0)) with
      | some a => if mergePast l level a.2.1 s then .next (mergeRelease l level a.2.2 s) else idle s
      | none => if mergeReady l level then .next (mergeApply l level s) else idle s

/-! ### The watchdog (16 R419) -/

def wdExp (s : State) (ctx : Nat) : Nat := nb (ctxTrap s ctx) 5 0

def watchTrap (l : Launch) : TrapInfo := { code := 20, info0 := w64 l.start, deferred := true }

/-- Every skein of the launch's crews has the trap pending, those of saved crews once they are restored. -/
def raiseWatch (l : Launch) (s : State) : State :=
  let f := fun k : Skein => { k with pending := k.pending ++ [watchTrap l] }
  let g := fun r : CrewRec => if r.crew.launch = l.uid then { r with skeins := r.skeins.map f } else r
  let s1 := withCrews ((allCrews s).map g) s
  modLaunch l.uid (fun x => { x with wdTrapped := true }) (modSch (fun x => { x with saved := x.saved.map fun r => { r with crewRec := g r.crewRec } }) s1)

def execWatchdogTrap (launch : Nat) (s : State) : Out :=
  match findLaunch s launch with
  | none => idle s
  | some l => if wdExp s l.ctx ≠ 0 ∧ !l.wdTrapped ∧ l.start + 2 ^ wdExp s l.ctx < s.gtime then .next (raiseWatch l s) else idle s

def execWatchdogKill (launch : Nat) (s : State) : Out :=
  match findLaunch s launch with
  | none => idle s
  | some l => if wdExp s l.ctx ≠ 0 ∧ l.start + 2 ^ (wdExp s l.ctx + 1) < s.gtime then .next (kill l.ctx 0xFC s) else idle s

end Sys2Proof.Machine
end

