-- ==== Sys2Proof/Machine/Frames.lean ====
section
/-! DEFINITION. The frame output engine: stream configurations and records, frame starts, substitution, frame slots
(14 R393, R394, 17 R439 to R443, 18 R447). -/
namespace Sys2Proof.Machine

/-! ### Configurations and stream records (18 R447, 14 R393) -/

def cfgOn (c : List Byte) : Bool := nbit (leAt c 1 1) 0
def cfgCtx (c : List Byte) : Nat := leAt c 2 1
def cfgRecord (c : List Byte) : Nat := leAt c 8 8
def cfgStart (c : List Byte) : Nat := leAt c 56 8

structure StreamRec where
  fb : Nat
  width : Nat
  height : Nat
  pitch : Nat
  nbuf : Nat
  commit : Nat
  release : Nat
  epoch : Nat
  num : Nat
  den : Nat
  repro : Nat
  deriving DecidableEq, Repr

def streamRecOf (b : List Byte) : StreamRec :=
  { fb := leAt b 0 8, width := leAt b 8 2, height := leAt b 10 2, pitch := leAt b 12 4, nbuf := leAt b 16 1, commit := leAt b 24 8, release := leAt b 32 8,
    epoch := leAt b 40 8, num := leAt b 48 4, den := leAt b 52 4, repro := leAt b 56 8 }

/-- A readable range in LOCAL pages of a context, with privileged access. -/
def localOk (s : State) (ctx va n : Nat) : Bool :=
  (rangeCheck va n).isNone && (granules va n).all fun g => match leafAt s ctx g.1 with | some l => l.rd && decide (l.resid = 0) | none => false

/-- Bytes of a context at their homes now. -/
def homeBytes (s : State) (ctx va n : Nat) : List Byte := (List.range n).map fun i => match keyAt s ctx (va + i) with | some k => memByte s k | none => 0#8

/-- The stream record breaks R393 or R440; a rate without a denominator or numerator gives no frame starts (log entry 24). -/
def streamRecBad (s : State) (ctx : Nat) (b : List Byte) : Bool :=
  let r := streamRecOf b
  let obj := fun a => decide (a % 16 = 0) && localOk s ctx a 16
  decide (r.width < 64) || decide (8192 < r.width) || decide (r.height < 64) || decide (8192 < r.height) || decide (r.pitch % 64 ≠ 0) || decide (r.pitch < 4 * r.width) ||
    decide (r.nbuf < 2) || decide (4 < r.nbuf) || decide (leAt b 17 1 ≠ 1) || decide (leAt b 18 6 ≠ 0) || !obj r.commit || !obj r.release ||
    decide (r.num = 0) || decide (r.den = 0) || !(decide (r.repro = 0) || (decide (r.repro % 64 = 0) && localOk s ctx r.repro 192))

/-- The stream record of a configuration as it stands, when it can be read and is sound. -/
def streamRec (s : State) (c : List Byte) : Option StreamRec :=
  let va := cfgRecord c
  if va % 64 = 0 ∧ localOk s (cfgCtx c) va 64 then
    let b := homeBytes s (cfgCtx c) va 64
    if streamRecBad s (cfgCtx c) b then none else some (streamRecOf b)
  else none

/-- Start of frame N (R393). -/
def frameTime (r : StreamRec) (n : Nat) : Nat := r.epoch + n * r.num / r.den

/-- The first frame that starts at `t` or later. -/
def nextFrame (r : StreamRec) (t : Nat) : Nat := if t ≤ r.epoch then 0 else ((t - r.epoch) * r.den + r.num - 1) / r.num

/-! ### Streams -/

def streamOf (s : State) (n : Nat) : Stream := (s.fab.streams.find? fun x => decide (x.n = n)).getD { n := n, cfg := List.replicate 64 0#8 }

def putStream (x : Stream) (s : State) : State :=
  { s with fab := { s.fab with streams := s.fab.streams.filter (fun y => decide (y.n ≠ x.n)) ++ [x] } }

/-- A start of the stream: configuration, record, frame, and whether a new configuration takes effect with it. -/
structure Due where
  cfg : List Byte
  rec_ : StreamRec
  frame : Nat
  fresh : Bool
  deriving DecidableEq, Repr

def Due.time (d : Due) : Nat := frameTime d.rec_ d.frame

/-- The next start, at `t` or later, of a configuration whose frames from `first` on are still to come. -/
def nextStart (t first : Nat) (fresh : Bool) (c : List Byte) (s : State) : Option Due :=
  if cfgOn c then (streamRec s c).map fun r => { cfg := c, rec_ := r, frame := max first (nextFrame r t), fresh := fresh } else none

/-- The next starts of the configurations accepted, the latest first, and then of the one in effect. -/
def starts (t : Nat) (x : Stream) (s : State) : List Due :=
  x.pending.reverse.filterMap (fun p => nextStart t p.1 true p.2 s) ++ (nextStart t x.next false x.cfg s).toList

/-- The start at time `t`, if there is one (log entry 121). -/
def dueFrame (t : Nat) (x : Stream) (s : State) : Option Due := (starts t x s).find? fun d => decide (d.time = t)

/-- COMMIT's flip count has reached N + 1 before `t` (R394). -/
def committed (t : Nat) (d : Due) (s : State) : Bool :=
  match keyAt s (cfgCtx d.cfg) d.rec_.commit with
  | some k => flipHolds (ofBytes ((List.range 4).map fun i => byteAt s (t - 1) (k + 8 + i))) (d.frame + 1)
  | none => false

/-- Before gtime becomes `t`: whether the frame that starts then is committed. -/
def sampleStream (t : Nat) (s : State) (x : Stream) : Stream :=
  match dueFrame t x s with
  | some d => { x with sample := some (t, committed t d s) }
  | none => x

def sampleStreams (t : Nat) (s : State) : State := { s with fab := { s.fab with streams := s.fab.streams.map (sampleStream t s) } }

/-! ### Pixels (17 R441) -/

/-- A 4-byte word of a context that the engine reads; a word that cannot be read has no stated value (log entry 17). -/
def engineWord (s : State) (ctx va : Nat) : Nat :=
  match keyAt s ctx va with
  | some k => if s.hm.memBad.contains (k / 8) then (Config.unstated 3 [ctx, va]).toNat % 2 ^ 32 else memNat s k 4
  | none => (Config.unstated 3 [ctx, va]).toNat % 2 ^ 32

/-- Pixel i of frame `f`, row-major. -/
def pixelAt (s : State) (d : Due) (f i : Nat) : Nat :=
  engineWord s (cfgCtx d.cfg) (d.rec_.fb + (f % d.rec_.nbuf) * d.rec_.pitch * d.rec_.height + i / d.rec_.width * d.rec_.pitch + 4 * (i % d.rec_.width))

/-- A row of a matrix times a point, exactly; none for an invalid sum. -/
def dot4 (m v : List Fx) : Option Fx :=
  (m.zip v).foldl (fun a p => match a, fxMul p.1 p.2 with | some x, some y => fxAdd false x y | _, _ => none) (some fxZero)

/-- Exact quotient by a positive number. -/
def fxDiv (a b : Fx) : Option Fx :=
  match a, b with
  | .fin s n d, .fin false m e => if m = 0 then none else some (.fin s (n * e) (d * m))
  | .fin s _ _, .inf false => some (.fin s 0 1)
  | .inf s, .fin false m _ => if m = 0 then none else some (.inf s)
  | _, _ => none

/-- floor, when it is a number from 0 to `n` - 1. -/
def floorIn (n : Nat) (x : Fx) : Option Nat :=
  match x with
  | .fin neg a d => if neg && decide (a ≠ 0) then none else if a / d < n then some (a / d) else none
  | _ => none

/-- Where a source pixel goes, with its depth code. -/
def mapPixel (w h : Nat) (m : List (List Fx)) (z : Nat) (i : Nat) : Option (Nat × Nat) := do
  let p : List Fx := [.fin false (2 * (i % w) + 1) 2, .fin false (2 * (i / w) + 1) 2, fdec fp32 z, .fin false 1 1]
  let x ← dot4 (m.getD 0 []) p
  let y ← dot4 (m.getD 1 []) p
  let z1 ← dot4 (m.getD 2 []) p
  let w1 ← dot4 (m.getD 3 []) p
  let tx ← floorIn w (← fxDiv x w1)
  let ty ← floorIn h (← fxDiv y w1)
  let q ← fxDiv z1 w1
  pure (ty * w + tx, (fround fp32 .rn true 0 q).1)

/-- The winning source pixel of each target: the greater depth, on a tie the lower number (R385). -/
def gatherPixels (n : Nat) (f : Nat → Option (Nat × Nat)) : SMap (Nat × Nat) :=
  (List.range n).foldl (fun m i => match f i with
    | none => m
    | some (t, z) =>
      match m.find? (fun e => decide (e.1 = t)) with
      | some (_, _, z0) => if fxLt (fdec fp32 z0) (fdec fp32 z) then mputAny m t (i, z) else m
      | none => mputAny m t (i, z)) []

/-- The selected matrix of a reprojection record. -/
def reproMatrix (s : State) (ctx va : Nat) : List (List Fx) :=
  let base := va + 64 + 64 * (engineWord s ctx (va + 8) % 2)
  (List.range 4).map fun i => (List.range 4).map fun j => fdec fp32 (engineWord s ctx (base + 16 * i + 4 * j))

/-- The pixels of frame `f` seen from the present pose. -/
def reproject (s : State) (d : Due) (f : Nat) : List Nat :=
  let ctx := cfgCtx d.cfg
  let w := d.rec_.width
  let n := w * d.rec_.height
  let m := reproMatrix s ctx d.rec_.repro
  let depth := leAt (homeBytes s ctx d.rec_.repro 8) 0 8 + 4 * (f % d.rec_.nbuf) * n
  let won := gatherPixels n fun i => mapPixel w d.rec_.height m (engineWord s ctx (depth + 4 * i)) i
  (List.range n).map fun i => match won.find? (fun e => decide (e.1 = i)) with
    | some (_, j, _) => pixelAt s d f j
    | none => pixelAt s d f i

/-! ### Frame starts and ends -/

/-- The legs of a configuration: port, address, UDP port. -/
def legsOf (c : List Byte) : List (Nat × Nat × Nat) :=
  (nb (leAt c 4 1) 1 0, leAt c 16 16, leAt c 48 2) :: (if nbit (leAt c 1 1) 1 then [(nb (leAt c 4 1) 5 4, leAt c 32 16, leAt c 50 2)] else [])

/-- The legs on ports that are enabled now (17 R434). -/
def openLegs (c : List Byte) (s : State) : List (Nat × Nat × Nat) := (legsOf c).filter fun l => nbit (portsOn s) l.1

/-- Sends frame `d.frame` from the buffer of frame `f`, stamped with its start (R439, R441). -/
def sendFrame (n : Nat) (d : Due) (f : Nat) (sub : Bool) (s : State) : State :=
  let plain := (List.range (d.rec_.width * d.rec_.height)).map (pixelAt s d f)
  let pixels := if sub && decide (d.rec_.repro ≠ 0) then reproject s d f else plain
  if openLegs d.cfg s = [] then s
  else emit (.frame { stream := n, frame := d.frame, source := f, substitute := sub, rtp := d.time * 9 / 100000 % 2 ^ 32, pt := leAt d.cfg 3 1,
                      ssrc := leAt d.cfg 52 4, nl := nbit (leAt d.cfg 1 1) 2, legs := openLegs d.cfg s, pixels := pixels }) s

/-- The event of a substitution: N and S, which trigger as a mailbox message does. -/
def frameEvent (d : Due) (f : Nat) (s : State) : State :=
  let ctx0 := cfgCtx d.cfg
  let b := homeBytes s ctx0 d.rec_.repro 24
  let va := leAt b 16 8
  let ctx := leAt b 12 1
  if d.rec_.repro = 0 ∨ va = 0 then s
  else
    let op := s.ids + 1
    let s1 := storeVa op ctx va (toBytes 8 d.frame ++ toBytes 8 f) { s with ids := op }
    trigger ctx [(va, 16)] (lastTime s1 ((keyAt s1 ctx va).toList)) s1 op

/-- The frame is sent or replaced, and its slot begins; a configuration that takes effect with it is no longer awaited. -/
def startFrame (x : Stream) (d : Due) (s : State) : State :=
  let t := d.time
  let won := match x.sample with | some (u, b) => if u = t then b else committed t d s | none => committed t d s
  let old := if d.fresh && !(decide (cfgRecord x.cfg = cfgRecord d.cfg) && decide (cfgCtx x.cfg = cfgCtx d.cfg)) then none else x.last
  let last := if won then some d.frame else old
  let waits := fun p : Nat × List Byte => !(nextStart t p.1 true p.2 s).any fun e => decide (e.time = t)
  let slot : FrameSlot := { frame := d.frame, ends := frameTime d.rec_ (d.frame + 1), ctx := cfgCtx d.cfg, release := w64 d.rec_.release }
  let y : Stream := { x with cfg := d.cfg, pending := if d.fresh then x.pending.filter waits else x.pending, next := d.frame + 1, sample := none, last := last,
                             slots := x.slots ++ [slot] }
  let s1 := putStream y s
  match last with
  | none => s1
  | some f => if won then sendFrame x.n d f false s1 else frameEvent d f (sendFrame x.n d f true s1)

/-- A stream that is to stop does so at its next start, or at once where none can be told (18 R447). -/
def stopsNow (x : Stream) (s : State) : Bool :=
  x.pending.any (fun p => !cfgOn p.2) && (match nextStart s.gtime x.next false x.cfg s with | some d => decide (d.time = s.gtime) | none => true)

/-- The stream stops; the rest of the configuration that stopped it is kept. -/
def stopStream (x : Stream) (s : State) : State :=
  let off := (x.pending.filter fun p => !cfgOn p.2).getLast?
  putStream { x with cfg := (off.map (·.2)).getD x.cfg, pending := x.pending.filter (fun p => cfgOn p.2), sample := none, last := none } s

/-- What stream `x` does at its start that gtime has reached. -/
def serveStart (x : Stream) (s : State) : Option State :=
  if stopsNow x s then some (stopStream x s) else (dueFrame s.gtime x s).map fun d => startFrame x d s

/-- A slot that has ended: frame N's lasts until the start of frame N + 1. -/
def slotDue (x : Stream) (s : State) : Option FrameSlot := x.slots.find? fun f => decide (f.ends ≤ s.gtime)

/-- The engine's arrival on RELEASE (R394). -/
def endSlot (x : Stream) (f : FrameSlot) (s : State) : State :=
  arriveVa f.ctx f.release 16 0 none false (putStream { x with slots := x.slots.erase f } s)

def execFrameStart (n : Nat) (s : State) : Out :=
  match serveStart (streamOf s n) s with
  | some s1 => .next s1
  | none => idle s

def execFrameSlotEnd (n : Nat) (s : State) : Out :=
  let x := streamOf s n
  match slotDue x s with
  | some f => .next (endSlot x f s)
  | none => idle s

/-! ### gtime passes (17 R435, R439) -/

/-- One thing that a stream does at the present gtime: first the ends of slots, then starts. -/
def streamStep (s : State) : Option State :=
  (s.fab.streams.findSome? fun x => (slotDue x s).map fun f => endSlot x f s) <|> s.fab.streams.findSome? fun x => serveStart x s

/-- The next time after now at which a stream starts a frame or ends a slot. -/
def nextBoundary (s : State) : Option Nat :=
  let l := s.fab.streams.flatMap fun x => (starts (s.gtime + 1) x s).map Due.time ++ (x.slots.map FrameSlot.ends).filter fun t => decide (s.gtime < t)
  l.min?

/-- Stores whose completion times are reached take effect at their homes; leases that have ended are gone. -/
def settleHomes (now : Nat) (h : Homes) : Homes :=
  let done := h.timed.filter fun st => decide (st.c ≤ now)
  { h with mem := done.foldl (fun m st => setCells m st.cells) h.mem, timed := h.timed.filter (fun st => decide (now < st.c)),
           l1 := h.l1.filter (fun x => decide (now < x.lease)), bricks := h.bricks.filter fun x => decide (now < x.lease) }

/-- gtime becomes `t`, past no start of a frame. -/
def moveTime (t : Nat) (s0 : State) : State :=
  let s := sampleStreams t s0
  { s with gtime := t, hm := settleHomes t s.hm }

/-- gtime goes on to `now`. What streams do on the way is done at its time; what they do at `now` is left to their own events, and is done
before gtime moves again. At most `n` such steps. -/
def passTo : Nat → Nat → State → State
  | 0, now, s => moveTime now s
  | n + 1, now, s =>
    match streamStep s with
    | some s1 => passTo n now s1
    | none =>
      match nextBoundary s with
      | some t => if t < now then passTo n now (moveTime t s) else moveTime now s
      | none => moveTime now s

/-- As many steps as streams can take until `now`. -/
def passFuel (now : Nat) (s : State) : Nat := if s.fab.streams = [] then 0 else 2 ^ 40 * (now + 2 - s.gtime)

/-- A Sync message shows how far gtime is behind (or, negative, ahead of) the grandmaster. -/
def syncMsg (offset : Int) (s : State) : State :=
  let s1 := { s with fab := { s.fab with lastSync := s.gtime } }
  let first := !s.fab.stepped && !fabBit 4 s
  let now := s.gtime + offset.toNat
  let s2 := if first ∧ 0 < offset then passTo (passFuel now s) now { s with fab := { s.fab with stepped := true, lastSync := now, slew := 0 } }
            else { s1 with fab := { s1.fab with slew := offset } }
  if offset.natAbs ≤ 12 then setFabBit 5 true s2 else if fabBit 5 s2 then loseSync s2 else s2

def execPtpMessage (b : PtpMsg) (s : State) : Out :=
  match b with
  | .sync o => .next (syncMsg o s)
  | .other => .next s

end Sys2Proof.Machine
end

