-- ==== Sys2Proof/Machine/Sha.lean ====
section
/-! DEFINITION. SHA-512, which 18 R448 and R449 name (log entry 9: its definition is that of FIPS 180-4). -/
namespace Sys2Proof.Machine.Sha

/-! ### Constants: fractions of roots of primes -/

/-- The largest r below 2^n with r^k at most x. -/
def root (k x : Nat) : Nat → Nat → Nat
  | 0, r => r
  | n + 1, r => let t := r + 2 ^ n; root k x n (if t ^ k ≤ x then t else r)

def isPrime (n : Nat) : Bool := decide (2 ≤ n) && (List.range 20).all fun d => decide (d < 2) || decide (n ≤ d) || decide (n % d ≠ 0)
/-- The first 80 primes; the 80th is 409. -/
def primes : List Nat := (List.range 410).filter isPrime

/-- The 80 round constants: the first 64 bits of the fractions of cube roots. -/
def roundK : List Word64 := primes.map fun p => w64 (root 3 (p * 2 ^ 192) 68 0)
/-- The initial hash: the first 64 bits of the fractions of square roots of the first eight primes. -/
def start : List Word64 := (primes.take 8).map fun p => w64 (root 2 (p * 2 ^ 128) 69 0)

/-! ### The compression function -/

def rotr (x : Word64) (n : Nat) : Word64 := (x >>> n) ||| (x <<< (64 - n))
def bigA (x : Word64) : Word64 := rotr x 28 ^^^ rotr x 34 ^^^ rotr x 39
def bigE (x : Word64) : Word64 := rotr x 14 ^^^ rotr x 18 ^^^ rotr x 41
def smallA (x : Word64) : Word64 := rotr x 1 ^^^ rotr x 8 ^^^ (x >>> 7)
def smallB (x : Word64) : Word64 := rotr x 19 ^^^ rotr x 61 ^^^ (x >>> 6)

/-- The message schedule: each step moves the window of the last 16 words on by one. -/
def schedule : Nat → List Word64 → List Word64
  | 0, _ => []
  | n + 1, w =>
    let x := fun i => w.getD i 0#64
    x 0 :: schedule n (w.drop 1 ++ [smallB (x 14) + x 9 + smallA (x 1) + x 0])

def round (h : List Word64) (k w : Word64) : List Word64 :=
  let v := fun i => h.getD i 0#64
  let t1 := v 7 + bigE (v 4) + ((v 4 &&& v 5) ^^^ (~~~ (v 4) &&& v 6)) + k + w
  let t2 := bigA (v 0) + ((v 0 &&& v 1) ^^^ (v 0 &&& v 2) ^^^ (v 1 &&& v 2))
  [t1 + t2, v 0, v 1, v 2, v 3 + t1, v 4, v 5, v 6]

/-- A big-endian word from eight bytes. -/
def wordOf (l : List Byte) : Word64 := w64 (ofBytes (l.take 8).reverse)

def block (h : List Word64) (b : List Byte) : List Word64 :=
  let w := schedule 80 ((List.range 16).map fun i => wordOf (b.drop (8 * i)))
  List.zipWith (· + ·) h ((roundK.zip w).foldl (fun a x => round a x.1 x.2) h)

/-- The message with its padding: a one bit, zeros, and its length in bits as 16 bytes. -/
def padded (l : List Byte) : List Byte :=
  l ++ [0x80#8] ++ List.replicate ((239 - l.length % 128) % 128) 0#8 ++ (toBytes 16 (8 * l.length)).reverse

def blocks : Nat → List Word64 → List Byte → List Word64
  | 0, h, _ => h
  | n + 1, h, l => blocks n (block h l) (l.drop 128)

end Sys2Proof.Machine.Sha

namespace Sys2Proof.Machine

/-- SHA-512 of a byte string: 64 bytes. -/
def sha512 (l : List Byte) : List Byte :=
  let m := Sha.padded l
  (Sha.blocks (m.length / 128) Sha.start m).flatMap fun x => (toBytes 8 x.toNat).reverse

end Sys2Proof.Machine
end

