-- ==== Sys2Proof/Machine/Ed25519.lean ====
section
/-! DEFINITION. Verification of an Ed25519 signature (RFC 8032, pure form), as the boot ROM makes it (18 R444). -/
namespace Sys2Proof.Machine

/-- The field's prime and the order of the base point. -/
def edP : Nat := 2 ^ 255 - 19
def edL : Nat := 2 ^ 252 + 27742317777372353535851937790883648493

def edSub (a b : Nat) : Nat := (a + edP - b % edP) % edP
def edTimes (a b : Nat) : Nat := a * b % edP

/-- The bits of an exponent or scalar below 2^256, most significant first. -/
def bits256 (n : Nat) : List Bool := (List.range 256).map fun i => nbit n (255 - i)

/-- `b` to the power `e` in the field. -/
def edPow (b e : Nat) : Nat := (bits256 e).foldl (fun r x => let q := edTimes r r; if x then edTimes q b else q) 1

def edInv (a : Nat) : Nat := edPow a (edP - 2)

/-- The curve's constant, -121665/121666. -/
def edD : Nat := edTimes (edP - 121665) (edInv 121666)

/-- A point in extended coordinates: X, Y, Z, and T with X·Y = Z·T. -/
structure EdPoint where
  x : Nat
  y : Nat
  z : Nat
  t : Nat
  deriving DecidableEq, Repr

def edZero : EdPoint := { x := 0, y := 1, z := 1, t := 0 }

def edAdd (p q : EdPoint) : EdPoint :=
  let a := edTimes (edSub p.y p.x) (edSub q.y q.x)
  let b := edTimes (p.y + p.x) (q.y + q.x)
  let c := edTimes (2 * edTimes p.t q.t) edD
  let d := 2 * edTimes p.z q.z
  let e := edSub b a
  let f := edSub d c
  let g := d + c
  let h := b + a
  { x := edTimes e f, y := edTimes g h, z := edTimes f g, t := edTimes e h }

/-- `n` times the point. -/
def edMul (n : Nat) (p : EdPoint) : EdPoint := (bits256 n).foldl (fun r x => let q := edAdd r r; if x then edAdd q p else q) edZero

def edSame (p q : EdPoint) : Bool := decide (edTimes p.x q.z = edTimes q.x p.z) && decide (edTimes p.y q.z = edTimes q.y p.z)

/-- A square root of u/v, if there is one. -/
def edRoot (u v : Nat) : Option Nat :=
  let v3 := edTimes (edTimes v v) v
  let r := edTimes (edTimes u v3) (edPow (edTimes u (edTimes (edTimes v3 v3) v)) ((edP - 5) / 8))
  let c := edTimes v (edTimes r r)
  if c = u then some r
  else if c = edSub 0 u then some (edTimes r (edPow 2 ((edP - 1) / 4)))
  else none

/-- The point that 32 bytes encode: y, and in the top bit the parity of x. -/
def edDecode (b : List Byte) : Option EdPoint :=
  let n := leAt b 0 32
  let y := n % 2 ^ 255
  let sign := n / 2 ^ 255
  if b.length ≠ 32 ∨ edP ≤ y then none
  else
    let y2 := edTimes y y
    match edRoot (edSub y2 1) ((edTimes edD y2 + 1) % edP) with
    | none => none
    | some r =>
      if r = 0 ∧ sign = 1 then none
      else let x := if r % 2 = sign then r else edP - r
        some { x := x, y := y, z := 1, t := edTimes x y }

/-- The base point: y = 4/5, x even. -/
def edBase : Option EdPoint := edDecode (toBytes 32 (edTimes 4 (edInv 5)))

/-- The signature of the message verifies under the public key, by the equation with the cofactor. -/
def edVerify (key msg sig : List Byte) : Bool :=
  match edDecode key, edDecode (sig.take 32), edBase with
  | some a, some r, some g =>
    let s := leAt sig 32 32
    let k := leAt (sha512 (sig.take 32 ++ key ++ msg)) 0 64 % edL
    decide (sig.length = 64) && decide (s < edL) && edSame (edMul 8 (edMul s g)) (edMul 8 (edAdd r (edMul k a)))
  | _, _, _ => false

end Sys2Proof.Machine
end

