-- ==== Sys2Proof/Machine/Manage.lean ====
section
/-! DEFINITION. The management processor: power-up, the management commands, attestation and manifests, power and heat
(18 R444 to R452). -/
namespace Sys2Proof.Machine

/-! ### MGSTAT (18 R451) -/

def setState (n : Nat) (s : State) : State := let x := (preg s 0x20).toNat; setPreg 0x20 (w64 (x / 16 * 16 + n)) s
def setClock (mhz : Nat) (s : State) : State := let x := (preg s 0x20).toNat; setPreg 0x20 (w64 (mhz * 2 ^ 48 + nb x 47 0)) s
def setHeat (power temp : Nat) (s : State) : State :=
  let x := (preg s 0x20).toNat
  setPreg 0x20 (w64 (nb x 63 48 * 2 ^ 48 + power % 2 ^ 16 * 2 ^ 32 + temp % 256 * 2 ^ 24 + nb x 23 0)) s
def clockMhz (s : State) : Nat := nb (preg s 0x20).toNat 63 48

/-- The safe state (R445). -/
def enterSafe (s : State) : State := setState 8 { s with mgt := { s.mgt with safe := true } }

/-! ### Power-up (R444) -/

/-- 64 bytes of an opaque 64-byte value. -/
def bytes64 (f : Fin 64 → Byte) : List Byte := List.ofFn f

/-- Mv ← SHA-512(Mv ∥ hash) (R448). -/
def extendMv (hash : List Byte) (s : State) : State := { s with mgt := { s.mgt with mv := sha512 (s.mgt.mv ++ hash) } }

/-- The boot ROM accepts a copy: its key is the fused one, its signature verifies, its security version is not below the fused minimum. -/
def copyOk (c : FirmwareCopy) : Bool :=
  decide (sha512 c.key = bytes64 Config.signingKeyHash) && edVerify c.key c.image c.sig && decide (Config.minVersion ≤ c.version)

/-- The copy that runs: A, or B where A fails. -/
def bootCopy (b : BringUp) : Option FirmwareCopy := [b.copyA, b.copyB].find? copyOk

/-- The firmware runs, and both hashes are measured (R448). -/
def runFirmware (c : FirmwareCopy) (s : State) : State :=
  let h := sha512 c.image
  extendMv (bytes64 Config.microHash) (extendMv h { s with mgt := { s.mgt with firmware := h } })

/-- Step `k` is done, and the next one is in progress. -/
def stepDone (k : Nat) (s : State) : State := setState k s

/-- Step `k` fails: the part enters the safe state. -/
def stepFails (k : Nat) (u : Option (Nat × Nat)) (s : State) : State :=
  enterSafe { s with mgt := { s.mgt with failedStep := k, failedUnit := u, bring := none } }

/-- The step in progress, as MGSTAT.STATE names it. -/
def bringStep (b : BringUp) (s : State) : State :=
  let s1 := { s with mgt := { s.mgt with bring := some b } }
  match nb (preg s 0x20).toNat 3 0 with
  | 0 => if b.fuseOk then stepDone 1 s1 else stepFails 1 none s1
  | 1 => match bootCopy b with | some c => stepDone 2 (runFirmware c s1) | none => stepFails 2 none s1
  | 2 => if b.failedUnit.isSome then stepFails 3 b.failedUnit s1 else stepDone 3 s1
  | _ => if !b.channelsOk ∨ b.portsLinked = 0 then stepFails 4 none s1 else setClock 2500 (setState 4 { s with mgt := { s.mgt with bring := none } })

/-- Power is applied, or the power-up goes on with the next of its steps. -/
def execPowerOn (b : BringUp) (s : State) : Out :=
  if s.mgt.safe ∨ 4 ≤ nb (preg s 0x20).toNat 3 0 then idle s else .next (bringStep (s.mgt.bring.getD b) s)

/-! ### Manifests and attestation (R448, R449) -/

/-- Hash of the slot-table hashes (R449, field 4). -/
def slotsHash (s : State) : List Byte :=
  sha512 (((List.range 16).map fun i => match s.en.slots.find? (fun e => decide (e.1 = i)) with
    | some (_, t) => sha512 t
    | none => List.replicate 64 0#8).flatten)

/-- The management processor as a reader for a requester. -/
def mgmtReader (src : Nat) : Reader := (2 ^ 68 + src, 0)

/-- FLAGS and SEED of a launch record: zero without one, or the status of a record that cannot be read with privileged access (17 R430, R432). -/
def recordFields (src : Nat) (s : State) (ctx va : Nat) : Except Nat (Nat × Nat) :=
  let leaves := (granules va 256).map fun g => leafAt s ctx g.1
  if va = 0 then .ok (0, 0)
  else if (rangeCheck va 256).isSome || leaves.any (fun l => match l with | some l => !l.rd | none => true) then .error 3
  else if leaves.any (fun l => match l with | some l => decide (l.resid = 2) | none => true) then .error 4
  else match (hostRanges s ctx va 256).find? fun x => decide (hostStatus (mgmtReader src) s x ≠ some 0) with
    | some x => .error ((hostStatus (mgmtReader src) s x).getD 3)
    | none => let b := homeBytes s ctx va 256; .ok (leAt b 8 4, leAt b 208 8)

def manifestBytes (s : State) (ctx : Nat) (f : Nat × Nat) : List Byte :=
  let reg := fun i => (preg s (ctxReg ctx i)).toNat
  let trap := let x := reg 6; x / 2 ^ 16 * 2 ^ 16 + nb x 6 0
  toBytes 2 0x4E4D ++ toBytes 1 1 ++ toBytes 1 ctx ++ toBytes 4 0 ++ s.mgt.firmware ++ bytes64 Config.microHash ++ slotsHash s ++
    toBytes 8 (reg 3) ++ toBytes 8 (reg 1) ++ toBytes 8 (reg 2) ++ toBytes 8 (reg 0) ++ toBytes 8 trap ++ toBytes 4 f.1 ++ toBytes 4 0 ++ toBytes 8 f.2

/-- Byte ranges of the manifest's fields, by index from 1. -/
def manifestFields : List (Nat × Nat) :=
  [(0, 8), (8, 64), (72, 64), (136, 64), (200, 8), (208, 8), (216, 8), (224, 8), (232, 8), (240, 4), (248, 8)]

/-- The lowest field index at which two manifests differ, 0 for none (R449). -/
def manifestDiff (now stored : List Byte) : Nat :=
  if leAt stored 0 2 ≠ 0x4E4D ∨ leAt stored 2 1 ≠ 1 then 1
  else match manifestFields.findIdx? fun f => decide ((now.drop f.1).take f.2 ≠ (stored.drop f.1).take f.2) with
    | some i => i + 1
    | none => 0

/-- The 264-byte report over a nonce (R448). -/
def attestReport (s : State) (nonce : List Byte) : List Byte :=
  let body := (padTo 32 nonce).take 32 ++ s.mgt.mv ++ sha512 (manifestBytes s 0 (0, 0)) ++ toBytes 8 s.gtime ++ List.ofFn Config.identityKey
  body ++ bytes64 (Config.identitySign body)

/-! ### Streams (R447) -/

/-- A configuration that is answered DENIED. -/
def cfgBad (s : State) (c : List Byte) : Bool :=
  let flags := leAt c 1 1
  let ports := leAt c 4 1
  let legB := nbit flags 1
  let enabled := fun p => nbit (preg s 0x18).toNat p
  let portA := nb ports 1 0
  let portB := nb ports 5 4
  decide (7 < leAt c 0 1) || decide (8 ≤ flags) || decide (leAt c 3 1 < 96) || decide (127 < leAt c 3 1) || decide (nb ports 3 2 ≠ 0) || decide (nb ports 7 6 ≠ 0) ||
    decide (leAt c 5 3 ≠ 0) || decide (cfgRecord c % 64 ≠ 0) || (!legB && (decide (leAt c 32 16 ≠ 0) || decide (leAt c 50 2 ≠ 0))) ||
    (legB && decide (portA = portB)) || !enabled portA || (legB && !enabled portB) || (cfgOn c && (streamRec s c).isNone)

/-- A sound configuration waits for the frame from which it applies: START, or, when that start has passed, the first whose start has not; one
that disables the stream applies from its next start (18 R447, log entry 121). -/
def acceptStream (c : List Byte) (s : State) : State :=
  let x := streamOf s (leAt c 0 1)
  if cfgOn c then
    match streamRec s c with
    | some r => putStream { x with pending := x.pending ++ [(max (cfgStart c) (nextFrame r (s.gtime + 1)), c)] } s
    | none => s
  else if cfgOn x.cfg then putStream { x with pending := x.pending ++ [(0, c)] } s
  else putStream { x with cfg := c } s

/-! ### Commands (R446) -/

inductive MgmtCmd where
  | status
  | selftest
  | diag (unit idx : Nat)
  | regread (idx : Nat)
  | regwrite (idx : Nat) (val : Word64)
  | attest (nonce : List Byte)
  | manifest (ctx rec_ : Nat)
  | compare (ctx rec_ : Nat) (stored : List Byte)
  | resume (ctx crew : Nat)
  | fatalrec (ctx : Nat)
  | stream (cfg : List Byte)
  | streamq (n : Nat)
  deriving DecidableEq, Repr

def MgmtCmd.code : MgmtCmd → Nat
  | .status => 1 | .selftest => 2 | .diag _ _ => 3 | .regread _ => 4 | .regwrite _ _ => 5 | .attest _ => 6 | .manifest _ _ => 7 | .compare _ _ _ => 8
  | .resume _ _ => 9 | .fatalrec _ => 10 | .stream _ => 11 | .streamq _ => 12

/-- Status, response payload and state after a command. -/
abbrev Answer := Nat × List Byte × State

def selftestBytes (s : State) : List Byte :=
  if s.mgt.failedStep = 0 then List.replicate 16 0xFF#8
  else toBytes 4 s.mgt.failedStep ++ (match s.mgt.failedUnit with | some u => toBytes 4 u.1 ++ toBytes 8 u.2 | none => List.replicate 12 0xFF#8)

def doManifest (src ctx va : Nat) (f : List Byte → List Byte) (s : State) : Answer :=
  if 256 ≤ ctx then (6, [], s)
  else match recordFields src s ctx va with
    | .ok r => (0, f (manifestBytes s ctx r), s)
    | .error e => (e, [], s)

/-- Ends the halt of a halted crew of the context (08 R250). -/
def doResume (ctx crew : Nat) (s : State) : Answer :=
  match (allCrews s).find? fun c => decide (c.crew.ctx = ctx) && decide (c.crew.core + 2048 * c.crew.slot = crew) && c.crew.halted with
  | some c => (0, [], modCrew c.crew.uid (fun x => { x with halted := false }) s)
  | none => (2, [], s)

/-- Commands that only the host may give. -/
def hostOnly (c : MgmtCmd) : Bool := match c with | .regwrite _ _ => true | .resume _ _ => true | .compare _ _ _ => true | .stream _ => true | _ => false

/-- Commands that the safe state accepts (R445). -/
def safeCmd (c : MgmtCmd) : Bool := match c with | .status => true | .selftest => true | .diag _ _ => true | .attest _ => true | _ => false

def runCmd (src : Nat) (c : MgmtCmd) (s : State) : Answer :=
  match c with
  | .status => (0, toBytes 8 (preg s 0x20).toNat ++ toBytes 8 (preg s 0x21).toNat ++ toBytes 8 Config.serial.toNat, s)
  | .selftest => (0, selftestBytes s, s)
  | .diag u i => (0, (List.range 256).map fun j => Config.diagLog u i j, s)
  | .regread i => (0, toBytes 8 (viewRead s i).toNat, s)
  | .regwrite i x => if viewMemory i x s then (0, [], viewWrite i x s) else (3, [], s)
  | .attest n => (0, attestReport s n, s)
  | .manifest ctx va => doManifest src ctx va id s
  | .compare ctx va st => doManifest src ctx va (fun m => toBytes 4 (manifestDiff m st)) s
  | .resume ctx crew => doResume ctx crew s
  | .fatalrec ctx => if 256 ≤ ctx then (6, [], s) else (0, mget (List.replicate 64 0#8) s.mgt.fatal ctx, s)
  | .stream cfg => if cfg.length ≠ 64 then (6, [], s) else if cfgBad s cfg then (2, [], s) else (0, [], acceptStream cfg s)
  | .streamq n => if 8 ≤ n then (6, [], s) else (0, (streamOf s n).cfg, s)

/-- The answer to a command from device `src`. -/
def manage (src : Nat) (c : MgmtCmd) (s : State) : Answer :=
  if s.mgt.safe && !safeCmd c then (6, [], s)
  else if hostOnly c && decide (src ≠ 255) then (2, [], s)
  else runCmd src c s

/-- What a MANIFEST or COMPARE that is to be carried out reads: context, record, and the stored manifest. -/
def recordCmd (src : Nat) (c : MgmtCmd) (s : State) : Option (Nat × Nat × Option (List Byte)) :=
  if s.mgt.safe || (hostOnly c && decide (src ≠ 255)) then none
  else match c with
    | .manifest ctx va => if va = 0 ∨ 256 ≤ ctx then none else some (ctx, va, none)
    | .compare ctx va st => if va = 0 ∨ 256 ≤ ctx then none else some (ctx, va, some st)
    | _ => none

/-- A command whose record lies in a host page waits for the READs of it that are sent now (17 R432). -/
def deferCmd (src : Nat) (c : MgmtCmd) (m : Option PvlMsg) (s : State) : Option State :=
  match recordCmd src c s with
  | none => none
  | some (ctx, va, st) =>
    match hostGaps (mgmtReader src) s ctx va 256 with
    | [] => none
    | l => some (l.foldl (askHost (mgmtReader src) ctx) { s with mgt := { s.mgt with waits := s.mgt.waits ++ [{ src := src, ctx := ctx, va := va, stored := st, msg := m }] } })

/-- The command that waits. -/
def waitCmd (w : MgmtWait) : MgmtCmd := match w.stored with | some st => .compare w.ctx w.va st | none => .manifest w.ctx w.va

/-- A command and its answer, by source and command number. -/
def manageEvent (src : Nat) (c : MgmtCmd) (s : State) : Out :=
  match deferCmd src c none s with
  | some s1 => .next s1
  | none => let a := manage src c s; .next (emit (.mgmt src c.code a.1 a.2.1) a.2.2)

def execStatus (src : Nat) (s : State) : Out := manageEvent src .status s
def execSelftest (src : Nat) (s : State) : Out := manageEvent src .selftest s
def execDiag (src unit idx : Nat) (s : State) : Out := manageEvent src (.diag unit idx) s
def execRegread (src idx : Nat) (s : State) : Out := manageEvent src (.regread idx) s
def execRegwrite (src idx : Nat) (val : Word64) (s : State) : Out := manageEvent src (.regwrite idx val) s
def execAttest (src : Nat) (nonce : List Byte) (s : State) : Out := manageEvent src (.attest nonce) s
def execManifest (src ctx rec_ : Nat) (s : State) : Out := manageEvent src (.manifest ctx rec_) s
def execCompare (src ctx rec_ : Nat) (stored : List Byte) (s : State) : Out := manageEvent src (.compare ctx rec_ stored) s
def execResume (src ctx crew : Nat) (s : State) : Out := manageEvent src (.resume ctx crew) s
def execFatalrec (src ctx : Nat) (s : State) : Out := manageEvent src (.fatalrec ctx) s
def execStream (src : Nat) (cfg : List Byte) (s : State) : Out := manageEvent src (.stream cfg) s
def execStreamq (src n : Nat) (s : State) : Out := manageEvent src (.streamq n) s

/-- The command in a message's payload: byte 0, zeros, arguments from byte 4 (log entry 25). -/
def parseCmd (p : List Byte) : Option MgmtCmd :=
  let arg := fun o n => leAt p (4 + o) n
  let has := fun n => decide (p.length = 4 + n)
  if leAt p 1 3 ≠ 0 then none
  else match leAt p 0 1 with
    | 1 => if has 0 then some .status else none
    | 2 => if has 0 then some .selftest else none
    | 3 => if has 8 then some (.diag (arg 0 4) (arg 4 4)) else none
    | 4 => if has 4 then some (.regread (arg 0 4)) else none
    | 5 => if has 12 then some (.regwrite (arg 0 4) (w64 (arg 4 8))) else none
    | 6 => if has 32 then some (.attest (p.drop 4)) else none
    | 7 => if has 12 then some (.manifest (arg 0 4) (arg 4 8)) else none
    | 8 => if has 268 then some (.compare (arg 0 4) (arg 4 8) (p.drop 16)) else none
    | 9 => if has 8 then some (.resume (arg 0 4) (arg 4 4)) else none
    | 10 => if has 4 then some (.fatalrec (arg 0 4)) else none
    | 11 => if has 64 then some (.stream (p.drop 4)) else none
    | 12 => if has 4 then some (.streamq (arg 0 4)) else none
    | _ => none

/-! ### Power and heat (R452) -/

/-- Power and temperature are measured, in the safe state too (R451); the clock moves by one step of 25 MHz between 0.5 GHz and 2.5 GHz. -/
def execClockThrottle (power temp : Nat) (s : State) : Out :=
  let s1 := setHeat power temp s
  if !computeOn s then .next s1
  else
    let c := clockMhz s
    .next (setClock (if 1850 < power ∨ 105 ≤ temp then max 500 (c - 25) else min 2500 (c + 25)) s1)

def execOvertempShutdown (temp : Nat) (s : State) : Out :=
  let s1 := setHeat (nb (preg s 0x20).toNat 47 32) temp s
  if temp < 115 then idle s
  else if !computeOn s then .next s1
  else .next (enterSafe (stopStreams ((List.range 256).foldl (fun s c => kill c 0xFF s) s1)))

end Sys2Proof.Machine
end

