-- ==== Sys2Proof/Machine/Net.lean ====
section
/-! DEFINITION. Received Ethernet frames and PVL messages, and the tick of global time (17 R427 to R438, 04 R102). -/
namespace Sys2Proof.Machine

def modFab (f : Fabric → Fabric) (s : State) : State := { s with fab := f s.fab }
def countDrop (s : State) : State := modFab (fun f => { f with drops := f.drops + 1 }) s

/-! ### Admission and order (17 R428, R431) -/

/-- SRC names a valid peer. In the safe state, where the management channel answers before any table stands, the host is one
(18 R445, log entry 26). -/
def validSrc (s : State) (d : Nat) : Bool := peerValid s d || (s.mgt.safe && decide (d = 255))

/-- A message that the part takes: a datagram of at most 4,096 payload bytes, with the right MAGIC, VERSION, SETID, DST and SRC. -/
def admits (m : PvlMsg) (s : State) : Bool :=
  decide (m.magic = 0x5650) && decide (m.version = 1) && decide (m.setid = nb (preg s 0x18).toNat 63 32) && decide (m.dst = ownDev s) && validSrc s m.src &&
    decide (m.payload.length ≤ 4096)

/-- The answer to a message (R430). -/
def respond (m : PvlMsg) (status : Nat) (payload : List Byte) (s : State) : State :=
  emit (toPeer s { magic := 0x5650, version := 1, type := 4, setid := nb (preg s 0x18).toNat 63 32, src := ownDev s, dst := m.src, ctx := m.ctx, status := status,
                   seq := m.seq, addr := 0#64, len := payload.length, payload := payload }) s

/-- The message is performed: the next one of its sender is awaited. -/
def advance (m : PvlMsg) (s : State) : State := modFab (fun f => { f with seqExp := mset 0 f.seqExp m.src (m.seq + 1) }) s

/-! ### Accesses of a message (17 R432) -/

/-- The status of a privileged access of a context: 0, 3 FAULT or 4 ABSENT. -/
def msgAccess (s : State) (ctx va n : Nat) (rd wr : Bool) : Nat :=
  if n = 0 then 0
  else if (rangeCheck va n).isSome then 3
  else
    let leaves := (granules va n).map fun g => leafAt s ctx g.1
    if leaves.any (fun l => match l with | some l => !((l.rd || !rd) && (l.w || !wr)) | none => true) then 3
    else if leaves.any (fun l => match l with | some l => decide (l.resid = 2) | none => true) then 4 else 0

/-- The value of each byte at its home now, and whether one has an uncorrectable error. -/
def msgRead (s : State) (ctx va n : Nat) : List Byte × Bool :=
  let keys := (List.range n).filterMap fun i => keyAt s ctx (va + i)
  (keys.map (memByte s), keys.any fun k => s.hm.memBad.contains (k / 8))

/-- The completion time of the latest byte of a range. -/
def msgTime (s : State) (ctx va n : Nat) : Nat := lastTime s ((List.range n).filterMap fun i => keyAt s ctx (va + i))

/-- A byte of the range lies in a page that its home holds: the access is made once the hold is over (01 R39). -/
def msgHeld (s : State) (ctx va n : Nat) : Bool := (List.range n).any fun i => match keyAt s ctx (va + i) with | some k => heldPage s k | none => false

/-- The home that this part answers NOT-HOME with: a page of the range lies at another home, to which the access of a part is not passed on
(01 R40). -/
def notHome (m : PvlMsg) (s : State) : Option Leaf :=
  if m.src = 255 ∨ m.len = 0 then none
  else ((granules m.addr.toNat m.len).filterMap fun g => leafAt s m.ctx g.1).find? fun l => decide (l.resid = 1)

/-- NOT-HOME, for which R430 has no code: status 8, with the home and the address there (log entry 115). -/
def respondMoved (m : PvlMsg) (l : Leaf) (s : State) : State := respond m 8 (toBytes 1 l.home ++ toBytes 8 l.addr) s

/-- The part as a reader of host pages for a message. -/
def msgReader (m : PvlMsg) : Reader := (2 ^ 69 + m.src, m.seq)

/-- The READs of the host that a READ or GET still needs (17 R432). -/
def msgGaps (m : PvlMsg) (s : State) : List (Nat × Nat × Nat) :=
  if (m.type = 2 ∨ m.type = 7) ∧ m.len ≠ 0 ∧ m.len ≤ 4096 ∧ msgAccess s m.ctx m.addr.toNat m.len true false = 0 then
    hostGaps (msgReader m) s m.ctx m.addr.toNat m.len
  else []

/-- The first status other than OK of the host's answers for the message. -/
def hostRefusal (m : PvlMsg) (s : State) : Option Nat :=
  (hostRanges s m.ctx m.addr.toNat m.len).findSome? fun x => (hostStatus (msgReader m) s x).filter fun c => decide (c ≠ 0)

/-- A write of the sender is performed: its answer, with the completion time but for a PUT, and the time that its ENQs wait for (R430, R431). -/
def answerWrite (m : PvlMsg) (status t : Nat) (s : State) : State :=
  if status ≠ 0 then respond m status [] s
  else respond m 0 (if m.type = 6 then [] else toBytes 8 t) (modFab (fun f => { f with writeC := mset 0 f.writeC m.src (max t (mget 0 f.writeC m.src)) }) s)

/-- Writes the payload. While a byte has no completion time, as one in a host page until the host has answered, the message is not performed
(R431). -/
def msgWrite (trig : Bool) (m : PvlMsg) (s : State) : State :=
  let op := s.ids + 1
  let s1 := storeVa op m.ctx m.addr.toNat m.payload { s with ids := op }
  let t := msgTime s1 m.ctx m.addr.toNat m.len
  let s2 := if trig then trigger m.ctx [(m.addr.toNat, m.len)] t s1 op else s1
  if underWay op s2 then modFab (fun f => { f with owed := f.owed ++ [{ msg := m, op := op, time := t }] }) s2 else answerWrite m 0 t s2

/-- Answers the writes whose last byte has its completion time, or has failed. -/
def serveOwed (s : State) : State :=
  let ready := s.fab.owed.filter fun w => !underWay w.op s
  ready.foldl (fun s w => answerWrite w.msg w.status w.time s) (modFab (fun f => { f with owed := f.owed.filter fun w => !ready.contains w }) s)

/-! ### The message types (17 R429) -/

/-- READ and GET. What another part reads for its L1 is leased to it (04 R104, log entry 98). -/
def doRead (lease : Bool) (m : PvlMsg) (s : State) : State :=
  if m.len = 0 ∨ 4096 < m.len then respond m 6 [] s
  else match (if lease then notHome m s else none), msgAccess s m.ctx m.addr.toNat m.len true false, hostRefusal m s with
    | some l, _, _ => respondMoved m l s
    | none, 0, some c => dropHostReads (msgReader m).1 (respond m c [] s)
    | none, 0, none =>
      let r := msgRead s m.ctx m.addr.toNat m.len
      let keys := quotients 16 ((List.range m.len).filterMap fun i => (keyAt s m.ctx (m.addr.toNat + i)).map fun k => (k, (0#8 : Byte)))
      let s1 := if lease ∧ m.src ≠ 255 then keys.foldl (fun s k => grantFar m.ctx k s) s else s
      dropHostReads (msgReader m).1 (if r.2 then respond m 5 [] (countUncorr 1 s) else respond m 0 r.1 s1)
    | none, c, _ => respond m c [] s

/-- WRITE, MBOX and PUT. -/
def doWriteMsg (m : PvlMsg) (s : State) : State :=
  if m.payload.length ≠ m.len then respond m 6 [] s
  else match (if m.type = 3 then notHome m s else none), msgAccess s m.ctx m.addr.toNat m.len false true with
    | some l, _ => respondMoved m l s
    | none, 0 => msgWrite (decide (m.type ≠ 3)) m s
    | none, c => respond m c [] s

def doEnq (m : PvlMsg) (s : State) : State :=
  if m.len ≠ 256 ∨ m.payload.length ≠ 256 then respond m 6 [] s
  else match (if m.addr.toNat < 16384 then openQueue s m.addr.toNat else none) with
    | none => respond m 2 [] s
    | some q => if ringFull q then respond m 1 [] s else respond m 0 [] (appendRecord q m.payload none (enqKey m) s)

/-- The payload of an ATOM: operation, width, two zero bytes, data, and for compare-and-swap the comparand (log entry 21). -/
def atomPayload (op : AtomOp) : List Byte :=
  let n := if op.w64 then 8 else 4
  toBytes 1 op.aop ++ toBytes 1 (b2 op.w64) ++ toBytes 2 0 ++ toBytes n op.data.toNat ++ (if op.aop = 9 then toBytes n op.cmp.toNat else [])

def doAtom (m : PvlMsg) (op : AtomOp) (s : State) : State :=
  let n := if op.w64 then 8 else 4
  let host := match leafAt s m.ctx m.addr.toNat with | some l => decide (l.resid = 1) && decide (l.home = 255) | none => false
  if !atomOpOk op || decide (m.payload ≠ atomPayload op) || decide (m.len ≠ m.payload.length) then respond m 6 [] s
  else if decide (m.addr.toNat % n ≠ 0) then respond m 3 [] s
  else match (notHome { m with len := n } s), (if host then 3 else msgAccess s m.ctx m.addr.toNat n true true), keyAt s m.ctx m.addr.toNat with
    | some l, _, _ => respondMoved m l s
    | none, 0, some key =>
      if s.hm.memBad.contains (key / 8) then respond m 5 [] (countUncorr 1 s)
      else
        let r := homeAtomicAt key op s
        let t := mget 0 r.2.hm.lineC (lineOf key)
        respond m 0 (toBytes 8 t ++ toBytes n r.1) (modFab (fun f => { f with writeC := mset 0 f.writeC m.src (max t (mget 0 f.writeC m.src)) }) r.2)
    | none, 0, none => respond m 3 [] s
    | none, c, _ => respond m c [] s

/-- The part that asked has taken a frame for the page. -/
def nameFrame (src ctx va frame : Nat) (s : State) : State :=
  modXl (fun x => { x with migs := x.migs.map fun g =>
                      if g.ctx = ctx ∧ g.page = va ∧ g.dst = src ∧ !g.committed ∧ g.frame.isNone then { g with frame := some frame } else g }) s

/-- A part acknowledges a home change. -/
def noteAck (src ctx va : Nat) (s : State) : State :=
  modXl (fun x => { x with migs := x.migs.map fun g => if g.ctx = ctx ∧ g.page = va ∧ g.committed then { g with acks := insNat src g.acks } else g }) s

def doMig (m : PvlMsg) (b : MigMsg) (s : State) : State :=
  let s1 := match b with
    | .request va _ => homeRequest m.src m.ctx va.toNat s
    | .answer va code home addr => answerReq m.ctx va.toNat code home addr s
    | .frame va f => nameFrame m.src m.ctx va.toNat f s
    | .arrive va _ wexp migc pin wstamp lease data => arrivePage m.ctx va.toNat wexp migc pin wstamp lease data s
    | .homeChange va home addr => sendMsg 9 m.src m.ctx va [] (changeHome m.ctx va.toNat home addr s)
    | .ack va => noteAck m.src m.ctx va.toNat s
  respond m 0 [] s1

def doLeave (m : PvlMsg) (s : State) : State :=
  let d := nb m.addr.toNat 7 0
  respond m 0 [] (if d = ownDev s then leaveSet s else departDevice d s)

def doMgmt (m : PvlMsg) (s : State) : State :=
  match (if m.payload.length = m.len then parseCmd m.payload else none) with
  | none => respond m 6 [] s
  | some c =>
    match deferCmd m.src c (some m) s with
    | some s1 => s1
    | none => let a := manage m.src c s; respond m a.1 a.2.1 a.2.2

/-- Answers the commands whose record the host has given. -/
def serveMgmt (s : State) : State :=
  s.mgt.waits.foldl (fun s w =>
    if !(hostGaps (mgmtReader w.src) s w.ctx w.va 256).isEmpty then s
    else
      let a := manage w.src (waitCmd w) { s with mgt := { s.mgt with waits := s.mgt.waits.erase w } }
      dropHostReads (mgmtReader w.src).1 (match w.msg with
        | some m => respond m a.1 a.2.1 a.2.2
        | none => emit (.mgmt w.src (waitCmd w).code a.1 a.2.1) a.2.2)) s

/-! ### The host's answers (R430, R432) -/

/-- The host answers a READ: the data stands at the page's home addresses, where what asked for it finds it. -/
def hostData (m : PvlMsg) (s : State) (h : HostRead) : State :=
  if h.seq ≠ m.seq then s
  else
    let ok := decide (m.status = 0) && decide (m.payload.length = h.len)
    let code := if ok then 0 else if m.status = 0 then 6 else m.status
    let s1 := modFab (fun f => { f with hostReads := f.hostReads.map fun x => if x.seq = m.seq then { x with status := some code } else x }) s
    if ok then modHm (fun g => { g with mem := setCells g.mem ((List.range h.len).zip m.payload |>.map fun c => (h.key + c.1, c.2)) }) s1 else s1

/-- The cause of the deferred store fault that a WRITE answered with an error becomes (log entry 99). -/
def ackCause (status : Nat) : Nat := if status = 3 then 3 else if status = 7 then 2 else 1

/-- The host answers a WRITE of a store. The store is performed with the last answer, and its completion time counts from there
(04 R105); an error makes it a failed store. -/
def hostAck (m : PvlMsg) (s : State) (st : Store) : State :=
  match st.sent with
  | none => s
  | some l =>
    if !l.contains m.seq then s
    else
      let left := l.filter fun q => decide (q ≠ m.seq)
      if m.status ≠ 0 then failStore (ackCause m.status) st (modHm (fun h => { h with inflight := h.inflight.filter fun x => decide (x.sn ≠ st.sn) }) s)
      else if left = [] then arriveHome st s
      else modHm (fun h => { h with inflight := h.inflight.map fun x => if x.sn = st.sn then { x with sent := some left } else x }) s

def hostAnswer (m : PvlMsg) (s : State) : State :=
  let s1 := s.fab.hostReads.foldl (hostData m) s
  serveOwed (s.hm.inflight.foldl (hostAck m) s1)

/-- A response ends the request that its SEQ names; an announcement's shows a member; DEPARTED makes the part leave (R430, R436, R438). -/
def doResp (m : PvlMsg) (s : State) : State :=
  if s.fab.reqs.any (fun r => decide (r.peer = m.src) && decide (r.seq = m.seq)) then
    let joins := s.fab.joinWait.any fun w => decide (w.1 = m.src) && decide (w.2 = m.seq)
    let s1 := modFab (fun f => { f with
      reqs := f.reqs.filter (fun r => !(decide (r.peer = m.src) && decide (r.seq = m.seq))),
      present := if joins then insNat m.src f.present else f.present,
      joinWait := f.joinWait.filter fun w => !(decide (w.1 = m.src) && decide (w.2 = m.seq)) }) s
    if m.status = 7 then leaveSet s1 else if m.src = 255 then hostAnswer m s1 else s1
  else countDrop s

/-- What the message carries is of its own type. -/
def perform (m : PvlMsg) (b : PvlBody) (s : State) : State :=
  if s.mgt.safe && decide (m.type ≠ 0x0B) then respond m 6 [] s
  else match m.type, b with
    | 0x01, _ => doEnq m s
    | 0x02, _ => doRead true m s
    | 0x03, _ => doWriteMsg m s
    | 0x05, _ => doWriteMsg m s
    | 0x06, _ => doWriteMsg m s
    | 0x07, _ => doRead false m s
    | 0x08, .atom op => doAtom m op s
    | 0x09, .mig b => doMig m b s
    | 0x0A, _ => doLeave m s
    | 0x0B, _ => doMgmt m s
    | _, _ => respond m 6 [] s

/-- ENQ and MBOX wait until the sender's earlier writes are past everywhere (R431); what writes waits while the page is in hold, and an ENQ that
reaches the manager after a later one of R398's order waits for the next clock. -/
def mustWait (m : PvlMsg) (s : State) : Bool :=
  !s.mgt.safe && (!(msgGaps m s).isEmpty || (decide (m.type = 1) && decide (m.addr.toNat < 16384) && !mayAppend m.addr.toNat (enqKey m) s) || ((decide (m.type = 1) || decide (m.type = 5)) && decide (mget 0 s.fab.writeC m.src ≠ 0) && decide (s.gtime ≤ mget 0 s.fab.writeC m.src + 25)) ||
    ([3, 5, 6, 8].contains m.type && msgHeld s m.ctx m.addr.toNat (if m.type = 8 then 8 else min m.len 4096)))

/-- A part that has not announced itself, or has left, is no member, and is told so; its announcement, an MGMT message, is heard
(R430, log entry 22). The host is no member of the set and needs not be; the safe state knows only management (18 R445). -/
def notMember (m : PvlMsg) (s : State) : Bool := !s.mgt.safe && decide (m.src ≠ 255) && !s.fab.present.contains m.src && decide (m.type ≠ 0x0B)

/-- An announcement makes its sender a member; the numbers of its messages count from this one, and those of messages to it from 0. -/
def readmit (m : PvlMsg) (s : State) : State :=
  if m.type = 0x0B ∧ m.src ≠ 255 ∧ !s.fab.present.contains m.src then
    modFab (fun f => { f with departed := f.departed.filter (fun d => decide (d ≠ m.src)), present := insNat m.src f.present,
                              seqExp := mset 0 f.seqExp m.src m.seq, seqNext := mset 0 f.seqNext m.src 0 }) s
  else s

/-- A message that arrived is kept until its turn. -/
def keep (m : PvlMsg) (b : PvlBody) (s : State) : State := modFab (fun f => { f with inbox := f.inbox ++ [(m, b)] }) s

def kept (m : PvlMsg) (s : State) : Bool := s.fab.inbox.any fun x => decide (x.1.src = m.src) && decide (x.1.seq = m.seq)

/-- The message of its sender that is performed next, every earlier one being performed (R431). -/
def inTurn (s : State) (x : PvlMsg × PvlBody) : Bool :=
  decide (x.1.seq = mget 0 s.fab.seqExp x.1.src) && s.fab.owed.all (fun w => decide (w.msg.src ≠ x.1.src)) &&
    s.mgt.waits.all fun w => match w.msg with | some m => decide (m.src ≠ x.1.src) | none => true

/-- A kept message that is performed now. -/
def isDue (s : State) (x : PvlMsg × PvlBody) : Bool := inTurn s x && !mustWait x.1 s

/-- The due message with the lowest SRC, in whose order ENQs of one clock append (15 R398). -/
def nextDue (s : State) : Option (PvlMsg × PvlBody) :=
  let due := s.fab.inbox.filter (isDue s)
  due.find? fun x => due.all fun y => decide (x.1.src ≤ y.1.src)

/-- Performs kept messages in their senders' orders, at most `n`. -/
def serveInbox : Nat → State → State
  | 0, s => s
  | n + 1, s =>
    match nextDue s with
    | none => s
    | some x => serveInbox n (perform x.1 x.2 (advance x.1 (modFab (fun f => { f with inbox := f.inbox.erase x }) s)))

/-- The READs of the host that messages in their turn need are sent (17 R432). -/
def askInbox (s : State) : State :=
  (s.fab.inbox.filter (inTurn s)).foldl (fun s x => (msgGaps x.1 s).foldl (askHost (msgReader x.1) x.1.ctx) s) s

def serveAll (s : State) : State := askInbox (serveInbox s.fab.inbox.length s)

/-- What is missing before a kept message is asked for again (R431). -/
def askAgain (m : PvlMsg) (s : State) : State :=
  let e := mget 0 s.fab.seqExp m.src
  if e < m.seq ∧ !s.fab.inbox.any (fun x => decide (x.1.src = m.src) && decide (x.1.seq = e)) then emit (.again m.src e) s else s

/-- A message arrives: dropped, dropped as a duplicate, performed in its sender's order, or kept for its turn. -/
def takeMsg (m : PvlMsg) (b : PvlBody) (s : State) : State :=
  if m.seq < mget 0 s.fab.seqExp m.src ∨ kept m s then s
  else serveAll (askAgain m (keep m b s))

def receive (m : PvlMsg) (b : PvlBody) (s : State) : Out :=
  if !admits m s then .next (countDrop s)
  else if s.mgt.safe ∧ m.type ≠ 0x0B then .next (respond m 6 [] s)
  else if m.type = 4 then .next (doResp m s)
  else if notMember m s then .next (respond m 7 [] s)
  else .next (takeMsg m b (readmit m s))

def receiveAs (type : Nat) (m : PvlMsg) (b : PvlBody) (s : State) : Out := if m.type = type then receive m b s else idle s

def execEnq (m : PvlMsg) (s : State) : Out := receiveAs 1 m .plain s
def execRead (m : PvlMsg) (s : State) : Out := receiveAs 2 m .plain s
def execWrite (m : PvlMsg) (s : State) : Out := receiveAs 3 m .plain s
def execResp (m : PvlMsg) (s : State) : Out := receiveAs 4 m .plain s
def execMbox (m : PvlMsg) (s : State) : Out := receiveAs 5 m .plain s
def execPut (m : PvlMsg) (s : State) : Out := receiveAs 6 m .plain s
def execGet (m : PvlMsg) (s : State) : Out := receiveAs 7 m .plain s
def execAtom (m : PvlMsg) (op : AtomOp) (s : State) : Out := receiveAs 8 m (.atom op) s
def execMig (m : PvlMsg) (b : MigMsg) (s : State) : Out := receiveAs 9 m (.mig b) s
def execLeave (m : PvlMsg) (s : State) : Out := receiveAs 10 m .plain s
def execMgmt (m : PvlMsg) (s : State) : Out := receiveAs 11 m .plain s

/-! ### Ethernet (17 R427, 18 R445) -/

/-- The link-local address of the safe state, from the serial number with bit 1 of its first byte inverted. -/
def linkLocal : Nat := 0xFE80 * 2 ^ 112 + (Config.serial ^^^ 0x0200000000000000#64).toNat

/-- The port is enabled. -/
def portOn (port : Nat) (s : State) : Bool := nbit (portsOn s) port

/-- Addresses that a port answers for. -/
def answersFor (port a : Nat) (s : State) : Bool := s.netAddrs.contains (port, a) || (s.mgt.safe && decide (a = linkLocal))

/-- The UDP port of PVL: PVLCFG.PORT, in the safe state 47,269. -/
def pvlPort (s : State) : Nat := if s.mgt.safe then 47269 else nb (preg s 0x18).toNat 31 16

def execEthernetFrame (port : Nat) (f : EthFrame) (s : State) : Out :=
  if !portOn port s then idle s
  else match f with
  | .arp a => if s.netAddrs.contains (port, a) then .next (emit (.arpReply port a) s) else .next (countDrop s)
  | .neighbour a => if answersFor port a s then .next (emit (.neighbourReply port a) s) else .next (countDrop s)
  | .echo a d => if answersFor port a s then .next (emit (.echoReply port d) s) else .next (countDrop s)
  | .pvl p m b => if p = pvlPort s then receive m b s else .next (countDrop s)
  | .ptp b => execPtpMessage b s
  | .other => .next (countDrop s)

/-! ### The tick of global time (00 R7, 04 R102, R106, 17 R435) -/

/-- Global time has started and goes on: from release on, in the safe state too. -/
def timeOn (s : State) : Bool := computeOn s || (s.mgt.safe && decide (s.mgt.failedStep = 0))

/-- How far a tick moves gtime while it is slewed: one tick in 10,000 counts double or not at all (100 ppm). -/
def slewStep (s : State) : Nat × Fabric :=
  let f := s.fab
  if f.slew = 0 then (1, f)
  else if f.slewCnt + 1 < 10000 then (1, { f with slewCnt := f.slewCnt + 1 })
  else if 0 < f.slew then (2, { f with slewCnt := 0, slew := f.slew - 1 })
  else (0, { f with slewCnt := 0, slew := f.slew + 1 })

/-- Waiting skeins try their instruction again. -/
def wake (k : Skein) : Skein := match k.wait with | some w => { k with wait := some { w with asleep := false } } | none => k

def wakeAll (s : State) : State :=
  { s with k := wake s.k, peers := s.peers.map wake, others := s.others.map fun c => { c with skeins := c.skeins.map wake } }

def tickTo (now : Nat) (s : State) : State :=
  let clk := s.clocks + ((now * clockMhz s) / 1000 - (s.gtime * clockMhz s) / 1000)
  let s2 := wakeAll (passTo (passFuel now s) now { s with clocks := clk })
  noteStuck (serveAll (serveMgmt (serveOwed (serveDones (orphanFaults (retryArrivals s2))))))

def execGlobalTimeTick (s : State) : Out :=
  if !timeOn s then idle s
  else
    let r := slewStep s
    .next (tickTo (s.gtime + r.1) { s with fab := r.2 })

end Sys2Proof.Machine
end

