-- ==== Sys2Proof/Machine/Uniform.lean ====
section
/-! DEFINITION. Uniform integer arithmetic (08 R231, R232). -/
namespace Sys2Proof.Machine

/-- The operands of the uniform group: with W32 bits [31:0], sign-extended (signed) or zero-extended (R231). -/
def opS (w : Nat) (x : Word64) : Word64 := if w = 1 then (x.extractLsb' 0 32).signExtend 64 else x
def opU (w : Nat) (x : Word64) : Word64 := if w = 1 then (x.extractLsb' 0 32).setWidth 64 else x

/-- The result: with W32 its bits [31:0] sign-extended. -/
def resW (w : Nat) (x : Word64) : Word64 := if w = 1 then (x.extractLsb' 0 32).signExtend 64 else x

def widthW (w : Nat) : Nat := if w = 1 then 32 else 64

/-- A two-operand uniform instruction. -/
def unif2 (d a b w : Nat) (f : Word64 → Word64 → Word64) (s : State) : Out :=
  unifOp d (fun k => resW w (f (rdG k a) (rdG k b))) s

/-- The high half of the exact product of two N-bit values (R231). -/
def mulHi (w : Nat) (signed : Bool) (a b : Word64) : Word64 :=
  let p : Int := if signed then (opS w a).toInt * (opS w b).toInt else ((opU w a).toNat * (opU w b).toNat : Nat)
  BitVec.ofInt 64 (p / (2 ^ widthW w : Int))

/-- Quotient and remainder without trap (R231). -/
def divS (w : Nat) (a b : Word64) : Word64 :=
  let x := (opS w a).toInt
  let y := (opS w b).toInt
  if y = 0 then BitVec.allOnes 64
  else if x = -(2 ^ (widthW w - 1) : Int) ∧ y = -1 then BitVec.ofInt 64 x
  else BitVec.ofInt 64 (x.tdiv y)
def divU (w : Nat) (a b : Word64) : Word64 :=
  let x := (opU w a).toNat
  let y := (opU w b).toNat
  if y = 0 then BitVec.allOnes 64 else w64 (x / y)
def remS (w : Nat) (a b : Word64) : Word64 :=
  let x := (opS w a).toInt
  let y := (opS w b).toInt
  if y = 0 then opS w a
  else if x = -(2 ^ (widthW w - 1) : Int) ∧ y = -1 then 0#64
  else BitVec.ofInt 64 (x - y * x.tdiv y)
def remU (w : Nat) (a b : Word64) : Word64 :=
  let x := (opU w a).toNat
  let y := (opU w b).toNat
  if y = 0 then opU w a else w64 (x - y * (x / y))

def shAmt (w : Nat) (b : Word64) : Nat := b.toNat % widthW w

def shlW (w : Nat) (a : Word64) (n : Nat) : Word64 := opU w a <<< n
def shrW (w : Nat) (a : Word64) (n : Nat) : Word64 := opU w a >>> n
def sarW (w : Nat) (a : Word64) (n : Nat) : Word64 := (opS w a).sshiftRight n

def execGadd (d a b w : Nat) (s : State) : Out := unif2 d a b w (fun x y => x + y) s
def execGsub (d a b w : Nat) (s : State) : Out := unif2 d a b w (fun x y => x - y) s
def execGmul (d a b w : Nat) (s : State) : Out := unif2 d a b w (fun x y => x * y) s
def execGmulh (d a b w : Nat) (s : State) : Out := unif2 d a b w (mulHi w true) s
def execGmulhN (d a b w : Nat) (s : State) : Out := unif2 d a b w (mulHi w false) s
def execGdiv (d a b w : Nat) (s : State) : Out := unif2 d a b w (divS w) s
def execGdivN (d a b w : Nat) (s : State) : Out := unif2 d a b w (divU w) s
def execGrem (d a b w : Nat) (s : State) : Out := unif2 d a b w (remS w) s
def execGremN (d a b w : Nat) (s : State) : Out := unif2 d a b w (remU w) s
def execGand (d a b w : Nat) (s : State) : Out := unif2 d a b w (fun x y => x &&& y) s
def execGor (d a b w : Nat) (s : State) : Out := unif2 d a b w (fun x y => x ||| y) s
def execGxor (d a b w : Nat) (s : State) : Out := unif2 d a b w (fun x y => x ^^^ y) s
def execGshl (d a b w : Nat) (s : State) : Out := unif2 d a b w (fun x y => shlW w x (shAmt w y)) s
def execGshr (d a b w : Nat) (s : State) : Out := unif2 d a b w (fun x y => shrW w x (shAmt w y)) s
def execGsar (d a b w : Nat) (s : State) : Out := unif2 d a b w (fun x y => sarW w x (shAmt w y)) s
def execGmin (d a b w : Nat) (s : State) : Out :=
  unif2 d a b w (fun x y => if (opS w y).slt (opS w x) then opS w y else opS w x) s
def execGminN (d a b w : Nat) (s : State) : Out :=
  unif2 d a b w (fun x y => if (opU w y).ult (opU w x) then opU w y else opU w x) s
def execGmax (d a b w : Nat) (s : State) : Out :=
  unif2 d a b w (fun x y => if (opS w x).slt (opS w y) then opS w y else opS w x) s
def execGmaxN (d a b w : Nat) (s : State) : Out :=
  unif2 d a b w (fun x y => if (opU w x).ult (opU w y) then opU w y else opU w x) s
def execGpopc (d a w : Nat) (s : State) : Out := unifOp d (fun k => w64 (popc (widthW w) (opU w (rdG k a)).toNat)) s
def execGclz (d a w : Nat) (s : State) : Out := unifOp d (fun k => w64 (clz (widthW w) (opU w (rdG k a)).toNat)) s
def execGsel (d a b : Nat) (s : State) : Out := unifOp d (fun k => if rdG k d ≠ 0#64 then rdG k a else rdG k b) s

/-- 1 or 0 by the condition on N-bit values (R210, R231). -/
def cmpW (w c : Nat) (x y : Word64) : Word64 := if intCond (widthW w) c (opU w x).toNat (opU w y).toNat then 1#64 else 0#64

def execGcmp (d a b w c : Nat) (s : State) : Out := unifOp d (fun k => cmpW w c (rdG k a) (rdG k b)) s

/-- imm12 sign- or zero-extended. -/
def imm12 (v i : Nat) : Word64 := if v = 1 then w64 (i % 4096) else BitVec.ofInt 64 (sxt 12 i)

def execGaddi (d a w i : Nat) (s : State) : Out := unifOp d (fun k => resW w (rdG k a + imm12 0 i)) s
def execGandi (d a v i : Nat) (s : State) : Out := unifOp d (fun k => rdG k a &&& imm12 v i) s
def execGori (d a v i : Nat) (s : State) : Out := unifOp d (fun k => rdG k a ||| imm12 v i) s
def execGxori (d a v i : Nat) (s : State) : Out := unifOp d (fun k => rdG k a ^^^ imm12 v i) s
def execGshli (d a w n : Nat) (s : State) : Out := unifOp d (fun k => resW w (shlW w (rdG k a) n)) s
def execGshri (d a w n : Nat) (s : State) : Out := unifOp d (fun k => resW w (shrW w (rdG k a) n)) s
def execGsari (d a w n : Nat) (s : State) : Out := unifOp d (fun k => resW w (sarW w (rdG k a) n)) s
def execGcmpi (d a w c i : Nat) (s : State) : Out := unifOp d (fun k => cmpW w c (rdG k a) (BitVec.ofInt 64 (sxt 8 i))) s
def execGhi (d i : Nat) (s : State) : Out := unifOp d (fun _ => BitVec.ofInt 64 (sxt 20 i * 4096)) s

end Sys2Proof.Machine
end

