-- ==== Sys2Proof/Machine/Dispatch.lean ====
section
/-! DEFINITION. The meaning of each instruction and event: one arm per row of the opcode table. -/
namespace Sys2Proof.Machine

def exec (i : Instr) (s : State) : Host.Outcome State Fault Refusal :=
  match i with
  | .vadd g d a b => Sys2Proof.Machine.execVadd g d a b s
  | .vsub g d a b => Sys2Proof.Machine.execVsub g d a b s
  | .vmul x g d a b => Sys2Proof.Machine.execVmul x g d a b s
  | .vmulh x g d a b => Sys2Proof.Machine.execVmulh x g d a b s
  | .vmad g d a b => Sys2Proof.Machine.execVmad g d a b s
  | .vand g d a b => Sys2Proof.Machine.execVand g d a b s
  | .vor g d a b => Sys2Proof.Machine.execVor g d a b s
  | .vxor g d a b => Sys2Proof.Machine.execVxor g d a b s
  | .vshl g d a b => Sys2Proof.Machine.execVshl g d a b s
  | .vshr g d a b => Sys2Proof.Machine.execVshr g d a b s
  | .vsar g d a b => Sys2Proof.Machine.execVsar g d a b s
  | .vmin x g d a b => Sys2Proof.Machine.execVmin x g d a b s
  | .vmax x g d a b => Sys2Proof.Machine.execVmax x g d a b s
  | .vlea x g d a b => Sys2Proof.Machine.execVlea x g d a b s
  | .vaddi g d a i_ => Sys2Proof.Machine.execVaddi g d a i_ s
  | .vimm g d i_ => Sys2Proof.Machine.execVimm g d i_ s
  | .vmov g d a => Sys2Proof.Machine.execVmov g d a s
  | .vabs g d a => Sys2Proof.Machine.execVabs g d a s
  | .vpopc g d a => Sys2Proof.Machine.execVpopc g d a s
  | .vclz g d a => Sys2Proof.Machine.execVclz g d a s
  | .vbcast g d a => Sys2Proof.Machine.execVbcast g d a s
  | .movsVector g d a => Sys2Proof.Machine.execMovsVector g d a s
  | .vcvtiI32I8 g d a => Sys2Proof.Machine.execVcvtiI32I8 g d a s
  | .vcvtiI32I16 g d a => Sys2Proof.Machine.execVcvtiI32I16 g d a s
  | .vcvtiN32N8 g d a => Sys2Proof.Machine.execVcvtiN32N8 g d a s
  | .vcvtiN32N16 g d a => Sys2Proof.Machine.execVcvtiN32N16 g d a s
  | .vcvtiI8I32 g d a => Sys2Proof.Machine.execVcvtiI8I32 g d a s
  | .vcvtiI16I32 g d a => Sys2Proof.Machine.execVcvtiI16I32 g d a s
  | .vcvtiN8N32 g d a => Sys2Proof.Machine.execVcvtiN8N32 g d a s
  | .vcvtiN16N32 g d a => Sys2Proof.Machine.execVcvtiN16N32 g d a s
  | .fadd x g d a b => Sys2Proof.Machine.execFadd x g d a b s
  | .fsub x g d a b => Sys2Proof.Machine.execFsub x g d a b s
  | .fmul x g d a b => Sys2Proof.Machine.execFmul x g d a b s
  | .ffma x g d a b => Sys2Proof.Machine.execFfma x g d a b s
  | .fmin x g d a b => Sys2Proof.Machine.execFmin x g d a b s
  | .fmax x g d a b => Sys2Proof.Machine.execFmax x g d a b s
  | .fcmp g c p a b => Sys2Proof.Machine.execFcmp g c p a b s
  | .fscale x g d a b => Sys2Proof.Machine.execFscale x g d a b s
  | .fcvt x g d a t s_ => Sys2Proof.Machine.execFcvt x g d a t s_ s
  | .fround x g d a => Sys2Proof.Machine.execFround x g d a s
  | .fclass x g d a => Sys2Proof.Machine.execFclass x g d a s
  | .iadd g d a b => Sys2Proof.Machine.execIadd g d a b s
  | .isub g d a b => Sys2Proof.Machine.execIsub g d a b s
  | .imul g d a b => Sys2Proof.Machine.execImul g d a b s
  | .idiv g d a b => Sys2Proof.Machine.execIdiv g d a b s
  | .imin g d a b => Sys2Proof.Machine.execImin g d a b s
  | .imax g d a b => Sys2Proof.Machine.execImax g d a b s
  | .ihull g d a b => Sys2Proof.Machine.execIhull g d a b s
  | .isq g d a => Sys2Proof.Machine.execIsq g d a s
  | .isqrt g d a => Sys2Proof.Machine.execIsqrt g d a s
  | .iabs g d a => Sys2Proof.Machine.execIabs g d a s
  | .sfn g d a f => Sys2Proof.Machine.execSfn g d a f s
  | .sfnSlot g d a s_ => Sys2Proof.Machine.execSfnSlot g d a s_ s
  | .pand g d a b => Sys2Proof.Machine.execPand g d a b s
  | .por g d a b => Sys2Proof.Machine.execPor g d a b s
  | .pxor g d a b => Sys2Proof.Machine.execPxor g d a b s
  | .pnot g d a => Sys2Proof.Machine.execPnot g d a s
  | .pmovgToPredicate g p x => Sys2Proof.Machine.execPmovgToPredicate g p x s
  | .pmovgToUniform g p x => Sys2Proof.Machine.execPmovgToUniform g p x s
  | .shflIdx g d a n => Sys2Proof.Machine.execShflIdx g d a n s
  | .shflUp g d a n => Sys2Proof.Machine.execShflUp g d a n s
  | .shflDown g d a n => Sys2Proof.Machine.execShflDown g d a n s
  | .shflXor g d a n => Sys2Proof.Machine.execShflXor g d a n s
  | .shflIdxRegister g d a b => Sys2Proof.Machine.execShflIdxRegister g d a b s
  | .voteAny g d a => Sys2Proof.Machine.execVoteAny g d a s
  | .voteAll g d a => Sys2Proof.Machine.execVoteAll g d a s
  | .voteNone g d a => Sys2Proof.Machine.execVoteNone g d a s
  | .voteBallot g d a => Sys2Proof.Machine.execVoteBallot g d a s
  | .vred g d a o t => Sys2Proof.Machine.execVred g d a o t s
  | .vscan g d a o t => Sys2Proof.Machine.execVscan g d a o t s
  | .vsel g d a b => Sys2Proof.Machine.execVsel g d a b s
  | .vsetp g c p a b => Sys2Proof.Machine.execVsetp g c p a b s
  | .vldN8 x g d a b => Sys2Proof.Machine.execVldN8 x g d a b s
  | .vldN16 x g d a b => Sys2Proof.Machine.execVldN16 x g d a b s
  | .vld x g d a b s_ => Sys2Proof.Machine.execVld x g d a b s_ s
  | .vldN64 x g d a b s_ => Sys2Proof.Machine.execVldN64 x g d a b s_ s
  | .vstN8 x g v a b => Sys2Proof.Machine.execVstN8 x g v a b s
  | .vstN16 x g v a b => Sys2Proof.Machine.execVstN16 x g v a b s
  | .vst x g v a b s_ => Sys2Proof.Machine.execVst x g v a b s_ s
  | .vstN64 x g v a b s_ => Sys2Proof.Machine.execVstN64 x g v a b s_ s
  | .vatom x g d a b s_ => Sys2Proof.Machine.execVatom x g d a b s_ s
  | .pgreq x g d a b => Sys2Proof.Machine.execPgreq x g d a b s
  | .sld x g d a b => Sys2Proof.Machine.execSld x g d a b s
  | .sldFe x g d a b => Sys2Proof.Machine.execSldFe x g d a b s
  | .sldFeClr x g d a b => Sys2Proof.Machine.execSldFeClr x g d a b s
  | .sst x g v a b => Sys2Proof.Machine.execSst x g v a b s
  | .sclr x g v a b => Sys2Proof.Machine.execSclr x g v a b s
  | .smp g d a b => Sys2Proof.Machine.execSmp g d a b s
  | .smpPool g d a b => Sys2Proof.Machine.execSmpPool g d a b s
  | .gadd d a b w => Sys2Proof.Machine.execGadd d a b w s
  | .gsub d a b w => Sys2Proof.Machine.execGsub d a b w s
  | .gmul d a b w => Sys2Proof.Machine.execGmul d a b w s
  | .gmulh d a b w => Sys2Proof.Machine.execGmulh d a b w s
  | .gmulhN d a b w => Sys2Proof.Machine.execGmulhN d a b w s
  | .gdiv d a b w => Sys2Proof.Machine.execGdiv d a b w s
  | .gdivN d a b w => Sys2Proof.Machine.execGdivN d a b w s
  | .grem d a b w => Sys2Proof.Machine.execGrem d a b w s
  | .gremN d a b w => Sys2Proof.Machine.execGremN d a b w s
  | .gand d a b w => Sys2Proof.Machine.execGand d a b w s
  | .gor d a b w => Sys2Proof.Machine.execGor d a b w s
  | .gxor d a b w => Sys2Proof.Machine.execGxor d a b w s
  | .gshl d a b w => Sys2Proof.Machine.execGshl d a b w s
  | .gshr d a b w => Sys2Proof.Machine.execGshr d a b w s
  | .gsar d a b w => Sys2Proof.Machine.execGsar d a b w s
  | .gmin d a b w => Sys2Proof.Machine.execGmin d a b w s
  | .gminN d a b w => Sys2Proof.Machine.execGminN d a b w s
  | .gmax d a b w => Sys2Proof.Machine.execGmax d a b w s
  | .gmaxN d a b w => Sys2Proof.Machine.execGmaxN d a b w s
  | .gpopc d a w => Sys2Proof.Machine.execGpopc d a w s
  | .gclz d a w => Sys2Proof.Machine.execGclz d a w s
  | .gsel d a b => Sys2Proof.Machine.execGsel d a b s
  | .gcmp d a b w c => Sys2Proof.Machine.execGcmp d a b w c s
  | .gaddi d a w i_ => Sys2Proof.Machine.execGaddi d a w i_ s
  | .gandi d a v i_ => Sys2Proof.Machine.execGandi d a v i_ s
  | .gori d a v i_ => Sys2Proof.Machine.execGori d a v i_ s
  | .gxori d a v i_ => Sys2Proof.Machine.execGxori d a v i_ s
  | .gshli d a w n => Sys2Proof.Machine.execGshli d a w n s
  | .gshri d a w n => Sys2Proof.Machine.execGshri d a w n s
  | .gsari d a w n => Sys2Proof.Machine.execGsari d a w n s
  | .gcmpi d a w c i_ => Sys2Proof.Machine.execGcmpi d a w c i_ s
  | .ghi d i_ => Sys2Proof.Machine.execGhi d i_ s
  | .bru o => Sys2Proof.Machine.execBru o s
  | .bcc c a b o => Sys2Proof.Machine.execBcc c a b o s
  | .bvoteAny g o => Sys2Proof.Machine.execBvoteAny g o s
  | .bvoteAll g o => Sys2Proof.Machine.execBvoteAll g o s
  | .bvoteNone g o => Sys2Proof.Machine.execBvoteNone g o s
  | .br g o => Sys2Proof.Machine.execBr g o s
  | .brx g n o => Sys2Proof.Machine.execBrx g n o s
  | .call o => Sys2Proof.Machine.execCall o s
  | .ret a => Sys2Proof.Machine.execRet a s
  | .jmpg d a => Sys2Proof.Machine.execJmpg d a s
  | .exit g => Sys2Proof.Machine.execExit g s
  | .tail g => Sys2Proof.Machine.execTail g s
  | .yield => Sys2Proof.Machine.execYield s
  | .meld p => Sys2Proof.Machine.execMeld p s
  | .mend => Sys2Proof.Machine.execMend s
  | .mmap p i_ v => Sys2Proof.Machine.execMmap p i_ v s
  | .wopen => Sys2Proof.Machine.execWopen s
  | .wclose => Sys2Proof.Machine.execWclose s
  | .spawn g n o => Sys2Proof.Machine.execSpawn g n o s
  | .bar l b => Sys2Proof.Machine.execBar l b s
  | .barArrive l b => Sys2Proof.Machine.execBarArrive l b s
  | .barWait l b => Sys2Proof.Machine.execBarWait l b s
  | .waitc l s_ c t => Sys2Proof.Machine.execWaitc l s_ c t s
  | .fenceRel s_ => Sys2Proof.Machine.execFenceRel s_ s
  | .fenceAcq s_ => Sys2Proof.Machine.execFenceAcq s_ s
  | .fenceAr s_ => Sys2Proof.Machine.execFenceAr s_ s
  | .movs d n => Sys2Proof.Machine.execMovs d n s
  | .movsw a n => Sys2Proof.Machine.execMovsw a n s
  | .gang a => Sys2Proof.Machine.execGang a s
  | .cfgmode r e f c => Sys2Proof.Machine.execCfgmode r e f c s
  | .nop => Sys2Proof.Machine.execNop s
  | .trap c => Sys2Proof.Machine.execTrap c s
  | .brk c => Sys2Proof.Machine.execBrk c s
  | .eret => Sys2Proof.Machine.execEret s
  | .halt => Sys2Proof.Machine.execHalt s
  | .sfload a s_ => Sys2Proof.Machine.execSfload a s_ s
  | .launch a b c => Sys2Proof.Machine.execLaunch a b c s
  | .launchWait a b c => Sys2Proof.Machine.execLaunchWait a b c s
  | .lwait => Sys2Proof.Machine.execLwait s
  | .gld x d a b z s_ => Sys2Proof.Machine.execGld x d a b z s_ s
  | .gst x d a b z => Sys2Proof.Machine.execGst x d a b z s
  | .gatom x d a b o w s_ => Sys2Proof.Machine.execGatom x d a b o w s_ s
  | .cpyLin a b c o => Sys2Proof.Machine.execCpyLin a b c o s
  | .cpyShape a b c o => Sys2Proof.Machine.execCpyShape a b c o s
  | .cpyGather a b c o => Sys2Proof.Machine.execCpyGather a b c o s
  | .cpyScatter a b c o => Sys2Proof.Machine.execCpyScatter a b c o s
  | .cpyMcast a b c o => Sys2Proof.Machine.execCpyMcast a b c o s
  | .cpyRadd a b c o => Sys2Proof.Machine.execCpyRadd a b c o s
  | .cpyDec a b c o => Sys2Proof.Machine.execCpyDec a b c o s
  | .cpyDeq a b c o => Sys2Proof.Machine.execCpyDeq a b c o s
  | .cpyPack a b c o => Sys2Proof.Machine.execCpyPack a b c o s
  | .cpyUnpack a b c o => Sys2Proof.Machine.execCpyUnpack a b c o s
  | .cpyPut a b c o => Sys2Proof.Machine.execCpyPut a b c o s
  | .cpyGet a b c o => Sys2Proof.Machine.execCpyGet a b c o s
  | .cpySig a b c o => Sys2Proof.Machine.execCpySig a b c o s
  | .binit a b o => Sys2Proof.Machine.execBinit a b o s
  | .barrive a b o => Sys2Proof.Machine.execBarrive a b o s
  | .bwait a b o => Sys2Proof.Machine.execBwait a b o s
  | .btest d a b o => Sys2Proof.Machine.execBtest d a b o s
  | .shfence a => Sys2Proof.Machine.execShfence a s
  | .tmap t g => Sys2Proof.Machine.execTmap t g s
  | .mma a t u g o => Sys2Proof.Machine.execMma a t u g o s
  | .mmas a t u g s_ o => Sys2Proof.Machine.execMmas a t u g s_ o s
  | .cmma a t u g => Sys2Proof.Machine.execCmma a t u g s
  | .accz a g => Sys2Proof.Machine.execAccz a g s
  | .accin a t g => Sys2Proof.Machine.execAccin a t g s
  | .accout a t g o => Sys2Proof.Machine.execAccout a t g o s
  | .accmov a s_ => Sys2Proof.Machine.execAccmov a s_ s
  | .trowSum a b c o => Sys2Proof.Machine.execTrowSum a b c o s
  | .trowMax a b c o => Sys2Proof.Machine.execTrowMax a b c o s
  | .trowSmax a b c o => Sys2Proof.Machine.execTrowSmax a b c o s
  | .trowNorm a b c o => Sys2Proof.Machine.execTrowNorm a b c o s
  | .march k p q o => Sys2Proof.Machine.execMarch k p q o s
  | .marchIv k p q o => Sys2Proof.Machine.execMarchIv k p q o s
  | .mresume k p q o => Sys2Proof.Machine.execMresume k p q o s
  | .fprep d s_ q o => Sys2Proof.Machine.execFprep d s_ q o s
  | .boxt k m => Sys2Proof.Machine.execBoxt k m s
  | .trit k m => Sys2Proof.Machine.execTrit k m s
  | .stkpush k s_ m => Sys2Proof.Machine.execStkpush k s_ m s
  | .stkpop k s_ m => Sys2Proof.Machine.execStkpop k s_ m s
  | .draw r t g o => Sys2Proof.Machine.execDraw r t g o s
  | .depthw k t m => Sys2Proof.Machine.execDepthw k t m s
  | .nbin a b c o => Sys2Proof.Machine.execNbin a b c o s
  | .npairs a b c o => Sys2Proof.Machine.execNpairs a b c o s
  | .nstat d a b => Sys2Proof.Machine.execNstat d a b s
  | .registerWrite idx val => Sys2Proof.Machine.execRegisterWrite idx val s
  | .xltinvPage val => Sys2Proof.Machine.execXltinvPage val s
  | .xltinvContext val => Sys2Proof.Machine.execXltinvContext val s
  | .xltinvAll val => Sys2Proof.Machine.execXltinvAll val s
  | .xltinvComplete => Sys2Proof.Machine.execXltinvComplete s
  | .frmgive64 val => Sys2Proof.Machine.execFrmgive64 val s
  | .frmgive2m val => Sys2Proof.Machine.execFrmgive2m val s
  | .migrationCommit id => Sys2Proof.Machine.execMigrationCommit id s
  | .frameFree id => Sys2Proof.Machine.execFrameFree id s
  | .parkedStorePerform n => Sys2Proof.Machine.execParkedStorePerform n s
  | .parkedStoreTimeout n => Sys2Proof.Machine.execParkedStoreTimeout n s
  | .homeStore n => Sys2Proof.Machine.execHomeStore n s
  | .homeAtomic at_ op => Sys2Proof.Machine.execHomeAtomic at_ op s
  | .homeRead core ctx va => Sys2Proof.Machine.execHomeRead core ctx va s
  | .memoryScrub line => Sys2Proof.Machine.execMemoryScrub line s
  | .consumingLoadProceed r => Sys2Proof.Machine.execConsumingLoadProceed r s
  | .fullEmptyStall r => Sys2Proof.Machine.execFullEmptyStall r s
  | .arrival id => Sys2Proof.Machine.execArrival id s
  | .npairsClosingArrival id => Sys2Proof.Machine.execNpairsClosingArrival id s
  | .sequencerOpStart core => Sys2Proof.Machine.execSequencerOpStart core s
  | .gangLatchTimeout r => Sys2Proof.Machine.execGangLatchTimeout r s
  | .pairRecordEmit id => Sys2Proof.Machine.execPairRecordEmit id s
  | .merge launch level => Sys2Proof.Machine.execMerge launch level s
  | .levelBarrierRelease r => Sys2Proof.Machine.execLevelBarrierRelease r s
  | .barrierStallTimeout r => Sys2Proof.Machine.execBarrierStallTimeout r s
  | .spawnWaitTimeout r => Sys2Proof.Machine.execSpawnWaitTimeout r s
  | .bwaitTimeout r => Sys2Proof.Machine.execBwaitTimeout r s
  | .preemptWaitingCrew core slot => Sys2Proof.Machine.execPreemptWaitingCrew core slot s
  | .basketTimerExpiry core slot n => Sys2Proof.Machine.execBasketTimerExpiry core slot n s
  | .basketLaunch core slot => Sys2Proof.Machine.execBasketLaunch core slot s
  | .skeinEnd r => Sys2Proof.Machine.execSkeinEnd r s
  | .retirementEntryFree n => Sys2Proof.Machine.execRetirementEntryFree n s
  | .crewEnd core slot => Sys2Proof.Machine.execCrewEnd core slot s
  | .takeRecord queue => Sys2Proof.Machine.execTakeRecord queue s
  | .placeUnit => Sys2Proof.Machine.execPlaceUnit s
  | .priorityPreemption queue => Sys2Proof.Machine.execPriorityPreemption queue s
  | .preemptCrew core slot => Sys2Proof.Machine.execPreemptCrew core slot s
  | .restoreCrew n => Sys2Proof.Machine.execRestoreCrew n s
  | .qctlOpen val => Sys2Proof.Machine.execQctlOpen val s
  | .qctlClose val => Sys2Proof.Machine.execQctlClose val s
  | .qctlReset val => Sys2Proof.Machine.execQctlReset val s
  | .mailboxPendingAppend ctx n => Sys2Proof.Machine.execMailboxPendingAppend ctx n s
  | .deferredTrapTake r => Sys2Proof.Machine.execDeferredTrapTake r s
  | .watchdogTrap launch => Sys2Proof.Machine.execWatchdogTrap launch s
  | .watchdogKill launch => Sys2Proof.Machine.execWatchdogKill launch s
  | .kill ctx => Sys2Proof.Machine.execKill ctx s
  | .frameStart stream => Sys2Proof.Machine.execFrameStart stream s
  | .frameSlotEnd stream => Sys2Proof.Machine.execFrameSlotEnd stream s
  | .ethernetFrame port f => Sys2Proof.Machine.execEthernetFrame port f s
  | .enq m => Sys2Proof.Machine.execEnq m s
  | .read m => Sys2Proof.Machine.execRead m s
  | .write m => Sys2Proof.Machine.execWrite m s
  | .resp m => Sys2Proof.Machine.execResp m s
  | .mbox m => Sys2Proof.Machine.execMbox m s
  | .put m => Sys2Proof.Machine.execPut m s
  | .get m => Sys2Proof.Machine.execGet m s
  | .atom m op => Sys2Proof.Machine.execAtom m op s
  | .mig m b => Sys2Proof.Machine.execMig m b s
  | .leave m => Sys2Proof.Machine.execLeave m s
  | .mgmt m => Sys2Proof.Machine.execMgmt m s
  | .ptpMessage b => Sys2Proof.Machine.execPtpMessage b s
  | .syncTimeout => Sys2Proof.Machine.execSyncTimeout s
  | .peerTimeout dev => Sys2Proof.Machine.execPeerTimeout dev s
  | .join val => Sys2Proof.Machine.execJoin val s
  | .joinComplete => Sys2Proof.Machine.execJoinComplete s
  | .fabctlLeave val => Sys2Proof.Machine.execFabctlLeave val s
  | .powerOn b => Sys2Proof.Machine.execPowerOn b s
  | .status src => Sys2Proof.Machine.execStatus src s
  | .selftest src => Sys2Proof.Machine.execSelftest src s
  | .diag src unit idx => Sys2Proof.Machine.execDiag src unit idx s
  | .regread src idx => Sys2Proof.Machine.execRegread src idx s
  | .regwrite src idx val => Sys2Proof.Machine.execRegwrite src idx val s
  | .attest src nonce => Sys2Proof.Machine.execAttest src nonce s
  | .manifest src ctx rec => Sys2Proof.Machine.execManifest src ctx rec s
  | .compare src ctx rec stored => Sys2Proof.Machine.execCompare src ctx rec stored s
  | .resume src ctx crew => Sys2Proof.Machine.execResume src ctx crew s
  | .fatalrec src ctx => Sys2Proof.Machine.execFatalrec src ctx s
  | .stream src cfg => Sys2Proof.Machine.execStream src cfg s
  | .streamq src n => Sys2Proof.Machine.execStreamq src n s
  | .clockThrottle power temp => Sys2Proof.Machine.execClockThrottle power temp s
  | .overtempShutdown temp => Sys2Proof.Machine.execOvertempShutdown temp s
  | .globalTimeTick => Sys2Proof.Machine.execGlobalTimeTick s
  | .pageRequestTimeout n => Sys2Proof.Machine.execPageRequestTimeout n s
  | .asyncOperationEnd id => Sys2Proof.Machine.execAsyncOperationEnd id s

end Sys2Proof.Machine
end

