-- ==== Sys2Proof/Machine/Issue.lean ====
section
/-! DEFINITION. Whose turn it is: the choice of the skein that issues (06 R171, 15 R409), the events that may be due, and
the state in which a given instruction is the next to be fetched. -/
namespace Sys2Proof.Machine

/-! ### The choice of a skein (15 R409) -/

def age (s : State) (k : Skein) : Nat := s.clocks - k.lastIssue

/-- Every atomic of the skein has returned: its read time, which is its completion time, is past (04 R116, R117). -/
def returned (s : State) (k : Skein) : Bool := decide (k.lastRead ≤ s.gtime) && decide (k.floor ≤ s.gtime)

/-- The skein has an entry to issue, or a pending trap to take, and waits for nothing. -/
def canIssue (s : State) (k : Skein) : Bool :=
  decide (k.uid ≠ 0) && decide (liveMask k ≠ 0#32) && holdOver s k && returned s k && (match k.wait with | some w => !w.asleep | none => true) &&
    ((choose false k).isSome || (!k.pending.isEmpty && !k.handler && (choose true k).isSome))

/-- A candidate: the number of its core's quadrant, its place, its age, priority and slot. -/
structure Cand where
  quad : Nat
  ref : Ref
  age : Nat
  prio : Nat
  slot : Nat
  deriving DecidableEq, Repr

def candsOf (s : State) (c : CrewRec) : List Cand :=
  if c.crew.halted then []
  else (c.skeins.filter (canIssue s)).map fun k =>
    { quad := 4 * c.crew.core + k.sid % 4, ref := { core := c.crew.core, slot := c.crew.slot, sid := k.sid }, age := age s k, prio := k.prio, slot := k.slot }

def cands (s : State) : List Cand := ((allCrews s).map (candsOf s)).flatten

/-- The first quadrant with a candidate after the one served last, going round. -/
def nextQuad (last : Nat) (l : List Cand) : Option Nat :=
  let least := fun (l : List Cand) => l.foldl (fun (m : Option Nat) c => match m with | some x => some (min x c.quad) | none => some c.quad) none
  match least (l.filter fun c => decide (last < c.quad)) with
  | some q => some q
  | none => least l

/-- `a` goes before `b`: an aged candidate first, then priority, then age, then the lower slot. -/
def before (a b : Cand) : Bool :=
  if 4096 ≤ a.age ∨ 4096 ≤ b.age then (if a.age ≠ b.age then decide (b.age < a.age) else decide (a.slot < b.slot))
  else if a.prio ≠ b.prio then decide (b.prio < a.prio)
  else if a.age ≠ b.age then decide (b.age < a.age)
  else decide (a.slot < b.slot)

def pickCand (l : List Cand) : Option Cand :=
  l.foldl (fun (m : Option Cand) c => match m with | some b => if before c b then some c else m | none => some c) none

/-- The skein that issues next. -/
def chosen (s : State) : Option Cand :=
  if !computeOn s then none
  else match nextQuad s.quad (cands s) with
    | some q => pickCand ((cands s).filter fun c => decide (c.quad = q))
    | none => none

/-- The hold is over: after a trap entry the acquire floor is that time (16 R417). -/
def endHold (now : Nat) (k : Skein) : Skein :=
  { k with hold := 0, holdFloor := false, floor := if k.holdFloor then max k.floor now else k.floor }

/-- The state in which the chosen skein is in focus, with the entry that issues in the issuing place. -/
def ready (s : State) : Option State :=
  match chosen s with
  | none => none
  | some c =>
    match focusOn c.ref { s with quad := c.quad } with
    | none => none
    | some s1 => some { s1 with k := endHold s1.gtime s1.k }

/-- The issuing place of the skein in focus is taken by the entry that R171 selects. -/
def chooseEntry (s : State) : Option State := (choose false s.k).map fun k => { s with k := k }

/-- Fetches and runs the instruction at the program counter of the issuing entry. -/
def runAtPc (s : State) : Out :=
  match (fetchInstr s).2 with
  | .ok (i, t) => exec i t
  | .error x => conclude (fetchInstr s).1 s (.error x)

/-- Single-bit errors that the skein's registers met are corrected and counted (02 R61, 05 R141). -/
def correctFile (s : State) : State := if s.k.fileSoft = 0 then s else countCorr s.k.fileSoft { s with k := { s.k with fileSoft := 0 } }

/-- One issue: a pending deferred trap first (16 R413), the end of the context where a register file, frontier or handle met an
uncorrectable error (05 R141, 16 R411), else the instruction of the chosen entry. -/
def issueOne (s : State) : Out :=
  match takeDeferred s with
  | some t => .next t
  | none =>
    if s.k.fileBad then .next (takeTrap false { code := 17, cause := 2 } s)
    else match chooseEntry (correctFile s) with
      | some t => runAtPc t
      | none => .next (correctFile s)

/-- The issue of a skein that waited has ended in its wait again. -/
def waitsAgain (t u : State) : Bool := t.k.wait.isSome && u.k.wait.isSome && decide (u.k.uid = t.k.uid)

/-- The chosen skein issues. A skein whose wait is not over is no candidate (R409): the next takes its place, up to `n` of them. -/
def issueFrom : Nat → State → Out
  | 0, s => .next s
  | n + 1, s =>
    match ready s with
    | none => .next s
    | some t =>
      match issueOne t with
      | .next u => if waitsAgain t u then issueFrom n { u with quad := s.quad } else .next u
      | r => r

def issueBeat (s : State) : Out := issueFrom ((cands s).length + 1) s

/-! ### Events that may be due -/

def refsOf (c : CrewRec) : List (Ref × Skein) := c.skeins.map fun k => ({ core := c.crew.core, slot := c.crew.slot, sid := k.sid }, k)

/-- Events of a skein: what its wait may end in, its pending traps, its end. -/
def skeinEvents (r : Ref × Skein) : List Instr :=
  (match r.2.wait with
   | some w => (match w.kind with
     | 1 => [.levelBarrierRelease r.1]
     | 2 => [.consumingLoadProceed r.1, .fullEmptyStall r.1]
     | 3 => [.spawnWaitTimeout r.1]
     | 4 => [.gangLatchTimeout r.1]
     | 5 => [.bwaitTimeout r.1]
     | _ => [])
   | none => []) ++ (if r.2.pending.isEmpty then [] else [.deferredTrapTake r.1]) ++ (if liveMask r.2 = 0#32 then [.skeinEnd r.1] else [])

def crewEvents (c : CrewRec) : List Instr :=
  ((refsOf c).map skeinEvents).flatten ++ (match refsOf c with | r :: _ => [.barrierStallTimeout r.1] | [] => [.crewEnd c.crew.core c.crew.slot]) ++
    (c.crew.baskets.map fun b => .basketTimerExpiry c.crew.core c.crew.slot b.1) ++ (if c.crew.recs.isEmpty then [] else [.basketLaunch c.crew.core c.crew.slot]) ++
    [.preemptWaitingCrew c.crew.core c.crew.slot]

def opEvents (o : Op) : List Instr :=
  if o.kind = .npairs then [.pairRecordEmit o.id, .npairsClosingArrival o.id]
  else [if o.obj = .none then .asyncOperationEnd o.id else .arrival o.id] ++ (if isTileOp o.kind then [.sequencerOpStart o.core] else [])

def homeEvents (s : State) : List Instr :=
  (s.hm.inflight.map fun x => .homeStore x.sn) ++ (s.hm.parked.map fun x => .parkedStorePerform x.sn) ++ (s.hm.parked.map fun x => .parkedStoreTimeout x.sn) ++
    (s.xl.inv.toList.map fun _ => .xltinvComplete) ++ (s.xl.waits.map fun w => .pageRequestTimeout w.id) ++ (s.xl.migs.map fun m => .migrationCommit m.id) ++
    (s.xl.migs.map fun m => .frameFree m.id)

/-- Contexts whose CTXTRAP.KILL is set. -/
def killing (s : State) : List Nat :=
  s.preg.filterMap fun e => if 0x1000 ≤ e.1 ∧ (e.1 - 0x1000) % 8 = 6 ∧ nbit e.2.toNat 6 then some ((e.1 - 0x1000) / 8) else none

def launchEvents (l : Launch) : List Instr :=
  [.watchdogTrap l.uid, .watchdogKill l.uid] ++ (if nbit l.lrec.flags 0 then ([0, 3, 4, 5, 6, 7].map fun v => .merge l.uid v) else [])

def managerEvents (s : State) : List Instr :=
  (s.sch.tracker.map fun t => .retirementEntryFree t.n) ++ (s.sch.queues.map fun q => .takeRecord q.n) ++ (s.sch.queues.map fun q => .priorityPreemption q.n) ++
    [.placeUnit] ++ (s.sch.launches.map launchEvents).flatten ++ (s.sch.mbox.map fun m => .mailboxPendingAppend m.ctx m.n) ++ (killing s).map fun c => .kill c

def fabricEvents (s : State) : List Instr :=
  [.joinComplete, .syncTimeout] ++ (s.fab.reqs.map fun r => .peerTimeout r.peer) ++ (s.fab.streams.map fun x => .frameStart x.n) ++ s.fab.streams.map fun x => .frameSlotEnd x.n

/-- Every event that may be due now, each named once for each of its causes. -/
def dueEvents (s : State) : List Instr :=
  homeEvents s ++ ((allCrews s).map crewEvents).flatten ++ (s.en.ops.map opEvents).flatten ++ managerEvents s ++ fabricEvents s

/-- Rows of the table that no word encodes: what happens to the machine besides its instructions. -/
def isEvent (i : Instr) : Bool := (encode i).isEmpty

/-- The event whose turn it is. -/
def eventAt (s : State) : Option Instr := (dueEvents s)[s.rot % max 1 (dueEvents s).length]?

/-- The turn of global time: while the part is still being brought up, the next step of its power-up (18 R444). -/
def tickBeat (s : State) : Out :=
  match s.mgt.bring with
  | some b => .next (bringStep b s)
  | none => exec .globalTimeTick s

/-! ### A program from outside (log entry 4) -/

/-- A launch record of one crew of one skein, with every resource a crew can have. -/
def soleRecord : LaunchRec :=
  { entry := 0x100000#64, flags := 0x40, alloc := 0x840, gx := 1, gy := 1, gz := 1,
    roles := [{ skeins := 1, regs := 128, mode := 4 }, {}, {}, {}], levels := List.replicate 5 {}, deps := List.replicate 4 {} }

def soleCrew : Crew := { live := true, uid := 1, lrec := soleRecord }

/-- The crew's skein as R165 starts it, with an entry at the code. -/
def soleSkein : Skein :=
  { uid := 2, regs := 128, tile16 := true, p := [(7, 0xFFFFFFFF#32)], fmode := 0x1100#64, e := { pc := 0x100000#64, mask := 0xFFFFFFFF#32 } }

/-- Context 0 maps its first GiB onto the part's first GiB: context entry, level 4 pointer, level 3 leaf. -/
def soleTables (m : List Host.Cell) : List Host.Cell :=
  let m1 := setBytes m 0 (toBytes 16 (1 + 16 * 2 ^ 8 + 0x20000 * 2 ^ 64))
  let m2 := setBytes m1 0x20000 (toBytes 16 (1 + 0x40000 * 2 ^ 64))
  setBytes m2 0x40000 (toBytes 16 (3 + 2 * 2 ^ 4 + 7 * 2 ^ 6))

/-- The state with the instruction's words at the program counter of the one skein that can issue. -/
def loadWords (w : Nat) (s : State) : State :=
  let h := s.hm
  { s with
    k := soleSkein, peers := [], crew := soleCrew, others := [], schedule := [], beat := .issue, mgt := { s.mgt with safe := false },
    preg := mset (pregReset 0) (mset (pregReset 0x20) s.preg 0x20 4#64) 0 0#64, ids := max s.ids 2,
    hm := { h with mem := setBytes (soleTables h.mem) 0x100000 (toBytes 8 w), memBad := [], parked := [], tlb := [], code := [], l1 := [], l2 := [], bricks := [] } }

end Sys2Proof.Machine
end

