-- ==== Sys2Proof/Machine/Step.lean ====
section
/-! DEFINITION. One step of the machine: an event named in advance, an issue, an event that is due, or a tick of global time. -/
namespace Sys2Proof.Machine

/-- The next state, fault or refusal. Issue, event and tick take turns (log entry 5). -/
def step (s : State) : Host.Outcome State Fault Refusal :=
  match s.schedule with
  | i :: l => if isEvent i then exec i { s with schedule := l } else .next { s with schedule := l }
  | [] =>
    match s.beat with
    | .issue => issueBeat { s with beat := .event }
    | .event =>
      match eventAt s with
      | some i => exec i { s with beat := .tick, rot := s.rot + 1 }
      | none => .next { s with beat := .tick }
    | .tick => tickBeat { s with beat := .issue }

/-- The instruction of `nbits` bits `w` stored where the next step fetches: a program loaded from outside (log entry 4). -/
def State.withFetchWord (s : State) (nbits w : Nat) : State := loadWords (w % 2 ^ nbits) s

end Sys2Proof.Machine
end

