-- ==== Sys2Proof/Safety.lean ====
section
/-! DEFINITION. What counts as a safe run, and the invariant of states that claims use. -/
namespace Sys2Proof

/-- `n` steps from `s` end in `t`, with no fault and no refusal on the way. -/
def Runs : Nat → Machine.State → Machine.State → Prop
  | 0, s, t => t = s
  | n + 1, s, t => ∃ u, Machine.step s = .next u ∧ Runs n u t

/-- The machine does not stop within `n` steps. -/
def Safe (n : Nat) (s : Machine.State) : Prop := ∃ t, Runs n s t

end Sys2Proof
end

