-- ==== Sys2Proof/Certificates/Slice0/Obligations.lean ====
section
/-! DEFINITION. The statements for the provers. Each formalises rules of spec/ about the machine; the vocabulary of the
statements stands in the namespace Sys2Proof.Claims. -/
namespace Sys2Proof.Claims
open Sys2Proof Sys2Proof.Machine

/-! ### Vocabulary -/

/-- The instruction passes its issue checks (07 R211, 06 R175 to R178): no check names a trap, no store count is full
(08 R244) and no march holds a register that it names (12 R351). -/
def Passes (r : Req) (s : State) : Prop :=
  check r s = none ∧ (r.stores = true → storeCount s < 255) ∧ heldHit r s = false

/-- Value of V[n][L] as an operand field names it, unsigned and signed. -/
def U (k : Skein) (n L : Nat) : Nat := (rdV k n L).toNat
def S (k : Skein) (n L : Nat) : Int := (rdV k n L).toInt

/-- The low 32 bits of a number. -/
def int32 (x : Int) : Word32 := BitVec.ofInt 32 x
def nat32 (x : Nat) : Word32 := BitVec.ofNat 32 x
def int64 (x : Int) : Word64 := BitVec.ofInt 64 x
def nat64 (x : Nat) : Word64 := BitVec.ofNat 64 x

/-- An `n`-bit field read as a signed number. -/
def signed (n x : Nat) : Int := if x < 2 ^ (n - 1) then (x : Int) else (x : Int) - (2 ^ n : Nat)

/-- The vector registers after a lane write: register `d` of every lane of `act` holds `f`, and every other register of
every lane holds what it held. -/
def LanesWritten (act : Word32) (d : Nat → Nat) (f : Nat → Word32) (v v' : SMap Word32) : Prop :=
  ∀ n L, L < 32 → getV v' n L = if laneOn act L = true ∧ n = d L then f L else getV v n L

/-- A g register is written, g0 discarding the write, and every other g register holds what it held. -/
def UniformWritten (d : Nat) (x : Word64) (k k' : Skein) : Prop :=
  ∀ n, rdG k' n = if n = d ∧ n ≠ 0 then x else rdG k n

/-- A predicate register receives bits under a mask, p0 discarding the write; every other holds what it held. -/
def PredicateWritten (p : Nat) (act : Word32) (f : Nat → Bool) (k k' : Skein) : Prop :=
  ∀ n L, L < 32 → laneOn (rdP k' n) L = if n = p ∧ n ≠ 0 ∧ laneOn act L = true then f L else laneOn (rdP k n) L

/-! ### Lane integer instructions -/

/-- What a lane instruction is: words, register fields, guard, destination, result of a lane. -/
structure LaneRow where
  req : Req
  guard : Nat
  dest : Nat
  val : Skein → Nat → Word32

def words {α : Type} (x : Option α) : Nat := if x.isSome then 2 else 1

/-- The number of set bits, and of zero bits above the highest set bit. -/
def ones (n x : Nat) : Nat := ((List.range n).filter fun i => x.testBit i).length
def zerosAbove (n x : Nat) : Nat := ((List.range n).reverse.takeWhile fun i => !x.testBit i).length

/-- `x` brought into the range lo to hi. -/
def clamp (lo hi x : Int) : Int := if x < lo then lo else if hi < x then hi else x

def row3 (x : Option ArithPfx) (g d a b : Nat) (f : Skein → Nat → Word32) : Option LaneRow :=
  some { req := { len := words x, vs := [(d, 1), (a, 1), (b, 1)] }, guard := g, dest := d, val := f }
def row2 (g d a : Nat) (f : Skein → Nat → Word32) : Option LaneRow :=
  some { req := { vs := [(d, 1), (a, 1)] }, guard := g, dest := d, val := f }
def row1 (g d : Nat) (f : Skein → Nat → Word32) : Option LaneRow :=
  some { req := { vs := [(d, 1)] }, guard := g, dest := d, val := f }

/-- The results of 08 R222 and R223 in exact integers, narrowed at the end. -/
def laneRow : Instr → Option LaneRow
  | .vadd g d a b => row3 none g d a b fun k L => nat32 (U k a L + U k b L)
  | .vsub g d a b => row3 none g d a b fun k L => int32 (S k a L - S k b L)
  | .vmul x g d a b => row3 x g d a b fun k L => nat32 (U k a L * U k b L)
  | .vmulh x g d a b => row3 (some x) g d a b fun k L =>
      if x.uns then nat32 (U k a L * U k b L / 2 ^ 32) else int32 (S k a L * S k b L / 2 ^ 32)
  | .vmad g d a b => row3 none g d a b fun k L => nat32 (U k a L * U k b L + U k d L)
  | .vand g d a b => row3 none g d a b fun k L => nat32 (Nat.land (U k a L) (U k b L))
  | .vor g d a b => row3 none g d a b fun k L => nat32 (Nat.lor (U k a L) (U k b L))
  | .vxor g d a b => row3 none g d a b fun k L => nat32 (Nat.xor (U k a L) (U k b L))
  | .vshl g d a b => row3 none g d a b fun k L => nat32 (U k a L * 2 ^ (U k b L % 32))
  | .vshr g d a b => row3 none g d a b fun k L => nat32 (U k a L / 2 ^ (U k b L % 32))
  | .vsar g d a b => row3 none g d a b fun k L => int32 (S k a L / 2 ^ (U k b L % 32))
  | .vmin x g d a b => row3 x g d a b fun k L =>
      if (x.map (·.uns)).getD false then nat32 (min (U k a L) (U k b L)) else int32 (min (S k a L) (S k b L))
  | .vmax x g d a b => row3 x g d a b fun k L =>
      if (x.map (·.uns)).getD false then nat32 (max (U k a L) (U k b L)) else int32 (max (S k a L) (S k b L))
  | .vlea x g d a b => row3 x g d a b fun k L => nat32 (U k a L + U k b L * 2 ^ (x.map (·.sh)).getD 0)
  | .vaddi g d a i => row2 g d a fun k L => int32 (S k a L + signed 7 i)
  | .vimm g d i => row1 g d fun _ _ => int32 (signed 14 i)
  | .vmov g d a => row2 g d a fun k L => rdV k a L
  | .vabs g d a => row2 g d a fun k L => nat32 (S k a L).natAbs
  | .vpopc g d a => row2 g d a fun k L => nat32 (ones 32 (U k a L))
  | .vclz g d a => row2 g d a fun k L => nat32 (zerosAbove 32 (U k a L))
  | .vbcast g d a => row1 g d fun k _ => nat32 ((rdG k a).toNat % 2 ^ 32)
  | .vcvtiI32I8 g d a => row2 g d a fun k L => int32 (signed 8 (U k a L % 2 ^ 8))
  | .vcvtiI32I16 g d a => row2 g d a fun k L => int32 (signed 16 (U k a L % 2 ^ 16))
  | .vcvtiN32N8 g d a => row2 g d a fun k L => nat32 (U k a L % 2 ^ 8)
  | .vcvtiN32N16 g d a => row2 g d a fun k L => nat32 (U k a L % 2 ^ 16)
  | .vcvtiI8I32 g d a => row2 g d a fun k L => int32 (clamp (-128) 127 (S k a L))
  | .vcvtiI16I32 g d a => row2 g d a fun k L => int32 (clamp (-32768) 32767 (S k a L))
  | .vcvtiN8N32 g d a => row2 g d a fun k L => int32 (clamp 0 255 (U k a L))
  | .vcvtiN16N32 g d a => row2 g d a fun k L => int32 (clamp 0 65535 (U k a L))
  | _ => none

end Sys2Proof.Claims

open Sys2Proof Sys2Proof.Machine Sys2Proof.Claims

/-- 08 R220, R222, R223: a lane integer instruction that passes its checks writes V[vd] of the lanes of ACTIVE with the
result of its row in exact integers, changes no other vector register, and its entry goes on to the next word. -/
def Obligations.LaneIntegerResults : Prop :=
  ∀ (i : Instr) (r : LaneRow) (s : State), i.wf = true → laneRow i = some r → Passes r.req s →
    ∃ v, exec i s = .next (retire r.req.len { s with k := { s.k with v := v } }) ∧
      LanesWritten (active s.k r.guard) (fun L => ren s.k L r.dest) (r.val s.k) s.k.v v

namespace Sys2Proof.Claims

/-! ### Uniform integer instructions -/

/-- Width N of a uniform operation (08 R231), an operand unsigned and signed, and a result narrowed to the register. -/
def bitsOf (w : Nat) : Nat := if w = 1 then 32 else 64
def Ug (w : Nat) (k : Skein) (n : Nat) : Nat := (rdG k n).toNat % 2 ^ bitsOf w
def Sg (w : Nat) (k : Skein) (n : Nat) : Int := signed (bitsOf w) (Ug w k n)
def narrow (w : Nat) (x : Int) : Word64 := int64 (signed (bitsOf w) (x % (2 ^ bitsOf w : Nat)).toNat)

/-- The ten integer conditions of 07 R210: eq, ne, then lt, le, gt, ge signed and unsigned. -/
def cond (c : Nat) (a b : Int) (x y : Nat) : Bool :=
  match c with
  | 0 => decide (x = y)
  | 1 => decide (x ≠ y)
  | 2 => decide (a < b)
  | 3 => decide (a ≤ b)
  | 4 => decide (a > b)
  | 5 => decide (a ≥ b)
  | 6 => decide (x < y)
  | 7 => decide (x ≤ y)
  | 8 => decide (x > y)
  | _ => decide (x ≥ y)

/-- A 12-bit immediate, sign-extended or zero-extended as a 64-bit number. -/
def immediate (zx i : Nat) : Nat := if zx = 1 then i else ((signed 12 i) % (2 ^ 64 : Nat)).toNat

/-- The results of 08 R231 and R232: destination and value. -/
def uniformRow : Instr → Option (Nat × (Skein → Word64))
  | .gadd d a b w => some (d, fun k => narrow w (Ug w k a + Ug w k b))
  | .gsub d a b w => some (d, fun k => narrow w (Sg w k a - Sg w k b))
  | .gmul d a b w => some (d, fun k => narrow w (Ug w k a * Ug w k b))
  | .gmulh d a b w => some (d, fun k => narrow w (Sg w k a * Sg w k b / (2 ^ bitsOf w : Nat)))
  | .gmulhN d a b w => some (d, fun k => narrow w (Ug w k a * Ug w k b / 2 ^ bitsOf w : Nat))
  | .gdiv d a b w => some (d, fun k => narrow w (if Sg w k b = 0 then -1 else (Sg w k a).tdiv (Sg w k b)))
  | .gdivN d a b w => some (d, fun k => narrow w (if Ug w k b = 0 then -1 else (Ug w k a / Ug w k b : Nat)))
  | .grem d a b w => some (d, fun k => narrow w (if Sg w k b = 0 then Sg w k a else (Sg w k a).tmod (Sg w k b)))
  | .gremN d a b w => some (d, fun k => narrow w (if Ug w k b = 0 then Ug w k a else Ug w k a % Ug w k b : Nat))
  | .gand d a b w => some (d, fun k => narrow w (Nat.land (Ug w k a) (Ug w k b)))
  | .gor d a b w => some (d, fun k => narrow w (Nat.lor (Ug w k a) (Ug w k b)))
  | .gxor d a b w => some (d, fun k => narrow w (Nat.xor (Ug w k a) (Ug w k b)))
  | .gshl d a b w => some (d, fun k => narrow w (Ug w k a * 2 ^ (Ug w k b % bitsOf w) : Nat))
  | .gshr d a b w => some (d, fun k => narrow w (Ug w k a / 2 ^ (Ug w k b % bitsOf w) : Nat))
  | .gsar d a b w => some (d, fun k => narrow w (Sg w k a / (2 ^ (Ug w k b % bitsOf w) : Nat)))
  | .gmin d a b w => some (d, fun k => narrow w (min (Sg w k a) (Sg w k b)))
  | .gminN d a b w => some (d, fun k => narrow w (min (Ug w k a) (Ug w k b) : Nat))
  | .gmax d a b w => some (d, fun k => narrow w (max (Sg w k a) (Sg w k b)))
  | .gmaxN d a b w => some (d, fun k => narrow w (max (Ug w k a) (Ug w k b) : Nat))
  | .gpopc d a w => some (d, fun k => nat64 (ones (bitsOf w) (Ug w k a)))
  | .gclz d a w => some (d, fun k => nat64 (zerosAbove (bitsOf w) (Ug w k a)))
  | .gsel d a b => some (d, fun k => if rdG k d = 0#64 then rdG k b else rdG k a)
  | .gcmp d a b w c => some (d, fun k => if cond c (Sg w k a) (Sg w k b) (Ug w k a) (Ug w k b) then 1#64 else 0#64)
  | .gaddi d a w i => some (d, fun k => narrow w (Sg w k a + signed 12 i))
  | .gandi d a z i => some (d, fun k => nat64 (Nat.land (rdG k a).toNat (immediate z i)))
  | .gori d a z i => some (d, fun k => nat64 (Nat.lor (rdG k a).toNat (immediate z i)))
  | .gxori d a z i => some (d, fun k => nat64 (Nat.xor (rdG k a).toNat (immediate z i)))
  | .gshli d a w n => some (d, fun k => narrow w (Ug w k a * 2 ^ n : Nat))
  | .gshri d a w n => some (d, fun k => narrow w (Ug w k a / 2 ^ n : Nat))
  | .gsari d a w n => some (d, fun k => narrow w (Sg w k a / (2 ^ n : Nat)))
  | .gcmpi d a w c i => some (d, fun k =>
      let y := (signed 8 i % (2 ^ bitsOf w : Nat)).toNat
      if cond c (Sg w k a) (signed 8 i) (Ug w k a) y then 1#64 else 0#64)
  | .ghi d i => some (d, fun _ => int64 (signed 20 i * 2 ^ 12))
  | _ => none

end Sys2Proof.Claims

/-- 08 R231, R232: a uniform integer instruction that passes its checks writes G[gd] with the result of its row, g0
discarding the write, changes no other register, and its entry goes on to the next word. -/
def Obligations.UniformIntegerResults : Prop :=
  ∀ (i : Instr) (d : Nat) (f : Skein → Word64) (s : State), i.wf = true → uniformRow i = some (d, f) → Passes {} s →
    ∃ g, exec i s = .next (retire 1 { s with k := { s.k with g := g } }) ∧
      UniformWritten d (f s.k) s.k { s.k with g := g }

namespace Sys2Proof.Claims

/-! ### Predicates, selection, cross-lane operations -/

/-- What an instruction that writes a predicate register is. -/
structure PredRow where
  req : Req
  guard : Nat
  dest : Nat
  val : Skein → Nat → Bool

/-- Some, every lane of ACTIVE whose bit of P[a] is set. -/
def someLane (k : Skein) (g a : Nat) : Bool := (List.range 32).any fun L => laneOn (active k g) L && laneOn (rdP k a) L
def everyLane (k : Skein) (g a : Nat) : Bool := (List.range 32).all fun L => !laneOn (active k g) L || laneOn (rdP k a) L

/-- 08 R225 to R227, R229; 07 R210. -/
def predRow : Instr → Option PredRow
  | .vsetp g c p a b => some { req := { vs := [(a, 1), (b, 1)] }, guard := g, dest := p, val := fun k L => cond c (S k a L) (S k b L) (U k a L) (U k b L) }
  | .pand g d a b => some { req := {}, guard := g, dest := d, val := fun k L => laneOn (rdP k a) L && laneOn (rdP k b) L }
  | .por g d a b => some { req := {}, guard := g, dest := d, val := fun k L => laneOn (rdP k a) L || laneOn (rdP k b) L }
  | .pxor g d a b => some { req := {}, guard := g, dest := d, val := fun k L => laneOn (rdP k a) L != laneOn (rdP k b) L }
  | .pnot g d a => some { req := {}, guard := g, dest := d, val := fun k L => !laneOn (rdP k a) L }
  | .pmovgToPredicate g p x => some { req := {}, guard := g, dest := p, val := fun k L => (rdG k x).toNat.testBit L }
  | .voteAny g d a => some { req := { full := true }, guard := g, dest := d, val := fun k _ => someLane k g a }
  | .voteAll g d a => some { req := { full := true }, guard := g, dest := d, val := fun k _ => everyLane k g a }
  | .voteNone g d a => some { req := { full := true }, guard := g, dest := d, val := fun k _ => !someLane k g a }
  | _ => none

/-- The source lane of a shuffle, when there is one (08 R228). -/
def shuffleRow : Instr → Option (Req × Nat × Nat × Nat × (Skein → Nat → Option Nat))
  | .shflIdx g d a n => some ({ vs := [(d, 1), (a, 1)], full := true }, g, d, a, fun _ _ => some n)
  | .shflUp g d a n => some ({ vs := [(d, 1), (a, 1)], full := true }, g, d, a, fun _ L => if L < n then none else some (L - n))
  | .shflDown g d a n => some ({ vs := [(d, 1), (a, 1)], full := true }, g, d, a, fun _ L => if 32 ≤ L + n then none else some (L + n))
  | .shflXor g d a n => some ({ vs := [(d, 1), (a, 1)], full := true }, g, d, a, fun _ L => some (Nat.xor L n))
  | .shflIdxRegister g d a b => some ({ vs := [(d, 1), (a, 1), (b, 1)], full := true }, g, d, a, fun k L => some (U k b L % 32))
  | _ => none

/-- A lane reads its source lane if that is active, and else its own register. -/
def shuffled (k : Skein) (act : Word32) (a : Nat) (src : Option Nat) (L : Nat) : Word32 :=
  match src with
  | none => rdV k a L
  | some t => if laneOn act t then rdV k a t else rdV k a L

/-- The reduction of 08 R230 on integers: add, min, max, and, or, xor of the lanes' values; type 0 is signed. -/
def reduced (o t : Nat) (xs : List Nat) : Word32 :=
  match o with
  | 0 => nat32 xs.sum
  | 1 => if t = 0 then int32 ((xs.map (signed 32)).foldl min (signed 32 (xs.headD 0))) else nat32 (xs.foldl min (xs.headD 0))
  | 2 => if t = 0 then int32 ((xs.map (signed 32)).foldl max (signed 32 (xs.headD 0))) else nat32 (xs.foldl max (xs.headD 0))
  | 3 => nat32 (xs.foldl Nat.land (2 ^ 32 - 1))
  | 4 => nat32 (xs.foldl Nat.lor 0)
  | _ => nat32 (xs.foldl Nat.xor 0)

/-- The lanes of ACTIVE whose values a reduction, or a scan at lane `L`, takes. -/
def sources (scan : Bool) (act : Word32) (L : Nat) : List Nat := (List.range 32).filter fun j => laneOn act j && (!scan || decide (j ≤ L))

/-- vred and vscan: guard, destination, source, operation, type, whether it is the scan. -/
def reduceRow : Instr → Option (Nat × Nat × Nat × Nat × Nat × Bool)
  | .vred g d a o t => some (g, d, a, o, t, false)
  | .vscan g d a o t => some (g, d, a, o, t, true)
  | _ => none

end Sys2Proof.Claims

/-- 08 R225 to R227, R229: an instruction that writes a predicate register under ACTIVE and passes its checks writes
the bits of the lanes of ACTIVE, keeps every other bit and every other register, and its entry goes on to the next
word. 08 R226, R229: pmovg to a uniform register and vote.ballot write the bits of P[a] of the lanes of ACTIVE,
zero-extended. 08 R224: vsel writes V[vd] of every lane of the entry, guarded or not, from V[va] where the guard holds
and from V[vb] elsewhere. -/
def Obligations.PredicateResults : Prop :=
  (∀ (i : Instr) (r : PredRow) (s : State), i.wf = true → predRow i = some r → Passes r.req s →
     ∃ p, exec i s = .next (retire 1 { s with k := { s.k with p := p } }) ∧
       PredicateWritten r.dest (active s.k r.guard) (r.val s.k) s.k { s.k with p := p }) ∧
  (∀ (i : Instr) (g d a : Nat) (full : Bool) (s : State), i.wf = true →
     (i = .pmovgToUniform g a d ∧ full = false) ∨ (i = .voteBallot g d a ∧ full = true) → Passes { full := full } s →
     ∃ x r, exec i s = .next (retire 1 { s with k := { s.k with g := r } }) ∧ UniformWritten d x s.k { s.k with g := r } ∧
       ∀ L, x.getLsbD L = (decide (L < 32) && laneOn (active s.k g) L && laneOn (rdP s.k a) L)) ∧
  (∀ (g d a b : Nat) (s : State), (Instr.vsel g d a b).wf = true → Passes { vs := [(d, 1), (a, 1), (b, 1)] } s →
     ∃ v, exec (.vsel g d a b) s = .next (retire 1 { s with k := { s.k with v := v } }) ∧
       LanesWritten s.k.e.mask (fun L => ren s.k L d) (fun L => if laneOn (guardLanes s.k g) L then rdV s.k a L else rdV s.k b L) s.k.v v)

/-- 08 R228: a shuffle that passes its checks, the full skein among them, writes V[vd] of each lane of ACTIVE with the value
of V[va] in its source lane, or with its own where the source lane is no lane of ACTIVE. -/
def Obligations.ShuffleResults : Prop :=
  ∀ (i : Instr) (req : Req) (g d a : Nat) (src : Skein → Nat → Option Nat) (s : State), i.wf = true →
    shuffleRow i = some (req, g, d, a, src) → Passes req s →
    ∃ v, exec i s = .next (retire 1 { s with k := { s.k with v := v } }) ∧
      LanesWritten (active s.k g) (fun L => ren s.k L d) (fun L => shuffled s.k (active s.k g) a (src s.k L) L) s.k.v v

/-- 08 R230: vred gives every lane of ACTIVE the reduction of the lanes of ACTIVE, vscan each lane that of the lanes up to
it; on integers no flag changes, and on FP32 the flags are ORed into FMODE. -/
def Obligations.ReductionResults : Prop :=
  ∀ (i : Instr) (g d a o t : Nat) (scan : Bool) (s : State), i.wf = true → reduceRow i = some (g, d, a, o, t, scan) →
    Passes { vs := [(d, 1), (a, 1)], full := true } s →
    let act := active s.k g
    let xs := fun L => (sources scan act L).map (U s.k a)
    ∃ v fl, exec i s = .next (retire 1 { s with k := { s.k with v := v, fmode := orFlags fl s.k.fmode } }) ∧
      LanesWritten act (fun L => ren s.k L d) (fun L => if t = 2 then nat32 (reduce o 2 (xs L)).1 else reduced o t (xs L)) s.k.v v ∧
      (t ≠ 2 → orFlags fl s.k.fmode = s.k.fmode) ∧
      (t = 2 → fl = unionFlags act fun L => (reduce o 2 (xs L)).2)

namespace Sys2Proof.Claims

/-! ### Floating point, intervals, special functions -/

/-- A lane instruction that raises flags: its result and flags in a lane; `draws` under stochastic rounding. -/
structure FloatRow where
  req : Req
  guard : Nat
  dest : Nat
  draws : Bool
  val : Nat → Nat × Nat

/-- A row whose value is computed element by element: one FP32 value, or the two halves of a packed register (07 R199). `op`
takes the half's number, the format, the rounding mode and the half's draw. -/
def floatElems (x : Option ArithPfx) (g d : Nat) (vs : List (Nat × Nat)) (s : State) (op : Nat → Nat → Fmt → Rm → Nat → Nat × Nat) : Option FloatRow :=
  some (FloatRow.mk { len := words x, vs := vs } g d (decide (rndOf x s.k.fmode = 5)) fun L =>
    perElem (pkOf x) fun h => op L h (pkFmt (pkOf x)) (rmAt x s) (laneDraw s L h))

/-- Half `h` of lane `L` of V[n] as the prefix reads it. -/
def half (x : Option ArithPfx) (k : Skein) (n L h : Nat) : Nat := elem (pkOf x) h (U k n L)

/-- 09 R258 to R266, R270 to R274. -/
def floatRow (s : State) : Instr → Option FloatRow
  | .fadd x g d a b => floatElems x g d [(d, 1), (a, 1), (b, 1)] s fun L h f rm dr => fpAdd f rm dr (half x s.k a L h) (half x s.k b L h)
  | .fsub x g d a b => floatElems x g d [(d, 1), (a, 1), (b, 1)] s fun L h f rm dr => fpSub f rm dr (half x s.k a L h) (half x s.k b L h)
  | .fmul x g d a b => floatElems x g d [(d, 1), (a, 1), (b, 1)] s fun L h f rm dr => fpMul f rm dr (half x s.k a L h) (half x s.k b L h)
  | .ffma x g d a b => floatElems x g d [(d, 1), (a, 1), (b, 1)] s fun L h f rm dr =>
      fpFma f rm dr (half x s.k a L h) (half x s.k b L h) (half x s.k d L h)
  | .fscale x g d a b => floatElems x g d [(d, 1), (a, 1), (b, 1)] s fun L h f rm dr =>
      fpScale f rm dr (half x s.k a L h) (if pkOf x = 0 then S s.k b L else signed 16 (half x s.k b L h))
  | .fround x g d a => floatElems x g d [(d, 1), (a, 1)] s fun L h f rm dr => fpRoundInt f rm dr (half x s.k a L h)
  | .fcvt x g d a t u => some (FloatRow.mk { len := words x, vs := [(d, 1), (a, 1)] } g d (decide (rndOf x s.k.fmode = 5)) fun L =>
      fpCvt t u (rmAt x s) (fmSat s.k.fmode) (laneDraw s L 0) (U s.k a L))
  | .sfn g d a f => some (FloatRow.mk { vs := [(d, 1), (a, 1)] } g d false fun L => sfnEval f (U s.k a L))
  | .sfnSlot g d a n => some (FloatRow.mk { vs := [(d, 1), (a, 1)] } g d false fun L =>
      if mget [] s.en.slots n = [] then (nanCode fp32, flNV) else (slotEval (mget [] s.en.slots n) (U s.k a L), 0))
  | _ => none

/-- fmin, fmax and fclass raise no flag (09 R262, R266). -/
def floatQuietRow : Instr → Option LaneRow
  | .fmin x g d a b => row3 x g d a b fun k L => nat32 (perElem (pkOf x) fun h => (fpMin (pkFmt (pkOf x)) (half x k a L h) (half x k b L h), 0)).1
  | .fmax x g d a b => row3 x g d a b fun k L => nat32 (perElem (pkOf x) fun h => (fpMax (pkFmt (pkOf x)) (half x k a L h) (half x k b L h), 0)).1
  | .fclass x g d a => some (LaneRow.mk { len := words x, vs := [(d, 1), (a, 1)] } g d fun k L =>
      nat32 (perElem (pkOf x) fun h => (fpClass (pkFmt (pkOf x)) (half x k a L h), 0)).1)
  | _ => none

/-- The pair of registers d, d + 1 of every lane of `act` holds a 64-bit value; every other register holds what it held. -/
def PairsWritten (act : Word32) (d : Nat → Nat) (f : Nat → Word64) (v v' : SMap Word32) : Prop :=
  ∀ n L, L < 32 → getV v' n L =
    if laneOn act L = true ∧ n = d L then nat32 ((f L).toNat % 2 ^ 32)
    else if laneOn act L = true ∧ n = d L + 1 then nat32 ((f L).toNat / 2 ^ 32) else getV v n L

/-- An operand of an interval instruction: its low and high bound in a lane. -/
def interval (k : Skein) (n L : Nat) : Itv := itvOf (rdV2 k n L)

/-- Two-operand interval instructions with their result on bounds; hull alone takes an empty operand as no operand. -/
def intervalTwo : Instr → Option (Nat × Nat × Nat × Nat × Bool × (Fx → Fx → Fx → Fx → Word64))
  | .iadd g d a b => some (g, d, a, b, false, itvAdd)
  | .isub g d a b => some (g, d, a, b, false, itvSub)
  | .imul g d a b => some (g, d, a, b, false, itvMul)
  | .idiv g d a b => some (g, d, a, b, false, itvDiv)
  | .imin g d a b => some (g, d, a, b, false, itvMin)
  | .imax g d a b => some (g, d, a, b, false, itvMax)
  | .ihull g d a b => some (g, d, a, b, true, itvHull)
  | _ => none

def intervalOne : Instr → Option (Nat × Nat × Nat × (Fx → Fx → Word64))
  | .isq g d a => some (g, d, a, itvSq)
  | .isqrt g d a => some (g, d, a, itvSqrt)
  | .iabs g d a => some (g, d, a, itvAbs)
  | _ => none

/-- 09 R267: a NaN bound makes the whole line and raises IN; an empty operand makes the empty interval, or in a hull the other
operand; else the row's result. -/
def intervalResult (hull : Bool) (x y : Itv) (f : Fx → Fx → Fx → Fx → Word64) : Word64 × Nat :=
  if x = .bad ∨ y = .bad then (0x7F800000FF800000#64, flIN)
  else match x, y with
    | .set a b, .set c d => (f a b c d, 0)
    | .set a b, _ => (if hull then itvPack a b else 0xFF8000007F800000#64, 0)
    | _, .set c d => (if hull then itvPack c d else 0xFF8000007F800000#64, 0)
    | _, _ => (0xFF8000007F800000#64, 0)

end Sys2Proof.Claims

/-- 09 R256, R258, R259, R261 to R266: a floating-point lane instruction that passes its checks writes the results of
the lanes of ACTIVE, ORs the flags they raise into FMODE, counts one draw when it rounds stochastically, and keeps
every other field of FMODE and every other register. 09 R262, R263, R266: fmin, fmax and fclass write the lanes of
ACTIVE, fcmp the bits of P[pd] of those lanes; no flag is raised. -/
def Obligations.FloatResults : Prop :=
  (∀ (i : Instr) (r : FloatRow) (s : State), i.wf = true → floatRow s i = some r → Passes r.req s →
     let act := active s.k r.guard
     let old := s.k.fmode.toNat
     ∃ v m, exec i s = .next (retire r.req.len { s with k := { s.k with v := v, fmode := m } }) ∧
       LanesWritten act (fun L => ren s.k L r.dest) (fun L => nat32 (r.val L).1) s.k.v v ∧
       nb m.toNat 5 0 = Nat.lor (nb old 5 0) (unionFlags act (fun L => (r.val L).2) % 64) ∧
       nb m.toNat 15 6 = nb old 15 6 ∧ nb m.toNat 63 32 = nb old 63 32 ∧
       nb m.toNat 31 16 = (if r.draws then (nb old 31 16 + 1) % 2 ^ 16 else nb old 31 16)) ∧
  ((∀ (i : Instr) (r : LaneRow) (s : State), i.wf = true → floatQuietRow i = some r → Passes r.req s →
     ∃ v, exec i s = .next (retire r.req.len { s with k := { s.k with v := v } }) ∧
       LanesWritten (active s.k r.guard) (fun L => ren s.k L r.dest) (r.val s.k) s.k.v v) ∧
   ∀ (g c p a b : Nat) (s : State), (Instr.fcmp g c p a b).wf = true → Passes { vs := [(a, 1), (b, 1)] } s →
     ∃ q, exec (.fcmp g c p a b) s = .next (retire 1 { s with k := { s.k with p := q } }) ∧
       PredicateWritten p (active s.k g) (fun L => fpCmp fp32 c (U s.k a L) (U s.k b L)) s.k { s.k with p := q })

/-- 09 R267, R268: an interval instruction that passes its checks writes the pair of registers of each lane of ACTIVE with
its interval, and FMODE gains IN if and only if some such lane had a NaN bound. -/
def Obligations.IntervalResults : Prop :=
  ∀ (i : Instr) (g d : Nat) (req : Req) (f : Nat → Word64 × Nat) (s : State), i.wf = true →
    ((∃ a b hull op, intervalTwo i = some (g, d, a, b, hull, op) ∧ req = { vs := [(d, 2), (a, 2), (b, 2)] } ∧
        f = fun L => intervalResult hull (interval s.k a L) (interval s.k b L) op) ∨
      (∃ a op, intervalOne i = some (g, d, a, op) ∧ req = { vs := [(d, 2), (a, 2)] } ∧
        f = fun L => intervalResult false (interval s.k a L) (interval s.k a L) (fun x y _ _ => op x y))) →
    Passes req s →
    ∃ v m, exec i s = .next (retire 1 { s with k := { s.k with v := v, fmode := m } }) ∧
      PairsWritten (active s.k g) (fun L => ren s.k L d) (fun L => (f L).1) s.k.v v ∧
      ∀ j, m.getLsbD j = (s.k.fmode.getLsbD j || (decide (j = 5) && (List.range 32).any fun L => laneOn (active s.k g) L && decide ((f L).2 = flIN)))

namespace Sys2Proof.Claims

/-! ### Where the lanes of a skein stand -/

/-- Lane `L` stands at `pc` in one of the entries. -/
def StandsIn (l : List Entry) (L : Nat) (pc : Word64) : Prop := ∃ x ∈ l, laneOn x.mask L = true ∧ x.pc = pc

def Stands (k : Skein) (L : Nat) (pc : Word64) : Prop := StandsIn (k.e :: k.rest) L pc

/-- A branch word's target: its offset in words, signed, from the word itself (07 R194). -/
def wordTarget (n o : Nat) (pc : Word64) : Word64 := int64 ((pc.toNat : Int) + 4 * signed n o)

def next (k : Skein) : Word64 := k.e.pc + 4#64

/-- bcc: eq, ne, lt, ge signed, ltn, gen unsigned (07 R210). -/
def branchHolds (c : Nat) (a b : Word64) : Bool :=
  match c with
  | 0 => decide (a.toNat = b.toNat)
  | 1 => decide (a.toNat ≠ b.toNat)
  | 2 => decide (a.toInt < b.toInt)
  | 3 => decide (b.toInt ≤ a.toInt)
  | 4 => decide (a.toNat < b.toNat)
  | _ => decide (b.toNat ≤ a.toNat)

def laneIn (k : Skein) (g L : Nat) : Bool := laneOn k.e.mask L && laneOn (guardLanes k g) L
def anyLane (k : Skein) (g : Nat) : Bool := (List.range 32).any (laneIn k g)
def allLanes (k : Skein) (g : Nat) : Bool := (List.range 32).all fun L => !laneOn k.e.mask L || laneOn (guardLanes k g) L

/-- Where a branch of the whole entry goes (08 R233). -/
def branchTo (k : Skein) : Instr → Option Word64
  | .bru o => some (wordTarget 16 o k.e.pc)
  | .bcc c a b o => some (if branchHolds c (rdG k a) (rdG k b) then wordTarget 10 o k.e.pc else next k)
  | .bvoteAny g o => some (if anyLane k g then wordTarget 16 o k.e.pc else next k)
  | .bvoteAll g o => some (if allLanes k g then wordTarget 16 o k.e.pc else next k)
  | .bvoteNone g o => some (if anyLane k g then next k else wordTarget 16 o k.e.pc)
  | .call o => some (wordTarget 16 o k.e.pc)
  | .ret a => some (rdG k a)
  | .jmpg _ a => some (rdG k a)
  | _ => none

/-- The register that receives the address of the next word. -/
def linkOf : Instr → Option Nat
  | .call _ => some 63
  | .jmpg d _ => some d
  | _ => none

def linked (i : Instr) (k : Skein) : Skein := match linkOf i with | some d => wrG d (next k) k | none => k

def fromRegister : Instr → Bool
  | .ret _ => true
  | .jmpg _ _ => true
  | _ => false

/-- No melded region is open and no bracket, and a store's room is not asked for. -/
def plainControl : Req := { noMeld := true }
def divergent : Req := { noMeld := true, noBracket := true }
/-- spawn and brx name the registers they carry only where they end lanes. -/
def spawning (n : Nat) (ends : Bool) : Req :=
  { noMeld := true, noBracket := true, bracketFirst := true, reads := if ends then [(0, n + 1)] else [] }

/-- Every trap that spawn and brx check for is absent (06 R180): the launch has baskets, the basket role holds the carried
registers, and so does the skein. -/
def maySpawn (n : Nat) (s : State) : Prop := hasBaskets s.crew = true ∧ n + 1 ≤ (basketRole s.crew).regs ∧ n + 1 ≤ s.k.regs

/-- The records that a spawn of the lanes `x` makes, one for each lane in ascending order (06 R179, R180). -/
def recordsOf (kind n : Nat) (entry : Word64) (x : Word32) (k : Skein) : List SpawnRec :=
  (lanesOf x).map fun L =>
    { idx := 0, order := 0, carry := (List.range (n + 1)).map (fun i => getV k.v i L), entry := entry, ncarry := n + 1, kind := kind,
      skein := k.sid, lane := L, extra := [] }

/-- brx: which lanes stay in the entry and where, and which become records with which entry (08 R242). -/
def brxEnds (k : Skein) (g o : Nat) : Word32 × Word64 × Word64 :=
  let t := active k g
  let f := k.e.mask &&& ~~~ t
  if (lanesOf t).length ≤ (lanesOf f).length then (t, wordTarget 16 o k.e.pc, next k) else (f, next k, wordTarget 16 o k.e.pc)

end Sys2Proof.Claims

/-- 06 R170: when the entries `parts` take the place of the issuing entry, every lane stands where `parts` or the other
entries put it and nowhere else, entries at one address merging; nothing else of the machine changes but the skein's wait,
which ends, and the clock of its latest issue. -/
def Obligations.EntriesKeepTheirLanes : Prop :=
  ∀ (ends : Bool) (parts : List Entry) (s : State) (L : Nat) (pc : Word64), L < 32 →
    (Stands (settle ends parts s).k L pc ↔ StandsIn (parts ++ s.k.rest) L pc) ∧
      settle ends parts s =
        { s with k := { s.k with e := (settle ends parts s).k.e, rest := (settle ends parts s).k.rest, wait := none, yielded := none, lastIssue := s.clocks } }

/-- 07 R194, 06 R170: an instruction of `len` words that goes on leaves its entry's lanes at the word after it and every
other lane where it stood; only the frontier, the wait, the issue clock and the melded region's word count change. -/
def Obligations.NextWordFrame : Prop :=
  ∀ (len : Nat) (s : State),
    retire len s = { s with k := { s.k with e := (retire len s).k.e, rest := (retire len s).k.rest, wait := none, yielded := none, lastIssue := s.clocks,
                                            meld := meldOn len s.k.meld } } ∧
      liveMask (retire len s).k = liveMask s.k ∧
      ∀ L pc, L < 32 → (Stands (retire len s).k L pc ↔
        (laneOn s.k.e.mask L = true ∧ pc = s.k.e.pc + BitVec.ofNat 64 (4 * len)) ∨ StandsIn s.k.rest L pc)

/-- 08 R233, R234: a branch of the whole entry that passes its checks goes to its target, a register target being a
multiple of 4, with the link register written first. 08 R233, R234, R236, 06 R182, R184: br splits its entry; exit and
tail end the lanes of ACTIVE and free the spawn records that those lanes ran from; with the skein's last lane its
crew's barriers look again for who has arrived, and tail takes the skein off the core, a tracker entry standing for
what it leaves behind; yield goes on with its address left out of the next choice. -/
def Obligations.ControlCompletes : Prop :=
  (∀ (i : Instr) (t : Word64) (s : State), i.wf = true → branchTo s.k i = some t → Passes plainControl s →
     (fromRegister i = true → t.toNat % 4 = 0) →
     exec i s = .next (settle true [{ s.k.e with pc := t }] { s with k := linked i s.k })) ∧
  (∀ (g o : Nat) (s : State), (Instr.br g o).wf = true →
     (Passes divergent s →
       exec (.br g o) s = .next (settle true [{ s.k.e with pc := wordTarget 16 o s.k.e.pc, mask := active s.k g },
                                              { s.k.e with pc := next s.k, mask := s.k.e.mask &&& ~~~ active s.k g }] s)) ∧
     (Passes divergent s →
       let x := active s.k g
       let u := settle true [{ s.k.e with pc := next s.k, mask := s.k.e.mask &&& ~~~ x }] (freeLaneRecs x s)
       let v := checkLevels (checkBars u)
       (liveMask s.k &&& ~~~ x ≠ 0#32 → exec (.exit g) s = .next u ∧ exec (.tail g) s = .next u) ∧
       (s.k.e.mask &&& ~~~ x = 0#32 → (∀ e ∈ s.k.rest, e.mask = 0#32) →
         exec (.exit g) s = .next v ∧
         ((s.sch.tracker.filter fun t => decide (t.core = s.crew.core)).length < 32 →
          exec (.tail g) s = .next (removeSkein { v with ids := v.ids + 1, sch := { v.sch with
            tracker := v.sch.tracker ++ [{ n := v.ids + 1, uid := v.k.uid, cuid := v.crew.uid, core := v.crew.core }] } }))) ∧
       ∀ r, r ∈ (freeLaneRecs x s).crew.recs ↔ r ∈ s.crew.recs ∧ ∀ p ∈ s.k.laneRecs, laneOn x p.1 = true → p.2 ≠ r.idx) ∧
     (Passes plainControl s →
       ∃ p, exec .yield s = .next { retire 1 s with k := { (retire 1 s).k with yielded := some p } } ∧ p = (retire 1 s).k.e.pc))

/-- 06 R180, 08 R242: spawn, and brx with lanes on both sides, write a record for each lane that leaves the entry and end
those lanes, when the area has room for all of them and a basket takes their entry; where no lane ends, they read no
register, wait for none and move the entry on. -/
def Obligations.SpawnCompletes : Prop :=
  ∀ (g n o : Nat) (s u : State), (Instr.spawn g n o).wf = true → maySpawn n s →
    (Passes (spawning n (decide (active s.k g ≠ 0#32))) s →
      writeRecs (recordsOf 0 n (wordTarget 16 o s.k.e.pc) (active s.k g) s.k) s = some u →
      exec (.spawn g n o) s = .next (endLanes (active s.k g) (next s.k) u)) ∧
    (Passes (spawning n false) s → active s.k g = 0#32 →
      exec (.spawn g n o) s = .next (endLanes 0#32 (next s.k) s) ∧
      exec (.brx g n o) s = .next (settle true [{ s.k.e with pc := next s.k }] s)) ∧
    (Passes (spawning n false) s → active s.k g ≠ 0#32 → s.k.e.mask &&& ~~~ active s.k g = 0#32 →
      exec (.brx g n o) s = .next (settle true [{ s.k.e with pc := wordTarget 16 o s.k.e.pc }] s)) ∧
    (Passes (spawning n true) s → active s.k g ≠ 0#32 → s.k.e.mask &&& ~~~ active s.k g ≠ 0#32 →
      writeRecs (recordsOf 1 n (brxEnds s.k g o).2.1 (brxEnds s.k g o).1 s.k) s = some u →
      exec (.brx g n o) s = .next (endLanes (brxEnds s.k g o).1 (brxEnds s.k g o).2.2 u))

namespace Sys2Proof.Claims

/-- A melded region that goes on by one more word: neither closed nor at its limit of 1,024 words (06 R175). -/
def roomInRegion (k : Skein) : Prop := k.meld.st ≠ .closed ∧ k.meld.words + 1 < 1024

/-- The table entries 112 to 127 that meld sets up: every melded name stands for itself. -/
def ownNames : List Nat := (List.range 16).map fun i => 112 + i

/-- Control and divergence that a melded region forbids; spawn and brx look at an open bracket first (08 R242). -/
def forbiddenInRegion : Instr → Bool
  | .bru _ => true
  | .bcc _ _ _ _ => true
  | .bvoteAny _ _ => true
  | .bvoteAll _ _ => true
  | .bvoteNone _ _ => true
  | .br _ _ => true
  | .call _ => true
  | .ret _ => true
  | .jmpg _ _ => true
  | .exit _ => true
  | .tail _ => true
  | .yield => true
  | .wopen => true
  | .wclose => true
  | .bwait _ _ _ => true
  | _ => false

/-- The skein's own lanes are all in the issuing entry. -/
def wholeSkein (s : State) : Prop := s.k.e.mask = liveMask s.k

end Sys2Proof.Claims

/-- 07 R190, 08 R233: ret and jmpg with a target that is no multiple of 4 take the alignment trap, cause 0x02, with
the target as its address, and write no link register. 06 R175, 16 R412: inside a melded region control and divergence
take the melded-region trap with cause 0x01 and change nothing else. -/
def Obligations.ControlTraps : Prop :=
  (∀ (i : Instr) (t : Word64) (s : State), branchTo s.k i = some t → fromRegister i = true → Passes plainControl s → t.toNat % 4 ≠ 0 →
     exec i s = .next (takeTrap false { code := 0x08, cause := 0x02, addr := t } s)) ∧
  (∀ (i : Instr) (s : State), forbiddenInRegion i = true → s.k.meld.st ≠ .closed →
     exec i s = .next (takeTrap false { code := 0x03, cause := 0x01 } s))

/-- 06 R175, R176, 08 R237, R238: meld opens a region whose path is P[p] within the entry, mmap sets one name of one
path, mend closes the region; nothing else changes but the entry, which goes on to the next word. 06 R178, 08 R239:
wopen gathers every lane of the skein in the issuing entry and suspends the other entries; wclose gives the entry its
own lanes of those that are left and the other entries go on. By the model's choice the bracket keeps the address of
the wopen itself (log entry 39), and an entry suspended at wopen's issue or released at wclose's has its lift counter
counted at that issue as `settle` counts it with the mark already changed (log entry 87). -/
def Obligations.RegionsComplete : Prop :=
  (∀ (s : State),
     (∀ p, s.k.meld.st = .closed →
       exec (.meld p) s = .next (settle false [{ s.k.e with pc := next s.k }]
         { s with k := { s.k with meld := { st := .mapping, path := s.k.e.mask &&& rdP s.k p, addr := s.k.e.pc, words := 0, ta := ownNames, tb := ownNames } } })) ∧
     (roomInRegion s.k →
       exec .mend s = .next (settle false [{ s.k.e with pc := next s.k }] { s with k := { s.k with meld := {} } })) ∧
     (∀ p i v, p < 2 → roomInRegion s.k → s.k.meld.st = .mapping → v < s.k.regs →
       exec (.mmap p i v) s = .next (settle false [{ s.k.e with pc := next s.k }]
         { s with k := { s.k with meld := { s.k.meld with words := s.k.meld.words + 1,
                                                          ta := if p = 0 then s.k.meld.ta.set i v else s.k.meld.ta,
                                                          tb := if p = 1 then s.k.meld.tb.set i v else s.k.meld.tb } } }))) ∧
  (∀ (s : State), Passes plainControl s →
     (s.k.bracket = none →
       exec .wopen s = .next (settle false [{ s.k.e with pc := next s.k, mask := liveMask s.k }]
         { s with k := { s.k with bracket := some (s.k.e.pc, s.k.e.mask), rest := s.k.rest.map fun e => { e with suspended := true } } })) ∧
     (∀ pc m, s.k.bracket = some (pc, m) →
       exec .wclose s = .next (settle false [{ s.k.e with pc := next s.k, mask := s.k.e.mask &&& m }]
         { s with k := { s.k with bracket := none, rest := s.k.rest.map fun e => { e with suspended := false } } })))

/-- 08 R243, 06 R161, R162: an arrival and a wait at a declared barrier complete, and so does the full form of the skein
that makes the phase complete; the release fence of the barrier's scope is done, and no earlier arrival is open. -/
def Obligations.BarrierFormsComplete : Prop :=
  ∀ (l b : Nat) (s : State), barUndeclared l b s = false → check plainControl s = none → wholeSkein s →
    (myArrival s.k l b = none → releaseDone (barScope s.crew l) s = true →
      exec (.barArrive l b) s = .next (retire 1 (arriveAt l b none s))) ∧
    (myArrival s.k l b = none →
      exec (.barWait l b) s = .next (retire 1 (standOff l b (acquire (standAt l b s))))) ∧
    (∀ a, myArrival s.k l b = some a → phaseOver a (standAt l b s) = true →
      exec (.barWait l b) s = .next (passBar l b (standAt l b s))) ∧
    (∀ a, myArrival s.k l b = none → releaseDone (barScope s.crew l) (standAt l b s) = true →
      myArrival (arriveAt l b (some s.k.e.pc) (standAt l b s)).k l b = some a →
      phaseOver a (arriveAt l b (some s.k.e.pc) (standAt l b s)) = true →
      exec (.bar l b) s = .next (passBar l b (arriveAt l b (some s.k.e.pc) (standAt l b s))))

namespace Sys2Proof.Claims

/-- The horizon of a scope (04 R114): crew, cluster, device, fabric; the scope skein has none. -/
def horizonOf (k : Skein) (scope : Nat) : Nat :=
  if scope = 0 then 0 else if scope = 1 then k.hCrew else if scope = 2 then k.hCluster else if scope = 3 then k.hDevice else k.hFabric

/-- Nothing is left that a release fence of the scope waits for (04 R115): no store of the skein is under way, but for one that a slice
of its fused cluster has written where the scope is cluster (02 R69), none is parked, and gtime has passed the scope's horizon. -/
def allPast (scope : Nat) (s : State) : Prop :=
  scope = 0 ∨ ((∀ st ∈ s.hm.inflight, st.uid = s.k.uid → scope = 2 ∧ st.cc ≠ 0) ∧ (∀ p ∈ s.hm.parked, p.uid ≠ s.k.uid) ∧ horizonOf s.k scope < s.gtime)

/-- The skein after an acquire fence: its floor is no lower than the time of its latest read (04 R116). -/
def acquired (s : State) : State := { s with k := { s.k with floor := max s.k.floor s.k.lastRead } }

/-- A fence instruction that reports the deferred store fault `d` of the crew, `l` being those that are left (16 R415, 01 R36). -/
def reports (d : DefStore) (l : List DefStore) (s : State) : State :=
  takeTrap false { code := 0x10, cause := d.cause, addr := d.va, info0 := d.pc, info1 := nat64 d.sid, deferred := true, after := true }
    { s with crew := { s.crew with defStores := l }, k := { s.k with meld := meldOn 1 s.k.meld } }

end Sys2Proof.Claims

/-- 08 R244: waitc goes on to the next word when its limits on stores, copies and tile operations are met, and waits
otherwise. 08 R245, 04 R115, R116: fence.rel and fence.ar go on once every earlier store of the skein is past in their
scope, and wait before; fence.acq goes on at once; fence.acq and fence.ar raise the acquire floor to the latest read
time. So they do in a crew without a deferred store fault and, whatever is pending, in a handler (16 R415). 01 R37: no
fence of a crew that came back from a save slot ends while a parked store of the crew remains. 16 R415, 01 R36: a
fence of any form outside a handler, that would go on, with a deferred store fault of its crew takes the store-fault
trap for the oldest one, with epc past the fence; the fault is pending no more, and an acquire has raised the floor. -/
def Obligations.CountsAndFences : Prop :=
  (∀ (s : State), Passes {} s →
     (∀ l z c t, (Instr.waitc l z c t).wf = true →
       (storeCount s ≤ z ∧ copyCount s ≤ c ∧ tileCount s ≤ t → exec (.waitc l z c t) s = .next (retire 1 s)) ∧
       (¬(storeCount s ≤ z ∧ copyCount s ≤ c ∧ tileCount s ≤ t) → exec (.waitc l z c t) s = .next (beginWait 0 0 s))) ∧
     (∀ scope, scope ≤ 4 → crewParked s = false → (s.crew.defStores = [] ∨ s.k.handler = true) →
       exec (.fenceAcq scope) s = .next (retire 1 (acquired s)) ∧
       (allPast scope s → exec (.fenceRel scope) s = .next (retire 1 s) ∧ exec (.fenceAr scope) s = .next (retire 1 (acquired s)))) ∧
     (∀ scope, scope ≤ 4 → ¬ allPast scope s → exec (.fenceRel scope) s = .next (beginWait 0 0 s) ∧ exec (.fenceAr scope) s = .next (beginWait 0 0 s)) ∧
     (crewParked s = true → ∀ scope,
       exec (.fenceRel scope) s = .next (beginWait 0 0 s) ∧ exec (.fenceAcq scope) s = .next (beginWait 0 0 s) ∧
       exec (.fenceAr scope) s = .next (beginWait 0 0 s))) ∧
  (∀ (scope : Nat) (d : DefStore) (l : List DefStore) (s : State), Passes {} s → scope ≤ 4 → crewParked s = false →
     s.crew.defStores = d :: l → s.k.handler = false →
     exec (.fenceAcq scope) s = .next (reports d l (acquired s)) ∧
       (allPast scope s → exec (.fenceRel scope) s = .next (reports d l s) ∧ exec (.fenceAr scope) s = .next (reports d l (acquired s))))


/-- 07 R203, 08 R222, R246: movs reads a special register into G[gd], and into V[vd] of the lanes of ACTIVE its low 32
bits, laneid giving each lane its own number; a privileged number needs a privileged context and a register. 08 R246,
R247, 09 R257: movsw writes a special register (GANG, FMODE, CTXHAND, epc) or a register of the privileged view, gang
a legal gang. A write of the view that starts a command on memory that does not exist stops: by the model's choice as
the fault noSuchMemory (log entry 77). -/
def Obligations.SpecialRegistersComplete : Prop :=
  (∀ (s : State),
     (∀ d n, n < 0x800 → Passes {} s →
       exec (.movs d n) s = .next (retire 1 { noteRead n s with k := wrG d (specialRead n s) (noteRead n s).k })) ∧
     (∀ d n i, specialTrap n s = none → viewIndex s.crew.ctx n = some i → Passes {} s →
       exec (.movs d n) s = .next (retire 1 { s with k := wrG d (viewRead s i) s.k })) ∧
     (∀ g d a, Passes { vs := [(d, 1)] } s →
       ∃ v, exec (.movsVector g d a) s = .next (retire 1 { noteRead a s with k := { (noteRead a s).k with v := v } }) ∧
         LanesWritten (active s.k g) (fun L => ren s.k L d) (fun L => if a = 0 then nat32 L else nat32 (specialRead a s).toNat) s.k.v v)) ∧
  (∀ (s : State), Passes {} s →
     (∀ a n, n < 0x800 → (n = 13 → isPriv s = true) → (n = 7 → gangOk (rdG s.k a) s = true) →
       exec (.movsw a n) s = .next (retire 1 (specialWrite n (rdG s.k a) s))) ∧
     (∀ a n i, specialTrap n s = none → viewIndex s.crew.ctx n = some i →
       (viewMemory i (rdG s.k a) s = true → exec (.movsw a n) s = .next (viewWrite i (rdG s.k a) (retire 1 s))) ∧
       (viewMemory i (rdG s.k a) s = false → exec (.movsw a n) s = .fault .noSuchMemory)) ∧
     (∀ a l, l = (List.range 64).filter (fun i => (rdG s.k a).toNat.testBit i) → l.length ≤ 6 → (∀ i ∈ l, i < skeinTotal s.crew.lrec) →
       gangOk (nat64 (l.length * 2 ^ 36 + ((List.range l.length).map fun j => l.getD j 0 * 2 ^ (6 * j)).sum)) s = true →
       exec (.gang a) s = .next (retire 1 (setGang (nat64 (l.length * 2 ^ 36 + ((List.range l.length).map fun j => l.getD j 0 * 2 ^ (6 * j)).sum)) s))))

/-- 09 R254, R257: cfgmode sets the default rounding to `r` unless it is 0, clears or sets E4SAT, clears the flags and
the draw counter as its fields say, and keeps every other field of FMODE and every other register. 09 R254: a write of
FMODE takes SEED, SRCTR, E4SAT and the flags as given, leaves DRND as it was on a reserved code, and reserved bits
read zero. -/
def Obligations.ModeRegisterFields : Prop :=
  (∀ (r e f c : Nat) (s : State), (Instr.cfgmode r e f c).wf = true → Passes {} s →
     ∃ m, exec (.cfgmode r e f c) s = .next (retire 1 { s with k := { s.k with fmode := m } }) ∧
       let old := s.k.fmode.toNat
       nb m.toNat 63 32 = nb old 63 32 ∧ nb m.toNat 31 16 = (if c = 1 then 0 else nb old 31 16) ∧ nb m.toNat 15 13 = 0 ∧
       nb m.toNat 12 12 = (if e = 1 then 0 else if e = 2 then 1 else nb old 12 12) ∧ nb m.toNat 11 11 = 0 ∧
       nb m.toNat 10 8 = (if r = 0 then nb old 10 8 else r) ∧ nb m.toNat 7 6 = 0 ∧ nb m.toNat 5 0 = (if f = 1 then 0 else nb old 5 0)) ∧
  (∀ (x old : Word64),
     let m := (writeFmode x old).toNat
     nb m 63 16 = nb x.toNat 63 16 ∧ nb m 12 12 = nb x.toNat 12 12 ∧ nb m 5 0 = nb x.toNat 5 0 ∧
     nb m 10 8 = (if 1 ≤ nb x.toNat 10 8 ∧ nb x.toNat 10 8 ≤ 5 then nb x.toNat 10 8 else nb old.toNat 10 8) ∧
     nb m 15 13 = 0 ∧ nb m 11 11 = 0 ∧ nb m 7 6 = 0)

namespace Sys2Proof.Claims

/-! ### Loads, stores and atomics -/

/-- A release fence that the instruction makes first has nothing to wait for (04 R115, R117). -/
def released (rel : Bool) (scope : Nat) (s : State) : Prop := rel = true → releaseDone scope s = true

/-- Where lane `L` of a lane access goes: G[gb] + sext(V[va][L])·k + sext(OFF) modulo 2^64 (07 R194). -/
def laneAddr (x : Option MemPfx) (k : Skein) (a b scale L : Nat) : Nat :=
  ((((rdG k b).toNat : Int) + S k a L * scale + offOf x) % (2 ^ 64 : Int)).toNat

/-- The accesses of the lanes of ACTIVE, lowest first. -/
def laneAccesses (x : Option MemPfx) (k : Skein) (g a b scale : Nat) : List (Nat × Nat) :=
  ((List.range 32).filter (laneOn (active k g))).map fun L => (L, laneAddr x k a b scale L)

/-- Where a uniform access goes: G[ga] + G[gb] + sext(OFF) modulo 2^64 (10 R285). -/
def uniformAddr (x : Option MemPfx) (k : Skein) (a b : Nat) : Nat :=
  ((((rdG k a).toNat : Int) + (rdG k b).toNat + offOf x) % (2 ^ 64 : Int)).toNat

/-- A load: its prefix, the width in bytes, its accesses, and the registers it writes. -/
structure LoadRow where
  pfx : Option MemPfx
  n : Nat
  acc : List (Nat × Nat)
  req : Req

def loadRow (k : Skein) : Instr → Option LoadRow
  | .vldN8 x g d a b => some ⟨x, 1, laneAccesses x k g a b 1, { len := words x, vs := [(d, 1), (a, 1)] }⟩
  | .vldN16 x g d a b => some ⟨x, 2, laneAccesses x k g a b 1, { len := words x, vs := [(d, 1), (a, 1)] }⟩
  | .vld x g d a b z => some ⟨x, 4, laneAccesses x k g a b (if z = 1 then 4 else 1), { len := words x, vs := [(d, 1), (a, 1)] }⟩
  | .vldN64 x g d a b z => some ⟨x, 8, laneAccesses x k g a b (if z = 1 then 8 else 1), { len := words x, vs := [(d, 2), (a, 1)] }⟩
  | .gld x _ a b z _ => some ⟨x, 2 ^ z, [(0xFF, uniformAddr x k a b)], { len := words x }⟩
  | _ => none

/-- A load may be answered by the L1: neither an acquire nor a bypass (04 R117, 07 R197). -/
def plainLoad (x : Option MemPfx) : Bool := !acqOf x && !(polOf x).testBit 0

/-- The access passes its checks, with the spans `r` of its lanes, ABSENT pages counting as faults unless NF is set
(01 R32, R47), no byte has an uncorrectable error (02 R73), and the READs for what lies in host pages are answered (17 R432). -/
def Readable (row : LoadRow) (s : State) (r : List LaneAcc) : Prop :=
  (∃ u, resolve .read (plainLoad row.pfx) (if nfOf row.pfx = true then none else some 1) row.n row.acc s = .ok (r, u)) ∧
    (∀ a ∈ r, badWord s a = none) ∧ ∀ a ∈ r, ∀ x ∈ hostParts a.spans, hostStatus (skeinReader s.k) s x = some 0

/-- Where a load may be answered: by the L1, by the slice of a fused cluster where it is an acquire of cluster scope, or at the homes alone
(04 R109, R117, R121). -/
def answeredBy (x : Option MemPfx) : View := if plainLoad x then .l1 else if acqOf x ∧ scopeOf x = 2 then .slice else .home

/-- What lane `L` reads: the bytes at its homes as its skein sees them at their read times, which for the later pieces of a misaligned
access lie later (01 R18); zero when a page of it is ABSENT (01 R32). -/
def loaded (row : LoadRow) (s : State) (r : List LaneAcc) (L : Nat) : Nat :=
  match r.find? fun a => decide (a.lane = L), row.acc.find? fun x => decide (x.1 = L) with
  | some a, some x =>
    let late := fun va => if a.hit then 0 else readDelay s L x.2 row.n va
    if (absentAt a).isSome then 0
    else ofBytes (a.spans.flatMap fun sp => (List.range sp.len).map fun i =>
      viewByte s (sp.va + i) (sp.key + i) (spanCopy (answeredBy row.pfx) s sp i) (late (sp.va + i)))
  | _, _ => 0

/-- Lane `L` was marked: NF let it meet an ABSENT page. -/
def marked (r : List LaneAcc) (L : Nat) : Bool := r.any fun a => decide (a.lane = L) && (absentAt a).isSome

/-- The state after a load: of the homes all but the translations, sectors, leases, lines of the L2 and corrected errors is as it was; of
the skein all but its destination, p7, its latest read time and its acquire floor; of the privileged registers all but ERRCNT; and
memory byte for byte. The next free value is another one (log entry 84). -/
def LoadFrame (row : LoadRow) (s : State) (r : List LaneAcc) (k : Skein) (t : State) : Prop :=
  let last := s.gtime + loadDelay row.n row.acc r s
  t = { s with k := k, hm := t.hm, preg := t.preg, free := s.free + 1 } ∧ (∀ j, j ≠ 0x21 → preg t j = preg s j) ∧
    t.hm = { s.hm with tlb := t.hm.tlb, l1 := t.hm.l1, lineE := t.hm.lineE, lineL := t.hm.lineL, l2 := t.hm.l2, soft := t.hm.soft } ∧
    k.lastRead = (if row.acc = [] then s.k.lastRead else max s.k.lastRead last) ∧
    k.floor = (if row.acc ≠ [] ∧ acqOf row.pfx = true then max s.k.floor last else s.k.floor)

end Sys2Proof.Claims

/-- 10 R284, 01 R32, 04 R117: a lane load whose accesses pass writes to V[vd] of each lane of ACTIVE, or to its pair,
the bytes at that lane's address, zero-extended; marked lanes read zero and lose their bit of p7; no byte of memory
changes. 10 R285, 01 R32: gld whose access passes writes to G[gd] the bytes at its address, zero-extended or as a
signed number; an absent page clears p7 for the entry; no byte of memory changes. -/
def Obligations.LoadResults : Prop :=
  (∀ (i : Instr) (g d : Nat) (row : LoadRow) (s : State) (r : List LaneAcc), i.wf = true → loadRow s.k i = some row →
     ((∃ x a b, i = .vldN8 x g d a b) ∨ (∃ x a b, i = .vldN16 x g d a b) ∨ (∃ x a b z, i = .vld x g d a b z) ∨
       (∃ x a b z, i = .vldN64 x g d a b z)) →
     Passes row.req s → released (relOf row.pfx) (scopeOf row.pfx) s → Readable row s r →
     ∃ v p lr fl t, let k := { s.k with v := v, p := p, lastRead := lr, floor := fl }
       exec i s = .next (retire row.req.len t) ∧ LoadFrame row s r k t ∧
       (row.n ≠ 8 → LanesWritten (active s.k g) (fun L => ren s.k L d) (fun L => nat32 (loaded row s r L)) s.k.v v) ∧
       (row.n = 8 → PairsWritten (active s.k g) (fun L => ren s.k L d) (fun L => nat64 (loaded row s r L)) s.k.v v) ∧
       ∀ n L, L < 32 → laneOn (rdP k n) L = (laneOn (rdP s.k n) L && !(decide (n = 7) && marked r L))) ∧
  (∀ (x : Option MemPfx) (d a b z e : Nat) (row : LoadRow) (s : State) (r : List LaneAcc), (Instr.gld x d a b z e).wf = true →
     loadRow s.k (.gld x d a b z e) = some row → Passes row.req s → released (relOf x) (scopeOf x) s → Readable row s r →
     ∃ g p lr fl t, let k := { s.k with g := g, p := p, lastRead := lr, floor := fl }
       exec (.gld x d a b z e) s = .next (retire row.req.len t) ∧ LoadFrame row s r k t ∧
       UniformWritten d (if e = 1 then Claims.int64 (signed (8 * row.n) (loaded row s r 0xFF)) else nat64 (loaded row s r 0xFF)) s.k k ∧
       ∀ n L, L < 32 → laneOn (rdP k n) L = (laneOn (rdP s.k n) L && !(decide (n = 7) && laneOn s.k.e.mask L && marked r 0xFF)))

namespace Sys2Proof.Claims

/-- A store: its prefix, the width in bytes, its accesses, the bytes of each lane, and its checks. -/
structure StoreRow where
  pfx : Option MemPfx
  n : Nat
  acc : List (Nat × Nat)
  data : Nat → List Byte
  req : Req

/-- The low 8·n bits of a value, least significant byte first. -/
def littleEndian (n x : Nat) : List Byte := (List.range n).map fun i => BitVec.ofNat 8 (x / 256 ^ i)

def storeRow (k : Skein) : Instr → Option StoreRow
  | .vstN8 x g v a b => some ⟨x, 1, laneAccesses x k g a b 1, fun L => littleEndian 1 (U k v L), { len := words x, vs := [(v, 1), (a, 1)], stores := true }⟩
  | .vstN16 x g v a b => some ⟨x, 2, laneAccesses x k g a b 1, fun L => littleEndian 2 (U k v L), { len := words x, vs := [(v, 1), (a, 1)], stores := true }⟩
  | .vst x g v a b z => some ⟨x, 4, laneAccesses x k g a b (if z = 1 then 4 else 1), fun L => littleEndian 4 (U k v L), { len := words x, vs := [(v, 1), (a, 1)], stores := true }⟩
  | .vstN64 x g v a b z => some ⟨x, 8, laneAccesses x k g a b (if z = 1 then 8 else 1), fun L => littleEndian 8 (rdV2 k v L).toNat, { len := words x, vs := [(v, 2), (a, 1)], stores := true }⟩
  | .gst x d a b z => some ⟨x, 2 ^ z, [(0xFF, uniformAddr x k a b)], fun _ => littleEndian (2 ^ z) (rdG k d).toNat, { len := words x, stores := true }⟩
  | _ => none

/-- The store's accesses pass: the spans of each lane; no byte lies in a merge range, in an ABSENT page, or in a page with parked stores
of the context (01 R34). -/
def Writable (row : StoreRow) (s : State) (r : List LaneAcc) : Prop :=
  (∃ u, checkLanes .write false row.n row.acc s = .ok (r, u)) ∧ (∀ a ∈ r, a.fault = none ∧ ∀ sp ∈ a.spans, sp.absent = false) ∧
    ∀ x ∈ row.acc, ∀ i < row.n, inMerge s.crew (x.2 + i) = false ∧ ∀ p ∈ s.hm.parked, p.ctx = s.crew.ctx → x.2 + i < p.page ∨ p.page + p.size ≤ x.2 + i

/-- The byte that the store sends to home address `key`, the highest lane's where several write it; none when it sends none. -/
def sent (row : StoreRow) (r : List LaneAcc) (key : Nat) : Option Byte :=
  (r.zip row.acc).foldl (fun m x =>
    x.1.spans.foldl (fun m sp => if sp.absent = false ∧ sp.key ≤ key ∧ key < sp.key + sp.len then some ((row.data x.1.lane).getD (sp.va + (key - sp.key) - x.2.2) 0#8) else m) m) none

end Sys2Proof.Claims

namespace Sys2Proof.Claims

/-- The byte that the store writes at address `va`, for the spans that `p` selects, the highest lane's where several write it. -/
def storedAt (p : Span → Bool) (row : StoreRow) (r : List LaneAcc) (va : Nat) : Option Byte :=
  (r.zip row.acc).foldl (fun m x =>
    x.1.spans.foldl (fun m sp => if p sp = true ∧ sp.va ≤ va ∧ va < sp.va + sp.len then some ((row.data x.1.lane).getD (va - x.2.2) 0#8) else m) m) none

/-- The page in which a span lies: its address and size. -/
def pageOfSpan (sp : Span) : Nat × Nat := (sp.va / pageBytes sp.leaf.size * pageBytes sp.leaf.size, pageBytes sp.leaf.size)

/-- The lines of ABSENT pages that a store writes: one entry of the hold buffer each (01 R33). -/
def absentLines (r : List LaneAcc) : List Nat :=
  ((r.flatMap (·.spans)).filter (·.absent)).flatMap fun sp => (List.range sp.len).map fun i => (sp.va + i) / 64

/-- The entries of the hold buffer of the skein's core that are in use. -/
def heldEntries (s : State) : Nat := (s.hm.parked.filter fun p => decide (p.core = s.crew.core)).length

/-- What the patch holds for a byte (05 R146). -/
def patchAt (p : SMap PatchByte) (va : Nat) : Option PatchByte := (p.find? fun e => decide (e.1 = va)).map (·.2)

/-- Address `va` lies in the word of a merge atomic that the patch holds for the byte `c`. -/
def inWordOf (p : SMap PatchByte) (c va : Nat) : Prop := ∃ w o n y, patchAt p c = some (.merged w o n y) ∧ w ≤ va ∧ va < w + n

/-- The patch's entries of 16 bytes after the accesses of a store. -/
def patchGranules (row : StoreRow) (s : State) : List Nat :=
  (s.crew.patch.map fun e => e.1 / 16) ++ row.acc.flatMap fun x => (List.range row.n).map fun i => (x.2 + i) / 16

/-- The home addresses where the entries of a patch of `n` granules lie (06 R154). -/
def patchArea (s : State) (key : Nat) : Prop :=
  ∃ i k j, keyAt s s.crew.ctx (s.crew.lrec.patchBase.toNat + 32 * s.crew.lrec.cap * s.crew.t + 32 * i) = some k ∧ j < 32 ∧ key = k + j

end Sys2Proof.Claims

/-- 10 R284, R285, 04 R105 to R107: a store whose accesses pass goes on at once with its bytes in flight to their
homes and changes no byte at any home; the skein sees the stored bytes from now on, the highest lane's where lanes
meet; every register, predicate and special register keeps its value, and every other byte reads as before, whichever
copy answers and however late. A line that a slice of the fused cluster holds is written there, which raises the
cluster horizon alone (02 R69, 04 R114): by the model's choice at the global time of the instruction itself (log entry
85). 01 R33, R34: a store whose accesses pass, some of whose bytes lie in ABSENT pages, parks those bytes in the hold
buffer of its core, an entry for each line, with its skein, its word and its page, sends the others to their homes,
changes no byte at any home, and makes the request of each page in which it parked; where the buffer has no room for
all its entries, it waits and does nothing. 05 R146, R147: a store whose accesses pass and whose bytes lie in the
merge ranges of its launch goes to the task's patch, ABSENT pages or not, while the patch has room: the bytes stored
are plain bytes of the patch from now on, those left of a merge atomic's word that it touched hold what the task saw,
every other entry stays, and no byte at a home changes but in the area of the patch, whose contents the spec does not
state (06 R154; by the model's choice free values, log entry 95). -/
def Obligations.StoreResults : Prop :=
  (∀ (i : Instr) (row : StoreRow) (s : State) (r : List LaneAcc), i.wf = true → storeRow s.k i = some row → Passes row.req s →
     released (relOf row.pfx) (scopeOf row.pfx) s → Writable row s r →
     ∃ l h n hc, let t := { s with k := { s.k with hCluster := hc }, hm := h, seqNo := n }
       exec i s = .next (retire row.req.len t) ∧
       h = { s.hm with inflight := s.hm.inflight ++ l, tlb := h.tlb, l1 := h.l1, bricks := h.bricks } ∧
       (hc = s.k.hCluster ∨ hc = max s.k.hCluster (s.gtime + 2)) ∧ (∀ st ∈ l, st.cc ≠ 0 → s.gtime + 2 ≤ hc) ∧ (s.crew.fused = false → hc = s.k.hCluster) ∧
       (∀ st ∈ l, st.uid = s.k.uid ∧ st.cuid = s.crew.uid ∧ st.op = 0 ∧ (st.cc = 0 ∨ st.cc = s.gtime) ∧ (s.crew.fused = false → st.cc = 0) ∧ ∀ c ∈ st.cells, c.1 / 64 = st.line) ∧
       (∀ key, memByte t key = memByte s key ∧ finalByte t key = finalByte s key) ∧
       ∀ key x d, viewKey t key x d = (sent row r key).getD (viewKey { t with hm := { t.hm with inflight := s.hm.inflight } } key x d)) ∧
  (∀ (i : Instr) (row : StoreRow) (s : State) (r : List LaneAcc), i.wf = true → storeRow s.k i = some row → Passes row.req s →
     released (relOf row.pfx) (scopeOf row.pfx) s → (∃ u, checkLanes .write false row.n row.acc s = .ok (r, u)) → (∀ a ∈ r, a.fault = none) →
     (∀ x ∈ row.acc, ∀ j < row.n, inMerge s.crew (x.2 + j) = false) →
     (absentLines r ≠ [] → 64 < heldEntries s + (absentLines r).eraseDups.length → exec i s = .next (beginWait 0 0 s)) ∧
     (heldEntries s + (absentLines r).eraseDups.length ≤ 64 →
      (∀ a ∈ r, ∀ sp ∈ a.spans, sp.absent = false → ∀ j < sp.len, ∀ p ∈ s.hm.parked, p.ctx = s.crew.ctx → sp.va + j < p.page ∨ p.page + p.size ≤ sp.va + j) →
      ∃ l q h n hc pages, let t := { s with k := { s.k with hCluster := hc }, hm := h, seqNo := n };
       h = { s.hm with inflight := s.hm.inflight ++ l, parked := s.hm.parked ++ q, tlb := h.tlb, l1 := h.l1, bricks := h.bricks } ∧ (s.crew.fused = false → hc = s.k.hCluster) ∧
       (∀ p ∈ q, p.uid = s.k.uid ∧ p.cuid = s.crew.uid ∧ p.core = s.crew.core ∧ p.ctx = s.crew.ctx ∧ p.sid = s.k.sid ∧ p.pc = s.k.e.pc ∧
         (p.page, p.size) ∈ pages ∧ (∀ c ∈ p.cells, storedAt (·.absent) row r c.1 = some c.2) ∧ ∃ line, ∀ c ∈ p.cells, c.1 / 64 = line) ∧
       (∀ va b, storedAt (·.absent) row r va = some b → ∃ p ∈ q, (va, b) ∈ p.cells) ∧ q.length = (absentLines r).eraseDups.length ∧
       (∀ p ∈ pages, ∃ a ∈ r, ∃ sp ∈ a.spans, sp.absent = true ∧ p = pageOfSpan sp) ∧
       (∀ key, memByte t key = memByte s key ∧ finalByte t key = finalByte s key) ∧
       (∀ key x d, viewKey t key x d = (sent row r key).getD (viewKey { t with hm := { t.hm with inflight := s.hm.inflight } } key x d)) ∧
       ∀ v, requestAll pages t = .ok v → exec i s = .next (retire row.req.len v))) ∧
  (∀ (i : Instr) (row : StoreRow) (s : State) (r : List LaneAcc), i.wf = true → storeRow s.k i = some row → Passes row.req s →
     released (relOf row.pfx) (scopeOf row.pfx) s → (∃ u, checkLanes .write false row.n row.acc s = .ok (r, u)) → (∀ a ∈ r, a.fault = none) →
     row.acc ≠ [] → (∀ x ∈ row.acc, ∀ j < row.n, inMerge s.crew (x.2 + j) = true) → (patchGranules row s).eraseDups.length ≤ s.crew.lrec.cap →
     ∃ p h, exec i s = .next (retire row.req.len { s with crew := { s.crew with patch := p }, hm := h, free := s.free + 1 }) ∧
       h = { s.hm with tlb := h.tlb, mem := h.mem } ∧
       (∀ key, ¬ patchArea s key → mget 0#8 h.mem key = memByte s key) ∧
       (∀ va b, storedAt (fun _ => true) row r va = some b → patchAt p va = some (.plain b)) ∧
       ∀ va, storedAt (fun _ => true) row r va = none →
         ((∀ c, storedAt (fun _ => true) row r c ≠ none → ¬ inWordOf s.crew.patch c va) → patchAt p va = patchAt s.crew.patch va) ∧
         ((∃ c, storedAt (fun _ => true) row r c ≠ none ∧ inWordOf s.crew.patch c va) → ∃ key, patchAt p va = some (.plain (viewByte s va key))))

namespace Sys2Proof.Claims

/-- An atomic's new value: add, and, or, xor, signed and unsigned minimum and maximum, exchange, compare and exchange, and
FP32 add, minimum and maximum (10 R287). -/
def atomicNew (aop n old d cmp : Nat) : Nat :=
  match aop with
  | 0 => (old + d) % 2 ^ (8 * n)
  | 1 => Nat.land old d
  | 2 => Nat.lor old d
  | 3 => Nat.xor old d
  | 4 => if signed (8 * n) d < signed (8 * n) old then d else old
  | 5 => min old d
  | 6 => if signed (8 * n) old < signed (8 * n) d then d else old
  | 7 => max old d
  | 8 => d
  | 9 => if old = cmp then d else old
  | 10 => (fpAdd fp32 .rn 0 old d).1
  | 11 => fpMin fp32 old d
  | _ => fpMax fp32 old d

/-- An atomic: fences, scratch or memory, operation, width, cache policy, and for each lane its exact offset, data and comparand. -/
structure AtomicRow where
  acq : Bool
  rel : Bool
  scope : Nat
  scr : Bool
  aop : Nat
  n : Nat
  pol : Nat
  lanes : List (Nat × Int × Nat × Nat)
  req : Req

def wide (w : Bool) (k : Skein) (r L : Nat) : Nat := if w then (rdV2 k r L).toNat else U k r L

def atomicRow (k : Skein) : Instr → Option AtomicRow
  | .vatom x g d a b z =>
    let w := if x.w64 then 2 else 1
    let sc : Nat := if z = 1 ∧ x.scr = false then 4 * w else 1
    some ⟨x.acq, x.rel, x.scope, x.scr, x.aop, 4 * w, x.pol,
      ((List.range 32).filter (laneOn (active k g))).map fun L => (L, ((rdG k b).toNat : Int) + S k a L * sc, wide x.w64 k x.vb L, wide x.w64 k d L),
      { len := 2, vs := [(d, w), (a, 1), (x.vb, w)], stores := true }⟩
  | .gatom x d a b o w z =>
    let n := if w = 1 then 8 else 4
    some ⟨acqOf x, relOf x, scopeOf x, decide (z = 1), o, n, polOf x,
      [(0xFF, ((rdG k a).toNat : Int) + offOf x, (rdG k b).toNat % 2 ^ (8 * n), (rdG k d).toNat % 2 ^ (8 * n))], { len := words x, stores := true }⟩
  | _ => none

/-- The atomic's accesses as memory sees them. -/
def atomicLanesOf (row : AtomicRow) : List AtLane :=
  row.lanes.map fun x => { lane := x.1, va := (x.2.1 % (2 ^ 64 : Int)).toNat, data := x.2.2.1, cmp := x.2.2.2 }

/-- The old values that the lanes' atomics return: in memory, where their accesses answer `.ok`, or at the bank. -/
def Atomics (row : AtomicRow) (s u : State) (old : List (Nat × Nat)) : Prop :=
  if row.scr then scrAtomic row.aop row.n row.acq row.lanes s = .ok (old, u)
  else atomicLanes row.aop row.n row.acq (atomicLanesOf row) s row.pol = .ok (old, u)

end Sys2Proof.Claims

namespace Sys2Proof.Claims

/-- The lanes of an atomic in ascending order, each on the bytes that those before it left: the old values, and the bytes after it (10 R287).
A lane is its number, the home address of its word, its datum and its comparand. -/
def runAtomics (aop n : Nat) : List (Nat × Nat × Nat × Nat) → (Nat → Byte) → List (Nat × Nat) × (Nat → Byte)
  | [], m => ([], m)
  | (L, key, d, c) :: l, m =>
    let old := ofBytes ((List.range n).map fun j => m (key + j))
    let new := littleEndian n (atomicNew aop n old d c)
    let r := runAtomics aop n l fun a => if key ≤ a ∧ a < key + n then new.getD (a - key) 0#8 else m a
    ((L, old) :: r.1, r.2)

/-- Where a home counts the writes to a page that is being copied out: WVER of its table entry (01 R21, R39). -/
def countedAt (s : State) (key : Nat) : Prop := ∃ m ∈ s.xl.migs, m.ver.isSome = true ∧ (key = m.pa + 14 ∨ key = m.pa + 15)

end Sys2Proof.Claims

/-- 10 R286, R287: vatom and gatom whose accesses pass write each lane's old value to their destination and go on. 10
R287, 04 R105, R106, R118: an atomic on words of memory whose accesses pass, in mapped pages outside the merge ranges
and in no hold, is performed at their homes: each lane's old value is what its home holds last, and the home then
holds the new values, those of one instruction in ascending lane order, and nothing else but the counts of writes to
pages being copied out. An atomic with words at another part, not sent yet, sets out to it and waits (17 R437; the two
stages are the model's form, log entry 6). -/
def Obligations.AtomicResults : Prop :=
  (∀ (i : Instr) (row : AtomicRow) (s u : State) (old : List (Nat × Nat)), i.wf = true → atomicRow s.k i = some row → Passes row.req s →
     released row.rel row.scope s → Atomics row s u old →
     (∀ x g d a b z, i = .vatom x g d a b z →
       ∃ v, exec i s = .next (retire 2 { u with k := { u.k with v := v } }) ∧
         (x.w64 = false → LanesWritten (active s.k g) (fun L => ren u.k L d) (fun L => nat32 (oldOf old L)) u.k.v v) ∧
         (x.w64 = true → PairsWritten (active s.k g) (fun L => ren u.k L d) (fun L => nat64 (oldOf old L)) u.k.v v)) ∧
     ∀ x d a b o w z, i = .gatom x d a b o w z →
       exec i s = .next (retire row.req.len { u with k := wrG d (nat64 (oldOf old 0xFF)) u.k })) ∧
  (∀ (aop n : Nat) (acq : Bool) (lanes : List AtLane) (s v : State) (pol : Nat) (r : List LaneAcc), (n = 4 ∨ n = 8) →
     (∀ x ∈ lanes, x.data < 2 ^ (8 * n) ∧ x.cmp < 2 ^ (8 * n)) →
     resolve .atomic false (if flightStage s = 2 then none else some 3) n (lanes.map fun x => (x.lane, x.va)) s = .ok (r, v) →
     (∀ a ∈ r, absentAt a = none ∧ badWord s a = none ∧ heldPage s (atKey a) = false) →
     (∀ x ∈ lanes, ∀ j < n, inMerge s.crew (x.va + j) = false ∧ ∀ p ∈ s.hm.parked, p.ctx = s.crew.ctx → x.va + j < p.page ∨ p.page + p.size ≤ x.va + j) →
     (∀ a ∈ r, ∀ st ∈ s.hm.inflight, st.uid = s.k.uid → st.line ≠ atKey a / 64) →
     let todo := (lanes.zip r).map fun y => (y.1.lane, atKey y.2, y.1.data, y.1.cmp)
     (((∀ a ∈ r, keyDev (atKey a) = none) ∨ flightStage s ≠ 0) →
       ∃ u, atomicLanes aop n acq lanes s pol = .ok ((runAtomics aop n todo (finalByte s)).1, u) ∧
         ∀ key, ¬ countedAt s key → finalByte u key = (runAtomics aop n todo (finalByte s)).2 key) ∧
     ((∃ a ∈ r, keyDev (atKey a) ≠ none) → flightStage s = 0 →
       ∃ u, atomicLanes aop n acq lanes s pol = .error (.wait u 10 1) ∧ ∃ w, u = { s with k := { s.k with wait := some w } } ∧ w.kind = 10 ∧ w.stage = 1))

/-- 10 R287, 01 R13: an atomic on a scratch word that is aligned, inside the window and free of uncorrectable errors is performed
at the bank: the word holds its new value, every other byte of the window and of memory stays, and the value the word had is
returned. -/
def Obligations.ScratchAtomicUpdatesItsWord : Prop :=
  ∀ (aop n : Nat) (acq : Bool) (L : Nat) (o : Int) (d c : Nat) (s : State), (n = 4 ∨ n = 8) → d < 2 ^ (8 * n) → c < 2 ^ (8 * n) →
    0 ≤ o → o % (n : Int) = 0 → o + n ≤ (4096 * nb s.crew.lrec.alloc 6 0 : Nat) → (∀ i < n, (o.toNat + i) / 8 ∉ s.crew.winBad) →
    ∃ u, scrAtomic aop n acq [(L, o, d, c)] s = .ok ([(L, winNat s.crew o.toNat n)], u) ∧
      winNat u.crew o.toNat n = atomicNew aop n (winNat s.crew o.toNat n) d c % 2 ^ (8 * n) ∧
      (∀ j, (j < o.toNat ∨ o.toNat + n ≤ j) → winByte u.crew j = winByte s.crew j) ∧ u.hm = s.hm

namespace Sys2Proof.Claims

/-- A scratch access: its prefix, and for each lane of ACTIVE its exact offset (02 R51). -/
def scratchAccesses (x : Option MemPfx) (k : Skein) (g a b : Nat) : List (Nat × Int) :=
  ((List.range 32).filter (laneOn (active k g))).map fun L => (L, ((rdG k b).toNat : Int) + S k a L + offOf x)

/-- Every lane's `n` bytes lie in the crew's window (01 R13) and meet no uncorrectable error (02 R53). -/
def inWindow (l : List (Nat × Int)) (n : Nat) (s : State) : Prop :=
  ∀ x ∈ l, 0 ≤ x.2 ∧ x.2 + n ≤ (4096 * nb s.crew.lrec.alloc 6 0 : Nat)

def sound (l : List (Nat × Int)) (n : Nat) (s : State) : Prop := ∀ x ∈ l, ∀ i < n, (x.2.toNat + i) / 8 ∉ s.crew.winBad

/-- The width of a scratch access in registers. -/
def scratchWidth (x : Option MemPfx) : Nat := 2 ^ polOf x

/-- Register j of a lane's run of registers after a scratch load: 4 bytes of the window from the lane's offset. -/
def RunsWritten (act : Word32) (d : Nat → Nat) (w : Nat) (f : Nat → Nat → Word32) (v v' : SMap Word32) : Prop :=
  ∀ n L, L < 32 → getV v' n L = if laneOn act L = true ∧ d L ≤ n ∧ n < d L + w then f L (n - d L) else getV v n L

def windowWord (c : Crew) (o : Nat) : Word32 := nat32 (ofBytes [winByte c o, winByte c (o + 1), winByte c (o + 2), winByte c (o + 3)])

/-- `c` is `s` but for single-bit errors of the window that were corrected and counted in ERRCNT (02 R53). -/
def Corrected (s c : State) : Prop :=
  (∃ ws pr, c = { s with crew := { s.crew with winSoft := ws }, preg := pr }) ∧ ∀ j, j ≠ 0x21 → preg c j = preg s j

/-- A granule that some lane touches (02 R54). -/
def touches (l : List (Nat × Int)) (n : Nat) (G : Nat) : Prop := ∃ x ∈ l, x.2.toNat / 16 ≤ G ∧ G ≤ (x.2.toNat + n - 1) / 16

end Sys2Proof.Claims

namespace Sys2Proof.Claims

/-- The outcome of a consuming load that goes ahead (02 R55): it loads as sld does, and with `clr` empties every granule it touched. -/
def Consumes (clr : Bool) (x : MemPfx) (g d a b : Nat) (s : State) (o : Host.Outcome State Fault Refusal) : Prop :=
  let w := scratchWidth (some x)
  ∃ c v lr fl fe, Corrected s c ∧ o = .next (retire 2 { c with k := { s.k with v := v, lastRead := lr, floor := fl }, crew := { c.crew with fe := fe } }) ∧
    RunsWritten (active s.k g) (fun L => ren s.k L d) w
      (fun L j => windowWord s.crew ((((rdG s.k b).toNat : Int) + S s.k a L + offOf (some x)).toNat + 4 * j)) s.k.v v ∧
    ∀ G, G ∈ fe ↔ (G ∈ s.crew.fe ∧ ¬(clr = true ∧ touches (scratchAccesses (some x) s.k g a b) (4 * w) G))

end Sys2Proof.Claims

/-- 02 R51, R54, 10 R288: sld whose lanes lie in the window loads 4·W bytes per lane into W registers from vd on, and
changes no byte of the window and no full/empty bit; single-bit errors that it meets are corrected. 02 R55: a
consuming load whose granules are all full, no earlier waiter going first, loads as sld does; sld.fe.clr empties every
granule it touched and sld.fe none. With a granule not full it waits. -/
def Obligations.ScratchLoadResults : Prop :=
  (∀ (x : Option MemPfx) (g d a b : Nat) (s : State), (Instr.sld x g d a b).wf = true →
     let l := scratchAccesses x s.k g a b
     let w := scratchWidth x
     Passes { len := words x, vs := [(d, w), (a, 1)] } s → released (relOf x) (scopeOf x) s → inWindow l (4 * w) s → sound l (4 * w) s →
     ∃ c v lr fl, Corrected s c ∧ exec (.sld x g d a b) s = .next (retire (words x) { c with k := { s.k with v := v, lastRead := lr, floor := fl } }) ∧
       RunsWritten (active s.k g) (fun L => ren s.k L d) w
         (fun L j => windowWord s.crew ((((rdG s.k b).toNat : Int) + S s.k a L + offOf x).toNat + 4 * j)) s.k.v v) ∧
  (∀ (x : MemPfx) (g d a b : Nat) (s : State), (Instr.sldFe x g d a b).wf = true →
     let l := scratchAccesses (some x) s.k g a b
     let w := scratchWidth (some x)
     Passes { len := 2, vs := [(d, w), (a, 1)] } s → released x.rel x.scope s → inWindow l (4 * w) s →
     ((∀ G, touches l (4 * w) G → isFull s.crew G = true) → s.k.wait = none → sound l (4 * w) s →
       Consumes false x g d a b s (exec (.sldFe x g d a b) s) ∧ Consumes true x g d a b s (exec (.sldFeClr x g d a b) s)) ∧
     ((∃ G, touches l (4 * w) G ∧ isFull s.crew G = false) →
       ∃ k u, exec (.sldFe x g d a b) s = .next { s with k := k, seqNo := u } ∧ exec (.sldFeClr x g d a b) s = .next { s with k := k, seqNo := u } ∧ k = { s.k with wait := k.wait } ∧
         ∃ wt, k.wait = some wt ∧ wt.kind = 2 ∧ wt.pc = s.k.e.pc))

/-- 02 R51, R54, 10 R288: sst whose lanes lie in the window stores 4·W bytes per lane, later lanes over earlier ones, changes
no other byte, and with SETF fills the granules it touches; sclr empties the granules of each lane's range. -/
def Obligations.ScratchStoreResults : Prop :=
  ∀ (x : Option MemPfx) (g v a b : Nat) (s : State), (Instr.sst x g v a b).wf = true →
    let l := scratchAccesses x s.k g a b
    let w := scratchWidth x
    (Passes { len := words x, vs := [(v, w), (a, 1)], stores := true } s → released (relOf x) (scopeOf x) s → inWindow l (4 * w) s →
      ∃ win fe, exec (.sst x g v a b) s = .next (retire (words x) { s with crew := { s.crew with win := win, fe := fe } }) ∧
        (∀ o, (∀ y ∈ l, o < y.2.toNat ∨ y.2.toNat + 4 * w ≤ o) → mget 0#8 win o = winByte s.crew o) ∧
        (∀ L o j, (L, o) ∈ l → j < 4 * w → (∀ y ∈ l, L < y.1 → o.toNat + j < y.2.toNat ∨ y.2.toNat + 4 * w ≤ o.toNat + j) →
          mget 0#8 win (o.toNat + j) = BitVec.ofNat 8 ((getV s.k.v (ren s.k L v + j / 4) L).toNat / 256 ^ (j % 4))) ∧
        ∀ G, G ∈ fe ↔ (G ∈ s.crew.fe ∨ (nfOf x = true ∧ touches l (4 * w) G))) ∧
    (Passes { len := words x, vs := [(v, 1), (a, 1)], stores := true } s → released (relOf x) (scopeOf x) s →
      (∀ y ∈ l, U s.k v y.1 ≠ 0 → 0 ≤ y.2 ∧ y.2 + U s.k v y.1 ≤ (4096 * nb s.crew.lrec.alloc 6 0 : Nat)) →
      ∃ fe, exec (.sclr x g v a b) s = .next (retire (words x) { s with crew := { s.crew with fe := fe } }) ∧
        ∀ G, G ∈ fe ↔ (G ∈ s.crew.fe ∧ ∀ y ∈ l, U s.k v y.1 ≠ 0 → G < y.2.toNat / 16 ∨ (y.2.toNat + U s.k v y.1 - 1) / 16 < G))

namespace Sys2Proof.Claims

/-! ### Barrier objects -/

/-- The fields of a barrier object's 16 bytes (05 R126). -/
def expectOf (o : Nat) : Nat := o % 2 ^ 32
def arrivedOf (o : Nat) : Nat := o / 2 ^ 32 % 2 ^ 32
def phaseOf (o : Nat) : Nat := o / 2 ^ 64 % 2 ^ 32
def statusOf (o : Nat) : Nat := o / 2 ^ 96 % 2 ^ 32

/-- The object lies in the window: 16-byte aligned and wholly inside (05 R127). -/
def scratchObject (s : State) (a : Nat) : Prop := a % 16 = 0 ∧ a + 16 ≤ 4096 * nb s.crew.lrec.alloc 6 0

/-- The window after a write of 16 bytes at `a`. -/
def ObjectWritten (a x : Nat) (c c' : Crew) : Prop :=
  (∃ w, c' = { c with win := w }) ∧ ∀ o, winByte c' o = if a ≤ o ∧ o < a + 16 then BitVec.ofNat 8 (x / 256 ^ (o - a)) else winByte c o

/-- The condition of bwait and btest (10 R304): the flip count is F or up to 2^30 - 1 past it. -/
def flipped (phase F : Nat) : Bool := decide ((((phase / 2 : Nat) : Int) - (F % 2 ^ 31 : Nat)) % (2 ^ 31 : Int) < (2 ^ 30 : Int))

end Sys2Proof.Claims

/-- 05 R128: an arrival of n with status bits st ORs them into STATUS; when EXPECT is 0 or ARRIVED + n reaches it,
ARRIVED becomes 0, the phase bit and the flip count advance, and OVERCOUNT is set if and only if the sum passes EXPECT
or was set; else ARRIVED grows by n. EXPECT never changes. 10 R304: binit writes EXPECT and zeroes the other fields,
barrive makes one arrival after the release fence of the object's scope, for an object in scratch, whose single-bit
errors it corrects, and for one in memory whose check passes; to one in a page in hold it is answered RETRY and waits
(01 R39). The skein's later accesses follow the arrival in memory as its read (04 R119). -/
def Obligations.ObjectArrivalResults : Prop :=
  (∀ (o n st : Nat), o < 2 ^ 128 → st < 2 ^ 32 → n < 2 ^ 32 →
     let x := arriveNat o n st none false
     let all := arrivedOf o + n
     x < 2 ^ 128 ∧ expectOf x = expectOf o ∧
     ((expectOf o = 0 ∨ expectOf o ≤ all) →
       arrivedOf x = 0 ∧ phaseOf x % 2 = 1 - phaseOf o % 2 ∧ phaseOf x / 2 = (phaseOf o / 2 + 1) % 2 ^ 31 ∧
         statusOf x = Nat.lor (Nat.lor (statusOf o) st) (if expectOf o < all then 2 ^ 12 else 0)) ∧
     (expectOf o ≠ 0 → all < expectOf o → arrivedOf x = all ∧ phaseOf x = phaseOf o ∧ statusOf x = Nat.lor (statusOf o) st)) ∧
  (∀ (a b : Nat) (s : State), Passes { stores := true } s →
     (scratchObject s (rdG s.k a).toNat →
       (∃ c, ObjectWritten (rdG s.k a).toNat ((rdG s.k b).toNat % 2 ^ 32) s.crew c ∧ exec (.binit a b 1) s = .next (retire 1 { s with crew := c })) ∧
       (releaseDone 1 s = true → (∀ i < 16, ((rdG s.k a).toNat + i) / 8 ∉ s.crew.winBad) →
         ∃ c w, Corrected s c ∧
           ObjectWritten (rdG s.k a).toNat (arriveNat (winNat s.crew (rdG s.k a).toNat 16) ((rdG s.k b).toNat % 2 ^ 32) 0 none false) s.crew { s.crew with win := w } ∧
           exec (.barrive a b 1) s = .next (retire 1 { c with crew := { c.crew with win := w } }))) ∧
     (∀ u v, checkObj false (rdG s.k a) s = .ok u →
       storeLanes 16 [(0xFF, (rdG s.k a).toNat)] (fun _ => littleEndian 4 ((rdG s.k b).toNat % 2 ^ 32) ++ List.replicate 12 0#8) u = .ok v →
       exec (.binit a b 0) s = .next (retire 1 v)) ∧
     (∀ x u, resolve .atomic false (if flightStage s = 2 then none else some 3) 16 [(0xFF, (rdG s.k a).toNat)] s = .ok ([x], u) →
       badWord s x = none → absentAt x = none → releaseDone (objScope (atKey x)) u = true →
       let v := rmwObject u.k.uid u.crew.uid u.crew.core u.crew.ctx (atKey x)
         (fun o => arriveNat o ((rdG s.k b).toNat % 2 ^ 32) 0 none false) (deliverLine u.k.uid (atKey x / 64) u)
       (heldPage u (atKey x) = true → exec (.barrive a b 0) s = .next (beginWait 0 0 u)) ∧
       (heldPage u (atKey x) = false → (keyDev (atKey x) = none ∨ flightStage u ≠ 0) →
         exec (.barrive a b 0) s = .next (retire 1 { v with k := { v.k with lastRead := max v.k.lastRead (mget 0 v.hm.lineC (atKey x / 64)) } }))))

/-- 10 R304: btest writes 1 if the object's flip count satisfies the condition on F, else 0, and bwait goes on if and
only if it does, else it waits; both raise the acquire floor to the time of the read, and correct single-bit errors
that it meets. 10 R304, R306: btest and bwait on an object in memory read its PHASE at its home; shfence makes a
device-scope release fence and drops the context's record-cache entries for its address, or all of them with g0, on
every core. -/
def Obligations.ObjectWaitResults : Prop :=
  (∀ (d a b : Nat) (s : State), scratchObject s (rdG s.k a).toNat → (∀ i < 4, ((rdG s.k a).toNat + 8 + i) / 8 ∉ s.crew.winBad) →
     let p := phaseOf (winNat s.crew (rdG s.k a).toNat 16)
     let F := (rdG s.k b).toNat
     ∃ c, Corrected s c ∧
     let seen := { c with k := { s.k with lastRead := max s.k.lastRead s.gtime, floor := max s.k.floor s.gtime } }
     (Passes {} s → ∃ g, exec (.btest d a b 1) s = .next (retire 1 { seen with k := { seen.k with g := g } }) ∧
       UniformWritten d (if flipped p F then 1 else 0) s.k { s.k with g := g }) ∧
     (Passes plainControl s → flipped p F = true → exec (.bwait a b 1) s = .next (retire 1 seen)) ∧
     (Passes plainControl s → flipped p F = false → exec (.bwait a b 1) s = .next (beginWait 5 0 seen))) ∧
  (∀ (d a b : Nat) (s : State),
     (∀ p u, Passes {} s → readPhase false (rdG s.k a) s = .ok (p, u) →
       exec (.btest d a b 0) s = .next (retire 1 { u with k := wrG d (if flipped p (rdG s.k b).toNat then 1#64 else 0#64) u.k })) ∧
     (∀ p u, Passes plainControl s → readPhase false (rdG s.k a) s = .ok (p, u) → flipped p (rdG s.k b).toNat = true →
       exec (.bwait a b 0) s = .next (retire 1 u)) ∧
     (Passes {} s → releaseDone 3 s = true →
       ∃ c, exec (.shfence a) s = .next (retire 1 { s with en := { s.en with cache := c } }) ∧
         ∀ x, x ∈ c ↔ x ∈ s.en.cache ∧ ¬ (x.ctx = s.crew.ctx ∧ (a = 0 ∨ x.addr = (rdG s.k a).toNat))))

/-! ### Traps raised by instruction, the handler's end, launches and the table slots -/

/-- 08 R250, 16 R411, R412: trap and brk take codes 0x12 and 0x13 with their number as INFO0 and epc past the
instruction; nop does nothing; halt stops every skein of its crew and reports it, in a privileged context; eret
outside a handler is illegal with cause 0x09. 16 R418: eret in a handler gives back the melded region and the bracket
held aside, clears FREC, and stands the lanes that are still live where they stood, the trapping entry's at epc; an
entry that was parked is no longer, if epc moved it. -/
def Obligations.SystemGroupCompletes : Prop :=
  (∀ (c : Nat) (s : State),
     (Passes {} s →
       exec .nop s = .next (retire 1 s) ∧
       exec (.trap c) s = .next (takeTrap false { code := 0x12, info0 := nat64 c, after := true } { s with k := { s.k with meld := meldOn 1 s.k.meld } }) ∧
       exec (.brk c) s = .next (takeTrap false { code := 0x13, info0 := nat64 c, after := true } { s with k := { s.k with meld := meldOn 1 s.k.meld } })) ∧
     (isPriv s = true → Passes {} s →
       ∃ t, exec .halt s = .next t ∧ t.crew = { s.crew with halted := true } ∧ t.k = (retire 1 s).k ∧ t.hm = s.hm ∧
         t.fab.out = s.fab.out ++ [.halted (s.crew.core + 2048 * s.crew.slot) s.crew.ctx]) ∧
     (s.k.handler = false → exec .eret s = .next (takeTrap false { code := 1, cause := 9 } s)) ∧
     (isPriv s = false → exec .halt s = .next (takeTrap false { code := 2, cause := 1 } s))) ∧
  (∀ (h : Held) (x : Entry) (l : List Entry) (s : State), s.k.handler = true → s.k.held = some h → h.frontier = x :: l →
     Passes { full := true } s →
     ∃ t, exec .eret s = .next t ∧ t.k.handler = false ∧ t.k.frec = 0#64 ∧ t.k.held = none ∧ t.k.meld = h.meld ∧ t.k.bracket = h.bracket ∧
       (x.pc ≠ s.k.epc → (∀ y ∈ l, y.parked = false) → ∀ e ∈ t.k.e :: t.k.rest, e.parked = false) ∧ t.k.wait = none ∧ t.k.v = s.k.v ∧ t.k.g = s.k.g ∧ t.k.p = s.k.p ∧ t.k.fmode = s.k.fmode ∧ t.k.epc = s.k.epc ∧ t.hm = s.hm ∧ t.crew = s.crew ∧
       ∀ L pc, L < 32 → (Stands t.k L pc ↔
         laneOn (liveMask s.k) L = true ∧ ((laneOn x.mask L = true ∧ pc = s.k.epc) ∨ StandsIn l L pc)))

/-- 08 R251, R252, 15 R398: launch and launch.wait on a readable, aligned record append it to an open queue that lets the
context enqueue and has room, and write 0; when the ring is full launch writes 1 and launch.wait waits on the queue; both write 2 when
the queue is not open or not for this context, launch.wait also when the queue closed while it waited (R397). By the model's choice an
append that would come out of its place among those of one clock is put off to the next (log entry 101). lwait goes on when no launch of
the crew is left, and waits before. -/
def Obligations.LaunchCompletes : Prop :=
  ∀ (a b c : Nat) (s : State), Passes {} s →
    (s.crew.children = 0 → exec .lwait s = .next (retire 1 s)) ∧ (s.crew.children ≠ 0 → exec .lwait s = .next (beginWait 6 0 s)) ∧
    ∀ (u : State) (r : List Loaded), releaseDone 3 s = true → (rdG s.k c).toNat % 64 = 0 →
    loadLanes false false 1 256 [(0xFF, (rdG s.k c).toNat)] s = .ok (r, u) →
    let n := (rdG s.k b).toNat
    let out := fun (x : Word64) (t : State) => retire 1 { t with k := wrG a x t.k }
    (∀ q, n < 16384 → openQueue u n = some q → mayEnqueue q u.crew.ctx = true → ringFull q = false → mayAppend q.n (launchKey u) u = true →
      exec (.launch a b c) s = .next (dropWaiter s.k.uid (out 0#64 (appendRecord q (laneBytes r 0xFF) (some u.crew.uid) (launchKey u) u))) ∧
      (waiterAhead u q.n s.k.uid = false → s.k.uid ∉ u.sch.denied →
        exec (.launchWait a b c) s = .next (dropWaiter s.k.uid (out 0#64 (appendRecord q (laneBytes r 0xFF) (some u.crew.uid) (launchKey u) u))))) ∧
    (∀ q, n < 16384 → openQueue u n = some q → mayEnqueue q u.crew.ctx = true → s.k.uid ∉ u.sch.denied →
      (ringFull q = true ∨ waiterAhead u q.n s.k.uid = true ∨ mayAppend q.n (launchKey u) u = false) →
      exec (.launchWait a b c) s = .next (beginWait 7 0 (addWaiter q.n s.k.uid u))) ∧
    (∀ q, n < 16384 → openQueue u n = some q → mayEnqueue q u.crew.ctx = true → ringFull q = false → mayAppend q.n (launchKey u) u = false →
      exec (.launch a b c) s = .next (beginWait 0 0 u)) ∧
    (∀ q, n < 16384 → openQueue u n = some q → mayEnqueue q u.crew.ctx = true → ringFull q = true →
      exec (.launch a b c) s = .next (out 1#64 u)) ∧
    (s.k.uid ∈ u.sch.denied → exec (.launchWait a b c) s = .next (dropWaiter s.k.uid (out 2#64 u))) ∧
    ((16384 ≤ n ∨ openQueue u n = none ∨ ∃ q, openQueue u n = some q ∧ mayEnqueue q u.crew.ctx = false) →
      exec (.launch a b c) s = .next (dropWaiter s.k.uid (out 2#64 u)) ∧ exec (.launchWait a b c) s = .next (dropWaiter s.k.uid (out 2#64 u)))

/-- 09 R272 to R275: sfload in a privileged context installs a valid table that it can read, in the slot it names. -/
def Obligations.TableLoadCompletes : Prop :=
  ∀ (a n : Nat) (h t : List Byte) (s u w : State), Passes { priv := 1 } s → (rdG s.k a).toNat % 64 = 0 → loadOne 64 (rdG s.k a).toNat s = .ok (h, u) →
    leAt h 4 1 ∈ [1, 2, 4, 8, 16, 32, 64] → loadOne (64 + 32 * leAt h 4 1) (rdG s.k a).toNat u = .ok (t, w) → slotBad t = none →
    ∃ m, exec (.sfload a n) s = .next (retire 1 { w with en := { w.en with slots := m } }) ∧
      ∀ j, mget [] m j = if j = n then t else mget [] w.en.slots j

namespace Sys2Proof.Claims

/-! ### Asynchronous operations as they start -/

/-- What an instruction that starts an operation leaves: the operation, with a number of its own and nothing done yet, stands
after those outstanding; its issuer goes on to the next word (05 R136, R137). -/
def started (o : Op) (u : State) : State :=
  retire 1 { u with ids := u.ids + 1, en := { u.en with ops := u.en.ops ++ [o] } }

/-- Who issued an operation and under which modes, its number, and that it is at its beginning. -/
def Fresh (kind : OpKind) (obj : Obj) (u : State) (o : Op) : Prop :=
  o.id = u.ids + 1 ∧ o.uid = u.k.uid ∧ o.cuid = u.crew.uid ∧ o.core = u.crew.core ∧ o.slot = u.crew.slot ∧ o.ctx = u.crew.ctx ∧
    o.sid = u.k.sid ∧ o.fmode = u.k.fmode ∧ o.kind = kind ∧ o.obj = obj ∧ o.performed = false ∧ o.started = false ∧ o.due = 0 ∧ o.wrote = []

/-- A copy's checks: an even parameter register, no melded region, the full skein (10 R292). -/
def copyReq (c : Nat) : Req := { even := [c], noMeld := true, full := true }

/-- A copy mode: its number, the parameter words it accepts, what it captures at issue, whether it names crews of a cluster. -/
structure CopyMode where
  mode : Nat
  fields : Nat × Nat × Nat × Nat
  ok : CpyIn → Bool
  capture : CpyIn → State → Res (Capture × State)
  cluster : Bool

/-- 10 R292, R295 to R303: the modes with the parameter words they accept. -/
def copyMode : Instr → Option CopyMode
  | .cpyLin a b c o => some ⟨0, (a, b, c, o), fun i => decide (i.p < 2 ^ 34) && decide (i.p % 2 ^ 32 ≠ 0), linIssue, false⟩
  | .cpyShape a b c o => some ⟨1, (a, b, c, o), fun i => coMask i.p 1, shapeIssue, false⟩
  | .cpyGather a b c o => some ⟨2, (a, b, c, o), fun _ => true, gsIssue false, false⟩
  | .cpyScatter a b c o => some ⟨3, (a, b, c, o), fun _ => true, gsIssue true, false⟩
  | .cpyMcast a b c o => some ⟨4, (a, b, c, o), fun i => i.scr && decide (nb i.p 47 32 = 0) && decide (i.p % 2 ^ 32 ≠ 0), mcastIssue, true⟩
  | .cpyRadd a b c o => some ⟨5, (a, b, c, o), raddOk, raddIssue, true⟩
  | .cpyDec a b c o => some ⟨6, (a, b, c, o), fun i =>
      decide (i.p % 2 ^ 16 = 0) && decide (nb i.p 31 16 % 4 = 0) && inRange 1 (2 ^ 18) (nb i.p 63 32) && decide (i.d2 % 64 = 0), decIssue, false⟩
  | .cpyDeq a b c o => some ⟨7, (a, b, c, o), fun i => coMask i.p 0, deqIssue, false⟩
  | .cpyPack a b c o => some ⟨8, (a, b, c, o), fun i => packOk i.p 25 && decide (nb i.p 63 40 ≠ 0) && decide (i.d1 % 16 = 0), packIssue, false⟩
  | .cpyUnpack a b c o => some ⟨9, (a, b, c, o), fun i => packOk i.p 25 && decide (nb i.p 63 40 = 0) && decide (i.d2 % 16 = 0), unpackIssue, false⟩
  | .cpyPut a b c o => some ⟨10, (a, b, c, o), fun i => decide (i.p < 2 ^ 33) && decide (i.p % 2 ^ 32 ≠ 0), linIssue, false⟩
  | .cpyGet a b c o => some ⟨11, (a, b, c, o), fun i => decide (i.p < 2 ^ 34) && !i.p.testBit 32 && decide (i.p % 2 ^ 32 ≠ 0), linIssue, false⟩
  | .cpySig a b c o => some ⟨12, (a, b, c, o), fun i => coMask i.p 0, sigIssue, false⟩
  | _ => none

/-- The registers that a copy reads (10 R292). -/
def copyIn (m : CopyMode) (k : Skein) : CpyIn :=
  ⟨(rdG k m.fields.1).toNat, (rdG k m.fields.2.1).toNat, (rdG k m.fields.2.2.1).toNat, rdG k (m.fields.2.2.1 + 1), decide (m.fields.2.2.2 = 1)⟩

end Sys2Proof.Claims

/-- 10 R292 to R303, 05 R136: a copy of any mode whose parameter word, object and ranges pass starts one operation of
its mode on its object, with the two addresses, the parameter word and what it captured, and the skein goes on; more
than 254 copies outstanding hold it back. 10 R292, 07 R211: a copy with an illegal parameter word or no object takes
the illegal-instruction trap with cause 0x0B, and the cluster modes without a level of cluster domain that trap with
cause 0x05. -/
def Obligations.CopyOperations : Prop :=
  (∀ (i : Instr) (m : CopyMode) (q : Capture) (s u w : State), i.wf = true → copyMode i = some m →
     (m.cluster = true → clusterLevel s.crew.lrec ≠ none) → Passes (copyReq m.fields.2.2.1) s →
     let x := copyIn m s.k
     m.ok x = true → (x.scr = false → x.x ≠ 0#64) → checkObj x.scr x.x s = .ok u → m.capture x u = .ok (q, w) →
     (copyCount w < 255 →
       ∃ o, exec i s = .next (started o w) ∧ Fresh (.cpy m.mode) (if q.noObj then .none else objOf x.scr x.x) w o ∧
         o.args = [nat64 x.d1, nat64 x.d2, nat64 x.p] ∧ o.count = q.count ∧ o.recs = q.recs ∧ o.index = q.index ∧ o.targets = q.targets ∧
         o.status = q.st) ∧
     (255 ≤ copyCount w → exec i s = .next (beginWait 0 0 w))) ∧
  (∀ (i : Instr) (m : CopyMode) (s : State), i.wf = true → copyMode i = some m →
     (m.cluster = true → m.fields.2.2.1 % 2 = 0 → clusterLevel s.crew.lrec = none →
       exec i s = .next (takeTrap false { code := 1, cause := 5 } s)) ∧
     ((m.cluster = true → clusterLevel s.crew.lrec ≠ none) → Passes (copyReq m.fields.2.2.1) s →
       (m.ok (copyIn m s.k) = false ∨ ((copyIn m s.k).scr = false ∧ (copyIn m s.k).x = 0#64)) →
       exec i s = .next (takeTrap false { code := 1, cause := 0x0B } s)))

namespace Sys2Proof.Claims

/-! ### Tile maps, matrix products and accumulators -/

def tilesReq (ts : List Nat) (ev : List Nat) : Req := { tiles := ts, even := ev, noMeld := true, full := true }

end Sys2Proof.Claims

namespace Sys2Proof.Claims

/-- The latch that the crew's cmma enters: of its launch, its instance of the cluster level and its issue number (11 R322). -/
def clusterLatchOf (lv : Nat) (s : State) : ClusterLatch → Bool := fun x =>
  decide (x.launch = s.crew.launch) && decide (x.inst = instanceOf s.crew.lrec lv s.crew.t) &&
    decide (x.issue = clusterIssue s (instanceOf s.crew.lrec lv s.crew.t))

/-- A cmma as its crew enters it. -/
def clusterEntry (q : Op) : Op := { q with members := [q.uid] }

end Sys2Proof.Claims

/-- 11 R308 to R310: tmap writes a legal map, whose banks lie in the window's quarters, to its T register and no
other. 11 R311 to R325: mma and mmas of a skein without a gang, accz, accin, accmov and accout start their operation
on the tiles and handles that they captured and go on; a handle that accz or accin installs stands in its A register.
11 R321, R322: a crew's cmma that passes its checks enters the cluster latch of its issue; as the sixteenth of one
kind, no member with a trap to take first (16 R413), it starts the sixteen operations and every member goes on; the
first, and the second to the fifteenth, wait at the latch; without a level of sixteen crews of a cluster, crew i on
its core i, it is illegal with cause 0x05. -/
def Obligations.TileOperations : Prop :=
  (∀ (t g : Nat) (s : State), Passes (tilesReq [t] [g]) s →
     let w : Word128 := rdG s.k (g + 1) ++ rdG s.k g
     mapBad w = false → mapOver (mapOf w) (4096 * (nb s.crew.lrec.alloc 6 0 / 4)) = none →
     ∃ m, exec (.tmap t g) s = .next (retire 1 { s with k := { s.k with t := m } }) ∧
       ∀ n, rdT { s.k with t := m } n = if n = t then w else rdT s.k n) ∧
  (∀ (a t u g o z : Nat) (s w : State),
     (∀ q, Passes (tilesReq [t, u] []) s → nb s.k.gang.toNat 38 36 < 2 →
       (captureProd .mma false (decide (o = 1)) a t u g s = .ok (q, w) → tileCount w < 255 →
         exec (.mma a t u g o) s = .next (releaseSkeins false [q.uid] (enqueueOp { q with members := [q.uid] } w))) ∧
       (captureProd .mmas (decide (z = 1)) (decide (o = 1)) a t u g s = .ok (q, w) → tileCount w < 255 →
         exec (.mmas a t u g z o) s = .next (releaseSkeins false [q.uid] (enqueueOp { q with members := [q.uid] } w)))) ∧
     (∀ h, Passes (tilesReq [] []) s → tileCount s < 255 → installHandle a g s = .ok (h, w) → tileCount w < 255 →
       ∃ x, exec (.accz a g) s = .next (started x w) ∧ Fresh .accz .none w x ∧ x.handles = [h] ∧
         x.index = [if g ≠ 0 ∧ (accOf h).keep = true then 1 else 0]) ∧
     (∀ h, Passes (tilesReq [t] []) s → tileCount s < 255 → installHandle a g s = .ok (h, w) → tileCount w < 255 →
       (mapOf (rdT s.k t)).rows = (accOf h).rows → (mapOf (rdT s.k t)).cols = (accOf h).cols → accinFmt (accOf h).int (mapOf (rdT s.k t)).fmt = true →
       ∃ x, exec (.accin a t g) s = .next (started x w) ∧ Fresh .accin .none w x ∧ x.handles = [h] ∧ x.tiles = [rdT s.k t]) ∧
     (Passes (tilesReq [] []) s → tileCount s < 255 → (accOf (rdA s.k a)).valid = true → (accOf (rdA s.k t)).valid = true →
       (accOf (rdA s.k a)).rows = (accOf (rdA s.k t)).rows → (accOf (rdA s.k a)).cols = (accOf (rdA s.k t)).cols →
       (accOf (rdA s.k a)).int = (accOf (rdA s.k t)).int →
       ∃ x, exec (.accmov a t) s = .next (started x s) ∧ Fresh .accmov .none s x ∧ x.handles = [rdA s.k a, rdA s.k t]) ∧
     (∀ e obj v, Passes (tilesReq [t] [g]) s → (accOf (rdA s.k a)).valid = true → (mapOf (rdT s.k t)).rows = (accOf (rdA s.k a)).rows →
       (mapOf (rdT s.k t)).cols = (accOf (rdA s.k a)).cols → accoutFmt (mapOf (rdT s.k t)).fmt = true → (mapOf (rdT s.k t)).block = 0 →
       fetchEpi (rdG s.k (g + 1)).toNat (accOf (rdA s.k a)).cols s = .ok (e, v) → tileObj (decide (o = 1)) (rdG s.k g) v = .ok (obj, w) →
       tileCount w < 255 →
       ∃ x, exec (.accout a t g o) s = .next (started x w) ∧ Fresh .accout obj w x ∧ x.tiles = [rdT s.k t] ∧ x.handles = [rdA s.k a] ∧ x.recs = [e] ∧
         x.count = (mapOf (rdT s.k t)).rows * (mapOf (rdT s.k t)).cols * (mapOf (rdT s.k t)).bits / 8)) ∧
  (∀ (a t u g : Nat) (s : State),
     (cluster16 s = none → chkRegs { tiles := [t, u] } s.k = none →
       exec (.cmma a t u g) s = .next (takeTrap false { code := 1, cause := 5 } s)) ∧
     ∀ lv q w, cluster16 s = some lv → cluster16 w = some lv → Passes (tilesReq [t, u] []) s → inCluster s s.k.uid = false →
       nb s.k.gang.toNat 38 36 < 2 → captureProd .cmma false true a t u g s = .ok (q, w) → tileCount w < 255 →
       let me := clusterEntry q
       let mine := clusterLatchOf lv w
       (∀ l, w.en.clatches.find? mine = some l → l.entered.length = 15 → sameIssue me me = true → (∀ x ∈ l.entered, sameIssue x.2 me = true) →
         (∀ x ∈ l.entered ++ [(w.crew.t % 16, me)], ∀ m ∈ x.2.members,
           trapDue { w with en := { w.en with clatches := (w.en.clatches.filter fun y => !mine y) ++ [{ l with entered := l.entered ++ [(w.crew.t % 16, me)] }] } } m = false) →
         exec (.cmma a t u g) s = .next (fireCluster { l with entered := l.entered ++ [(w.crew.t % 16, me)] }
           { w with en := { w.en with clatches := (w.en.clatches.filter fun y => !mine y) ++ [{ l with entered := l.entered ++ [(w.crew.t % 16, me)] }] } })) ∧
       (∀ l, w.en.clatches.find? mine = some l → l.entered.length ≠ 15 →
         exec (.cmma a t u g) s = .next (beginWait 4 2
           { w with en := { w.en with clatches := (w.en.clatches.filter fun y => !mine y) ++ [{ l with entered := l.entered ++ [(w.crew.t % 16, me)] }] } })) ∧
       (w.en.clatches.find? mine = none →
         ∃ l, l.entered = [(w.crew.t % 16, me)] ∧ mine l = true ∧
           exec (.cmma a t u g) s = .next (beginWait 4 2 { w with en := { w.en with clatches := (w.en.clatches.filter fun y => !mine y) ++ [l] } })))

namespace Sys2Proof.Claims

/-! ### The field, grid and raster engines -/

/-- The mode number of a row operation with its operands (09 R276). -/
def rowForm : Instr → Option (Nat × Nat × Nat × Nat × Nat)
  | .trowSum a b c o => some (0, a, b, c, o)
  | .trowMax a b c o => some (1, a, b, c, o)
  | .trowSmax a b c o => some (2, a, b, c, o)
  | .trowNorm a b c o => some (3, a, b, c, o)
  | _ => none

/-- The checks of an engine's instruction that names even registers. -/
def evens (l : List Nat) : Req := { even := l, noMeld := true, full := true }

/-- An engine's instruction as it starts its operation: the register of the object, and what it captured. -/
def Starts (i : Instr) (kind : OpKind) (obj : Obj) (s w : State) (args : List Word64) (recs : List (List Byte)) (count : Nat) (index : List Nat) : Prop :=
  ∃ o, exec i s = .next (started o w) ∧ Fresh kind obj w o ∧ o.args = args ∧ o.recs = recs ∧ o.count = count ∧ o.index = index

/-- The crew holds fewer than eight of the operations that may last (16 R422). -/
def roomForLong (w : State) : Prop := copyCount w < 255 ∧ (w.en.ops.filter fun o => decide (o.cuid = w.crew.uid) && isLong o.kind).length < 8

/-- The lanes that a ray instruction serves: those of the entry with their bit in the predicate that G[m] selects (14 R381). -/
def servedLanes (m : Nat) (k : Skein) : List Nat := (List.range 32).filter fun L => laneOn k.e.mask L && laneOn (rdP k (rdG k m).toNat) L

/-- Word `j` of a lane's register block at 2·k. -/
def word (k : Skein) (b j L : Nat) : Nat := (getV k.v (2 * b + j) L).toNat

/-- The blocks after a write of `n` words from word `j` on in the lanes `ls`. -/
def BlocksWritten (b j n : Nat) (ls : List Nat) (f : Nat → List Nat) (v v' : SMap Word32) : Prop :=
  ∀ m L, L < 32 → getV v' m L = if L ∈ ls ∧ 2 * b + j ≤ m ∧ m < 2 * b + j + n then nat32 ((f L).getD (m - 2 * b - j) 0) else getV v m L

/-- Where a ray's record lies: words 8 and 9 of its block (14 R381). -/
def rayRecords (b : Nat) (ls : List Nat) (k : Skein) : List (Nat × Nat) := ls.map fun L => (L, word k b 8 L + 2 ^ 32 * word k b 9 L)
def rayWords (b L : Nat) (k : Skein) : List Nat := (List.range 8).map fun j => word k b j L

end Sys2Proof.Claims

/-- 12 R350 to R352: march and march.iv of a legal program start with the lanes of their predicate and the words of their
blocks captured, and count 16 bytes a lane; mresume takes the launching records of KIND 3 of its lanes. -/
def Obligations.MarchesStart : Prop :=
  ∀ (k p q o : Nat) (obj : Obj) (s u w : State), Passes { blocks := [(2 * k, 16)], even := [p, q], noMeld := true, full := true } s →
    let par := (rdG s.k q).toNat
    let cont := rdG s.k (p + 1)
    let act := s.k.e.mask &&& rdP s.k (nb par 10 8)
    (cont ≠ 0#64 → hasBaskets s.crew = true ∧ 16 ≤ (basketRole s.crew).regs) → tileObj (decide (o = 1)) (rdG s.k (q + 1)) s = .ok (obj, u) →
    roomForLong w →
    (∀ r, paramBad false par cont = false → capture (par.testBit 0) (rdG s.k p).toNat u = .ok (r, w) →
      (∀ iv i, (i = if iv then Instr.marchIv k p q o else Instr.march k p q o) →
        ∃ x, exec i s = .next (started x w) ∧ Fresh (.march iv) obj w x ∧ x.args = [nat64 par, cont, nat64 (2 * k), rdG s.k p] ∧ x.recs = r ∧
          x.lanes = act ∧ x.count = 16 * (lanesOf act).length ∧
          ∀ j L, j < 12 → L < 32 → mget 0#32 x.lane (32 * j + L) = if laneOn act L = true then getV s.k.v (2 * k + j) L else 0#32)) ∧
    (∀ bs ix, paramBad true par cont = false → ((lanesOf act).filterMap (kind3Of s)).length = (lanesOf act).length →
      captureAll ((lanesOf act).filterMap (kind3Of s)) u = .ok (bs, ix, w) →
      ∃ x, exec (.mresume k p q o) s = .next (started x w) ∧ Fresh .mresume obj w x ∧ x.args = [nat64 par, cont, nat64 (2 * k)] ∧ x.recs = bs ∧
        x.index = ix ∧ x.lanes = act ∧ x.count = 16 * (lanesOf act).length)

/-- 09 R276, R277: a row operation whose parameters, ranges and object pass starts on its object with its three
registers, and counts the bytes of its result: 16 a row for sums and maxima, the row's length in the destination
format otherwise. 12 R356, 13 R369, R372, 14 R387, R388: fprep, nbin, npairs and draw whose operands and records pass
start their operation with the records that they captured. -/
def Obligations.EngineOperationsStart : Prop :=
  (∀ (i : Instr) (mode a b c o : Nat) (obj : Obj) (s w : State), i.wf = true → rowForm i = some (mode, a, b, c, o) →
     Passes { even := [c], full := true } s →
     let x := rowPar (rdG s.k a).toNat (rdG s.k b).toNat (rdG s.k c).toNat
     rowOk mode (rdG s.k c).toNat x = true → (∀ r ∈ rowRanges mode x, scrBad (4096 * nb s.crew.lrec.alloc 6 0) r.1 r.2 = none) →
     tileObj (decide (o = 1)) (rdG s.k (c + 1)) s = .ok (obj, w) → tileCount w < 255 →
     Starts i (.trow mode) obj s w [rdG s.k a, rdG s.k b, rdG s.k c] [] (x.rows * (if mode ≤ 1 then 16 else x.n * rowSize x.dfmt)) []) ∧
  (∀ (a b c o : Nat) (obj : Obj) (s u w : State),
     (∀ tile r s', Passes (evens [b, c]) s →
       let p := (rdG s.k c).toNat
       nb p 63 48 = 0 → nb p 31 0 = 0 → 3 ≤ nb p 47 32 → nb p 47 32 ≤ 256 → (rdG s.k a).toNat % 16 = 0 → (rdG s.k (b + 1)).toNat % 16 = 0 →
       (rdG s.k a).toNat + 16 * nb p 47 32 ≤ 4096 * nb s.crew.lrec.alloc 6 0 → winRead (rdG s.k (b + 1)).toNat 32 s = .ok (tile, s') → tileBad tile = false →
       tileObj (decide (o = 1)) (rdG s.k (c + 1)) s' = .ok (obj, u) → capture false (rdG s.k b).toNat u = .ok (r, w) → copyCount w < 255 →
       Starts (.fprep a b c o) .fprep obj s w [rdG s.k a, rdG s.k b, nat64 (16 * nb p 47 32)] (tile :: r) (16 * nb p 47 32) []) ∧
     (∀ r, Passes (evens [c]) s →
       let n := (rdG s.k c).toNat
       let g := gridOf (rdG s.k a).toNat r
       1 ≤ n → n ≤ 2 ^ 24 → tileObj (decide (o = 1)) (rdG s.k (c + 1)) s = .ok (obj, u) → fetchGrid (rdG s.k a).toNat (some n) false u = .ok (r, w) →
       chkArray (rdG s.k b).toNat n w = .ok () →
       chkMerges w.crew [(g.cells, g.count * g.es), (g.spill, 8 * g.spillcap), (g.pos, 16 * n), ((rdG s.k a).toNat, 128)] = .ok () → copyCount w < 255 →
       Starts (.nbin a b c o) .nbin obj s w [rdG s.k a, rdG s.k b, nat64 n] [r] (16 * n) []) ∧
     (∀ r, Passes (evens [b, c]) s →
       let x := (rdG s.k (b + 1)).toNat
       let p := (rdG s.k c).toNat
       let g := gridOf (rdG s.k a).toNat r
       let last := if nb x 61 32 = 0 then g.count else nb x 29 0 + nb x 61 32
       nb x 63 62 = 0 → nb x 31 30 = 0 → nb p 47 44 = 0 → nb p 31 0 = 0 → engObj false (decide (o = 1)) (rdG s.k (c + 1)) s = .ok (obj, u) →
       fetchGrid (rdG s.k a).toNat none true u = .ok (r, w) → chkArray (rdG s.k b).toNat g.npart w = .ok () → chkMerge w.crew ((rdG s.k a).toNat + 80) 20 = .ok () →
       16 * nb p 63 48 + 16 * (nb p 43 32 + 1) ≤ 4096 * nb w.crew.lrec.alloc 6 0 → nb x 29 0 < g.count → last ≤ g.count → roomForLong w →
       Starts (.npairs a b c o) .npairs obj s w [rdG s.k a, rdG s.k b] [r] 0 [nb x 29 0, last, 16 * nb p 63 48, nb p 43 32 + 1]) ∧
     (∀ r, Passes (evens []) s →
       let x := drawOf r
       let t := (rdG s.k b).toNat
       engObj false (decide (o = 1)) (rdG s.k c) s = .ok (obj, u) → (rdG s.k a).toNat % 64 = 0 → loadOne 64 (rdG s.k a).toNat u = .ok (r, w) →
       drawBad r = none → nb t 47 16 = 0 → 32 * nb t 7 0 < x.vieww → 32 * nb t 15 8 < x.viewh → 16 * nb t 63 48 + 4096 ≤ 4096 * nb w.crew.lrec.alloc 6 0 →
       hasBaskets w.crew = true → 8 ≤ (basketRole w.crew).regs → chkGlob x.verts (48 * x.ntri) w = .ok () → roomForLong w →
       Starts (.draw a b c o) .draw obj s w [rdG s.k a, rdG s.k b] [r] (16 * x.ntri) []))

/-- 14 R381 to R383: boxt and trit write the result of each served lane's ray against its record to its
block from word 10 on, five words and six, and to no other register. -/
def Obligations.RayTestResults : Prop :=
  ∀ (k m : Nat) (s u : State) (r : List Loaded), Passes { blocks := [(2 * k, 16)] } s → (rdG s.k m).toNat < 8 →
    let ls := servedLanes m s.k
    (loadNodes 128 128 (rayRecords k ls s.k) s = .ok (r, u) →
      ∃ v, exec (.boxt k m) s = .next (retire 1 { u with k := { u.k with v := v } }) ∧
        BlocksWritten k 10 5 ls (fun L => boxResult (rayWords k L s.k) (laneBytes r L)) s.k.v v) ∧
    (loadNodes 48 16 (rayRecords k ls s.k) s = .ok (r, u) →
      ∃ v, exec (.trit k m) s = .next (retire 1 { u with k := { u.k with v := v } }) ∧
        BlocksWritten k 10 6 ls (fun L => triResult (rayWords k L s.k) (laneBytes r L)) s.k.v v)

namespace Sys2Proof.Claims

/-- A short stack: its area, its spill entries a lane, and its spill base (14 R384). -/
def slotAt (x : Stk) (L j : Nat) : Nat := x.area + 128 * L + 8 * (j % 16)
def spillSlot (x : Stk) (L e : Nat) : Nat := (x.spill + 8 * (x.scap * L + e)) % 2 ^ 64

/-- The 8 bytes of a value pushed: words 0 and 1 of the block. -/
def pushed (k : Skein) (b L : Nat) : List Byte := littleEndian 4 (word k b 0 L) ++ littleEndian 4 (word k b 1 L)

/-- Slots in the window, and such without uncorrectable errors. -/
def slotsIn (s : State) (l : List Nat) : Prop := ∀ o ∈ l, o + 8 ≤ 4096 * nb s.crew.lrec.alloc 6 0
def slotsSound (s : State) (l : List Nat) : Prop := ∀ o ∈ l, ∀ i < 8, (o + i) / 8 ∉ s.crew.winBad

end Sys2Proof.Claims

/-- 14 R384: stkpush stores the value of each served lane whose depth D is below 16 + SCAP in slot D mod 16 and counts
it, the slot's old contents going to spill entry D - 16 from D = 16 on; other served lanes read status 2. 14 R384:
stkpop takes the value of each served lane of depth D above 0 from slot (D - 1) mod 16, the slot receiving spill entry
D - 17 from D = 17 on, and no other byte of the window changes; other served lanes keep their words and read status 1. -/
def Obligations.StackResults : Prop :=
  (∀ (b g m : Nat) (x : Stk) (act : Word32) (s u : State), Passes { blocks := [(2 * b, 4)], even := [g], stores := true } s →
     stkOf g m s = .ok (x, act) →
     let D := word s.k b 2
     let ls := (List.range 32).filter (laneOn act)
     let live := ls.filter fun L => decide (D L < 16 + x.scap)
     let deep := live.filter fun L => decide (16 ≤ D L)
     slotsIn s (live.map fun L => slotAt x L (D L)) → slotsSound s (deep.map fun L => slotAt x L (D L)) →
     storeLanes 8 (deep.map fun L => (L, spillSlot x L (D L - 16))) (fun L => (List.range 8).map fun i => winByte s.crew (slotAt x L (D L) + i)) s = .ok u →
     ∃ c v w, Corrected u c ∧ exec (.stkpush b g m) s = .next (retire 1 { c with k := { u.k with v := v }, crew := { c.crew with win := w } }) ∧
       (∀ L ∈ live, ∀ i < 8, mget 0#8 w (slotAt x L (D L) + i) = (pushed s.k b L).getD i 0#8) ∧
       (∀ o, (∀ L ∈ live, o < slotAt x L (D L) ∨ slotAt x L (D L) + 8 ≤ o) → mget 0#8 w o = winByte u.crew o) ∧
       BlocksWritten b 2 2 ls (fun L => if D L < 16 + x.scap then [D L + 1, 0] else [D L, 2]) s.k.v v) ∧
  (∀ (b g m : Nat) (x : Stk) (act : Word32) (r : List Loaded) (s u : State), Passes { blocks := [(2 * b, 4)], even := [g] } s →
     stkOf g m s = .ok (x, act) →
     let D := word s.k b 2
     let ls := (List.range 32).filter (laneOn act)
     let live := ls.filter fun L => decide (D L ≠ 0)
     let deep := live.filter fun L => decide (17 ≤ D L)
     slotsIn s (live.map fun L => slotAt x L (D L - 1)) → slotsSound s (live.map fun L => slotAt x L (D L - 1)) →
     loadLanes false false 0 8 (deep.map fun L => (L, spillSlot x L (D L - 17))) s = .ok (r, u) →
     let top := fun L => winNat s.crew (slotAt x L (D L - 1)) 8
     ∃ c v w, Corrected u c ∧ exec (.stkpop b g m) s = .next (retire 1 { c with k := { u.k with v := v }, crew := { c.crew with win := w } }) ∧
       (∀ L ∈ deep, ∀ i < (laneBytes r L).length, mget 0#8 w (slotAt x L (D L - 1) + i) = (laneBytes r L).getD i 0#8) ∧
       (∀ o, (∀ L ∈ deep, o < slotAt x L (D L - 1) ∨ slotAt x L (D L - 1) + 8 ≤ o) → mget 0#8 w o = winByte u.crew o) ∧
       BlocksWritten b 0 4 ls (fun L => if D L ≠ 0 then [top L % 2 ^ 32, top L / 2 ^ 32, D L - 1, 0] else [word s.k b 0 L, word s.k b 1 L, 0, 1]) s.k.v v)

namespace Sys2Proof.Claims

/-- The pixel of a depth test: x in [4:0] and y in [20:16], other bits zero (14 R385). -/
def pixelOk (p : Nat) : Bool := decide (p / 2 ^ 5 % 2 ^ 11 = 0) && decide (p < 2 ^ 21)
def pixelAt (tile p : Nat) : Nat := tile + 4 * (32 * (p / 2 ^ 16) + p % 32)

/-- The tests of FP32 depths: greater, greater or equal, equal, always; a larger value is nearer, and a NaN fails all but the last (14 R385). -/
def depthPasses (code z d : Nat) : Bool :=
  if code = 0 then fxLt (fdec fp32 d) (fdec fp32 z)
  else if code = 1 then fxLt (fdec fp32 d) (fdec fp32 z) || fxEq (fdec fp32 z) (fdec fp32 d)
  else if code = 2 then fxEq (fdec fp32 z) (fdec fp32 d)
  else true

/-- The depth test of lanes in ascending order on the crew's window: the lanes that pass, and the window after them. -/
def depthRun (tile code : Nat) (wr : Bool) (pix z : Nat → Nat) : List Nat → Crew → List (Nat × Bool) × Crew
  | [], c => ([], c)
  | L :: l, c =>
    let d := depthStep (pixelAt tile (pix L)) code (z L) wr c
    let r := depthRun tile code wr pix z l d.2
    ((L, d.1) :: r.1, r.2)

end Sys2Proof.Claims

/-- 14 R385, R386: depthw tests the served lanes in ascending order, each against the depth that the lanes before it left, and
writes 1 to word 2 of a lane's block if it passes, 0 if it fails and 2 if its pixel is outside the tile; only depths of lanes
that pass change, to their z, and only when WRITE is set. -/
def Obligations.DepthTestResults : Prop :=
  (∀ (b t m : Nat) (s : State), Passes { blocks := [(2 * b, 3)] } s → (rdG s.k m).toNat < 8 → nb (rdG s.k t).toNat 47 19 = 0 →
    let x := (rdG s.k t).toNat
    let tile := 16 * nb x 63 48
    let ls := servedLanes m s.k
    let at_ := ls.filter fun L => pixelOk (word s.k b 0 L)
    tile + 4096 ≤ 4096 * nb s.crew.lrec.alloc 6 0 → (∀ L ∈ at_, pixelAt tile (word s.k b 0 L) / 8 ∉ s.crew.winBad) →
    ∃ c v, Corrected s c ∧
    let r := depthRun tile (nb x 17 16) (x.testBit 18) (word s.k b 0) (word s.k b 1) at_ c.crew
    exec (.depthw b t m) s = .next (retire 1 { c with k := { s.k with v := v }, crew := r.2 }) ∧
      BlocksWritten b 2 1 ls (fun L => [match r.1.find? fun y => decide (y.1 = L) with | some y => if y.2 then 1 else 0 | none => 2]) s.k.v v) ∧
  ∀ (at_ code z : Nat) (wr : Bool) (c : Crew), at_ % 4 = 0 → at_ / 8 ∉ c.winBad → z < 2 ^ 32 →
    let d := depthStep at_ code z wr c
    d.1 = depthPasses code z (winNat c at_ 4) ∧ d.2 = { c with win := d.2.win } ∧
      ∀ o, winByte d.2 o = if depthPasses code z (winNat c at_ 4) = true ∧ wr = true ∧ at_ ≤ o ∧ o < at_ + 4 then BitVec.ofNat 8 (z / 256 ^ (o - at_)) else winByte c o

namespace Sys2Proof.Claims

/-- The coordinates of a lane: registers va on, as FP32 values. -/
def coordinates (k : Skein) (a n L : Nat) : List Fx := (List.range n).map fun j => fdec fp32 (getV k.v (ren k L a + j) L).toNat

/-- The lanes of ACTIVE without a NaN coordinate. -/
def sampledLanes (k : Skein) (g a n : Nat) : List Nat := ((List.range 32).filter (laneOn (active k g))).filter fun L => !(coordinates k a n L).any fxIsNan

end Sys2Proof.Claims

/-- 10 R290: smp through a readable image record writes to V[vd] of the lanes of ACTIVE the rounded interpolation of
the samples at the corners of the coordinate's cell, the NaN code where a coordinate or a sample is not a number. 10
R290, 02 R66, R67: smp.pool through a readable brick pool record writes value and gradient to four registers of each
lane of ACTIVE, fetched lane by lane in ascending order. A lane whose coordinates hold a NaN gets NaNs without a load;
else one whose cell has no brick gets EMPTY and a zero gradient, and any other the interpolation of the eight samples
of its brick, by the partition or by loads. -/
def Obligations.SampleResults : Prop :=
  (∀ (g d a b : Nat) (x : Shape) (vals : List Nat) (s u w : State), Passes (smpReq d a s) s →
     fetchShape (rdG s.k b).toNat s = .ok (x, u) → imageBad x = none → runTrap a x.rank u.k = none →
     let ls := sampledLanes s.k g a x.rank
     let cell := fun L => imageCell x (coordinates s.k a x.rank L)
     loadMany (x.bits / 8) ((ls.map fun L => (cell L).2.map fun p => (L, p.2)).flatten) u = .ok (vals, w) →
     let sample := fun i => vals.drop (2 ^ x.rank * i)
     let corner := fun i L => ((cell L).2.zip (sample i)).map fun p => (p.1.1, fdec (codeFmt x.fmt) p.2)
     ∃ v, exec (.smp g d a b) s = .next (retire 1 { w with k := { w.k with v := v } }) ∧
       LanesWritten (active s.k g) (fun L => ren s.k L d)
         (fun L => match (List.range ls.length).find? fun i => decide (ls.getD i 0 = L) with
           | some i => if (corner i L).all (fun p => finiteFx p.2) then nat32 (roundPos (interp (cell L).1 (corner i L) none)) else 0x7FC00000#32
           | none => 0x7FC00000#32) s.k.v v) ∧
  ((∀ (g d a b : Nat) (rec : List Byte) (res : List (Nat × List Nat)) (s u z : State), Passes (poolReq d a s) s →
     fetchRecord 32 32 brickBad (rdG s.k b).toNat s = .ok (rec, u) →
     poolLanes (rdG s.k b).toNat (brickOf rec) (coordinates u.k a 3) ((List.range 32).filter (laneOn (active s.k g))) u = .ok (res, z) →
     ∃ v, exec (.smpPool g d a b) s = .next (retire 1 { z with k := { z.k with v := v } }) ∧
       RunsWritten (active s.k g) (fun L => ren z.k L d) 4
         (fun L j => match res.find? fun x => decide (x.1 = L) with | some x => nat32 (x.2.getD j 0) | none => 0#32) z.k.v v) ∧
   (∀ (pool : Nat) (p : Brick) (us : Nat → List Fx) (L : Nat) (l : List Nat) (x : List Nat) (r : List (Nat × List Nat)) (s u z : State),
     poolLane pool p L (us L) s = .ok (x, u) → poolLanes pool p us l u = .ok (r, z) → poolLanes pool p us (L :: l) s = .ok ((L, x) :: r, z)) ∧
   ∀ (pool : Nat) (p : Brick) (L n : Nat) (us : List Fx) (vals : List Nat) (s u z : State),
     let c := brickCell p us
     (us.any fxIsNan = true → poolLane pool p L us s = .ok (List.replicate 4 0x7FC00000, s)) ∧
     (us.any fxIsNan = false → loadMany 4 [(L, brickEntry p c.1 % 2 ^ 64)] s = .ok ([n], u) →
       (n = 0xFFFFFFFF → poolLane pool p L us s = .ok ([p.empty, 0, 0, 0], u)) ∧
       (n ≠ 0xFFFFFFFF → brickLoad pool c.1 ((p.bricks + 1024 * n) % 2 ^ 64) L ((corners 3).map fun q => brickSample p n c.2.1 q % 2 ^ 64) u = .ok (vals, z) →
         poolLane pool p L us s = .ok (brickResult c.2.2 ((corners 3).zip (vals.map (fdec fp16))), z))))

/-- 10 R289, 01 R38: pgreq of addresses that are canonical, and in the lower half in an unprivileged context, goes on once no
home it asked has still to answer, with each lane's status code in V[vd]; until then it waits and keeps the codes it has. -/
def Obligations.PageRequestCompletes : Prop :=
  ∀ (x : Option MemPfx) (g d a b : Nat) (r codes : List (Nat × Nat)) (s u : State), (Instr.pgreq x g d a b).wf = true →
    Passes { len := words x, vs := [(d, 1), (a, 1)] } s →
    (∀ p ∈ laneAccesses x s.k g a b 1, canonical p.2 = true ∧ (isPriv s = false → nb p.2 63 55 = 0)) →
    pgLanes (match s.k.wait with | some w => if w.pc = s.k.e.pc ∧ w.kind = 9 then w.codes else [] | none => []) (laneAccesses x s.k g a b 1) s = .ok (r, codes, u) →
    ((∀ o ∈ codes, o.2 ≠ 8) →
      ∃ v, exec (.pgreq x g d a b) s = .next (retire (words x) { u with k := { u.k with v := v } }) ∧
        LanesWritten (active s.k g) (fun L => ren u.k L d)
          (fun L => match r.find? fun o => decide (o.1 = L) with | some o => nat32 o.2 | none => 0#32) u.k.v v) ∧
    ((∃ o ∈ codes, o.2 = 8) → exec (.pgreq x g d a b) s = .next (beginWait 9 1 (pgWait codes u)))

/-- 13 R378: nstat reads the statistic that G[gb] numbers, zero-extended, with an acquire read, into G[gd]. -/
def Obligations.GridStatisticReads : Prop :=
  ∀ (d a b : Nat) (r : List Loaded) (s u : State), Passes {} s → (rdG s.k b).toNat < 7 →
    let at_ := [64, 68, 72, 76, 80, 88, 96].getD (rdG s.k b).toNat 0
    let n := if (rdG s.k b).toNat = 4 ∨ (rdG s.k b).toNat = 5 then 8 else 4
    loadLanes true false 0 8 [(0xFF, ((rdG s.k a).toNat + at_) % 2 ^ 64)] s = .ok (r, u) →
    ∃ g, exec (.nstat d a b) s = .next (retire 1 { u with k := { u.k with g := g } }) ∧
      UniformWritten d (nat64 (ofBytes ((laneBytes r 0xFF).take n))) u.k { u.k with g := g }

namespace Sys2Proof.Claims

/-! ### What happens besides instructions -/

/-- The skein in focus may go on after a wait, or take a trap of its own: no deferred trap comes first, or its atomic has set out for its homes
(16 R413, R420). -/
def mayGo (s : State) : Prop := s.k.pending = [] ∨ s.k.handler = true ∨ onTheWay s.k = true

/-- No hold after a trap entry or a restore keeps the skein, its fault record having its completion time (04 R124, 16 R417). -/
def unheld (s : State) : Prop := s.k.holdOn = none ∧ (s.k.hold = 0 ∨ s.k.hold < s.gtime)

/-- The skein in focus may issue its waiting instruction again: besides, its crew is not halted (08 R250) and no hold keeps it
(04 R124, 16 R417). -/
def resumes (s : State) : Prop := mayGo s ∧ s.crew.halted = false ∧ unheld s

/-- The skein in focus has waited in `kind` for its whole timeout (06 R173, 02 R58). -/
def waitOver (kind : Nat) (s : State) (w : WaitRec) : Prop :=
  mayGo s ∧ s.k.wait = some w ∧ w.kind = kind ∧ w.exp ≠ 0 ∧ w.since + 2 ^ w.exp ≤ s.clocks

/-- `o` is served at its unit: `f` carries out its step, the operation being taken up first where its turn at the unit has come (15 R410). -/
def Served (f : Op → State → State) (o : Op) (s : State) (r : Host.Outcome State Fault Refusal) : Prop :=
  (o.taken = true → r = .next (f o s)) ∧ (o.taken = false → unitTurn o s = true → r = .next (f { o with taken := true } (takeUp o s)))

/-- What a consuming load needs to go ahead (02 R55): its checks, fences and offsets pass, no word it reads is bad, every granule it
touches is full, and no skein of the crew that began to wait earlier for one of them has all that it waits for. -/
def mayConsume (x : MemPfx) (g d a b : Nat) (s : State) : Prop :=
  let l := scratchAccesses (some x) s.k g a b
  let w := scratchWidth (some x)
  Passes { len := 2, vs := [(d, w), (a, 1)] } s ∧ released x.rel x.scope s ∧ inWindow l (4 * w) s ∧ sound l (4 * w) s ∧
    (∀ G, touches l (4 * w) G → isFull s.crew G = true) ∧
    ∀ p ∈ s.peers, ∀ v m, p.wait = some v → v.kind = 2 → s.k.wait = some m → v.order < m.order → (∃ G ∈ v.grans, touches l (4 * w) G) →
      ∃ G ∈ v.grans, isFull s.crew G = false

/-- The skein at a level barrier after it has observed the flip: an acquire fence, a floor no lower than now, and no arrival left
(06 R161 step 3). -/
def observed (l b : Nat) (s : State) : State :=
  { s with k := { s.k with floor := max (max s.k.floor s.k.lastRead) s.gtime,
                           arrivals := s.k.arrivals.filter fun a => !(decide (a.level = l) && decide (a.b = b)) } }

/-- A merge left no trap at the barrier (05 R149, R150). -/
def noMergeTrap (l : Nat) (s : State) : Prop := isMergeLevel s.crew l = false ∨ conflictAt l s = []

/-- The conditions of a pre-emption (16 R421, R422): every crew of the unit has drained, and each has a save slot. -/
def mayLeave (c : Crew) (s : State) : Prop := (∀ x ∈ companions c s, drained s x = true) ∧ slotsFor s (companions c s) [] = true

/-- The outcome is a pre-emption of the crew with those of its unit, saved one after the other (06 R159, 16 R421). A crew that is a unit
by itself is on no core any longer, and is saved whole: its skeins, but for their waits, its window, accumulators and records. -/
def Leaves (c : Crew) (s : State) (o : Host.Outcome State Fault Refusal) : Prop :=
  let t := (companions c s).foldl (fun u x => saveOne u.ids x u) { s with ids := s.ids + 1 }
  o = .next t ∧ ∀ x, companions c s = [x] →
    (∀ y ∈ allCrews t, y.crew.uid ≠ x.crew.uid) ∧
    ∃ r, t.sch.saved = s.sch.saved ++ [r] ∧ r.crewRec.skeins = x.skeins.map (fun k => { k with wait := none, yielded := none }) ∧
      r.crewRec.crew.uid = x.crew.uid ∧ r.crewRec.crew.win = x.crew.win ∧ r.crewRec.crew.fe = x.crew.fe ∧ r.crewRec.crew.acc = x.crew.acc ∧
      r.crewRec.crew.recs = x.crew.recs ∧ r.crewRec.crew.patch = x.crew.patch ∧ r.crewRec.crew.children = x.crew.children

/-- The crew at place `i` of its unit comes back to a core; one that has ended needs no place (16 R425). -/
def comesBack (l : List Saved) (lr : LaunchRec) (i core : Nat) (s : State) : Option State :=
  match l.find? (fun x => decide (x.crewRec.crew.t % unitTasks lr = i)) with
  | some x => addSaved x core s
  | none => some s

/-- The skeins resident at a candidate for a unit: a cluster's, or a core's (15 R404). -/
def loadOf (lr : LaunchRec) (s : State) (p : Nat) : Nat := if (domainTasks lr 3).isSome then clusterLoad s p else coreLoad s p

/-- `t` is the state with a unit at the least-loaded of the `n` candidates that have room, the lowest number among equals (15 R404). -/
def LeastLoaded (f : Nat → Option State) (load : Nat → Nat) (n : Nat) (t : State) : Prop :=
  ∃ p < n, f p = some t ∧ ∀ q < n, (f q).isSome = true → load p < load q ∨ (load p = load q ∧ p ≤ q)

/-- Power-up step `k` fails on `unit`: the part is in the safe state, which MGSTAT shows, and keeps what failed (18 R444). -/
def FailsAt (k : Nat) (unit : Option (Nat × Nat)) (s : State) (o : Host.Outcome State Fault Refusal) : Prop :=
  ∃ t, o = .next t ∧ t.mgt.safe = true ∧ nb (preg t 0x20).toNat 3 0 = 8 ∧ t.mgt.failedStep = k ∧ t.mgt.failedUnit = unit ∧ t.mgt.bring = none ∧
    ∀ i, i ≠ 0x20 → preg t i = preg s i

end Sys2Proof.Claims

/-- 18 R450, 00 R8: a write of a privileged register that starts no command leaves XLTBASE, ERRCNT, PVLPEER and a context's CTXFEST,
CTXLEASE and CTXHAND with the fields of the value that the spec lets software write, and changes no other register. -/
def Obligations.PrivilegedRegisterFields : Prop :=
  ∀ (i : Nat) (x : Word64) (s : State), hasCommand i x = false →
    ∃ p, exec (.registerWrite i x) s = .next { s with preg := p } ∧
      (∀ j, j ≠ i → preg { s with preg := p } j = preg s j) ∧
      (i = 0 → (preg { s with preg := p } 0).toNat = nb x.toNat 47 12 * 2 ^ 12) ∧
      (i = 0x21 → preg { s with preg := p } 0x21 = x) ∧
      (i = 0x19 → (preg { s with preg := p } 0x19).toNat = nb x.toNat 47 13 * 2 ^ 13) ∧
      (∀ c, c < 256 → i = 0x1000 + 8 * c + 5 → (preg { s with preg := p } i).toNat = nb x.toNat 63 2 * 4) ∧
      (∀ c, c < 256 → i = 0x1000 + 8 * c → (preg { s with preg := p } i).toNat = nb x.toNat 4 0) ∧
      (∀ c, c < 256 → i = 0x1000 + 8 * c + 1 → (preg { s with preg := p } i).toNat = min 16384 (max 64 (nb x.toNat 14 0)))

/-- 01 R28, R29, R44, 15 R397, 17 R434, R438, 16 R426: the writes that start a command carry it out: an invalidation, a frame
given to a stack, a queue command, joining and leaving, a kill. XLTINV is done when no store translated under its entries waits for the host
or a page in hold; then no entry, sector, brick or code line that it names is left, and GO reads 0. A join is done when every peer has
acknowledged and SYNCED stands. The model's own choices here: that a stack or a queue record that names no memory stops the machine (log entry
77), that QCTL acts at once (log entry 44), and that the kill of CTXTRAP is an event of its own (log entry 49). -/
def Obligations.CommandEventsComplete : Prop :=
  ∀ (x : Word64) (s : State),
    (x.getLsbD 0 = true →
      (nb x.toNat 7 6 = 0 → exec (.xltinvPage x) s = .next (writeXltinv x s)) ∧
      (nb x.toNat 7 6 = 1 → exec (.xltinvContext x) s = .next (writeXltinv x s)) ∧
      (nb x.toNat 7 6 = 2 → exec (.xltinvAll x) s = .next (writeXltinv x s))) ∧
    (∀ v, s.xl.inv = some v → (∀ st ∈ s.hm.inflight, storeWaits s st = true → invUnder v.toNat s st = false) →
      ∃ t, exec .xltinvComplete s = .next t ∧ t = finishInv v.toNat s ∧ t.xl.inv = none ∧ (preg t 1).getLsbD 0 = false ∧
        (∀ e ∈ t.hm.tlb, invHits v.toNat e.ctx e.base e.size = false) ∧ (∀ e ∈ t.hm.l1, invHits v.toNat e.ctx (16 * e.va16) 16 = false) ∧
        (∀ e ∈ t.hm.code, invHits v.toNat e.ctx (64 * e.line) 64 = false) ∧ ∀ e ∈ t.hm.bricks, invHits v.toNat e.ctx e.va 1024 = false) ∧
    (frmOk s 0 = true → exec (.frmgive64 x) s = .next (giveFrame 0 x s)) ∧ (frmOk s 0 = false → exec (.frmgive64 x) s = .fault .noSuchMemory) ∧
    (frmOk s 1 = true → exec (.frmgive2m x) s = .next (giveFrame 1 x s)) ∧ (frmOk s 1 = false → exec (.frmgive2m x) s = .fault .noSuchMemory) ∧
    (nb x.toNat 17 16 = 2 → exec (.qctlClose x) s = .next (writeQctl x s)) ∧
    (queueOk s (nb x.toNat 13 0) = true →
      (nb x.toNat 17 16 = 1 → exec (.qctlOpen x) s = .next (writeQctl x s)) ∧ (nb x.toNat 17 16 = 3 → exec (.qctlReset x) s = .next (writeQctl x s))) ∧
    (queueOk s (nb x.toNat 13 0) = false →
      (nb x.toNat 17 16 = 1 → exec (.qctlOpen x) s = .fault .noSuchMemory) ∧ (nb x.toNat 17 16 = 3 → exec (.qctlReset x) s = .fault .noSuchMemory)) ∧
    (nb x.toNat 1 0 = 1 → exec (.join x) s = .next (writeFabctl x s)) ∧
    (nb x.toNat 1 0 = 2 → exec (.fabctlLeave x) s = .next (writeFabctl x s)) ∧
    ((preg s 0x1A).getLsbD 2 = true → (preg s 0x1A).getLsbD 5 = true → s.fab.joinWait = [] → exec .joinComplete s = .next (setFabBit 4 true (setFabBit 2 false s))) ∧
    ∀ c, (preg s (ctxReg c 6)).getLsbD 6 = true → exec (.kill c) s = .next (kill c 0xFF s)

/-- 04 R105, R107, R108, R118, 02 R73, 01 R34 to R36, R39, R40, R42, 05 R138, 17 R432: the events at the homes complete, where the home
does not hold the page: a store that is the first of its skein to its line is accepted, and what waits for it, for its completion time, or it
goes out to the host; an aligned atomic of another agent is performed; a home read grants its lease, to this part's L1 or to another part's; a
scrub corrects and counts; parked stores whose page is here are performed, and fail when it has lost its mapping; parked stores and pages of
operations time out; a move goes through its stages, and its frame returns. The model's own choices here: the stop on a stack that names no
memory (log entry 77), the stages of a move as steps (log entry 47), and the numbers from 2,048 on as the L1s of other parts, with whose
CTXLEASE (log entries 98, 113). -/
def Obligations.HomeEventsComplete : Prop :=
  ∀ (n : Nat) (s : State),
    (∀ st, s.hm.inflight.find? (fun y => decide (y.sn = n)) = some st → (∀ y ∈ s.hm.inflight, y.uid = st.uid → y.line = st.line → n ≤ y.sn) →
      heldPage s (64 * st.line) = false →
      (st.remote ≠ some 255 →
        let u := { s with hm := { s.hm with inflight := s.hm.inflight.filter fun y => decide (y.sn ≠ n) } }
        exec (.homeStore n) s = .next (raiseDue st (completion s st.line) (homeAccept st u))) ∧
      (st.remote = some 255 → st.sent = none → exec (.homeStore n) s = .next (sendHostStore st s))) ∧
    (∀ op, op.aop ≤ 12 → (op.w64 = true → op.aop < 10) → n % (if op.w64 then 8 else 4) = 0 → n + (if op.w64 then 8 else 4) ≤ 2 ^ 38 →
      heldPage s n = false → exec (.homeAtomic n op) s = .next (homeAtomicAt n op s).2) ∧
    (∀ ctx va l u, leafFor s (n / 16) ctx va.toNat = .ok (.ok l, u) → l.resid ≠ 2 → l.rd = true → l.cpol % 2 = 0 →
      let key := keyOf l va.toNat / 16
      (n < 2048 → exec (.homeRead n ctx va) s =
        .next (grant (fusedOn s n) (sliceCore (fusedOn s n) n va.toNat) ctx (va.toNat / 16) key (l2Access (l.cpol.testBit 1) (key / 4) u))) ∧
      (2048 ≤ n → l.resid = 0 → exec (.homeRead n ctx va) s = .next (grantFar ctx key (l2Access (l.cpol.testBit 1) (key / 4) s)))) ∧
    exec (.memoryScrub n) s = .next (countUncorr (s.hm.memBad.filter fun w => decide (w / 8 = n)).length (correctLine n s)) ∧
    (∀ p, s.hm.parked.find? (fun q => decide (q.sn = n)) = some p →
      (∀ l, leafAt s p.ctx p.page = some l → l.resid ≠ 2 → exec (.parkedStorePerform n) s = .next (orphanFaults (performPage p.ctx p.page s))) ∧
      (leafAt s p.ctx p.page = none → reqFor s p.ctx p.page = none →
        exec (.parkedStorePerform n) s = .next (orphanFaults (failParked 3 (fun q => decide (q.ctx = p.ctx) && decide (q.page = p.page)) s))) ∧
      (rtexpOf s p.ctx ≠ 0 → p.since + 2 ^ rtexpOf s p.ctx < s.gtime →
        exec (.parkedStoreTimeout n) s = .next (dropIdleReq p.ctx p.page (orphanFaults
          (failParked 4 (fun q => decide (q.sn = n) || (decide (q.ins = p.ins) && decide (q.page = p.page) && decide (q.ctx = p.ctx))) s))))) ∧
    (∀ w, s.xl.waits.find? (fun w => decide (w.id = n)) = some w → rtexpOf s w.ctx ≠ 0 → w.since + 2 ^ rtexpOf s w.ctx ≤ s.gtime →
      exec (.pageRequestTimeout n) s = .next (dropIdleReq w.ctx w.page { s with xl := { s.xl with
        waits := s.xl.waits.filter fun v => decide (v.id ≠ n), failing := s.xl.failing ++ [{ op := w.op, page := w.page, size := w.size, cause := 4 }] } })) ∧
    (∀ m f l ce, s.xl.migs.find? (fun m => decide (m.id = n) && !m.committed) = some m → m.frame = some f → leafAt s m.ctx m.page = some l →
      ctxEntry s m.ctx = .ok (some ce) → l.resid = 0 → l.addr = m.old →
      (m.held = false → m.ver = none →
        exec (.migrationCommit n) s = .next (setMig { m with attempt := m.attempt + 1, ver := some (verNow s m), held := decide (4 ≤ m.attempt) } s)) ∧
      (m.held = false → m.ver ≠ none → exec (.migrationCommit n) s = .next (setMig { m with held := true } s)) ∧
      (m.held = true → (∀ st ∈ s.hm.timed, 64 * st.line < l.addr ∨ l.addr + pageBytes l.size ≤ 64 * st.line) →
        (5 ≤ m.attempt ∨ m.ver = some (verNow s m) → exec (.migrationCommit n) s = .next (commitMove m f l ce.mwexp s)) ∧
        (m.attempt < 5 → m.ver ≠ some (verNow s m) → exec (.migrationCommit n) s = .next (setMig { m with held := false, ver := none } s)))) ∧
    (∀ m, s.xl.migs.find? (fun m => decide (m.id = n) && m.committed) = some m → (∀ d ∈ members s, d ∈ m.acks) → m.lease + 25 < s.gtime → frmCount s m.size < 4096 →
      (frmOk s m.size = true → exec (.frameFree n) s = .next (retryAsked (serveFrames m.size (pushFrame m.size m.old
        { s with xl := { s.xl with migs := s.xl.migs.filter fun q => decide (q.id ≠ n) } })))) ∧
      (frmOk s m.size = false → exec (.frameFree n) s = .fault .noSuchMemory))

/-- 05 R128, R136, R137, R139, 11 R311, 13 R372, R375, 15 R410: an operation that its crew's pre-emption has not stopped, and whose unit has
taken it up or whose turn there it is, is performed by its own event, and then, once what it wrote is past, makes its arrival or, without an
object, ends; the sequencer of a core starts its oldest operation; npairs finds its records, writes one record or arrives for it at a time, and
after the last adds its counters and makes its closing arrival past them. The model's own choices here: that an operation is performed by one
step of its own and arrives by a later one (log entry 7), that an object in memory takes the closing arrival with the additions and one in
scratch once they are past (log entry 114), and how a unit takes turns (log entry 101). -/
def Obligations.OperationEventsComplete : Prop :=
  ∀ (o : Op) (s : State),
    (s.en.ops.find? (fun q => decide (q.id = o.id)) = some o → opStops o s = false →
      (o.obj ≠ .none → (o.performed = false → Served performOp o s (exec (.arrival o.id) s)) ∧
        (opDue o s = true → exec (.arrival o.id) s = .next (finishOp o s))) ∧
      (o.obj = .none → (o.performed = false → Served performOp o s (exec (.asyncOperationEnd o.id) s)) ∧
        (opDue o s = true → exec (.asyncOperationEnd o.id) s = .next (finishOp o s))) ∧
      (o.kind = .npairs → o.count = 0 → Served startPairs o s (exec (.pairRecordEmit o.id) s)) ∧
      (o.kind = .npairs → o.count ≠ 0 → o.started = false →
        (∀ c r, crewOf s o.cuid = some c → o.recs[o.pos + 1]? = some r → exec (.pairRecordEmit o.id) s = .next (writePair o c r s)) ∧
        (o.recs.length ≤ o.pos + 1 →
          (o.performed = false → waitingPages o (endNeeds o) s = [] → objWaits o s = none →
            let r := addCounters o s
            let st := Nat.lor o.status r.2.1
            let u := countErrors r.2.1 r.1
            (∀ a, o.obj = .scr a → exec (.npairsClosingArrival o.id) s = .next (setOp { o with performed := true, due := r.2.2, status := st } u)) ∧
            (∀ a, o.obj = .va a → exec (.npairsClosingArrival o.id) s =
              .next (dropOp o.id (arriveVa o.ctx a 0 (Nat.lor st (2 ^ 13)) none true (objectAfter o (r.2.2 + 1) u)))) ∧
            (o.obj = .none → exec (.npairsClosingArrival o.id) s = .next (dropOp o.id u))) ∧
          (o.performed = true → o.due < s.gtime →
            exec (.npairsClosingArrival o.id) s = .next (dropOp o.id (arriveCount o 0 (Nat.lor o.status (2 ^ 13)) true s))))) ∧
      (o.kind = .npairs → o.count ≠ 0 → o.started = true → o.due < s.gtime → objWaits o s = none →
        exec (.pairRecordEmit o.id) s = .next (setOp { o with started := false, pos := o.pos + 1 } (arriveCount o 16 0 false s)))) ∧
    (∀ core, s.en.ops.find? (fun q => decide (q.core = core) && isSeq q.kind && !q.performed) = some o →
      exec (.sequencerOpStart core) s = .next (performSeq o s)) ∧
    ∀ a, o.obj = .va a → objWaits o s = none → (∀ m, o.kind ≠ .cpy m) →
      finishOp o s = forgetPages o.id (dropHostReads o.id (dropOp o.id (arriveVa o.ctx a o.count o.status o.errIdx false s)))

/-- 02 R55, R58, 05 R130, 06 R161, R163, R169, R180, 10 R304, 16 R412, R413: a consuming load whose granules are full
goes ahead with its effect; a skein whose level barrier has flipped observes it and goes past the barrier, or arrives
there anew; a wait that has lasted its timeout takes the trap that the spec names; a deferred trap, the one with the
lowest code first, is taken at the boundary. 06 R159, R164, R181 to R185, 05 R149, 15 R404, R405, 16 R419 to R425:
baskets, skeins, tracker entries, crews and launches end or start, merges are made, watchdogs strike when their
condition holds; a drained crew with save slots leaves its core with its unit, when asked, when it only waits and a
unit of a higher level fits nowhere (06 R164 as 15 R405 bounds it: log entries 70, 96), or for a unit that has fitted
nowhere for 100 µs; a saved unit comes back to the least-loaded place with room, and a bad save slot ends its context. -/
def Obligations.WaitAndCrewEventsComplete : Prop :=
  (∀ (r : Ref) (s t : State), focusOn r s = some t →
     (∀ w x g d a b u, t.k.wait = some w → w.kind = 2 → (∀ G ∈ w.grans, isFull t.crew G = true) → resumes t → (Instr.sldFe x g d a b).wf = true → mayConsume x g d a b u →
       ((fetchInstr t).2 = .ok (.sldFe x g d a b, u) → Consumes false x g d a b u (exec (.consumingLoadProceed r) s)) ∧
       ((fetchInstr t).2 = .ok (.sldFeClr x g d a b, u) → Consumes true x g d a b u (exec (.consumingLoadProceed r) s))) ∧
     (∀ w l b a u, t.k.wait = some w → w.kind = 1 → w.stage ≠ 2 → resumes t → 3 ≤ l → barUndeclared l b u = false → check plainControl u = none → wholeSkein u →
       myArrival u.k l b = some a →
       (phaseOver a (standAt l b u) = true → noMergeTrap l u →
         ((fetchInstr t).2 = .ok (.barWait l b, u) ∨ ((fetchInstr t).2 = .ok (.bar l b, u) ∧ a.at_ = some u.k.e.pc)) →
         exec (.levelBarrierRelease r) s = .next (retire 1 (observed l b (standAt l b u)))) ∧
       (phaseOver a (standAt l b u) = true → conflictAt l u ≠ [] →
         ((fetchInstr t).2 = .ok (.barWait l b, u) ∨ ((fetchInstr t).2 = .ok (.bar l b, u) ∧ a.at_ = some u.k.e.pc)) →
         exec (.levelBarrierRelease r) s = .next (passBar l b (standAt l b u))) ∧
       (∀ m, phaseOver a (standAt l b u) = true → (fetchInstr t).2 = .ok (.bar l b, u) → a.at_ ≠ some u.k.e.pc →
         noMergeTrap l u → releaseDone (barScope u.crew l) (observed l b (standAt l b u)) = true →
         let v := arriveAt l b (some u.k.e.pc) (observed l b (standAt l b u))
         myArrival v.k l b = some m → phaseOver m v = false → exec (.levelBarrierRelease r) s = .next (beginWait 1 0 (beginWaitOn 1 0 [l, b] v))) ∧
       (phaseOver a u = true → noMergeTrap l u → releaseDone (barScope u.crew l) (observed l b u) = true → (fetchInstr t).2 = .ok (.barArrive l b, u) →
         exec (.levelBarrierRelease r) s = .next (retire 1 (arriveAt l b none (observed l b u))))) ∧
     (∀ w,
       (waitOver 2 t w → exec (.fullEmptyStall r) s = .next (takeTrap true { code := 0x0D, cause := 1, addr := nat64 (16 * w.grans.headD 0) } t)) ∧
       (waitOver 3 t w → exec (.spawnWaitTimeout r) s = .next (takeTrap false { code := 0x0C, cause := 3, addr := w.pc } t)) ∧
       (waitOver 4 t w → exec (.gangLatchTimeout r) s = .next (takeTrap false { code := 0x0C, cause := 4, addr := w.pc } (leaveLatches t.k.uid t))) ∧
       (waitOver 5 t w → exec (.bwaitTimeout r) s = .next (takeTrap false { code := 0x0C, cause := 5, addr := w.pc } t))) ∧
     (∀ l n a, stalled t = some (l, n, a) → exec (.barrierStallTimeout r) s = .next (raiseStall l n a t)) ∧
     ∀ l1 p l2 k, t.k.pending = l1 ++ p :: l2 → (∀ q ∈ l1, p.code < q.code) → (∀ q ∈ l2, p.code ≤ q.code) → t.k.handler = false →
       unheld t → onTheWay t.k = false → choose true t.k = some k →
       exec (.deferredTrapTake r) s = .next (takeTrap false p (leaveLatches k.uid { t with k := { k with pending := l1 ++ l2 } }))) ∧
  (∀ (core slot n : Nat) (s : State),
     (∀ c, crewAt core slot s = some c →
       ((basketAt c.crew n).st = .filling → (basketAt c.crew n).timer ≤ s.clocks →
         exec (.basketTimerExpiry core slot n) s = .next (modCrew c.crew.uid (setBasket n { basketAt c.crew n with st := .ready }) s)) ∧
       (∀ i x, oldestReady c.crew = some i → basketSid c = some x →
         let key := (basketAt c.crew i).key
         let recs := (basketRecs c.crew key).take 32
         exec (.basketLaunch core slot) s = .next (addSkein c.crew.uid (basketSkein s c key recs x)
           (modCrew c.crew.uid (fun d => forceFull (afterLaunch (ctxBtimer s d.ctx) s.clocks i recs d)) { s with ids := s.ids + 1 }))) ∧
       (crewOver c s = true → (c.crew.defStores = [] → exec (.crewEnd core slot) s = .next (endCrew c s)) ∧
         (c.crew.defStores ≠ [] → exec (.crewEnd core slot) s = .next (kill c.crew.ctx 0xFE s))) ∧
       (mayLeave c.crew s →
         Leaves c.crew s (exec (.preemptCrew core slot) s) ∧
         (crewWaits c s ≠ [] → (∃ q ∈ s.sch.queues, prioOf s c.crew.queue < q.prio ∧ blocked s q.n = true) →
           Leaves c.crew s (exec (.preemptWaitingCrew core slot) s)))) ∧
     (∀ r t, focusOn r s = some t → liveMask t.k = 0#32 → storesDone 3 t = true → exec (.skeinEnd r) s = .next (removeSkein t)) ∧
     (∀ t, s.sch.tracker.find? (fun t => decide (t.n = n)) = some t → (∀ y ∈ s.hm.inflight, y.uid ≠ t.uid) →
       (∀ o ∈ s.en.ops, o.uid = t.uid → isTileOp o.kind = true) →
       exec (.retirementEntryFree n) s = .next { s with sch := { s.sch with tracker := s.sch.tracker.filter fun y => decide (y.n ≠ n) } }) ∧
     (∀ l, s.sch.launches.find? (fun l => decide (l.uid = n)) = some l →
       (l.lrec.flags.testBit 0 = true → ∀ v,
         (∀ a, l.merged.find? (fun a => decide (a.1 = v) && decide (a.2.1 ≠ 0)) = some a → mergePast l v a.2.1 s = true → exec (.merge n v) s = .next (mergeRelease l v a.2.2 s)) ∧
         (l.merged.find? (fun a => decide (a.1 = v) && decide (a.2.1 ≠ 0)) = none → mergeReady l v = true → exec (.merge n v) s = .next (mergeApply l v s))) ∧
       (wdExp s l.ctx ≠ 0 →
         (l.wdTrapped = false → l.start + 2 ^ wdExp s l.ctx < s.gtime → exec (.watchdogTrap n) s = .next (raiseWatch l s)) ∧
         (l.start + 2 ^ (wdExp s l.ctx + 1) < s.gtime → exec (.watchdogKill n) s = .next (kill l.ctx 0xFC s)))) ∧
     (∀ q t f c, findQueue s n = some q → q.flags.testBit 1 = true → q.stuck = some (t, f) → frontId s n = some f → t + 100000 ≤ s.gtime → blocked s n = true →
       (victims s q.prio).find? (fun c => slotsFor s (companions c.crew s) []) = some c → mayLeave c.crew s →
       Leaves c.crew s (exec (.priorityPreemption n) s)) ∧
     (∀ r l, groupOf n s = r :: l → restorable (r :: l) s = true →
       let lr := r.crewRec.crew.lrec
       let at_ := fun p => atPlace (comesBack (r :: l) lr) lr p s
       ((∀ x ∈ r :: l, saveBad s x = false) → (∃ p < places lr, (at_ p).isSome = true) →
         ∃ t, exec (.restoreCrew n) s = .next t ∧ LeastLoaded at_ (loadOf lr s) (places lr) t) ∧
       ∀ x, (r :: l).find? (saveBad s) = some x → exec (.restoreCrew n) s = .next (slotKill x s)))

/-- 15 R399 to R404, R407, R408: the manager takes the record at HEAD of an open queue whose conditions hold; at the highest level that has a
unit that fits, the queue whose turn it is has its front unit placed, a launch's at the least-loaded place with room; a mailbox trigger whose
bytes are complete appends its record, read in its context, with the address that triggered it, one that finds the ring full is pending until
there is room, and one without a queue or a readable record counts as missed. An append that would come out of the order of its clock is put off
to the next one, which is the model's choice (log entry 101). -/
def Obligations.ManagerEventsComplete : Prop :=
  ∀ (n : Nat) (s : State),
    (∀ q, openQueue s n = some q → takeable s q = true → exec (.takeRecord n) s = .next (takeFrom q s)) ∧
    (∀ p w t, computeOn s = true → p ∈ levelsDown s → (∀ q ∈ s.sch.queues, p < q.prio → placeable s q.n = false) →
      let ring := (ringFrom (mget 0 s.sch.ptr p) ((s.sch.queues.filter fun q => decide (q.prio = p)).map (·.n))).filter (placeable s)
      winner s ring = some w → placeFront w (addQuanta w (rounds s w) ring s) = some t →
      exec .placeUnit s = .next (settleDeficit w { t with sch := { t.sch with ptr := mset 0 t.sch.ptr p (w + 1) } })) ∧
    (∀ l, frontOf s n = .unit l → l.lrec.flags.testBit 0 = false →
      let at_ := fun p => atPlace (fun i core s => addCrew l (l.nextUnit * unitTasks l.lrec + i) core s) l.lrec p s
      (∃ p < places l.lrec, (at_ p).isSome = true) →
      ∃ u, placeFront n s = some { u with sch := { u.sch with
          launches := u.sch.launches.map fun y => if y.uid = l.uid then { y with nextUnit := y.nextUnit + 1 } else y } } ∧
        LeastLoaded at_ (loadOf l.lrec s) (places l.lrec) u) ∧
    (∀ ctx,
      let mine := s.sch.mbox.filter fun m => decide (m.ctx = ctx) && decide (m.n = n)
      let without := fun m => { s with sch := { s.sch with mbox := s.sch.mbox.erase m } }
      let due := mine.find? fun m => !m.pending && decide (m.time < s.gtime) && !underWay m.op s
      let given := fun m => hostGaps (mboxReader m.ctx m.n) s m.ctx m.record 256 = [] ∧ mboxEarly s m = false
      (∀ m, mine.find? (·.pending) = some m → mboxFull s m = false → given m →
        exec (.mailboxPendingAppend ctx n) s = .next (mboxAppend m (mboxPend ctx n false (without m)))) ∧
      (∀ m d, mine.find? (·.pending) = some m → mboxFull s m = true → due = some d →
        exec (.mailboxPendingAppend ctx n) s = .next (mboxMissed ctx n (without d))) ∧
      ∀ m, mine.find? (·.pending) = none → due = some m →
        (mboxFull s m = false → given m → exec (.mailboxPendingAppend ctx n) s = .next (mboxAppend m (without m))) ∧
        (mboxFull s m = true → exec (.mailboxPendingAppend ctx n) s =
          .next (mboxPend ctx n true { s with sch := { s.sch with mbox := s.sch.mbox.erase m ++ [{ m with pending := true }] } }))) ∧
    ∀ m,
      let reader := mboxReader m.ctx m.n
      let u := dropHostReads reader.1 s
      (∀ q b, mboxQueue s m = some q → recordAt reader s m.ctx m.record 256 = some b →
        mboxAppend m s = appendRecord q (b.take 248 ++ littleEndian 8 m.addr) none (mboxKey m) u) ∧
      (mboxQueue s m = none ∨ recordAt reader s m.ctx m.record 256 = none → mboxAppend m s = mboxMissed m.ctx m.n u)

/-- 14 R393, R394, 17 R435, R436, R439, 18 R444, R452: a stream starts a frame at its start, stops at one, and arrives when a slot ends; a
tick moves gtime by one, the clock by what its frequency gives, performs what has its completion time then and wakes the waiting skeins;
synchronisation and peers are given up after their time; power brings the part up step by step, and a step that fails leaves it in the safe
state; and the clock and the part answer to power and heat. The model's own choices here: the rounding of the clock count (log entry 76), and
that every step of the power-up is a step of the machine (log entry 108). -/
def Obligations.TimeAndPowerEventsComplete : Prop :=
  ∀ (n power temp : Nat) (b : BringUp) (s : State),
    (let x := streamOf s n
     (∀ d, stopsNow x s = false → dueFrame s.gtime x s = some d → exec (.frameStart n) s = .next (startFrame x d s)) ∧
     (stopsNow x s = true → exec (.frameStart n) s = .next (stopStream x s)) ∧
     ∀ f, slotDue x s = some f →
       exec (.frameSlotEnd n) s = .next (arriveVa f.ctx f.release 16 0 none false (putStream { x with slots := x.slots.erase f } s))) ∧
    (timeOn s = true → s.fab.slew = 0 →
      ∃ u, exec .globalTimeTick s = .next (noteStuck (serveAll (serveMgmt (serveOwed (serveDones (orphanFaults (retryArrivals u))))))) ∧ u.gtime = s.gtime + 1 ∧
        (∀ x ∈ u.hm.l1, s.gtime + 1 < x.lease) ∧
        (s.fab.streams = [] → u.clocks = s.clocks + ((s.gtime + 1) * clockMhz s / 1000 - s.gtime * clockMhz s / 1000) ∧
          ((∀ st ∈ s.hm.timed, (st.cells.map (·.1)).Nodup) → ∀ key, memByte u key = byteAt s (s.gtime + 1) key) ∧
          ∀ w, s.k.wait = some w → u.k.wait = some { w with asleep := false })) ∧
    ((preg s 0x1A).getLsbD 5 = true → s.fab.lastSync + 2000000000 < s.gtime → exec .syncTimeout s = .next (loseSync s)) ∧
    ((∃ r ∈ s.fab.reqs, r.peer = n ∧ r.since + peerTime s < s.gtime) →
      exec (.peerTimeout n) s = .next (departDevice n (((members s).filter fun d => decide (d ≠ n)).foldl (fun s d => sendMsg 0x0A d 0 (nat64 n) [] s) s))) ∧
    (s.mgt.safe = false →
      let found := s.mgt.bring.getD b
      let u := { s with mgt := { s.mgt with bring := some found } }
      let state := nb (preg s 0x20).toNat 3 0
      (state = 0 → (found.fuseOk = true → exec (.powerOn b) s = .next (setState 1 u)) ∧ (found.fuseOk = false → FailsAt 1 none s (exec (.powerOn b) s))) ∧
      (state = 1 → (∀ c, bootCopy found = some c → exec (.powerOn b) s = .next (setState 2 (runFirmware c u))) ∧
        (bootCopy found = none → FailsAt 2 none s (exec (.powerOn b) s))) ∧
      (state = 2 → (found.failedUnit = none → exec (.powerOn b) s = .next (setState 3 u)) ∧
        (found.failedUnit ≠ none → FailsAt 3 found.failedUnit s (exec (.powerOn b) s))) ∧
      (state = 3 → (found.channelsOk = true → 0 < found.portsLinked →
          exec (.powerOn b) s = .next (setClock 2500 (setState 4 { s with mgt := { s.mgt with bring := none } }))) ∧
        (found.channelsOk = false ∨ found.portsLinked = 0 → FailsAt 4 none s (exec (.powerOn b) s)))) ∧
    (computeOn s = true → exec (.clockThrottle power temp) s =
      .next (setClock (if 1850 < power ∨ 105 ≤ temp then max 500 (clockMhz s - 25) else min 2500 (clockMhz s + 25)) (setHeat power temp s))) ∧
    (computeOn s = false → exec (.clockThrottle power temp) s = .next (setHeat power temp s)) ∧
    (115 ≤ temp →
      (computeOn s = true → ∃ t, exec (.overtempShutdown temp) s = .next t ∧ t.mgt.safe = true ∧ nb (preg t 0x20).toNat 3 0 = 8) ∧
      (computeOn s = false → exec (.overtempShutdown temp) s = .next (setHeat (nb (preg s 0x20).toNat 47 32) temp s)))

namespace Sys2Proof.Claims

/-! ### Messages and management commands -/

/-- The message types with the event that brings them in (17 R429). -/
def messageOf : Instr → Option (Nat × PvlMsg × PvlBody)
  | .enq m => some (1, m, .plain)
  | .read m => some (2, m, .plain)
  | .write m => some (3, m, .plain)
  | .mbox m => some (5, m, .plain)
  | .put m => some (6, m, .plain)
  | .get m => some (7, m, .plain)
  | .atom m op => some (8, m, .atom op)
  | .mig m b => some (9, m, .mig b)
  | .leave m => some (10, m, .plain)
  | .mgmt m => some (11, m, .plain)
  | _ => none

/-- The message is one that this part admits (17 R428, R433); in the safe state the host needs no table entry (log entry 26). -/
def admitted (m : PvlMsg) (s : State) : Prop :=
  m.magic = 0x5650 ∧ m.version = 1 ∧ m.setid = nb (preg s 0x18).toNat 63 32 ∧ m.dst = nb (preg s 0x18).toNat 15 8 ∧
    (peerValid s m.src = true ∨ (s.mgt.safe = true ∧ m.src = 255)) ∧ m.payload.length ≤ 4096

/-- The sender is the host, or a part that has announced itself and not left, or announces itself with this message (17 R430, R438); the
safe state tells no part that it is no member (18 R445). -/
def heard (m : PvlMsg) (s : State) : Prop := m.src = 255 ∨ m.src ∈ s.fab.present ∨ m.type = 11 ∨ s.mgt.safe = true

/-- A message with the sender and SEQ of `m` is kept (17 R431). -/
def isKept (m : PvlMsg) (s : State) : Prop := ∃ x ∈ s.fab.inbox, x.1.src = m.src ∧ x.1.seq = m.seq

/-- The state in which a message is performed: the next one of its sender is awaited. -/
def awaitNext (m : PvlMsg) (s : State) : State := { s with fab := { s.fab with seqExp := mset 0 s.fab.seqExp m.src (m.seq + 1) } }

/-- No earlier message of the sender is still to be answered, as a write to a host page or a command whose record lies in one (17 R431). -/
def settled (m : PvlMsg) (s : State) : Prop :=
  (∀ w ∈ s.fab.owed, w.msg.src ≠ m.src) ∧ ∀ w ∈ s.mgt.waits, w.msg.map (·.src) ≠ some m.src

/-- A message of a member or the host, admitted, the one that is awaited, with nothing to wait for, no kept message going first; outside the
safe state, but for management (17 R431, 18 R445). -/
def Turn (type : Nat) (m : PvlMsg) (s : State) : Prop :=
  m.type = type ∧ admitted m s ∧ (m.src = 255 ∨ m.src ∈ s.fab.present) ∧ (type ≠ 11 → s.mgt.safe = false) ∧ ¬ isKept m s ∧ s.fab.inbox.find? (isDue s) = none ∧
    m.seq = mget 0 s.fab.seqExp m.src ∧ settled m s ∧ mustWait m s = false

/-- The message is performed, which leaves `t`, then the kept messages whose turn has come; what the next ones need of the host is asked for. -/
def performed (s t : State) : Host.Outcome State Fault Refusal := .next (askInbox (serveInbox s.fab.inbox.length t))

/-- The writes of a peer are past for its later messages once its latest completion time is (17 R431). -/
def wrote (m : PvlMsg) (c : Nat) (s : State) : State := { s with fab := { s.fab with writeC := mset 0 s.fab.writeC m.src (max c (mget 0 s.fab.writeC m.src)) } }

/-- The management commands by the event that brings them in, with the device that asks (18 R446). -/
def commandOf : Instr → Option (Nat × MgmtCmd)
  | .status d => some (d, .status)
  | .selftest d => some (d, .selftest)
  | .diag d u i => some (d, .diag u i)
  | .regread d i => some (d, .regread i)
  | .regwrite d i x => some (d, .regwrite i x)
  | .attest d n => some (d, .attest n)
  | .manifest d c r => some (d, .manifest c r)
  | .compare d c r t => some (d, .compare c r t)
  | .resume d c w => some (d, .resume c w)
  | .fatalrec d c => some (d, .fatalrec c)
  | .stream d c => some (d, .stream c)
  | .streamq d n => some (d, .streamq n)
  | _ => none

/-- Commands of the host alone, and those that the safe state still accepts (18 R445, R446). -/
def ofHost : MgmtCmd → Bool
  | .regwrite _ _ => true
  | .compare _ _ _ => true
  | .resume _ _ => true
  | .stream _ => true
  | _ => false

def inSafeState : MgmtCmd → Bool
  | .status => true
  | .selftest => true
  | .diag _ _ => true
  | .attest _ => true
  | _ => false

/-- The device may give the command now. -/
def mayCommand (d : Nat) (c : MgmtCmd) (s : State) : Prop := (s.mgt.safe = false ∨ inSafeState c = true) ∧ (ofHost c = true → d = 255)

/-- The answer to a command of device `d`: number, status OK, data. -/
def answered (d n : Nat) (data : List Byte) (t : State) : Host.Outcome State Fault Refusal := .next (emit (.mgmt d n 0 data) t)

/-- A port that carries frames: enabled in PVLCFG, or any port in the safe state (17 R434, 18 R445, log entry 100). -/
def portOpen (port : Nat) (s : State) : Prop := port < 4 ∧ (s.mgt.safe = true ∨ (preg s 0x18).getLsbD port = true)

end Sys2Proof.Claims

/-- 17 R427, R434, R435: at a port that carries frames, a PVL datagram for the part's UDP port brings the message in;
a time message moves the clock's discipline; requests for an address configured at that port are answered; anything
else is dropped and counted. 17 R428, R430, R431, 18 R445: a message that is not admitted is dropped and counted; the
safe state answers all but management BADMSG; a message of a part that is no member is answered DEPARTED; a duplicate
is dropped; the next message of its sender, not held back by its sender's writes, is performed, and after it kept ones
whose turn it brings; a message ahead of its turn is kept, and the missing ones are asked for again; a response ends
the request that it answers. The model's own choices here: an MGMT message is the announcement of a part (log entry
22), and the safe state knows the host without a table (log entry 26). -/
def Obligations.EthernetFrames : Prop :=
  (∀ (port p a : Nat) (off : Int) (m : PvlMsg) (b : PvlBody) (d : List Byte) (s : State),
     let dropped := { s with fab := { s.fab with drops := s.fab.drops + 1 } }
     (portOpen port s →
       (s.mgt.safe = false → p = nb (preg s 0x18).toNat 31 16 → exec (.ethernetFrame port (.pvl p m b)) s = receive m b s) ∧
       (s.mgt.safe = false → p ≠ nb (preg s 0x18).toNat 31 16 → exec (.ethernetFrame port (.pvl p m b)) s = .next dropped) ∧
       ((port, a) ∈ s.netAddrs →
         exec (.ethernetFrame port (.arp a)) s = .next (emit (.arpReply port a) s) ∧
         exec (.ethernetFrame port (.neighbour a)) s = .next (emit (.neighbourReply port a) s) ∧
         exec (.ethernetFrame port (.echo a d)) s = .next (emit (.echoReply port d) s)) ∧
       ((port, a) ∉ s.netAddrs → s.mgt.safe = false →
         exec (.ethernetFrame port (.arp a)) s = .next dropped ∧ exec (.ethernetFrame port (.neighbour a)) s = .next dropped ∧
         exec (.ethernetFrame port (.echo a d)) s = .next dropped) ∧
       exec (.ethernetFrame port .other) s = .next dropped ∧ exec (.ethernetFrame port (.ptp (.sync off))) s = .next (syncMsg off s)) ∧
     exec (.ptpMessage (.sync off)) s = .next (syncMsg off s)) ∧
  (∀ (i : Instr) (type : Nat) (m : PvlMsg) (b : PvlBody) (s : State), messageOf i = some (type, m, b) → m.type = type →
     (¬ admitted m s → exec i s = .next { s with fab := { s.fab with drops := s.fab.drops + 1 } }) ∧
     (admitted m s → s.mgt.safe = true → type ≠ 11 → exec i s = .next (respond m 6 [] s)) ∧
     (admitted m s → ¬ heard m s → exec i s = .next (respond m 7 [] s)) ∧
     (admitted m s → heard m s → (s.mgt.safe = false ∨ type = 11) →
       let u := readmit m s
       let e := mget 0 u.fab.seqExp m.src
       let v := { u with fab := { u.fab with inbox := u.fab.inbox ++ [(m, b)] } }
       ((m.seq < e ∨ isKept m u) → exec i s = .next u) ∧
       (¬ isKept m u → u.fab.inbox.find? (isDue u) = none →
         (m.seq = e → settled m u → mustWait m u = false → exec i s = performed u (perform m b (awaitNext m u))) ∧
         (m.seq = e → ¬ settled m u ∨ mustWait m u = true → exec i s = .next (askInbox v)) ∧
         (e < m.seq → (∀ x ∈ u.fab.inbox, x.1.src = m.src → x.1.seq ≠ e) → exec i s = .next (askInbox (emit (.again m.src e) v))) ∧
         (e < m.seq → (∃ x ∈ u.fab.inbox, x.1.src = m.src ∧ x.1.seq = e) → exec i s = .next (askInbox v)))) ∧
     ∀ r, r.type = 4 → admitted r s →
       (s.mgt.safe = false → exec (.resp r) s = .next (doResp r s)) ∧ (s.mgt.safe = true → exec (.resp r) s = .next (respond r 6 [] s)))

/-- 17 R429, R430, R432, 15 R398, 10 R287, R295, 01 R40: the messages that read, write and append, and an atomic, have
their effect at the homes and are answered OK: with the data, with the completion time, with time and old value; a
write whose bytes lack a completion time is answered later. The model's choices here: the payload of ATOM (log entry
21), the answer for a page that is not at home here (log entry 115), the order of ENQs (log entry 101). 17 R430, R436,
R438, 01 R38 to R42, 18 R446: migration traffic has its effect at this home or at this part and is acknowledged; a
departure is applied, this part's own too; a management message is answered with its command's status and data; a
response takes its request off the list, shows a member when it acknowledges an announcement, makes the part leave
when it says DEPARTED, and the host's brings what an access to a host page waits for. The model's choices here: the
MIG messages (log entry 21), the acknowledgement of an announcement (log entry 22) and the layout of a command's
arguments (log entry 25). 18 R445, R446, 17 R432: every management command is answered, one that reads a record in
host pages once their bytes are here; in the safe state all but STATUS, SELFTEST, DIAG and ATTEST with BADMSG,
REGWRITE, COMPARE, RESUME and STREAM from another device than the host with DENIED, and then nothing else changes. 18
R444, R446 to R449, 08 R250: STATUS gives MGSTAT, ERRCNT and the serial number; SELFTEST the step and unit that
failed, or all ones; DIAG a unit's 256-byte log; REGREAD and REGWRITE read and write the privileged view; ATTEST signs
its report; MANIFEST gives the manifest of a context, and COMPARE the lowest field that differs; RESUME ends a crew's
halt; FATALREC gives the context's last fatal record; STREAM takes a sound configuration and STREAMQ gives one. Each
has its effect, and no other, and is answered OK; a REGWRITE that names no memory is answered FAULT, which is the
model's choice (log entry 77). -/
def Obligations.ManagementMessages : Prop :=
  (∀ (m : PvlMsg) (s : State),
     let u := awaitNext m s
     let va := m.addr.toNat
     (Turn 1 m s → m.len = 256 → m.payload.length = 256 → va < 16384 → ∀ q, openQueue u va = some q → ringFull q = false →
       exec (.enq m) s = performed s (respond m 0 [] (appendRecord q m.payload none (enqKey m) u))) ∧
     (∀ key : Nat → Nat, 0 < m.len → m.len ≤ 4096 → msgAccess u m.ctx va m.len true false = 0 → hostRefusal m u = none →
       (∀ i < m.len, keyAt u m.ctx (va + i) = some (key i) ∧ key i / 8 ∉ s.hm.memBad) →
       let data := (List.range m.len).map fun i => memByte s (key i)
       let done := dropHostReads (msgReader m).1
       (Turn 2 m s → notHome m u = none → ∃ e, exec (.read m) s = performed s (done (respond m 0 data { u with hm := { u.hm with lineE := e } }))) ∧
       (Turn 7 m s → exec (.get m) s = performed s (done (respond m 0 data u)))) ∧
     (m.payload.length = m.len → msgAccess u m.ctx va m.len false true = 0 →
       let op := s.ids + 1
       let v := storeVa op m.ctx va m.payload { u with ids := op }
       let c := msgTime v m.ctx va m.len
       let w := trigger m.ctx [(va, m.len)] c v op
       let owes := fun t : State => { t with fab := { t.fab with owed := t.fab.owed ++ [{ msg := m, op := op, time := c }] } }
       (Turn 3 m s → notHome m u = none → underWay op v = false → exec (.write m) s = performed s (respond m 0 (littleEndian 8 c) (wrote m c v))) ∧
       (Turn 3 m s → notHome m u = none → underWay op v = true → exec (.write m) s = performed s (owes v)) ∧
       (underWay op w = false →
         (Turn 5 m s → exec (.mbox m) s = performed s (respond m 0 (littleEndian 8 c) (wrote m c w))) ∧
         (Turn 6 m s → exec (.put m) s = performed s (respond m 0 [] (wrote m c w)))) ∧
       (underWay op w = true → (Turn 5 m s → exec (.mbox m) s = performed s (owes w)) ∧ (Turn 6 m s → exec (.put m) s = performed s (owes w)))) ∧
     (∀ l, notHome m u = some l →
       let elsewhere := performed s (respond m 8 (littleEndian 1 l.home ++ littleEndian 8 l.addr) u)
       (Turn 2 m s → 0 < m.len → m.len ≤ 4096 → exec (.read m) s = elsewhere) ∧ (Turn 3 m s → m.payload.length = m.len → exec (.write m) s = elsewhere)) ∧
     ∀ op, Turn 8 m s → op.aop ≤ 12 → (op.w64 = true → op.aop < 10) → m.payload = atomPayload op → m.len = m.payload.length →
       let n := if op.w64 then 8 else 4
       va % n = 0 →
       (∀ l, notHome { m with len := n } u = some l → exec (.atom m op) s = performed s (respond m 8 (littleEndian 1 l.home ++ littleEndian 8 l.addr) u)) ∧
       ∀ key, notHome { m with len := n } u = none → msgAccess u m.ctx va n true true = 0 →
         (∀ l, leafAt u m.ctx va = some l → ¬ (l.resid = 1 ∧ l.home = 255)) → keyAt u m.ctx va = some key → key / 8 ∉ s.hm.memBad →
         let r := homeAtomicAt key op u
         let c := mget 0 r.2.hm.lineC (key / 64)
         exec (.atom m op) s = performed s (respond m 0 (littleEndian 8 c ++ littleEndian n r.1) (wrote m c r.2))) ∧
  (∀ (m : PvlMsg) (s : State),
     let u := awaitNext m s
     (Turn 9 m s →
       (∀ va n, exec (.mig m (.request va n)) s = performed s (respond m 0 [] (homeRequest m.src m.ctx va.toNat u))) ∧
       (∀ va c h a, exec (.mig m (.answer va c h a)) s = performed s (respond m 0 [] (answerReq m.ctx va.toNat c h a u))) ∧
       (∀ va f, exec (.mig m (.frame va f)) s = performed s (respond m 0 [] (nameFrame m.src m.ctx va.toNat f u))) ∧
       (∀ va f w c p t l d, exec (.mig m (.arrive va f w c p t l d)) s = performed s (respond m 0 [] (arrivePage m.ctx va.toNat w c p t l d u))) ∧
       (∀ va h a, exec (.mig m (.homeChange va h a)) s = performed s (respond m 0 [] (sendMsg 9 m.src m.ctx va [] (changeHome m.ctx va.toNat h a u)))) ∧
       ∀ va, exec (.mig m (.ack va)) s = performed s (respond m 0 [] (noteAck m.src m.ctx va.toNat u))) ∧
     (Turn 10 m s → exec (.leave m) s = performed s (respond m 0 []
       (if m.addr.toNat % 256 = nb (preg s 0x18).toNat 15 8 then leaveSet u else departDevice (m.addr.toNat % 256) u))) ∧
     (∀ c st data t, Turn 11 m s → m.payload.length = m.len → parseCmd m.payload = some c → mayCommand m.src c s →
       (deferCmd m.src c (some m) u = none → runCmd m.src c u = (st, data, t) → exec (.mgmt m) s = performed s (respond m st data t)) ∧
       (deferCmd m.src c (some m) u = some t → exec (.mgmt m) s = performed s t)) ∧
     (m.type = 4 → admitted m s → s.mgt.safe = false → (∃ r ∈ s.fab.reqs, r.peer = m.src ∧ r.seq = m.seq) →
       let f := { s with fab := { s.fab with
         reqs := s.fab.reqs.filter fun r => !(decide (r.peer = m.src) && decide (r.seq = m.seq)),
         present := if (m.src, m.seq) ∈ s.fab.joinWait then insNat m.src s.fab.present else s.fab.present,
         joinWait := s.fab.joinWait.filter fun w => !(decide (w.1 = m.src) && decide (w.2 = m.seq)) } }
       (m.status ≠ 7 → m.src ≠ 255 → exec (.resp m) s = .next f) ∧ (m.status = 7 → exec (.resp m) s = .next (leaveSet f)) ∧
       (m.status ≠ 7 → m.src = 255 → exec (.resp m) s = .next (hostAnswer m f)))) ∧
  (∀ (i : Instr) (d : Nat) (c : MgmtCmd) (s : State), commandOf i = some (d, c) →
     (s.mgt.safe = true → inSafeState c = false → exec i s = .next (emit (.mgmt d c.code 6 []) s)) ∧
     ((s.mgt.safe = false ∨ inSafeState c = true) → ofHost c = true → d ≠ 255 → exec i s = .next (emit (.mgmt d c.code 2 []) s)) ∧
     (mayCommand d c s →
       (deferCmd d c none s = none → ∃ st data t, runCmd d c s = (st, data, t) ∧ exec i s = .next (emit (.mgmt d c.code st data) t)) ∧
       ∀ t, deferCmd d c none s = some t → exec i s = .next t)) ∧
  (∀ (d ctx : Nat) (s : State), ctx < 256 →
     exec (.status d) s = answered d 1 (littleEndian 8 (preg s 0x20).toNat ++ littleEndian 8 (preg s 0x21).toNat ++ littleEndian 8 Config.serial.toNat) s ∧
     (s.mgt.failedStep = 0 → exec (.selftest d) s = answered d 2 (List.replicate 16 0xFF#8) s) ∧
     (s.mgt.failedStep ≠ 0 → exec (.selftest d) s = answered d 2 (littleEndian 4 s.mgt.failedStep ++
       (match s.mgt.failedUnit with | some u => littleEndian 4 u.1 ++ littleEndian 8 u.2 | none => List.replicate 12 0xFF#8)) s) ∧
     (∀ u i, exec (.diag d u i) s = answered d 3 ((List.range 256).map (Config.diagLog u i)) s) ∧
     (∀ nonce, exec (.attest d nonce) s = answered d 6 (attestReport s nonce) s) ∧
     (s.mgt.safe = false →
       (∀ i, exec (.regread d i) s = answered d 4 (littleEndian 8 (viewRead s i).toNat) s) ∧
       (∀ i x, (viewMemory i x s = true → exec (.regwrite 255 i x) s = answered 255 5 [] (viewWrite i x s)) ∧
         (viewMemory i x s = false → exec (.regwrite 255 i x) s = .next (emit (.mgmt 255 5 3 []) s))) ∧
       (∀ va f, recordFields d s ctx va = .ok f → exec (.manifest d ctx va) s = answered d 7 (manifestBytes s ctx f) s) ∧
       (∀ va f st, recordFields 255 s ctx va = .ok f →
         exec (.compare 255 ctx va st) s = answered 255 8 (littleEndian 4 (manifestDiff (manifestBytes s ctx f) st)) s) ∧
       (∀ w c, (allCrews s).find? (fun c => decide (c.crew.ctx = ctx) && decide (c.crew.core + 2048 * c.crew.slot = w) && c.crew.halted) = some c →
         exec (.resume 255 ctx w) s = answered 255 9 [] (modCrew c.crew.uid (fun x => { x with halted := false }) s)) ∧
       exec (.fatalrec d ctx) s = answered d 10 (mget (List.replicate 64 0#8) s.mgt.fatal ctx) s ∧
       (∀ cfg, cfg.length = 64 → cfgBad s cfg = false → exec (.stream 255 cfg) s = answered 255 11 [] (acceptStream cfg s)) ∧
       ∀ n, n < 8 → exec (.streamq d n) s = answered d 12 (streamOf s n).cfg s))

namespace Sys2Proof.Claims

/-! ### Registers, encodings and the step -/

/-- The bytes of an instruction's words as the part stores them: each word least significant byte first (00 R5, 07 R191). -/
def bytesOf : List Nat → List Byte
  | [] => []
  | w :: l => littleEndian 4 w ++ bytesOf l

/-- Words written out from the worked encodings of the spec, with their instructions. -/
def workedWords : List (List Nat × Instr) :=
  [([0x01614307], .vadd 11 5 6 7), ([0x80182100], .gadd 3 1 2 0), ([0x80182140], .gadd 3 1 2 1), ([0x82514005], .gaddi 10 10 0 5),
   ([0xA28417FD], .bcc 2 4 5 1021), ([0xA6400006], .br 2 6), ([0xC0120000], .bar 2 1), ([0xC20FFFE0], .waitc 0 31 31 31),
   ([0xC4B00000], .fenceRel 3), ([0xB8006000], .meld 3), ([0xBA135000], .mmap 1 3 40), ([0xB8000001], .mend), ([0xCC000121], .trap 0x21),
   ([0xB0000000], .exit 0), ([0x5E044205], .vsetp 0 2 1 4 5), ([0x54018370], .shflXor 0 6 6 16), ([0x1E00C005], .movsVector 0 3 0),
   ([0x7F090000, 0x6C010110], .vatom { vb := 9, aop := 0, acq := false, rel := false, scope := 0, pol := 0, w64 := false, scr := false } 0 4 2 8 0),
   ([0xCC000300], .eret), ([0xE020A440], .cpyLin 4 5 8 1), ([0xE600C381], .bwait 6 7 1), ([0xEA012000], .shfence 9), ([0xF200B104], .mma 0 0 2 49 1)]

/-- The chosen skein's issue, made at `t`, ends in `o`, and with it the step at `s`; a skein whose wait is not over is passed over,
and the next candidate issues (06 R171, 15 R409). -/
def Issues (s t : State) (o : Out) : Prop :=
  ((t.k.wait = none ∨ ∀ x, o = .next x → x.k.wait = none ∨ x.k.uid ≠ t.k.uid) → step s = o) ∧
    ∀ x, o = .next x → t.k.wait ≠ none → x.k.wait ≠ none → x.k.uid = t.k.uid →
      step s = issueFrom (cands { s with beat := .event }).length { x with quad := s.quad }

end Sys2Proof.Claims

/-- 07 R201: g0 reads zero and discards writes; p0 reads all ones and discards writes; every other g and p register reads the
value written to it last, and a write changes no other register. -/
def Obligations.HardwiredRegisters : Prop :=
  ∀ (k : Skein) (n : Nat) (x : Word64) (m : Word32),
    rdG k 0 = 0#64 ∧ rdP k 0 = 0xFFFFFFFF#32 ∧ wrG 0 x k = k ∧ wrP 0 m k = k ∧
    (n ≠ 0 → rdG (wrG n x k) n = x ∧ rdP (wrP n m k) n = m) ∧
    ∀ j, j ≠ n → rdG (wrG n x k) j = rdG k j ∧ rdP (wrP n m k) j = rdP k j

/-- 07 R191 to R210: the words of the spec's worked encodings decode to their instructions. -/
def Obligations.WorkedWordsDecode : Prop :=
  ∀ p ∈ workedWords, decodeBytes (bytesOf p.1) = some (.ok p.2)

/-- 07 R191 to R210: decoding the bytes of a well-formed instruction's words gives the instruction back, with every operand at
every value that its encoding admits, and whatever bytes follow. -/
def Obligations.DecodingInvertsEncoding : Prop :=
  ∀ (i : Instr) (l : List Byte), i.wf = true → i.isEvent = false →
    (∀ w ∈ encode i, w < 2 ^ 32) ∧ decodeBytes (bytesOf (encode i) ++ l) = some (.ok i)

/-- 07 R195, R211: a word whose opcode is assigned to no instruction, or whose guard is 8 where the opcode has a guard, is
illegal whatever its other bits. -/
def Obligations.UnassignedWordsAreIllegal : Prop :=
  ∀ (w v : Nat), w < 2 ^ 32 → isPrefix w = false →
    (opAssigned (w / 2 ^ 25) = false → decode w v = .error .opcodeUnassigned) ∧
    (opAssigned (w / 2 ^ 25) = true → hasGuard (w / 2 ^ 25) = true → w / 2 ^ 21 % 16 = 8 → decode w v = .error .guardReserved)

/-- 01 R15, R16, R23, R25, R31, 02 R64, 07 R190: a word in the core's instruction cache is read there without a translation; a
fetch that misses it, from an executable page of a part that is not ABSENT, in a half of the space open to the context, reads the
four bytes at the program counter's home, least significant first, and fills the line. -/
def Obligations.FetchReadsProgramCounter : Prop :=
  ∀ (va : Nat) (s : State),
    (∀ x, codeHit va s = some x → x.core = s.crew.core ∧ x.ctx = s.crew.ctx ∧ x.line = va / 64 ∧ va % 64 ≤ 60 ∧
      fetchWord va s = .ok (leWord ((x.bytes.drop (va % 64)).take 4), s)) ∧
    ∀ (l : Leaf) (u : State), codeHit va s = none → va < 2 ^ 64 → va % 4 = 0 → (nb va 63 55 = 0 ∨ (nb va 63 55 = 511 ∧ isPriv s = true)) →
      leafFor s (clusterOf s.crew.core) s.crew.ctx va = .ok (.ok l, u) → l.x = true → (l.priv = true → isPriv s = true) → l.resid ≠ 2 →
      keyDev (keyOf l va) ≠ some 255 → (∀ i < 4, (keyOf l va + i) / 8 ∉ s.hm.memBad) →
      fetchWord va s = .ok (leWord ((List.range 4).map fun i => memByte s (keyOf l va + i)), fillCode (l.cpol.testBit 1) va (keyOf l va) u)

/-- 06 R171, 07 R190, R196, R211, 16 R413, 15 R409: the chosen skein takes a deferred trap, where one is due, before its issue, and
a register file, frontier or handle with an uncorrectable error ends its context; else its issue is the meaning of the
instruction that the word, or the pair, at the issuing entry's program counter decodes to, at the state that the fetch leaves; a
fetch that traps takes its trap, and a word that does not decode takes the illegal-instruction trap with the decoder's cause. The model's own
choices here (log entry 5): a scheduled event comes first, whatever the beat, what is scheduled and is no event is dropped, and issue, due
event and tick of global time, or step of a power-up in progress, take turns in this order. -/
def Obligations.StepRunsTheDecodedInstruction : Prop :=
  ∀ (s : State),
    (∀ t, s.schedule = [] → s.beat = .issue → ready { s with beat := .event } = some t →
      (∀ x, takeDeferred t = some x → Issues s t (.next x)) ∧
      (takeDeferred t = none → t.k.fileBad = true → Issues s t (.next (takeTrap false { code := 17, cause := 2 } t))) ∧
      ∀ u, takeDeferred t = none → t.k.fileBad = false → chooseEntry (correctFile t) = some u →
        (∀ e, fetchWord u.k.e.pc.toNat u = .error e → Issues s t (conclude false u (.error e))) ∧
        ∀ v w, fetchWord u.k.e.pc.toNat u = .ok (w, v) →
          (isPrefix w = false → (∀ i, decode w 0 = .ok i → Issues s t (exec i v)) ∧
            ∀ e, decode w 0 = .error e → Issues s t (.next (takeTrap false { code := 1, cause := e.causeIn (isPriv u) } u))) ∧
          (isPrefix w = true →
            (∀ e, fetchWord ((u.k.e.pc.toNat + 4) % 2 ^ 64) v = .error e → Issues s t (conclude true u (.error e))) ∧
            ∀ x z, fetchWord ((u.k.e.pc.toNat + 4) % 2 ^ 64) v = .ok (x, z) →
              (∀ i, decode w x = .ok i → Issues s t (exec i z)) ∧
              ∀ e, decode w x = .error e → Issues s t (.next (takeTrap true { code := 1, cause := e.causeIn (isPriv u) } u)))) ∧
    (s.schedule = [] → s.beat = .issue → ready { s with beat := .event } = none → step s = .next { s with beat := .event }) ∧
    (∀ i l, s.schedule = i :: l → i.isEvent = true → step s = exec i { s with schedule := l }) ∧
    (∀ i l, s.schedule = i :: l → i.isEvent = false → step s = .next { s with schedule := l }) ∧
    (∀ i, s.schedule = [] → s.beat = .event → eventAt s = some i → step s = exec i { s with beat := .tick, rot := s.rot + 1 }) ∧
    (s.schedule = [] → s.beat = .tick → s.mgt.bring = none → step s = exec .globalTimeTick { s with beat := .issue }) ∧
    ∀ b, s.schedule = [] → s.beat = .tick → s.mgt.bring = some b → step s = .next (bringStep b { s with beat := .issue })

/-! ### Traps -/

/-- 16 R414: the 64 bytes of a fault record, and the alignment of its address. -/
def Obligations.FaultRecordLayout : Prop :=
  ∀ (pair fatal : Bool) (t : TrapInfo) (s : State),
    let r := recordBytes pair fatal t s
    let k := s.k
    r.length = 64 ∧ leAt r 0 1 = t.code % 256 ∧ leAt r 1 1 = t.cause % 256 ∧
    leAt r 2 1 = (if t.deferred then 1 else 0) + (if pair then 2 else 0) + (if fatal then 4 else 0) + (if k.handler then 8 else 0) ∧
    leAt r 3 1 = t.lane % 256 ∧ leAt r 4 4 = k.e.mask.toNat ∧ leAt r 8 8 = (if t.after then k.e.pc + 4#64 else k.e.pc).toNat ∧
    leAt r 16 8 = (if t.deferred && t.after then k.e.pc + 4#64 else k.e.pc).toNat ∧ leAt r 24 8 = t.addr.toNat ∧ leAt r 32 8 = t.info0.toNat ∧
    leAt r 40 8 = t.info1.toNat ∧ leAt r 48 8 = s.gtime % 2 ^ 64 ∧ leAt r 56 2 = k.sid % 2 ^ 16 ∧ leAt r 58 2 = s.crew.core % 2 ^ 16 ∧
    leAt r 60 1 = s.crew.ctx % 256 ∧ leAt r 61 3 = 0 ∧ recordAddr s % 64 = 0

/-- 16 R411, R416, R417: a trap that is not fatal writes its record as a store at the record's home, holds the frontier, the
melded region and the bracket aside, and stands every live lane at the handler with epc and frec set, in handler mode; general,
predicate, tile and accumulator registers, FMODE and GANG keep their values. A home that holds the page, the host, or an earlier store to the
line may put the record off. ERRCNT counts an uncorrectable error first (05 R141). -/
def Obligations.TrapEntersHandler : Prop :=
  ∀ (pair : Bool) (t : TrapInfo) (key : Nat) (s : State),
    let v := if t.code = 17 then countUncorr 1 s else s
    isFatal t v = false → recordKey v = some key →
    let u := takeTrap pair t s
    u.k.handler = true ∧ u.k.e.pc.toNat = (ctxHand s s.crew.ctx).toNat / 4 * 4 ∧ u.k.e.mask = liveMask s.k ∧ u.k.rest = [] ∧
    u.k.meld = {} ∧ u.k.bracket = none ∧ u.k.wait = none ∧
    u.k.held = some { frontier := s.k.e :: s.k.rest, mask := s.k.e.mask, meld := s.k.meld, bracket := s.k.bracket } ∧
    u.k.epc.toNat = (if t.after then s.k.e.pc + 4#64 else s.k.e.pc).toNat / 4 * 4 ∧ u.k.frec = nat64 (recordAddr s) ∧
    u.k.v = s.k.v ∧ u.k.g = s.k.g ∧ u.k.p = s.k.p ∧ u.k.t = s.k.t ∧ u.k.a = s.k.a ∧ u.k.fmode = s.k.fmode ∧ u.k.gang = s.k.gang ∧
    (∃ st ∈ u.hm.timed ++ u.hm.inflight, st.uid = s.k.uid ∧ st.line = key / 64 ∧ ∀ i < 64, (key + i, (recordBytes pair false t s).getD i 0#8) ∈ st.cells) ∧
    (keyDev key ≠ some 255 → heldPage s (64 * (key / 64)) = false → (∀ x ∈ s.hm.inflight, x.uid = s.k.uid → x.line ≠ key / 64) →
      ∀ i < 64, finalByte u (key + i) = (recordBytes pair false t s).getD i 0#8)

/-- 16 R417: a trap is fatal if its row says so, if it is not deferred and is raised in handler mode, if the context has no
handler or no record area, or if its record cannot be stored; and then its context is killed with the trap's code, the record
being kept for the management processor. -/
def Obligations.FatalTrapKills : Prop :=
  ∀ (pair : Bool) (t : TrapInfo) (s : State),
    (isFatal t s = true ↔ (t.code = 17 ∧ t.cause = 2) ∨ (s.k.handler = true ∧ t.deferred = false) ∨ (ctxHand s s.crew.ctx).toNat / 4 = 0 ∨
      ctxTrap s s.crew.ctx / 2 ^ 23 % 2 ^ 25 = 0 ∨ recordKey s = none) ∧
    (let v := if t.code = 17 then countUncorr 1 s else s
     isFatal t v = true →
      ∃ m, takeTrap pair t s = kill s.crew.ctx t.code { v with mgt := { s.mgt with fatal := m } } ∧
        ∀ c, mget [] m c = if c = s.crew.ctx then recordBytes pair true t s else mget [] s.mgt.fatal c)

/-- 16 R426: a kill ends every crew of the context, resident or saved, drops its operations, its parked stores, its cached
records and its launches, closes its queues, and sets KILLED and KCODE and clears KILL; its stores that are under way complete, and crews of other contexts stay. The premise
holds of every resident crew: it is live, and its skeins have numbers. -/
def Obligations.KillEndsContext : Prop :=
  ∀ (ctx code : Nat) (s : State), code < 256 → ctx < 256 →
    (∀ c ∈ s.others, c.crew.live = true ∧ ∀ k ∈ c.skeins, k.uid ≠ 0) →
    let u := kill ctx code s
    (∀ c ∈ allCrews u, c.crew.ctx ≠ ctx) ∧ (∀ r ∈ u.sch.saved, r.crewRec.crew.ctx ≠ ctx) ∧ (∀ o ∈ u.en.ops, o.ctx ≠ ctx) ∧
    (∀ p ∈ u.hm.parked, p.ctx ≠ ctx) ∧ (∀ c ∈ u.en.cache, c.ctx ≠ ctx) ∧ (∀ l ∈ u.sch.launches, l.ctx ≠ ctx) ∧
    (∀ q ∈ u.sch.queues, q.ctx = ctx → q.opened = false) ∧
    (ctxTrap u ctx).testBit 7 = true ∧ (ctxTrap u ctx).testBit 6 = false ∧ nb (ctxTrap u ctx) 15 8 = code ∧
    nb (ctxTrap u ctx) 5 0 = nb (ctxTrap s ctx) 5 0 ∧ nb (ctxTrap u ctx) 47 23 = nb (ctxTrap s ctx) 47 23 ∧
    (∀ x ∈ u.hm.arrs, x.ctx ≠ ctx) ∧ u.hm.mem = s.hm.mem ∧ (∃ l, u.hm.inflight = s.hm.inflight ++ l) ∧ (∃ l, u.hm.timed = s.hm.timed ++ l) ∧
    ∀ c ∈ s.others, c.crew.ctx ≠ ctx → ∃ d ∈ allCrews u, d.crew.uid = c.crew.uid ∧ d.skeins = c.skeins

/-! ### Reset, and what every step keeps -/

/-- 18 R444, R450, 16 R416, 04 R110: after reset compute is not enabled and nothing runs, global time is zero, no trap handler is
set, no context has been killed, no translation is cached, no store is under way, every stream is off, and the privileged view holds the values of its tables:
PVLCFG.PORT 47,269 (17 R434), LASTLEFT 0xFF, leases of 256 ticks, BTIMER 4,096, BSTALL 24 and LIFT 1,024 (06 R173), E4SAT set and
rounding to nearest even (09 R255), and every other register zero. That memory lists nothing, so that every byte reads zero, is the model's
choice (log entries 2, 102). -/
def Obligations.ResetState : Prop :=
  let s := State.reset
  computeOn s = false ∧ s.gtime = 0 ∧ allCrews s = [] ∧ s.hm.mem = [] ∧ s.hm.inflight = [] ∧ s.hm.tlb = [] ∧ s.en.ops = [] ∧ s.fab.streams = [] ∧
    (∀ c < 256, ctxHand s c = 0#64 ∧ ctxTrap s c = 0 ∧ (preg s (ctxReg c 1)).toNat = 256 ∧ preg s (ctxReg c 3) = 0x1100#64 ∧
      nb (preg s (ctxReg c 2)).toNat 47 32 = 4096 ∧ nb (preg s (ctxReg c 2)).toNat 28 24 = 24 ∧ nb (preg s (ctxReg c 2)).toNat 15 0 = 1024 ∧
      ∀ f, f = 0 ∨ f = 4 ∨ f = 7 → preg s (ctxReg c f) = 0#64) ∧
    nb (preg s 0x18).toNat 31 16 = 47269 ∧ nb (preg s 0x18).toNat 63 32 = 0 ∧ nb (preg s 0x18).toNat 15 0 = 0 ∧ preg s 0x1A = 0x00FF0000#64 ∧
    ∀ i ∈ [0, 1, 2, 8, 9, 0x10, 0x11, 0x19, 0x20, 0x21], preg s i = 0#64

/-- The model's canonical form of memory (log entry 2): listed bytes in strictly rising order of address, none of them zero. It
holds after reset. -/
def Obligations.ResetMemoryIsCanonical : Prop := Memory.wf State.reset.hm.mem = true

/-- The model's canonical form of memory (log entry 2) is kept by every step, so that equal memories are equal data. -/
def Obligations.MemoryStaysCanonical : Prop :=
  ∀ (s t : State), Memory.wf s.hm.mem = true → step s = .next t → Memory.wf t.hm.mem = true
end

