-- ==== Sys2Proof/Laws/Sparse.lean ====
section
/-! SUPPORT. Sparse storage: read after write, and the canonical form that every write keeps. -/
namespace Sys2Proof.Laws
open Sys2Proof.Machine

variable {α : Type}

/-- A deletion keeps the entries of the other keys. -/
theorem mdel_eq (k : Nat) (m : SMap α) : mdel k m = m.filter fun e => e.1 ≠ k := by
  induction m <;> simp_all [mdel, List.filter_cons, apply_ite]

theorem mdel_ne (k : Nat) (m : SMap α) : ∀ e ∈ mdel k m, e.1 ≠ k := by simp [mdel_eq]

theorem mget_mdel (d : α) (m : SMap α) (k j : Nat) : mget d (mdel k m) j = if j = k then d else mget d m j := by
  induction m <;> simp only [mdel, mget] <;> grind [mget]

theorem mget_mins (d : α) (m : SMap α) (k : Nat) (v : α) (j : Nat) (h : ∀ e ∈ m, e.1 ≠ k) :
    mget d (mins k v m) j = if j = k then v else mget d m j := by
  induction m <;> simp only [mins, mget] <;> grind [mget]

/-- Read after write: the written key answers the value, every other key what it answered before. -/
@[simp] theorem mget_mset [DecidableEq α] (d : α) (m : SMap α) (k : Nat) (v : α) (j : Nat) :
    mget d (mset d m k v) j = if j = k then v else mget d m j := by
  unfold mset
  split <;> rename_i hv
  · rw [mget_mdel, hv]
  · rw [mget_mins _ _ _ _ _ (mdel_ne k m), mget_mdel]
    split <;> simp_all

/-! ### The canonical form -/

theorem mwf_cons [DecidableEq α] (d : α) (k : Nat) (v : α) (m : SMap α) :
    mwf d ((k, v) :: m) = true ↔ v ≠ d ∧ (∀ e ∈ m, k < e.1) ∧ mwf d m = true := by
  simp [mwf, and_assoc]

theorem mwf_filter [DecidableEq α] (d : α) (p : Nat × α → Bool) {m : SMap α} (h : mwf d m = true) : mwf d (m.filter p) = true := by
  induction m <;> grind [mwf]

theorem mwf_mins [DecidableEq α] (d : α) (k : Nat) {v : α} (hv : v ≠ d) {m : SMap α} (hm : ∀ e ∈ m, e.1 ≠ k) (h : mwf d m = true) :
    mwf d (mins k v m) = true := by
  have mem_mins (m : SMap α) (e : Nat × α) : e ∈ mins k v m ↔ e = (k, v) ∨ e ∈ m := by induction m <;> grind [mins]
  induction m <;> grind [mwf, mins]

/-- A write keeps the canonical form. -/
theorem mwf_mset [DecidableEq α] (d : α) (k : Nat) (v : α) {m : SMap α} (h : mwf d m = true) : mwf d (mset d m k v) = true := by
  unfold mset
  split
  · exact mdel_eq k m ▸ mwf_filter d _ h
  · rename_i hv
    exact mwf_mins d k hv (mdel_ne k m) (mdel_eq k m ▸ mwf_filter d _ h)

end Sys2Proof.Laws
end

