-- ==== Sys2Proof/Laws/Registers.lean ====
section
/-! SUPPORT. The named reads of every register class after the named writes (07 R201). -/
namespace Sys2Proof.Laws
open Sys2Proof.Machine

theorem getV_putV_list (act : Word32) (dst : Nat → Nat) (f : Nat → Word32) (n L : Nat) (hL : L < 32) :
    ∀ (l : List Nat) (v : SMap Word32), (∀ j ∈ l, j < 32) → l.Nodup →
      getV (l.foldl (fun m j => if laneOn act j then mset 0#32 m (32 * dst j + j) (f j) else m) v) n L =
        if L ∈ l ∧ laneOn act L = true ∧ n = dst L then f L else getV v n L := by
  intro l
  induction l with
  | nil => simp
  | cons j l ih =>
    intro v hl hd
    have hj : j < 32 := hl j (by simp)
    obtain ⟨hjl, hd'⟩ := List.nodup_cons.mp hd
    rw [List.foldl_cons, ih _ (fun i hi => hl i (by simp [hi])) hd']
    by_cases hjL : L = j
    · subst hjL
      simp only [hjl, false_and, if_false, List.mem_cons, true_or, true_and, getV]
      split <;> rename_i ha
      · rw [mget_mset]
        by_cases hn : n = dst L <;> simp [hn, ha]
      · simp [ha]
    · have h1 : getV (if laneOn act j = true then mset 0#32 v (32 * dst j + j) (f j) else v) n L = getV v n L := by
        split
        · simp only [getV, mget_mset]
          rw [if_neg (by omega)]
        · rfl
      simp only [List.mem_cons, hjL, false_or, h1]

/-- V after a lane write: the written register of each lane of the mask, and every other register as before. -/
theorem getV_putV (act : Word32) (dst : Nat → Nat) (f : Nat → Word32) (v : SMap Word32) (n L : Nat) (hL : L < 32) :
    getV (putV act dst f v) n L = if laneOn act L = true ∧ n = dst L then f L else getV v n L := by
  unfold putV
  rw [getV_putV_list act dst f n L hL laneList v (by simp [laneList]) (List.nodup_range)]
  simp [laneList, hL]

@[simp] theorem wrV_v (act : Word32) (n : Nat) (f : Nat → Word32) (k : Skein) : (wrV act n f k).v = putV act (fun L => ren k L n) f k.v := rfl

theorem rdG_wrG (k : Skein) (n : Nat) (x : Word64) (m : Nat) : rdG (wrG n x k) m = if m = n ∧ n ≠ 0 then x else rdG k m := by
  by_cases hn : n = 0
  · simp [wrG, hn]
  · by_cases hm : m = 0
    · simp [rdG, hm, hn, Ne.symm hn]
    · simp [wrG, rdG, hn, hm]

theorem rdP_wrP (k : Skein) (n : Nat) (x : Word32) (m : Nat) : rdP (wrP n x k) m = if m = n ∧ n ≠ 0 then x else rdP k m := by
  by_cases hn : n = 0
  · simp [wrP, hn]
  · by_cases hm : m = 0
    · simp [rdP, hm, hn, Ne.symm hn]
    · simp [wrP, rdP, hn, hm]

@[simp] theorem rdG_zero (k : Skein) : rdG k 0 = 0#64 := rfl
@[simp] theorem rdP_zero (k : Skein) : rdP k 0 = 0xFFFFFFFF#32 := rfl
@[simp] theorem wrG_zero (k : Skein) (x : Word64) : wrG 0 x k = k := rfl
@[simp] theorem wrP_zero (k : Skein) (x : Word32) : wrP 0 x k = k := rfl

@[simp] theorem rdT_wrT (k : Skein) (n : Nat) (x : Word128) (m : Nat) : rdT (wrT n x k) m = if m = n then x else rdT k m := by simp [rdT, wrT]
@[simp] theorem rdA_wrA (k : Skein) (n : Nat) (x : Word64) (m : Nat) : rdA (wrA n x k) m = if m = n then x else rdA k m := by simp [rdA, wrA]

/-- wrG changes the g registers alone. -/
theorem wrG_frame (n : Nat) (x : Word64) (k : Skein) : wrG n x k = { k with g := (wrG n x k).g } := by unfold wrG; split <;> rfl
theorem wrP_frame (n : Nat) (x : Word32) (k : Skein) : wrP n x k = { k with p := (wrP n x k).p } := by unfold wrP; split <;> rfl

/-- Bit L of a mask built from a test. -/
theorem laneOn_maskOf (f : Nat → Bool) (L : Nat) (hL : L < 32) : laneOn (maskOf f) L = f L := by
  have key : ∀ (l : List Nat) (m : Word32), (∀ j ∈ l, j < 32) →
      laneOn (l.foldl (fun m L => if f L then m ||| (1#32 <<< L) else m) m) L = (laneOn m L || (decide (L ∈ l) && f L)) := by
    intro l
    induction l with
    | nil => simp
    | cons j l ih =>
      intro m hl
      have hj : j < 32 := hl j (by simp)
      rw [List.foldl_cons, ih _ fun i hi => hl i (by simp [hi])]
      have hb : (1#32 <<< j).getLsbD L = decide (L = j) := by
        simp only [BitVec.getLsbD_shiftLeft, BitVec.getLsbD_one]
        by_cases h : L = j
        · simp [h, hj]
        · by_cases h2 : L < j
          · simp [h, h2]
          · have : L - j ≠ 0 := by omega
            simp [h, this]
      by_cases hf : f j
      · simp only [hf, if_true, laneOn, BitVec.getLsbD_or, hb]
        by_cases h : L = j
        · subst h; simp [hf]
        · simp [h]
      · by_cases h : L = j
        · subst h; simp [hf, laneOn]
        · simp [hf, h]
  unfold maskOf
  rw [key laneList _ (by simp [laneList])]
  simp [laneList, hL, laneOn]

theorem laneOn_and (a b : Word32) (L : Nat) : laneOn (a &&& b) L = (laneOn a L && laneOn b L) := by simp [laneOn]
theorem laneOn_or (a b : Word32) (L : Nat) : laneOn (a ||| b) L = (laneOn a L || laneOn b L) := by simp [laneOn]
theorem laneOn_not (a : Word32) (L : Nat) (hL : L < 32) : laneOn (~~~ a) L = !laneOn a L := by simp [laneOn, hL]

/-- A predicate write under a mask: the mask's lanes from the result, the others as before. -/
theorem laneOn_blend (act x old : Word32) (L : Nat) (hL : L < 32) :
    laneOn (blend act x old) L = if laneOn act L then laneOn x L else laneOn old L := by
  simp only [blend, laneOn_or, laneOn_and, laneOn_not _ _ hL]
  cases laneOn act L <;> simp

theorem mem_lanesOf (m : Word32) (L : Nat) : L ∈ lanesOf m ↔ L < 32 ∧ laneOn m L = true := by
  simp [lanesOf, laneList]

end Sys2Proof.Laws
end

