-- ==== Sys2Proof/Laws/Issue.lean ====
section
/-! SUPPORT. What the shared operations of issue do once the checks pass: issue, simple and the operations built on them. -/
namespace Sys2Proof.Laws
open Sys2Proof.Machine

@[simp] theorem conclude_ok (p : Bool) (s t : State) : conclude p s (.ok t) = .next t := rfl
@[simp] theorem conclude_trap (p : Bool) (s : State) (t : TrapInfo) : conclude p s (.error (.trap t)) = .next (takeTrap p t s) := rfl
@[simp] theorem conclude_wait (p : Bool) (s u : State) (k g : Nat) : conclude p s (.error (.wait u k g)) = .next (beginWait k g u) := rfl

/-- An outcome of `conclude` is a next state or the machine's fault, never a refusal. -/
theorem conclude_cases (p : Bool) (s : State) (r : Res State) : (∃ t, conclude p s r = .next t) ∨ ∃ f, conclude p s r = .fault f := by
  unfold conclude
  split <;> first | exact .inl ⟨_, rfl⟩ | exact .inr ⟨_, rfl⟩

/-- An instruction whose checks pass acts. -/
theorem issue_passes {r : Req} {s : State} (f : State → Res State) (hc : check r s = none) (hs : r.stores = true → storeCount s < 255)
    (hh : heldHit r s = false) : issue r s f = conclude (decide (r.len = 2)) s (f s) := by
  have h : (r.stores && decide (255 ≤ storeCount s)) = false := by
    cases hr : r.stores
    · rfl
    · simpa using hs hr
  simp [issue, hc, h, hh]

/-- A check that names a trap: the instruction takes it. -/
theorem issue_trap {r : Req} {s : State} (f : State → Res State) {t : TrapInfo} (hc : check r s = some t) :
    issue r s f = .next (takeTrap (decide (r.len = 2)) t s) := by
  simp [issue, hc]

/-- What an issue can end in, whatever the meaning. -/
theorem issue_cases (r : Req) (s : State) (f : State → Res State) :
    (∃ t, check r s = some t ∧ issue r s f = .next (takeTrap (decide (r.len = 2)) t s)) ∨
      (check r s = none ∧ issue r s f = .next (beginWait 0 0 s)) ∨
      (check r s = none ∧ issue r s f = conclude (decide (r.len = 2)) s (f s)) := by
  unfold issue
  cases hc : check r s
  · right
    simp only
    split <;> simp
  · left
    exact ⟨_, rfl, rfl⟩

theorem simple_passes {r : Req} {s : State} (f : State → State) (hc : check r s = none) (hs : r.stores = true → storeCount s < 255)
    (hh : heldHit r s = false) : simple r s f = .next (retire r.len (f s)) := by
  simp [simple, issue_passes _ hc hs hh]

theorem laneOp_passes {r : Req} {s : State} (g d : Nat) (f : Skein → Nat → Word32) (hc : check r s = none)
    (hs : r.stores = true → storeCount s < 255) (hh : heldHit r s = false) :
    laneOp r g d f s = .next (retire r.len { s with k := wrV (active s.k g) d (f s.k) s.k }) :=
  simple_passes _ hc hs hh

theorem unifOp_passes {s : State} (d : Nat) (f : Skein → Word64) (hc : check {} s = none) (hh : heldHit {} s = false) :
    unifOp d f s = .next (retire 1 { s with k := wrG d (f s.k) s.k }) :=
  simple_passes _ hc (by simp) hh

theorem predOp_passes {r : Req} {s : State} (g p : Nat) (f : Skein → Word32) (hc : check r s = none)
    (hs : r.stores = true → storeCount s < 255) (hh : heldHit r s = false) :
    predOp r g p f s = .next (retire r.len { s with k := wrP p (blend (active s.k g) (f s.k) (rdP s.k p)) s.k }) :=
  simple_passes _ hc hs hh

theorem floatOp_passes {r : Req} {s : State} (g d : Nat) (sr : State → Bool) (f : State → Nat → Nat × Nat) (hc : check r s = none)
    (hs : r.stores = true → storeCount s < 255) (hh : heldHit r s = false) :
    floatOp r g d sr f s = .next (retire r.len { s with k := { wrV (active s.k g) d (fun L => w32 (f s L).1) s.k with
      fmode := stepCtr (sr s) (orFlags (unionFlags (active s.k g) fun L => (f s L).2) s.k.fmode) } }) :=
  simple_passes _ hc hs hh

theorem itvOp_passes {r : Req} {s : State} (g d : Nat) (f : Skein → Nat → Word64 × Nat) (hc : check r s = none)
    (hs : r.stores = true → storeCount s < 255) (hh : heldHit r s = false) :
    itvOp r g d f s = .next (retire r.len { s with k := { wrV2 (active s.k g) d (fun L => (f s.k L).1) s.k with
      fmode := orFlags (unionFlags (active s.k g) fun L => (f s.k L).2) s.k.fmode } }) :=
  simple_passes _ hc hs hh

end Sys2Proof.Laws
end

