-- ==== Sys2Proof/Laws/State.lean ====
section
/-! SUPPORT. What the named updates of the state do to each of its fields, so that no proof unfolds a record update. -/
namespace Sys2Proof.Laws
open Sys2Proof.Machine

/-! ### setPreg -/

@[simp] theorem setPreg_k (i : Nat) (x : Word64) (s : State) : (setPreg i x s).k = s.k := rfl
@[simp] theorem setPreg_peers (i : Nat) (x : Word64) (s : State) : (setPreg i x s).peers = s.peers := rfl
@[simp] theorem setPreg_crew (i : Nat) (x : Word64) (s : State) : (setPreg i x s).crew = s.crew := rfl
@[simp] theorem setPreg_others (i : Nat) (x : Word64) (s : State) : (setPreg i x s).others = s.others := rfl
@[simp] theorem setPreg_gtime (i : Nat) (x : Word64) (s : State) : (setPreg i x s).gtime = s.gtime := rfl
@[simp] theorem setPreg_clocks (i : Nat) (x : Word64) (s : State) : (setPreg i x s).clocks = s.clocks := rfl
@[simp] theorem setPreg_preg (i : Nat) (x : Word64) (s : State) : (setPreg i x s).preg = mset (pregReset i) s.preg i x := rfl
@[simp] theorem setPreg_hm (i : Nat) (x : Word64) (s : State) : (setPreg i x s).hm = s.hm := rfl
@[simp] theorem setPreg_xl (i : Nat) (x : Word64) (s : State) : (setPreg i x s).xl = s.xl := rfl
@[simp] theorem setPreg_sch (i : Nat) (x : Word64) (s : State) : (setPreg i x s).sch = s.sch := rfl
@[simp] theorem setPreg_en (i : Nat) (x : Word64) (s : State) : (setPreg i x s).en = s.en := rfl
@[simp] theorem setPreg_fab (i : Nat) (x : Word64) (s : State) : (setPreg i x s).fab = s.fab := rfl
@[simp] theorem setPreg_mgt (i : Nat) (x : Word64) (s : State) : (setPreg i x s).mgt = s.mgt := rfl
@[simp] theorem setPreg_privCtx (i : Nat) (x : Word64) (s : State) : (setPreg i x s).privCtx = s.privCtx := rfl
@[simp] theorem setPreg_netAddrs (i : Nat) (x : Word64) (s : State) : (setPreg i x s).netAddrs = s.netAddrs := rfl
@[simp] theorem setPreg_schedule (i : Nat) (x : Word64) (s : State) : (setPreg i x s).schedule = s.schedule := rfl
@[simp] theorem setPreg_beat (i : Nat) (x : Word64) (s : State) : (setPreg i x s).beat = s.beat := rfl
@[simp] theorem setPreg_quad (i : Nat) (x : Word64) (s : State) : (setPreg i x s).quad = s.quad := rfl
@[simp] theorem setPreg_rot (i : Nat) (x : Word64) (s : State) : (setPreg i x s).rot = s.rot := rfl
@[simp] theorem setPreg_seqNo (i : Nat) (x : Word64) (s : State) : (setPreg i x s).seqNo = s.seqNo := rfl
@[simp] theorem setPreg_ids (i : Nat) (x : Word64) (s : State) : (setPreg i x s).ids = s.ids := rfl
@[simp] theorem setPreg_free (i : Nat) (x : Word64) (s : State) : (setPreg i x s).free = s.free := rfl

/-! ### modHm -/

@[simp] theorem modHm_k (f : Homes → Homes) (s : State) : (modHm f s).k = s.k := rfl
@[simp] theorem modHm_peers (f : Homes → Homes) (s : State) : (modHm f s).peers = s.peers := rfl
@[simp] theorem modHm_crew (f : Homes → Homes) (s : State) : (modHm f s).crew = s.crew := rfl
@[simp] theorem modHm_others (f : Homes → Homes) (s : State) : (modHm f s).others = s.others := rfl
@[simp] theorem modHm_gtime (f : Homes → Homes) (s : State) : (modHm f s).gtime = s.gtime := rfl
@[simp] theorem modHm_clocks (f : Homes → Homes) (s : State) : (modHm f s).clocks = s.clocks := rfl
@[simp] theorem modHm_preg (f : Homes → Homes) (s : State) : (modHm f s).preg = s.preg := rfl
@[simp] theorem modHm_hm (f : Homes → Homes) (s : State) : (modHm f s).hm = f s.hm := rfl
@[simp] theorem modHm_xl (f : Homes → Homes) (s : State) : (modHm f s).xl = s.xl := rfl
@[simp] theorem modHm_sch (f : Homes → Homes) (s : State) : (modHm f s).sch = s.sch := rfl
@[simp] theorem modHm_en (f : Homes → Homes) (s : State) : (modHm f s).en = s.en := rfl
@[simp] theorem modHm_fab (f : Homes → Homes) (s : State) : (modHm f s).fab = s.fab := rfl
@[simp] theorem modHm_mgt (f : Homes → Homes) (s : State) : (modHm f s).mgt = s.mgt := rfl
@[simp] theorem modHm_privCtx (f : Homes → Homes) (s : State) : (modHm f s).privCtx = s.privCtx := rfl
@[simp] theorem modHm_netAddrs (f : Homes → Homes) (s : State) : (modHm f s).netAddrs = s.netAddrs := rfl
@[simp] theorem modHm_schedule (f : Homes → Homes) (s : State) : (modHm f s).schedule = s.schedule := rfl
@[simp] theorem modHm_beat (f : Homes → Homes) (s : State) : (modHm f s).beat = s.beat := rfl
@[simp] theorem modHm_quad (f : Homes → Homes) (s : State) : (modHm f s).quad = s.quad := rfl
@[simp] theorem modHm_rot (f : Homes → Homes) (s : State) : (modHm f s).rot = s.rot := rfl
@[simp] theorem modHm_seqNo (f : Homes → Homes) (s : State) : (modHm f s).seqNo = s.seqNo := rfl
@[simp] theorem modHm_ids (f : Homes → Homes) (s : State) : (modHm f s).ids = s.ids := rfl
@[simp] theorem modHm_free (f : Homes → Homes) (s : State) : (modHm f s).free = s.free := rfl

/-! ### modXl -/

@[simp] theorem modXl_k (f : Xlate → Xlate) (s : State) : (modXl f s).k = s.k := rfl
@[simp] theorem modXl_peers (f : Xlate → Xlate) (s : State) : (modXl f s).peers = s.peers := rfl
@[simp] theorem modXl_crew (f : Xlate → Xlate) (s : State) : (modXl f s).crew = s.crew := rfl
@[simp] theorem modXl_others (f : Xlate → Xlate) (s : State) : (modXl f s).others = s.others := rfl
@[simp] theorem modXl_gtime (f : Xlate → Xlate) (s : State) : (modXl f s).gtime = s.gtime := rfl
@[simp] theorem modXl_clocks (f : Xlate → Xlate) (s : State) : (modXl f s).clocks = s.clocks := rfl
@[simp] theorem modXl_preg (f : Xlate → Xlate) (s : State) : (modXl f s).preg = s.preg := rfl
@[simp] theorem modXl_hm (f : Xlate → Xlate) (s : State) : (modXl f s).hm = s.hm := rfl
@[simp] theorem modXl_xl (f : Xlate → Xlate) (s : State) : (modXl f s).xl = f s.xl := rfl
@[simp] theorem modXl_sch (f : Xlate → Xlate) (s : State) : (modXl f s).sch = s.sch := rfl
@[simp] theorem modXl_en (f : Xlate → Xlate) (s : State) : (modXl f s).en = s.en := rfl
@[simp] theorem modXl_fab (f : Xlate → Xlate) (s : State) : (modXl f s).fab = s.fab := rfl
@[simp] theorem modXl_mgt (f : Xlate → Xlate) (s : State) : (modXl f s).mgt = s.mgt := rfl
@[simp] theorem modXl_privCtx (f : Xlate → Xlate) (s : State) : (modXl f s).privCtx = s.privCtx := rfl
@[simp] theorem modXl_netAddrs (f : Xlate → Xlate) (s : State) : (modXl f s).netAddrs = s.netAddrs := rfl
@[simp] theorem modXl_schedule (f : Xlate → Xlate) (s : State) : (modXl f s).schedule = s.schedule := rfl
@[simp] theorem modXl_beat (f : Xlate → Xlate) (s : State) : (modXl f s).beat = s.beat := rfl
@[simp] theorem modXl_quad (f : Xlate → Xlate) (s : State) : (modXl f s).quad = s.quad := rfl
@[simp] theorem modXl_rot (f : Xlate → Xlate) (s : State) : (modXl f s).rot = s.rot := rfl
@[simp] theorem modXl_seqNo (f : Xlate → Xlate) (s : State) : (modXl f s).seqNo = s.seqNo := rfl
@[simp] theorem modXl_ids (f : Xlate → Xlate) (s : State) : (modXl f s).ids = s.ids := rfl
@[simp] theorem modXl_free (f : Xlate → Xlate) (s : State) : (modXl f s).free = s.free := rfl

/-! ### modSch -/

@[simp] theorem modSch_k (f : Sched → Sched) (s : State) : (modSch f s).k = s.k := rfl
@[simp] theorem modSch_peers (f : Sched → Sched) (s : State) : (modSch f s).peers = s.peers := rfl
@[simp] theorem modSch_crew (f : Sched → Sched) (s : State) : (modSch f s).crew = s.crew := rfl
@[simp] theorem modSch_others (f : Sched → Sched) (s : State) : (modSch f s).others = s.others := rfl
@[simp] theorem modSch_gtime (f : Sched → Sched) (s : State) : (modSch f s).gtime = s.gtime := rfl
@[simp] theorem modSch_clocks (f : Sched → Sched) (s : State) : (modSch f s).clocks = s.clocks := rfl
@[simp] theorem modSch_preg (f : Sched → Sched) (s : State) : (modSch f s).preg = s.preg := rfl
@[simp] theorem modSch_hm (f : Sched → Sched) (s : State) : (modSch f s).hm = s.hm := rfl
@[simp] theorem modSch_xl (f : Sched → Sched) (s : State) : (modSch f s).xl = s.xl := rfl
@[simp] theorem modSch_sch (f : Sched → Sched) (s : State) : (modSch f s).sch = f s.sch := rfl
@[simp] theorem modSch_en (f : Sched → Sched) (s : State) : (modSch f s).en = s.en := rfl
@[simp] theorem modSch_fab (f : Sched → Sched) (s : State) : (modSch f s).fab = s.fab := rfl
@[simp] theorem modSch_mgt (f : Sched → Sched) (s : State) : (modSch f s).mgt = s.mgt := rfl
@[simp] theorem modSch_privCtx (f : Sched → Sched) (s : State) : (modSch f s).privCtx = s.privCtx := rfl
@[simp] theorem modSch_netAddrs (f : Sched → Sched) (s : State) : (modSch f s).netAddrs = s.netAddrs := rfl
@[simp] theorem modSch_schedule (f : Sched → Sched) (s : State) : (modSch f s).schedule = s.schedule := rfl
@[simp] theorem modSch_beat (f : Sched → Sched) (s : State) : (modSch f s).beat = s.beat := rfl
@[simp] theorem modSch_quad (f : Sched → Sched) (s : State) : (modSch f s).quad = s.quad := rfl
@[simp] theorem modSch_rot (f : Sched → Sched) (s : State) : (modSch f s).rot = s.rot := rfl
@[simp] theorem modSch_seqNo (f : Sched → Sched) (s : State) : (modSch f s).seqNo = s.seqNo := rfl
@[simp] theorem modSch_ids (f : Sched → Sched) (s : State) : (modSch f s).ids = s.ids := rfl
@[simp] theorem modSch_free (f : Sched → Sched) (s : State) : (modSch f s).free = s.free := rfl

/-! ### modEn -/

@[simp] theorem modEn_k (f : Engines → Engines) (s : State) : (modEn f s).k = s.k := rfl
@[simp] theorem modEn_peers (f : Engines → Engines) (s : State) : (modEn f s).peers = s.peers := rfl
@[simp] theorem modEn_crew (f : Engines → Engines) (s : State) : (modEn f s).crew = s.crew := rfl
@[simp] theorem modEn_others (f : Engines → Engines) (s : State) : (modEn f s).others = s.others := rfl
@[simp] theorem modEn_gtime (f : Engines → Engines) (s : State) : (modEn f s).gtime = s.gtime := rfl
@[simp] theorem modEn_clocks (f : Engines → Engines) (s : State) : (modEn f s).clocks = s.clocks := rfl
@[simp] theorem modEn_preg (f : Engines → Engines) (s : State) : (modEn f s).preg = s.preg := rfl
@[simp] theorem modEn_hm (f : Engines → Engines) (s : State) : (modEn f s).hm = s.hm := rfl
@[simp] theorem modEn_xl (f : Engines → Engines) (s : State) : (modEn f s).xl = s.xl := rfl
@[simp] theorem modEn_sch (f : Engines → Engines) (s : State) : (modEn f s).sch = s.sch := rfl
@[simp] theorem modEn_en (f : Engines → Engines) (s : State) : (modEn f s).en = f s.en := rfl
@[simp] theorem modEn_fab (f : Engines → Engines) (s : State) : (modEn f s).fab = s.fab := rfl
@[simp] theorem modEn_mgt (f : Engines → Engines) (s : State) : (modEn f s).mgt = s.mgt := rfl
@[simp] theorem modEn_privCtx (f : Engines → Engines) (s : State) : (modEn f s).privCtx = s.privCtx := rfl
@[simp] theorem modEn_netAddrs (f : Engines → Engines) (s : State) : (modEn f s).netAddrs = s.netAddrs := rfl
@[simp] theorem modEn_schedule (f : Engines → Engines) (s : State) : (modEn f s).schedule = s.schedule := rfl
@[simp] theorem modEn_beat (f : Engines → Engines) (s : State) : (modEn f s).beat = s.beat := rfl
@[simp] theorem modEn_quad (f : Engines → Engines) (s : State) : (modEn f s).quad = s.quad := rfl
@[simp] theorem modEn_rot (f : Engines → Engines) (s : State) : (modEn f s).rot = s.rot := rfl
@[simp] theorem modEn_seqNo (f : Engines → Engines) (s : State) : (modEn f s).seqNo = s.seqNo := rfl
@[simp] theorem modEn_ids (f : Engines → Engines) (s : State) : (modEn f s).ids = s.ids := rfl
@[simp] theorem modEn_free (f : Engines → Engines) (s : State) : (modEn f s).free = s.free := rfl

/-! ### modFab -/

@[simp] theorem modFab_k (f : Fabric → Fabric) (s : State) : (modFab f s).k = s.k := rfl
@[simp] theorem modFab_peers (f : Fabric → Fabric) (s : State) : (modFab f s).peers = s.peers := rfl
@[simp] theorem modFab_crew (f : Fabric → Fabric) (s : State) : (modFab f s).crew = s.crew := rfl
@[simp] theorem modFab_others (f : Fabric → Fabric) (s : State) : (modFab f s).others = s.others := rfl
@[simp] theorem modFab_gtime (f : Fabric → Fabric) (s : State) : (modFab f s).gtime = s.gtime := rfl
@[simp] theorem modFab_clocks (f : Fabric → Fabric) (s : State) : (modFab f s).clocks = s.clocks := rfl
@[simp] theorem modFab_preg (f : Fabric → Fabric) (s : State) : (modFab f s).preg = s.preg := rfl
@[simp] theorem modFab_hm (f : Fabric → Fabric) (s : State) : (modFab f s).hm = s.hm := rfl
@[simp] theorem modFab_xl (f : Fabric → Fabric) (s : State) : (modFab f s).xl = s.xl := rfl
@[simp] theorem modFab_sch (f : Fabric → Fabric) (s : State) : (modFab f s).sch = s.sch := rfl
@[simp] theorem modFab_en (f : Fabric → Fabric) (s : State) : (modFab f s).en = s.en := rfl
@[simp] theorem modFab_fab (f : Fabric → Fabric) (s : State) : (modFab f s).fab = f s.fab := rfl
@[simp] theorem modFab_mgt (f : Fabric → Fabric) (s : State) : (modFab f s).mgt = s.mgt := rfl
@[simp] theorem modFab_privCtx (f : Fabric → Fabric) (s : State) : (modFab f s).privCtx = s.privCtx := rfl
@[simp] theorem modFab_netAddrs (f : Fabric → Fabric) (s : State) : (modFab f s).netAddrs = s.netAddrs := rfl
@[simp] theorem modFab_schedule (f : Fabric → Fabric) (s : State) : (modFab f s).schedule = s.schedule := rfl
@[simp] theorem modFab_beat (f : Fabric → Fabric) (s : State) : (modFab f s).beat = s.beat := rfl
@[simp] theorem modFab_quad (f : Fabric → Fabric) (s : State) : (modFab f s).quad = s.quad := rfl
@[simp] theorem modFab_rot (f : Fabric → Fabric) (s : State) : (modFab f s).rot = s.rot := rfl
@[simp] theorem modFab_seqNo (f : Fabric → Fabric) (s : State) : (modFab f s).seqNo = s.seqNo := rfl
@[simp] theorem modFab_ids (f : Fabric → Fabric) (s : State) : (modFab f s).ids = s.ids := rfl
@[simp] theorem modFab_free (f : Fabric → Fabric) (s : State) : (modFab f s).free = s.free := rfl

/-! ### emit -/

@[simp] theorem emit_k (o : Output) (s : State) : (emit o s).k = s.k := rfl
@[simp] theorem emit_peers (o : Output) (s : State) : (emit o s).peers = s.peers := rfl
@[simp] theorem emit_crew (o : Output) (s : State) : (emit o s).crew = s.crew := rfl
@[simp] theorem emit_others (o : Output) (s : State) : (emit o s).others = s.others := rfl
@[simp] theorem emit_gtime (o : Output) (s : State) : (emit o s).gtime = s.gtime := rfl
@[simp] theorem emit_clocks (o : Output) (s : State) : (emit o s).clocks = s.clocks := rfl
@[simp] theorem emit_preg (o : Output) (s : State) : (emit o s).preg = s.preg := rfl
@[simp] theorem emit_hm (o : Output) (s : State) : (emit o s).hm = s.hm := rfl
@[simp] theorem emit_xl (o : Output) (s : State) : (emit o s).xl = s.xl := rfl
@[simp] theorem emit_sch (o : Output) (s : State) : (emit o s).sch = s.sch := rfl
@[simp] theorem emit_en (o : Output) (s : State) : (emit o s).en = s.en := rfl
@[simp] theorem emit_fab (o : Output) (s : State) : (emit o s).fab = { s.fab with out := s.fab.out ++ [o] } := rfl
@[simp] theorem emit_mgt (o : Output) (s : State) : (emit o s).mgt = s.mgt := rfl
@[simp] theorem emit_privCtx (o : Output) (s : State) : (emit o s).privCtx = s.privCtx := rfl
@[simp] theorem emit_netAddrs (o : Output) (s : State) : (emit o s).netAddrs = s.netAddrs := rfl
@[simp] theorem emit_schedule (o : Output) (s : State) : (emit o s).schedule = s.schedule := rfl
@[simp] theorem emit_beat (o : Output) (s : State) : (emit o s).beat = s.beat := rfl
@[simp] theorem emit_quad (o : Output) (s : State) : (emit o s).quad = s.quad := rfl
@[simp] theorem emit_rot (o : Output) (s : State) : (emit o s).rot = s.rot := rfl
@[simp] theorem emit_seqNo (o : Output) (s : State) : (emit o s).seqNo = s.seqNo := rfl
@[simp] theorem emit_ids (o : Output) (s : State) : (emit o s).ids = s.ids := rfl
@[simp] theorem emit_free (o : Output) (s : State) : (emit o s).free = s.free := rfl

/-! ### settle -/

@[simp] theorem settle_peers (b : Bool) (l : List Entry) (s : State) : (settle b l s).peers = s.peers := rfl
@[simp] theorem settle_crew (b : Bool) (l : List Entry) (s : State) : (settle b l s).crew = s.crew := rfl
@[simp] theorem settle_others (b : Bool) (l : List Entry) (s : State) : (settle b l s).others = s.others := rfl
@[simp] theorem settle_gtime (b : Bool) (l : List Entry) (s : State) : (settle b l s).gtime = s.gtime := rfl
@[simp] theorem settle_clocks (b : Bool) (l : List Entry) (s : State) : (settle b l s).clocks = s.clocks := rfl
@[simp] theorem settle_preg (b : Bool) (l : List Entry) (s : State) : (settle b l s).preg = s.preg := rfl
@[simp] theorem settle_hm (b : Bool) (l : List Entry) (s : State) : (settle b l s).hm = s.hm := rfl
@[simp] theorem settle_xl (b : Bool) (l : List Entry) (s : State) : (settle b l s).xl = s.xl := rfl
@[simp] theorem settle_sch (b : Bool) (l : List Entry) (s : State) : (settle b l s).sch = s.sch := rfl
@[simp] theorem settle_en (b : Bool) (l : List Entry) (s : State) : (settle b l s).en = s.en := rfl
@[simp] theorem settle_fab (b : Bool) (l : List Entry) (s : State) : (settle b l s).fab = s.fab := rfl
@[simp] theorem settle_mgt (b : Bool) (l : List Entry) (s : State) : (settle b l s).mgt = s.mgt := rfl
@[simp] theorem settle_privCtx (b : Bool) (l : List Entry) (s : State) : (settle b l s).privCtx = s.privCtx := rfl
@[simp] theorem settle_netAddrs (b : Bool) (l : List Entry) (s : State) : (settle b l s).netAddrs = s.netAddrs := rfl
@[simp] theorem settle_schedule (b : Bool) (l : List Entry) (s : State) : (settle b l s).schedule = s.schedule := rfl
@[simp] theorem settle_beat (b : Bool) (l : List Entry) (s : State) : (settle b l s).beat = s.beat := rfl
@[simp] theorem settle_quad (b : Bool) (l : List Entry) (s : State) : (settle b l s).quad = s.quad := rfl
@[simp] theorem settle_rot (b : Bool) (l : List Entry) (s : State) : (settle b l s).rot = s.rot := rfl
@[simp] theorem settle_seqNo (b : Bool) (l : List Entry) (s : State) : (settle b l s).seqNo = s.seqNo := rfl
@[simp] theorem settle_ids (b : Bool) (l : List Entry) (s : State) : (settle b l s).ids = s.ids := rfl
@[simp] theorem settle_free (b : Bool) (l : List Entry) (s : State) : (settle b l s).free = s.free := rfl

/-! ### retire -/

@[simp] theorem retire_peers (n : Nat) (s : State) : (retire n s).peers = s.peers := rfl
@[simp] theorem retire_crew (n : Nat) (s : State) : (retire n s).crew = s.crew := rfl
@[simp] theorem retire_others (n : Nat) (s : State) : (retire n s).others = s.others := rfl
@[simp] theorem retire_gtime (n : Nat) (s : State) : (retire n s).gtime = s.gtime := rfl
@[simp] theorem retire_clocks (n : Nat) (s : State) : (retire n s).clocks = s.clocks := rfl
@[simp] theorem retire_preg (n : Nat) (s : State) : (retire n s).preg = s.preg := rfl
@[simp] theorem retire_hm (n : Nat) (s : State) : (retire n s).hm = s.hm := rfl
@[simp] theorem retire_xl (n : Nat) (s : State) : (retire n s).xl = s.xl := rfl
@[simp] theorem retire_sch (n : Nat) (s : State) : (retire n s).sch = s.sch := rfl
@[simp] theorem retire_en (n : Nat) (s : State) : (retire n s).en = s.en := rfl
@[simp] theorem retire_fab (n : Nat) (s : State) : (retire n s).fab = s.fab := rfl
@[simp] theorem retire_mgt (n : Nat) (s : State) : (retire n s).mgt = s.mgt := rfl
@[simp] theorem retire_privCtx (n : Nat) (s : State) : (retire n s).privCtx = s.privCtx := rfl
@[simp] theorem retire_netAddrs (n : Nat) (s : State) : (retire n s).netAddrs = s.netAddrs := rfl
@[simp] theorem retire_schedule (n : Nat) (s : State) : (retire n s).schedule = s.schedule := rfl
@[simp] theorem retire_beat (n : Nat) (s : State) : (retire n s).beat = s.beat := rfl
@[simp] theorem retire_quad (n : Nat) (s : State) : (retire n s).quad = s.quad := rfl
@[simp] theorem retire_rot (n : Nat) (s : State) : (retire n s).rot = s.rot := rfl
@[simp] theorem retire_seqNo (n : Nat) (s : State) : (retire n s).seqNo = s.seqNo := rfl
@[simp] theorem retire_ids (n : Nat) (s : State) : (retire n s).ids = s.ids := rfl
@[simp] theorem retire_free (n : Nat) (s : State) : (retire n s).free = s.free := rfl

/-! ### acquire -/

@[simp] theorem acquire_k (s : State) : (acquire s).k = { s.k with floor := max s.k.floor s.k.lastRead } := rfl
@[simp] theorem acquire_peers (s : State) : (acquire s).peers = s.peers := rfl
@[simp] theorem acquire_crew (s : State) : (acquire s).crew = s.crew := rfl
@[simp] theorem acquire_others (s : State) : (acquire s).others = s.others := rfl
@[simp] theorem acquire_gtime (s : State) : (acquire s).gtime = s.gtime := rfl
@[simp] theorem acquire_clocks (s : State) : (acquire s).clocks = s.clocks := rfl
@[simp] theorem acquire_preg (s : State) : (acquire s).preg = s.preg := rfl
@[simp] theorem acquire_hm (s : State) : (acquire s).hm = s.hm := rfl
@[simp] theorem acquire_xl (s : State) : (acquire s).xl = s.xl := rfl
@[simp] theorem acquire_sch (s : State) : (acquire s).sch = s.sch := rfl
@[simp] theorem acquire_en (s : State) : (acquire s).en = s.en := rfl
@[simp] theorem acquire_fab (s : State) : (acquire s).fab = s.fab := rfl
@[simp] theorem acquire_mgt (s : State) : (acquire s).mgt = s.mgt := rfl
@[simp] theorem acquire_privCtx (s : State) : (acquire s).privCtx = s.privCtx := rfl
@[simp] theorem acquire_netAddrs (s : State) : (acquire s).netAddrs = s.netAddrs := rfl
@[simp] theorem acquire_schedule (s : State) : (acquire s).schedule = s.schedule := rfl
@[simp] theorem acquire_beat (s : State) : (acquire s).beat = s.beat := rfl
@[simp] theorem acquire_quad (s : State) : (acquire s).quad = s.quad := rfl
@[simp] theorem acquire_rot (s : State) : (acquire s).rot = s.rot := rfl
@[simp] theorem acquire_seqNo (s : State) : (acquire s).seqNo = s.seqNo := rfl
@[simp] theorem acquire_ids (s : State) : (acquire s).ids = s.ids := rfl
@[simp] theorem acquire_free (s : State) : (acquire s).free = s.free := rfl

/-! ### beginWaitOn -/

@[simp] theorem beginWaitOn_peers (a b : Nat) (l : List Nat) (s : State) : (beginWaitOn a b l s).peers = s.peers := rfl
@[simp] theorem beginWaitOn_crew (a b : Nat) (l : List Nat) (s : State) : (beginWaitOn a b l s).crew = s.crew := rfl
@[simp] theorem beginWaitOn_others (a b : Nat) (l : List Nat) (s : State) : (beginWaitOn a b l s).others = s.others := rfl
@[simp] theorem beginWaitOn_gtime (a b : Nat) (l : List Nat) (s : State) : (beginWaitOn a b l s).gtime = s.gtime := rfl
@[simp] theorem beginWaitOn_clocks (a b : Nat) (l : List Nat) (s : State) : (beginWaitOn a b l s).clocks = s.clocks := rfl
@[simp] theorem beginWaitOn_preg (a b : Nat) (l : List Nat) (s : State) : (beginWaitOn a b l s).preg = s.preg := rfl
@[simp] theorem beginWaitOn_hm (a b : Nat) (l : List Nat) (s : State) : (beginWaitOn a b l s).hm = s.hm := rfl
@[simp] theorem beginWaitOn_xl (a b : Nat) (l : List Nat) (s : State) : (beginWaitOn a b l s).xl = s.xl := rfl
@[simp] theorem beginWaitOn_sch (a b : Nat) (l : List Nat) (s : State) : (beginWaitOn a b l s).sch = s.sch := rfl
@[simp] theorem beginWaitOn_en (a b : Nat) (l : List Nat) (s : State) : (beginWaitOn a b l s).en = s.en := rfl
@[simp] theorem beginWaitOn_fab (a b : Nat) (l : List Nat) (s : State) : (beginWaitOn a b l s).fab = s.fab := rfl
@[simp] theorem beginWaitOn_mgt (a b : Nat) (l : List Nat) (s : State) : (beginWaitOn a b l s).mgt = s.mgt := rfl
@[simp] theorem beginWaitOn_privCtx (a b : Nat) (l : List Nat) (s : State) : (beginWaitOn a b l s).privCtx = s.privCtx := rfl
@[simp] theorem beginWaitOn_netAddrs (a b : Nat) (l : List Nat) (s : State) : (beginWaitOn a b l s).netAddrs = s.netAddrs := rfl
@[simp] theorem beginWaitOn_schedule (a b : Nat) (l : List Nat) (s : State) : (beginWaitOn a b l s).schedule = s.schedule := rfl
@[simp] theorem beginWaitOn_beat (a b : Nat) (l : List Nat) (s : State) : (beginWaitOn a b l s).beat = s.beat := rfl
@[simp] theorem beginWaitOn_quad (a b : Nat) (l : List Nat) (s : State) : (beginWaitOn a b l s).quad = s.quad := rfl
@[simp] theorem beginWaitOn_rot (a b : Nat) (l : List Nat) (s : State) : (beginWaitOn a b l s).rot = s.rot := rfl
@[simp] theorem beginWaitOn_ids (a b : Nat) (l : List Nat) (s : State) : (beginWaitOn a b l s).ids = s.ids := rfl
@[simp] theorem beginWaitOn_free (a b : Nat) (l : List Nat) (s : State) : (beginWaitOn a b l s).free = s.free := rfl

/-! ### beginWait -/

@[simp] theorem beginWait_peers (a b : Nat) (s : State) : (beginWait a b s).peers = s.peers := rfl
@[simp] theorem beginWait_crew (a b : Nat) (s : State) : (beginWait a b s).crew = s.crew := rfl
@[simp] theorem beginWait_others (a b : Nat) (s : State) : (beginWait a b s).others = s.others := rfl
@[simp] theorem beginWait_gtime (a b : Nat) (s : State) : (beginWait a b s).gtime = s.gtime := rfl
@[simp] theorem beginWait_clocks (a b : Nat) (s : State) : (beginWait a b s).clocks = s.clocks := rfl
@[simp] theorem beginWait_preg (a b : Nat) (s : State) : (beginWait a b s).preg = s.preg := rfl
@[simp] theorem beginWait_hm (a b : Nat) (s : State) : (beginWait a b s).hm = s.hm := rfl
@[simp] theorem beginWait_xl (a b : Nat) (s : State) : (beginWait a b s).xl = s.xl := rfl
@[simp] theorem beginWait_sch (a b : Nat) (s : State) : (beginWait a b s).sch = s.sch := rfl
@[simp] theorem beginWait_en (a b : Nat) (s : State) : (beginWait a b s).en = s.en := rfl
@[simp] theorem beginWait_fab (a b : Nat) (s : State) : (beginWait a b s).fab = s.fab := rfl
@[simp] theorem beginWait_mgt (a b : Nat) (s : State) : (beginWait a b s).mgt = s.mgt := rfl
@[simp] theorem beginWait_privCtx (a b : Nat) (s : State) : (beginWait a b s).privCtx = s.privCtx := rfl
@[simp] theorem beginWait_netAddrs (a b : Nat) (s : State) : (beginWait a b s).netAddrs = s.netAddrs := rfl
@[simp] theorem beginWait_schedule (a b : Nat) (s : State) : (beginWait a b s).schedule = s.schedule := rfl
@[simp] theorem beginWait_beat (a b : Nat) (s : State) : (beginWait a b s).beat = s.beat := rfl
@[simp] theorem beginWait_quad (a b : Nat) (s : State) : (beginWait a b s).quad = s.quad := rfl
@[simp] theorem beginWait_rot (a b : Nat) (s : State) : (beginWait a b s).rot = s.rot := rfl
@[simp] theorem beginWait_ids (a b : Nat) (s : State) : (beginWait a b s).ids = s.ids := rfl
@[simp] theorem beginWait_free (a b : Nat) (s : State) : (beginWait a b s).free = s.free := rfl

/-! ### wrV -/

@[simp] theorem wrV_uid (act : Word32) (n : Nat) (f : Nat → Word32) (k : Skein) : (wrV act n f k).uid = k.uid := rfl
@[simp] theorem wrV_sid (act : Word32) (n : Nat) (f : Nat → Word32) (k : Skein) : (wrV act n f k).sid = k.sid := rfl
@[simp] theorem wrV_role (act : Word32) (n : Nat) (f : Nat → Word32) (k : Skein) : (wrV act n f k).role = k.role := rfl
@[simp] theorem wrV_slot (act : Word32) (n : Nat) (f : Nat → Word32) (k : Skein) : (wrV act n f k).slot = k.slot := rfl
@[simp] theorem wrV_regs (act : Word32) (n : Nat) (f : Nat → Word32) (k : Skein) : (wrV act n f k).regs = k.regs := rfl
@[simp] theorem wrV_tile16 (act : Word32) (n : Nat) (f : Nat → Word32) (k : Skein) : (wrV act n f k).tile16 = k.tile16 := rfl
@[simp] theorem wrV_prio (act : Word32) (n : Nat) (f : Nat → Word32) (k : Skein) : (wrV act n f k).prio = k.prio := rfl
@[simp] theorem wrV_basket (act : Word32) (n : Nat) (f : Nat → Word32) (k : Skein) : (wrV act n f k).basket = k.basket := rfl
@[simp] theorem wrV_g (act : Word32) (n : Nat) (f : Nat → Word32) (k : Skein) : (wrV act n f k).g = k.g := rfl
@[simp] theorem wrV_p (act : Word32) (n : Nat) (f : Nat → Word32) (k : Skein) : (wrV act n f k).p = k.p := rfl
@[simp] theorem wrV_t (act : Word32) (n : Nat) (f : Nat → Word32) (k : Skein) : (wrV act n f k).t = k.t := rfl
@[simp] theorem wrV_a (act : Word32) (n : Nat) (f : Nat → Word32) (k : Skein) : (wrV act n f k).a = k.a := rfl
@[simp] theorem wrV_gang (act : Word32) (n : Nat) (f : Nat → Word32) (k : Skein) : (wrV act n f k).gang = k.gang := rfl
@[simp] theorem wrV_gangIssues (act : Word32) (n : Nat) (f : Nat → Word32) (k : Skein) : (wrV act n f k).gangIssues = k.gangIssues := rfl
@[simp] theorem wrV_fmode (act : Word32) (n : Nat) (f : Nat → Word32) (k : Skein) : (wrV act n f k).fmode = k.fmode := rfl
@[simp] theorem wrV_e (act : Word32) (n : Nat) (f : Nat → Word32) (k : Skein) : (wrV act n f k).e = k.e := rfl
@[simp] theorem wrV_rest (act : Word32) (n : Nat) (f : Nat → Word32) (k : Skein) : (wrV act n f k).rest = k.rest := rfl
@[simp] theorem wrV_yielded (act : Word32) (n : Nat) (f : Nat → Word32) (k : Skein) : (wrV act n f k).yielded = k.yielded := rfl
@[simp] theorem wrV_meld (act : Word32) (n : Nat) (f : Nat → Word32) (k : Skein) : (wrV act n f k).meld = k.meld := rfl
@[simp] theorem wrV_bracket (act : Word32) (n : Nat) (f : Nat → Word32) (k : Skein) : (wrV act n f k).bracket = k.bracket := rfl
@[simp] theorem wrV_floor (act : Word32) (n : Nat) (f : Nat → Word32) (k : Skein) : (wrV act n f k).floor = k.floor := rfl
@[simp] theorem wrV_hCrew (act : Word32) (n : Nat) (f : Nat → Word32) (k : Skein) : (wrV act n f k).hCrew = k.hCrew := rfl
@[simp] theorem wrV_hCluster (act : Word32) (n : Nat) (f : Nat → Word32) (k : Skein) : (wrV act n f k).hCluster = k.hCluster := rfl
@[simp] theorem wrV_hDevice (act : Word32) (n : Nat) (f : Nat → Word32) (k : Skein) : (wrV act n f k).hDevice = k.hDevice := rfl
@[simp] theorem wrV_hFabric (act : Word32) (n : Nat) (f : Nat → Word32) (k : Skein) : (wrV act n f k).hFabric = k.hFabric := rfl
@[simp] theorem wrV_lastRead (act : Word32) (n : Nat) (f : Nat → Word32) (k : Skein) : (wrV act n f k).lastRead = k.lastRead := rfl
@[simp] theorem wrV_lastG (act : Word32) (n : Nat) (f : Nat → Word32) (k : Skein) : (wrV act n f k).lastG = k.lastG := rfl
@[simp] theorem wrV_epc (act : Word32) (n : Nat) (f : Nat → Word32) (k : Skein) : (wrV act n f k).epc = k.epc := rfl
@[simp] theorem wrV_frec (act : Word32) (n : Nat) (f : Nat → Word32) (k : Skein) : (wrV act n f k).frec = k.frec := rfl
@[simp] theorem wrV_handler (act : Word32) (n : Nat) (f : Nat → Word32) (k : Skein) : (wrV act n f k).handler = k.handler := rfl
@[simp] theorem wrV_held (act : Word32) (n : Nat) (f : Nat → Word32) (k : Skein) : (wrV act n f k).held = k.held := rfl
@[simp] theorem wrV_pending (act : Word32) (n : Nat) (f : Nat → Word32) (k : Skein) : (wrV act n f k).pending = k.pending := rfl
@[simp] theorem wrV_arrivals (act : Word32) (n : Nat) (f : Nat → Word32) (k : Skein) : (wrV act n f k).arrivals = k.arrivals := rfl
@[simp] theorem wrV_laneRecs (act : Word32) (n : Nat) (f : Nat → Word32) (k : Skein) : (wrV act n f k).laneRecs = k.laneRecs := rfl
@[simp] theorem wrV_lastIssue (act : Word32) (n : Nat) (f : Nat → Word32) (k : Skein) : (wrV act n f k).lastIssue = k.lastIssue := rfl
@[simp] theorem wrV_since (act : Word32) (n : Nat) (f : Nat → Word32) (k : Skein) : (wrV act n f k).since = k.since := rfl
@[simp] theorem wrV_wait (act : Word32) (n : Nat) (f : Nat → Word32) (k : Skein) : (wrV act n f k).wait = k.wait := rfl
@[simp] theorem wrV_hold (act : Word32) (n : Nat) (f : Nat → Word32) (k : Skein) : (wrV act n f k).hold = k.hold := rfl
@[simp] theorem wrV_holdOn (act : Word32) (n : Nat) (f : Nat → Word32) (k : Skein) : (wrV act n f k).holdOn = k.holdOn := rfl
@[simp] theorem wrV_holdFloor (act : Word32) (n : Nat) (f : Nat → Word32) (k : Skein) : (wrV act n f k).holdFloor = k.holdFloor := rfl
@[simp] theorem wrV_fileBad (act : Word32) (n : Nat) (f : Nat → Word32) (k : Skein) : (wrV act n f k).fileBad = k.fileBad := rfl
@[simp] theorem wrV_fileSoft (act : Word32) (n : Nat) (f : Nat → Word32) (k : Skein) : (wrV act n f k).fileSoft = k.fileSoft := rfl

/-! ### wrV2 -/

@[simp] theorem wrV2_uid (act : Word32) (n : Nat) (f : Nat → Word64) (k : Skein) : (wrV2 act n f k).uid = k.uid := rfl
@[simp] theorem wrV2_sid (act : Word32) (n : Nat) (f : Nat → Word64) (k : Skein) : (wrV2 act n f k).sid = k.sid := rfl
@[simp] theorem wrV2_role (act : Word32) (n : Nat) (f : Nat → Word64) (k : Skein) : (wrV2 act n f k).role = k.role := rfl
@[simp] theorem wrV2_slot (act : Word32) (n : Nat) (f : Nat → Word64) (k : Skein) : (wrV2 act n f k).slot = k.slot := rfl
@[simp] theorem wrV2_regs (act : Word32) (n : Nat) (f : Nat → Word64) (k : Skein) : (wrV2 act n f k).regs = k.regs := rfl
@[simp] theorem wrV2_tile16 (act : Word32) (n : Nat) (f : Nat → Word64) (k : Skein) : (wrV2 act n f k).tile16 = k.tile16 := rfl
@[simp] theorem wrV2_prio (act : Word32) (n : Nat) (f : Nat → Word64) (k : Skein) : (wrV2 act n f k).prio = k.prio := rfl
@[simp] theorem wrV2_basket (act : Word32) (n : Nat) (f : Nat → Word64) (k : Skein) : (wrV2 act n f k).basket = k.basket := rfl
@[simp] theorem wrV2_g (act : Word32) (n : Nat) (f : Nat → Word64) (k : Skein) : (wrV2 act n f k).g = k.g := rfl
@[simp] theorem wrV2_p (act : Word32) (n : Nat) (f : Nat → Word64) (k : Skein) : (wrV2 act n f k).p = k.p := rfl
@[simp] theorem wrV2_t (act : Word32) (n : Nat) (f : Nat → Word64) (k : Skein) : (wrV2 act n f k).t = k.t := rfl
@[simp] theorem wrV2_a (act : Word32) (n : Nat) (f : Nat → Word64) (k : Skein) : (wrV2 act n f k).a = k.a := rfl
@[simp] theorem wrV2_gang (act : Word32) (n : Nat) (f : Nat → Word64) (k : Skein) : (wrV2 act n f k).gang = k.gang := rfl
@[simp] theorem wrV2_gangIssues (act : Word32) (n : Nat) (f : Nat → Word64) (k : Skein) : (wrV2 act n f k).gangIssues = k.gangIssues := rfl
@[simp] theorem wrV2_fmode (act : Word32) (n : Nat) (f : Nat → Word64) (k : Skein) : (wrV2 act n f k).fmode = k.fmode := rfl
@[simp] theorem wrV2_e (act : Word32) (n : Nat) (f : Nat → Word64) (k : Skein) : (wrV2 act n f k).e = k.e := rfl
@[simp] theorem wrV2_rest (act : Word32) (n : Nat) (f : Nat → Word64) (k : Skein) : (wrV2 act n f k).rest = k.rest := rfl
@[simp] theorem wrV2_yielded (act : Word32) (n : Nat) (f : Nat → Word64) (k : Skein) : (wrV2 act n f k).yielded = k.yielded := rfl
@[simp] theorem wrV2_meld (act : Word32) (n : Nat) (f : Nat → Word64) (k : Skein) : (wrV2 act n f k).meld = k.meld := rfl
@[simp] theorem wrV2_bracket (act : Word32) (n : Nat) (f : Nat → Word64) (k : Skein) : (wrV2 act n f k).bracket = k.bracket := rfl
@[simp] theorem wrV2_floor (act : Word32) (n : Nat) (f : Nat → Word64) (k : Skein) : (wrV2 act n f k).floor = k.floor := rfl
@[simp] theorem wrV2_hCrew (act : Word32) (n : Nat) (f : Nat → Word64) (k : Skein) : (wrV2 act n f k).hCrew = k.hCrew := rfl
@[simp] theorem wrV2_hCluster (act : Word32) (n : Nat) (f : Nat → Word64) (k : Skein) : (wrV2 act n f k).hCluster = k.hCluster := rfl
@[simp] theorem wrV2_hDevice (act : Word32) (n : Nat) (f : Nat → Word64) (k : Skein) : (wrV2 act n f k).hDevice = k.hDevice := rfl
@[simp] theorem wrV2_hFabric (act : Word32) (n : Nat) (f : Nat → Word64) (k : Skein) : (wrV2 act n f k).hFabric = k.hFabric := rfl
@[simp] theorem wrV2_lastRead (act : Word32) (n : Nat) (f : Nat → Word64) (k : Skein) : (wrV2 act n f k).lastRead = k.lastRead := rfl
@[simp] theorem wrV2_lastG (act : Word32) (n : Nat) (f : Nat → Word64) (k : Skein) : (wrV2 act n f k).lastG = k.lastG := rfl
@[simp] theorem wrV2_epc (act : Word32) (n : Nat) (f : Nat → Word64) (k : Skein) : (wrV2 act n f k).epc = k.epc := rfl
@[simp] theorem wrV2_frec (act : Word32) (n : Nat) (f : Nat → Word64) (k : Skein) : (wrV2 act n f k).frec = k.frec := rfl
@[simp] theorem wrV2_handler (act : Word32) (n : Nat) (f : Nat → Word64) (k : Skein) : (wrV2 act n f k).handler = k.handler := rfl
@[simp] theorem wrV2_held (act : Word32) (n : Nat) (f : Nat → Word64) (k : Skein) : (wrV2 act n f k).held = k.held := rfl
@[simp] theorem wrV2_pending (act : Word32) (n : Nat) (f : Nat → Word64) (k : Skein) : (wrV2 act n f k).pending = k.pending := rfl
@[simp] theorem wrV2_arrivals (act : Word32) (n : Nat) (f : Nat → Word64) (k : Skein) : (wrV2 act n f k).arrivals = k.arrivals := rfl
@[simp] theorem wrV2_laneRecs (act : Word32) (n : Nat) (f : Nat → Word64) (k : Skein) : (wrV2 act n f k).laneRecs = k.laneRecs := rfl
@[simp] theorem wrV2_lastIssue (act : Word32) (n : Nat) (f : Nat → Word64) (k : Skein) : (wrV2 act n f k).lastIssue = k.lastIssue := rfl
@[simp] theorem wrV2_since (act : Word32) (n : Nat) (f : Nat → Word64) (k : Skein) : (wrV2 act n f k).since = k.since := rfl
@[simp] theorem wrV2_wait (act : Word32) (n : Nat) (f : Nat → Word64) (k : Skein) : (wrV2 act n f k).wait = k.wait := rfl
@[simp] theorem wrV2_hold (act : Word32) (n : Nat) (f : Nat → Word64) (k : Skein) : (wrV2 act n f k).hold = k.hold := rfl
@[simp] theorem wrV2_holdOn (act : Word32) (n : Nat) (f : Nat → Word64) (k : Skein) : (wrV2 act n f k).holdOn = k.holdOn := rfl
@[simp] theorem wrV2_holdFloor (act : Word32) (n : Nat) (f : Nat → Word64) (k : Skein) : (wrV2 act n f k).holdFloor = k.holdFloor := rfl
@[simp] theorem wrV2_fileBad (act : Word32) (n : Nat) (f : Nat → Word64) (k : Skein) : (wrV2 act n f k).fileBad = k.fileBad := rfl
@[simp] theorem wrV2_fileSoft (act : Word32) (n : Nat) (f : Nat → Word64) (k : Skein) : (wrV2 act n f k).fileSoft = k.fileSoft := rfl

/-! ### wrT -/

@[simp] theorem wrT_uid (n : Nat) (x : Word128) (k : Skein) : (wrT n x k).uid = k.uid := rfl
@[simp] theorem wrT_sid (n : Nat) (x : Word128) (k : Skein) : (wrT n x k).sid = k.sid := rfl
@[simp] theorem wrT_role (n : Nat) (x : Word128) (k : Skein) : (wrT n x k).role = k.role := rfl
@[simp] theorem wrT_slot (n : Nat) (x : Word128) (k : Skein) : (wrT n x k).slot = k.slot := rfl
@[simp] theorem wrT_regs (n : Nat) (x : Word128) (k : Skein) : (wrT n x k).regs = k.regs := rfl
@[simp] theorem wrT_tile16 (n : Nat) (x : Word128) (k : Skein) : (wrT n x k).tile16 = k.tile16 := rfl
@[simp] theorem wrT_prio (n : Nat) (x : Word128) (k : Skein) : (wrT n x k).prio = k.prio := rfl
@[simp] theorem wrT_basket (n : Nat) (x : Word128) (k : Skein) : (wrT n x k).basket = k.basket := rfl
@[simp] theorem wrT_v (n : Nat) (x : Word128) (k : Skein) : (wrT n x k).v = k.v := rfl
@[simp] theorem wrT_g (n : Nat) (x : Word128) (k : Skein) : (wrT n x k).g = k.g := rfl
@[simp] theorem wrT_p (n : Nat) (x : Word128) (k : Skein) : (wrT n x k).p = k.p := rfl
@[simp] theorem wrT_a (n : Nat) (x : Word128) (k : Skein) : (wrT n x k).a = k.a := rfl
@[simp] theorem wrT_gang (n : Nat) (x : Word128) (k : Skein) : (wrT n x k).gang = k.gang := rfl
@[simp] theorem wrT_gangIssues (n : Nat) (x : Word128) (k : Skein) : (wrT n x k).gangIssues = k.gangIssues := rfl
@[simp] theorem wrT_fmode (n : Nat) (x : Word128) (k : Skein) : (wrT n x k).fmode = k.fmode := rfl
@[simp] theorem wrT_e (n : Nat) (x : Word128) (k : Skein) : (wrT n x k).e = k.e := rfl
@[simp] theorem wrT_rest (n : Nat) (x : Word128) (k : Skein) : (wrT n x k).rest = k.rest := rfl
@[simp] theorem wrT_yielded (n : Nat) (x : Word128) (k : Skein) : (wrT n x k).yielded = k.yielded := rfl
@[simp] theorem wrT_meld (n : Nat) (x : Word128) (k : Skein) : (wrT n x k).meld = k.meld := rfl
@[simp] theorem wrT_bracket (n : Nat) (x : Word128) (k : Skein) : (wrT n x k).bracket = k.bracket := rfl
@[simp] theorem wrT_floor (n : Nat) (x : Word128) (k : Skein) : (wrT n x k).floor = k.floor := rfl
@[simp] theorem wrT_hCrew (n : Nat) (x : Word128) (k : Skein) : (wrT n x k).hCrew = k.hCrew := rfl
@[simp] theorem wrT_hCluster (n : Nat) (x : Word128) (k : Skein) : (wrT n x k).hCluster = k.hCluster := rfl
@[simp] theorem wrT_hDevice (n : Nat) (x : Word128) (k : Skein) : (wrT n x k).hDevice = k.hDevice := rfl
@[simp] theorem wrT_hFabric (n : Nat) (x : Word128) (k : Skein) : (wrT n x k).hFabric = k.hFabric := rfl
@[simp] theorem wrT_lastRead (n : Nat) (x : Word128) (k : Skein) : (wrT n x k).lastRead = k.lastRead := rfl
@[simp] theorem wrT_lastG (n : Nat) (x : Word128) (k : Skein) : (wrT n x k).lastG = k.lastG := rfl
@[simp] theorem wrT_epc (n : Nat) (x : Word128) (k : Skein) : (wrT n x k).epc = k.epc := rfl
@[simp] theorem wrT_frec (n : Nat) (x : Word128) (k : Skein) : (wrT n x k).frec = k.frec := rfl
@[simp] theorem wrT_handler (n : Nat) (x : Word128) (k : Skein) : (wrT n x k).handler = k.handler := rfl
@[simp] theorem wrT_held (n : Nat) (x : Word128) (k : Skein) : (wrT n x k).held = k.held := rfl
@[simp] theorem wrT_pending (n : Nat) (x : Word128) (k : Skein) : (wrT n x k).pending = k.pending := rfl
@[simp] theorem wrT_arrivals (n : Nat) (x : Word128) (k : Skein) : (wrT n x k).arrivals = k.arrivals := rfl
@[simp] theorem wrT_laneRecs (n : Nat) (x : Word128) (k : Skein) : (wrT n x k).laneRecs = k.laneRecs := rfl
@[simp] theorem wrT_lastIssue (n : Nat) (x : Word128) (k : Skein) : (wrT n x k).lastIssue = k.lastIssue := rfl
@[simp] theorem wrT_since (n : Nat) (x : Word128) (k : Skein) : (wrT n x k).since = k.since := rfl
@[simp] theorem wrT_wait (n : Nat) (x : Word128) (k : Skein) : (wrT n x k).wait = k.wait := rfl
@[simp] theorem wrT_hold (n : Nat) (x : Word128) (k : Skein) : (wrT n x k).hold = k.hold := rfl
@[simp] theorem wrT_holdOn (n : Nat) (x : Word128) (k : Skein) : (wrT n x k).holdOn = k.holdOn := rfl
@[simp] theorem wrT_holdFloor (n : Nat) (x : Word128) (k : Skein) : (wrT n x k).holdFloor = k.holdFloor := rfl
@[simp] theorem wrT_fileBad (n : Nat) (x : Word128) (k : Skein) : (wrT n x k).fileBad = k.fileBad := rfl
@[simp] theorem wrT_fileSoft (n : Nat) (x : Word128) (k : Skein) : (wrT n x k).fileSoft = k.fileSoft := rfl

/-! ### wrA -/

@[simp] theorem wrA_uid (n : Nat) (x : Word64) (k : Skein) : (wrA n x k).uid = k.uid := rfl
@[simp] theorem wrA_sid (n : Nat) (x : Word64) (k : Skein) : (wrA n x k).sid = k.sid := rfl
@[simp] theorem wrA_role (n : Nat) (x : Word64) (k : Skein) : (wrA n x k).role = k.role := rfl
@[simp] theorem wrA_slot (n : Nat) (x : Word64) (k : Skein) : (wrA n x k).slot = k.slot := rfl
@[simp] theorem wrA_regs (n : Nat) (x : Word64) (k : Skein) : (wrA n x k).regs = k.regs := rfl
@[simp] theorem wrA_tile16 (n : Nat) (x : Word64) (k : Skein) : (wrA n x k).tile16 = k.tile16 := rfl
@[simp] theorem wrA_prio (n : Nat) (x : Word64) (k : Skein) : (wrA n x k).prio = k.prio := rfl
@[simp] theorem wrA_basket (n : Nat) (x : Word64) (k : Skein) : (wrA n x k).basket = k.basket := rfl
@[simp] theorem wrA_v (n : Nat) (x : Word64) (k : Skein) : (wrA n x k).v = k.v := rfl
@[simp] theorem wrA_g (n : Nat) (x : Word64) (k : Skein) : (wrA n x k).g = k.g := rfl
@[simp] theorem wrA_p (n : Nat) (x : Word64) (k : Skein) : (wrA n x k).p = k.p := rfl
@[simp] theorem wrA_t (n : Nat) (x : Word64) (k : Skein) : (wrA n x k).t = k.t := rfl
@[simp] theorem wrA_gang (n : Nat) (x : Word64) (k : Skein) : (wrA n x k).gang = k.gang := rfl
@[simp] theorem wrA_gangIssues (n : Nat) (x : Word64) (k : Skein) : (wrA n x k).gangIssues = k.gangIssues := rfl
@[simp] theorem wrA_fmode (n : Nat) (x : Word64) (k : Skein) : (wrA n x k).fmode = k.fmode := rfl
@[simp] theorem wrA_e (n : Nat) (x : Word64) (k : Skein) : (wrA n x k).e = k.e := rfl
@[simp] theorem wrA_rest (n : Nat) (x : Word64) (k : Skein) : (wrA n x k).rest = k.rest := rfl
@[simp] theorem wrA_yielded (n : Nat) (x : Word64) (k : Skein) : (wrA n x k).yielded = k.yielded := rfl
@[simp] theorem wrA_meld (n : Nat) (x : Word64) (k : Skein) : (wrA n x k).meld = k.meld := rfl
@[simp] theorem wrA_bracket (n : Nat) (x : Word64) (k : Skein) : (wrA n x k).bracket = k.bracket := rfl
@[simp] theorem wrA_floor (n : Nat) (x : Word64) (k : Skein) : (wrA n x k).floor = k.floor := rfl
@[simp] theorem wrA_hCrew (n : Nat) (x : Word64) (k : Skein) : (wrA n x k).hCrew = k.hCrew := rfl
@[simp] theorem wrA_hCluster (n : Nat) (x : Word64) (k : Skein) : (wrA n x k).hCluster = k.hCluster := rfl
@[simp] theorem wrA_hDevice (n : Nat) (x : Word64) (k : Skein) : (wrA n x k).hDevice = k.hDevice := rfl
@[simp] theorem wrA_hFabric (n : Nat) (x : Word64) (k : Skein) : (wrA n x k).hFabric = k.hFabric := rfl
@[simp] theorem wrA_lastRead (n : Nat) (x : Word64) (k : Skein) : (wrA n x k).lastRead = k.lastRead := rfl
@[simp] theorem wrA_lastG (n : Nat) (x : Word64) (k : Skein) : (wrA n x k).lastG = k.lastG := rfl
@[simp] theorem wrA_epc (n : Nat) (x : Word64) (k : Skein) : (wrA n x k).epc = k.epc := rfl
@[simp] theorem wrA_frec (n : Nat) (x : Word64) (k : Skein) : (wrA n x k).frec = k.frec := rfl
@[simp] theorem wrA_handler (n : Nat) (x : Word64) (k : Skein) : (wrA n x k).handler = k.handler := rfl
@[simp] theorem wrA_held (n : Nat) (x : Word64) (k : Skein) : (wrA n x k).held = k.held := rfl
@[simp] theorem wrA_pending (n : Nat) (x : Word64) (k : Skein) : (wrA n x k).pending = k.pending := rfl
@[simp] theorem wrA_arrivals (n : Nat) (x : Word64) (k : Skein) : (wrA n x k).arrivals = k.arrivals := rfl
@[simp] theorem wrA_laneRecs (n : Nat) (x : Word64) (k : Skein) : (wrA n x k).laneRecs = k.laneRecs := rfl
@[simp] theorem wrA_lastIssue (n : Nat) (x : Word64) (k : Skein) : (wrA n x k).lastIssue = k.lastIssue := rfl
@[simp] theorem wrA_since (n : Nat) (x : Word64) (k : Skein) : (wrA n x k).since = k.since := rfl
@[simp] theorem wrA_wait (n : Nat) (x : Word64) (k : Skein) : (wrA n x k).wait = k.wait := rfl
@[simp] theorem wrA_hold (n : Nat) (x : Word64) (k : Skein) : (wrA n x k).hold = k.hold := rfl
@[simp] theorem wrA_holdOn (n : Nat) (x : Word64) (k : Skein) : (wrA n x k).holdOn = k.holdOn := rfl
@[simp] theorem wrA_holdFloor (n : Nat) (x : Word64) (k : Skein) : (wrA n x k).holdFloor = k.holdFloor := rfl
@[simp] theorem wrA_fileBad (n : Nat) (x : Word64) (k : Skein) : (wrA n x k).fileBad = k.fileBad := rfl
@[simp] theorem wrA_fileSoft (n : Nat) (x : Word64) (k : Skein) : (wrA n x k).fileSoft = k.fileSoft := rfl

/-! ### wrG -/

@[simp] theorem wrG_uid (n : Nat) (x : Word64) (k : Skein) : (wrG n x k).uid = k.uid := by unfold wrG; split <;> rfl
@[simp] theorem wrG_sid (n : Nat) (x : Word64) (k : Skein) : (wrG n x k).sid = k.sid := by unfold wrG; split <;> rfl
@[simp] theorem wrG_role (n : Nat) (x : Word64) (k : Skein) : (wrG n x k).role = k.role := by unfold wrG; split <;> rfl
@[simp] theorem wrG_slot (n : Nat) (x : Word64) (k : Skein) : (wrG n x k).slot = k.slot := by unfold wrG; split <;> rfl
@[simp] theorem wrG_regs (n : Nat) (x : Word64) (k : Skein) : (wrG n x k).regs = k.regs := by unfold wrG; split <;> rfl
@[simp] theorem wrG_tile16 (n : Nat) (x : Word64) (k : Skein) : (wrG n x k).tile16 = k.tile16 := by unfold wrG; split <;> rfl
@[simp] theorem wrG_prio (n : Nat) (x : Word64) (k : Skein) : (wrG n x k).prio = k.prio := by unfold wrG; split <;> rfl
@[simp] theorem wrG_basket (n : Nat) (x : Word64) (k : Skein) : (wrG n x k).basket = k.basket := by unfold wrG; split <;> rfl
@[simp] theorem wrG_v (n : Nat) (x : Word64) (k : Skein) : (wrG n x k).v = k.v := by unfold wrG; split <;> rfl
@[simp] theorem wrG_p (n : Nat) (x : Word64) (k : Skein) : (wrG n x k).p = k.p := by unfold wrG; split <;> rfl
@[simp] theorem wrG_t (n : Nat) (x : Word64) (k : Skein) : (wrG n x k).t = k.t := by unfold wrG; split <;> rfl
@[simp] theorem wrG_a (n : Nat) (x : Word64) (k : Skein) : (wrG n x k).a = k.a := by unfold wrG; split <;> rfl
@[simp] theorem wrG_gang (n : Nat) (x : Word64) (k : Skein) : (wrG n x k).gang = k.gang := by unfold wrG; split <;> rfl
@[simp] theorem wrG_gangIssues (n : Nat) (x : Word64) (k : Skein) : (wrG n x k).gangIssues = k.gangIssues := by unfold wrG; split <;> rfl
@[simp] theorem wrG_fmode (n : Nat) (x : Word64) (k : Skein) : (wrG n x k).fmode = k.fmode := by unfold wrG; split <;> rfl
@[simp] theorem wrG_e (n : Nat) (x : Word64) (k : Skein) : (wrG n x k).e = k.e := by unfold wrG; split <;> rfl
@[simp] theorem wrG_rest (n : Nat) (x : Word64) (k : Skein) : (wrG n x k).rest = k.rest := by unfold wrG; split <;> rfl
@[simp] theorem wrG_yielded (n : Nat) (x : Word64) (k : Skein) : (wrG n x k).yielded = k.yielded := by unfold wrG; split <;> rfl
@[simp] theorem wrG_meld (n : Nat) (x : Word64) (k : Skein) : (wrG n x k).meld = k.meld := by unfold wrG; split <;> rfl
@[simp] theorem wrG_bracket (n : Nat) (x : Word64) (k : Skein) : (wrG n x k).bracket = k.bracket := by unfold wrG; split <;> rfl
@[simp] theorem wrG_floor (n : Nat) (x : Word64) (k : Skein) : (wrG n x k).floor = k.floor := by unfold wrG; split <;> rfl
@[simp] theorem wrG_hCrew (n : Nat) (x : Word64) (k : Skein) : (wrG n x k).hCrew = k.hCrew := by unfold wrG; split <;> rfl
@[simp] theorem wrG_hCluster (n : Nat) (x : Word64) (k : Skein) : (wrG n x k).hCluster = k.hCluster := by unfold wrG; split <;> rfl
@[simp] theorem wrG_hDevice (n : Nat) (x : Word64) (k : Skein) : (wrG n x k).hDevice = k.hDevice := by unfold wrG; split <;> rfl
@[simp] theorem wrG_hFabric (n : Nat) (x : Word64) (k : Skein) : (wrG n x k).hFabric = k.hFabric := by unfold wrG; split <;> rfl
@[simp] theorem wrG_lastRead (n : Nat) (x : Word64) (k : Skein) : (wrG n x k).lastRead = k.lastRead := by unfold wrG; split <;> rfl
@[simp] theorem wrG_lastG (n : Nat) (x : Word64) (k : Skein) : (wrG n x k).lastG = k.lastG := by unfold wrG; split <;> rfl
@[simp] theorem wrG_epc (n : Nat) (x : Word64) (k : Skein) : (wrG n x k).epc = k.epc := by unfold wrG; split <;> rfl
@[simp] theorem wrG_frec (n : Nat) (x : Word64) (k : Skein) : (wrG n x k).frec = k.frec := by unfold wrG; split <;> rfl
@[simp] theorem wrG_handler (n : Nat) (x : Word64) (k : Skein) : (wrG n x k).handler = k.handler := by unfold wrG; split <;> rfl
@[simp] theorem wrG_held (n : Nat) (x : Word64) (k : Skein) : (wrG n x k).held = k.held := by unfold wrG; split <;> rfl
@[simp] theorem wrG_pending (n : Nat) (x : Word64) (k : Skein) : (wrG n x k).pending = k.pending := by unfold wrG; split <;> rfl
@[simp] theorem wrG_arrivals (n : Nat) (x : Word64) (k : Skein) : (wrG n x k).arrivals = k.arrivals := by unfold wrG; split <;> rfl
@[simp] theorem wrG_laneRecs (n : Nat) (x : Word64) (k : Skein) : (wrG n x k).laneRecs = k.laneRecs := by unfold wrG; split <;> rfl
@[simp] theorem wrG_lastIssue (n : Nat) (x : Word64) (k : Skein) : (wrG n x k).lastIssue = k.lastIssue := by unfold wrG; split <;> rfl
@[simp] theorem wrG_since (n : Nat) (x : Word64) (k : Skein) : (wrG n x k).since = k.since := by unfold wrG; split <;> rfl
@[simp] theorem wrG_wait (n : Nat) (x : Word64) (k : Skein) : (wrG n x k).wait = k.wait := by unfold wrG; split <;> rfl
@[simp] theorem wrG_hold (n : Nat) (x : Word64) (k : Skein) : (wrG n x k).hold = k.hold := by unfold wrG; split <;> rfl
@[simp] theorem wrG_holdOn (n : Nat) (x : Word64) (k : Skein) : (wrG n x k).holdOn = k.holdOn := by unfold wrG; split <;> rfl
@[simp] theorem wrG_holdFloor (n : Nat) (x : Word64) (k : Skein) : (wrG n x k).holdFloor = k.holdFloor := by unfold wrG; split <;> rfl
@[simp] theorem wrG_fileBad (n : Nat) (x : Word64) (k : Skein) : (wrG n x k).fileBad = k.fileBad := by unfold wrG; split <;> rfl
@[simp] theorem wrG_fileSoft (n : Nat) (x : Word64) (k : Skein) : (wrG n x k).fileSoft = k.fileSoft := by unfold wrG; split <;> rfl

/-! ### wrP -/

@[simp] theorem wrP_uid (n : Nat) (x : Word32) (k : Skein) : (wrP n x k).uid = k.uid := by unfold wrP; split <;> rfl
@[simp] theorem wrP_sid (n : Nat) (x : Word32) (k : Skein) : (wrP n x k).sid = k.sid := by unfold wrP; split <;> rfl
@[simp] theorem wrP_role (n : Nat) (x : Word32) (k : Skein) : (wrP n x k).role = k.role := by unfold wrP; split <;> rfl
@[simp] theorem wrP_slot (n : Nat) (x : Word32) (k : Skein) : (wrP n x k).slot = k.slot := by unfold wrP; split <;> rfl
@[simp] theorem wrP_regs (n : Nat) (x : Word32) (k : Skein) : (wrP n x k).regs = k.regs := by unfold wrP; split <;> rfl
@[simp] theorem wrP_tile16 (n : Nat) (x : Word32) (k : Skein) : (wrP n x k).tile16 = k.tile16 := by unfold wrP; split <;> rfl
@[simp] theorem wrP_prio (n : Nat) (x : Word32) (k : Skein) : (wrP n x k).prio = k.prio := by unfold wrP; split <;> rfl
@[simp] theorem wrP_basket (n : Nat) (x : Word32) (k : Skein) : (wrP n x k).basket = k.basket := by unfold wrP; split <;> rfl
@[simp] theorem wrP_v (n : Nat) (x : Word32) (k : Skein) : (wrP n x k).v = k.v := by unfold wrP; split <;> rfl
@[simp] theorem wrP_g (n : Nat) (x : Word32) (k : Skein) : (wrP n x k).g = k.g := by unfold wrP; split <;> rfl
@[simp] theorem wrP_t (n : Nat) (x : Word32) (k : Skein) : (wrP n x k).t = k.t := by unfold wrP; split <;> rfl
@[simp] theorem wrP_a (n : Nat) (x : Word32) (k : Skein) : (wrP n x k).a = k.a := by unfold wrP; split <;> rfl
@[simp] theorem wrP_gang (n : Nat) (x : Word32) (k : Skein) : (wrP n x k).gang = k.gang := by unfold wrP; split <;> rfl
@[simp] theorem wrP_gangIssues (n : Nat) (x : Word32) (k : Skein) : (wrP n x k).gangIssues = k.gangIssues := by unfold wrP; split <;> rfl
@[simp] theorem wrP_fmode (n : Nat) (x : Word32) (k : Skein) : (wrP n x k).fmode = k.fmode := by unfold wrP; split <;> rfl
@[simp] theorem wrP_e (n : Nat) (x : Word32) (k : Skein) : (wrP n x k).e = k.e := by unfold wrP; split <;> rfl
@[simp] theorem wrP_rest (n : Nat) (x : Word32) (k : Skein) : (wrP n x k).rest = k.rest := by unfold wrP; split <;> rfl
@[simp] theorem wrP_yielded (n : Nat) (x : Word32) (k : Skein) : (wrP n x k).yielded = k.yielded := by unfold wrP; split <;> rfl
@[simp] theorem wrP_meld (n : Nat) (x : Word32) (k : Skein) : (wrP n x k).meld = k.meld := by unfold wrP; split <;> rfl
@[simp] theorem wrP_bracket (n : Nat) (x : Word32) (k : Skein) : (wrP n x k).bracket = k.bracket := by unfold wrP; split <;> rfl
@[simp] theorem wrP_floor (n : Nat) (x : Word32) (k : Skein) : (wrP n x k).floor = k.floor := by unfold wrP; split <;> rfl
@[simp] theorem wrP_hCrew (n : Nat) (x : Word32) (k : Skein) : (wrP n x k).hCrew = k.hCrew := by unfold wrP; split <;> rfl
@[simp] theorem wrP_hCluster (n : Nat) (x : Word32) (k : Skein) : (wrP n x k).hCluster = k.hCluster := by unfold wrP; split <;> rfl
@[simp] theorem wrP_hDevice (n : Nat) (x : Word32) (k : Skein) : (wrP n x k).hDevice = k.hDevice := by unfold wrP; split <;> rfl
@[simp] theorem wrP_hFabric (n : Nat) (x : Word32) (k : Skein) : (wrP n x k).hFabric = k.hFabric := by unfold wrP; split <;> rfl
@[simp] theorem wrP_lastRead (n : Nat) (x : Word32) (k : Skein) : (wrP n x k).lastRead = k.lastRead := by unfold wrP; split <;> rfl
@[simp] theorem wrP_lastG (n : Nat) (x : Word32) (k : Skein) : (wrP n x k).lastG = k.lastG := by unfold wrP; split <;> rfl
@[simp] theorem wrP_epc (n : Nat) (x : Word32) (k : Skein) : (wrP n x k).epc = k.epc := by unfold wrP; split <;> rfl
@[simp] theorem wrP_frec (n : Nat) (x : Word32) (k : Skein) : (wrP n x k).frec = k.frec := by unfold wrP; split <;> rfl
@[simp] theorem wrP_handler (n : Nat) (x : Word32) (k : Skein) : (wrP n x k).handler = k.handler := by unfold wrP; split <;> rfl
@[simp] theorem wrP_held (n : Nat) (x : Word32) (k : Skein) : (wrP n x k).held = k.held := by unfold wrP; split <;> rfl
@[simp] theorem wrP_pending (n : Nat) (x : Word32) (k : Skein) : (wrP n x k).pending = k.pending := by unfold wrP; split <;> rfl
@[simp] theorem wrP_arrivals (n : Nat) (x : Word32) (k : Skein) : (wrP n x k).arrivals = k.arrivals := by unfold wrP; split <;> rfl
@[simp] theorem wrP_laneRecs (n : Nat) (x : Word32) (k : Skein) : (wrP n x k).laneRecs = k.laneRecs := by unfold wrP; split <;> rfl
@[simp] theorem wrP_lastIssue (n : Nat) (x : Word32) (k : Skein) : (wrP n x k).lastIssue = k.lastIssue := by unfold wrP; split <;> rfl
@[simp] theorem wrP_since (n : Nat) (x : Word32) (k : Skein) : (wrP n x k).since = k.since := by unfold wrP; split <;> rfl
@[simp] theorem wrP_wait (n : Nat) (x : Word32) (k : Skein) : (wrP n x k).wait = k.wait := by unfold wrP; split <;> rfl
@[simp] theorem wrP_hold (n : Nat) (x : Word32) (k : Skein) : (wrP n x k).hold = k.hold := by unfold wrP; split <;> rfl
@[simp] theorem wrP_holdOn (n : Nat) (x : Word32) (k : Skein) : (wrP n x k).holdOn = k.holdOn := by unfold wrP; split <;> rfl
@[simp] theorem wrP_holdFloor (n : Nat) (x : Word32) (k : Skein) : (wrP n x k).holdFloor = k.holdFloor := by unfold wrP; split <;> rfl
@[simp] theorem wrP_fileBad (n : Nat) (x : Word32) (k : Skein) : (wrP n x k).fileBad = k.fileBad := by unfold wrP; split <;> rfl
@[simp] theorem wrP_fileSoft (n : Nat) (x : Word32) (k : Skein) : (wrP n x k).fileSoft = k.fileSoft := by unfold wrP; split <;> rfl

end Sys2Proof.Laws
end

