-- ==== Sys2Proof/Laws/Memory.lean ====
section
/-! SUPPORT. The canonical form of memory (log entry 2) and the operations that keep it: each operation that writes memory,
and the shared operations built on them. -/
namespace Sys2Proof.Laws
open Sys2Proof.Machine

/-- Memory is in its canonical form. -/
abbrev Canon (s : State) : Prop := Memory.wf s.hm.mem = true

/-! ### The lists themselves -/

theorem setBytes_wf (l : List Byte) (m : List Host.Cell) (key : Nat) (h : Memory.wf m = true) : Memory.wf (setBytes m key l) = true := by
  induction l generalizing m key <;> grind [setBytes, Memory.wf, mwf_mset]

theorem setCells_wf (l : List (Nat × Byte)) (m : List Host.Cell) (h : Memory.wf m = true) : Memory.wf (setCells m l) = true :=
  List.foldlRecOn (motive := (Memory.wf · = true)) l _ h fun _ hm c _ => mwf_mset 0#8 c.1 c.2 hm

/-- A fold of operations that each keep the canonical form keeps it. -/
theorem fold_canon {α : Type} {act : State → α → State} (keeps : ∀ t x, Canon t → Canon (act t x)) (l : List α) (s : State) (h : Canon s) :
    Canon (l.foldl act s) :=
  List.foldlRecOn l act h fun t ht x _ => keeps t x ht

theorem settleHomes_wf (now : Nat) (h : Homes) (hw : Memory.wf h.mem = true) : Memory.wf (settleHomes now h).mem = true :=
  List.foldlRecOn (motive := (Memory.wf · = true)) _ _ hw fun m hm st _ => setCells_wf st.cells m hm

/-! ### Updates that leave the homes alone -/

@[simp] theorem modSkein_hm (uid : Nat) (f : Skein → Skein) (s : State) : (modSkein uid f s).hm = s.hm := rfl
@[simp] theorem modCrew_hm (uid : Nat) (f : Crew → Crew) (s : State) : (modCrew uid f s).hm = s.hm := rfl
@[simp] theorem modCrewAll_hm (uid : Nat) (f : Crew → Crew) (s : State) : (modCrewAll uid f s).hm = s.hm := rfl
@[simp] theorem withCrews_hm (l : List CrewRec) (s : State) : (withCrews l s).hm = s.hm := by cases l <;> rfl
@[simp] theorem countUncorr_hm (n : Nat) (s : State) : (countUncorr n s).hm = s.hm := by
  unfold countUncorr
  exact setPreg_hm _ _ _
@[simp] theorem sendMsg_hm (a b c : Nat) (x : Word64) (l : List Byte) (s : State) : (sendMsg a b c x l s).hm = s.hm := by simp only [sendMsg, sendMsgLen, emit_hm]
@[simp] theorem sendMsgLen_hm (a b c n : Nat) (x : Word64) (l : List Byte) (s : State) : (sendMsgLen a b c x l n s).hm = s.hm := by
  simp only [sendMsgLen, emit_hm]
@[simp] theorem modSkeinAll_hm (uid : Nat) (f : Skein → Skein) (s : State) : (modSkeinAll uid f s).hm = s.hm := rfl
@[simp] theorem raiseLaunch_hm (u n : Nat) (s : State) : (raiseLaunch u n s).hm = s.hm := rfl
@[simp] theorem raiseDue_hm (st : Store) (c : Nat) (s : State) : (raiseDue st c s).hm = s.hm := by unfold raiseDue; split <;> rfl
@[simp] theorem countCorr_hm (n : Nat) (s : State) : (countCorr n s).hm = s.hm := by
  unfold countCorr
  exact setPreg_hm _ _ _
@[simp] theorem forgetContext_hm (n : Nat) (l : List Nat) (s : State) : (forgetContext n l s).hm = s.hm := rfl
@[simp] theorem modQueue_hm (n : Nat) (f : Queue → Queue) (s : State) : (modQueue n f s).hm = s.hm := rfl
@[simp] theorem closeQueue_hm (n : Nat) (s : State) : (closeQueue n s).hm = s.hm := rfl
@[simp] theorem keepFatal_hm (p : Bool) (t : TrapInfo) (s : State) : (keepFatal p t s).hm = s.hm := rfl
@[simp] theorem forgetPages_hm (n : Nat) (s : State) : (forgetPages n s).hm = s.hm := rfl
@[simp] theorem dropHostReads_hm (n : Nat) (s : State) : (dropHostReads n s).hm = s.hm := rfl
@[simp] theorem answerAsker_hm (r : PageReq) (c : Nat) (s : State) : (answerAsker r c s).hm = s.hm := by unfold answerAsker; split <;> rfl
@[simp] theorem failWaits_hm (a b c : Nat) (s : State) : (failWaits a b c s).hm = s.hm := rfl
@[simp] theorem askedLater_hm (a b c : Nat) (s : State) : (askedLater a b c s).hm = s.hm := rfl
@[simp] theorem setMig_hm (m : Migration) (s : State) : (setMig m s).hm = s.hm := rfl
@[simp] theorem reportStore_hm (a b : Nat) (d : DefStore) (s : State) : (reportStore a b d s).hm = s.hm := by
  unfold reportStore
  split
  · rfl
  · split <;> rfl
@[simp] theorem askHost_hm (r : Reader) (n : Nat) (s : State) (x : Nat × Nat × Nat) : (askHost r n s x).hm = s.hm := by
  unfold askHost
  dsimp only
  split
  · simp only [sendMsgLen_hm]
  · split
    · simp only [sendMsgLen_hm]
    · rfl
@[simp] theorem frmWith_hm (a b : Nat) (e : Bool) (s : State) : (frmWith s a b e).hm = s.hm := by
  unfold frmWith
  exact setPreg_hm _ _ _
@[simp] theorem dropReq_hm (n : Nat) (s : State) : (dropReq n s).hm = s.hm := rfl
@[simp] theorem childEnded_hm (n : Nat) (s : State) : (childEnded n s).hm = s.hm := rfl
@[simp] theorem patchStore_hm (l : List (Nat × Nat × Byte)) (s : State) : (patchStore l s).hm = s.hm := rfl
@[simp] theorem skeinRest_hm (s : State) (k : Skein) : ({ s with k := k } : State).hm = s.hm := rfl
@[simp] theorem setOp_hm (o : Op) (s : State) : (setOp o s).hm = s.hm := rfl
@[simp] theorem dropOp_hm (n : Nat) (s : State) : (dropOp n s).hm = s.hm := rfl
@[simp] theorem putStream_hm (x : Stream) (s : State) : (putStream x s).hm = s.hm := rfl
@[simp] theorem sampleStreams_hm (n : Nat) (s : State) : (sampleStreams n s).hm = s.hm := rfl
@[simp] theorem setFabBit_hm (i : Nat) (b : Bool) (s : State) : (setFabBit i b s).hm = s.hm := by simp only [setFabBit, setPreg_hm]
@[simp] theorem respond_hm (m : PvlMsg) (c : Nat) (l : List Byte) (s : State) : (respond m c l s).hm = s.hm := rfl
@[simp] theorem advance_hm (m : PvlMsg) (s : State) : (advance m s).hm = s.hm := rfl
@[simp] theorem countDrop_hm (s : State) : (countDrop s).hm = s.hm := rfl
@[simp] theorem wakeAll_hm (s : State) : (wakeAll s).hm = s.hm := rfl
@[simp] theorem setReq_hm (r : PageReq) (s : State) : (setReq r s).hm = s.hm := rfl

/-! ### Writes -/

theorem modHm_canon {f : Homes → Homes} (hf : ∀ h, (f h).mem = h.mem) {s : State} (h : Canon s) : Canon (modHm f s) := by
  simpa [Canon, hf] using h

theorem physWrite_canon (pa : Nat) (l : List Byte) {s : State} (h : Canon s) : Canon (physWrite pa l s) := setBytes_wf l _ pa h

theorem countWrites_canon (line : Nat) {s : State} (h : Canon s) : Canon (countWrites line s) :=
  fold_canon (fun t m ht => by
    split
    · exact physWrite_canon _ _ ht
    · exact ht) _ _ h

theorem correctLine_canon (line : Nat) {s : State} (h : Canon s) : Canon (correctLine line s) := by
  unfold correctLine
  dsimp only
  split
  · exact h
  · simpa [Canon] using h

/-- An access that reaches the L2 changes no byte. -/
theorem l2Access_canon (f : Bool) (line : Nat) (used : Nat → Bool) {s : State} (h : Canon s) : Canon (l2Access f line s used) := by
  unfold l2Access
  split
  · exact h
  · dsimp only
    split
    · exact correctLine_canon _ h
    · simpa [Canon] using correctLine_canon line h

/-- A home that accepts a store keeps the canonical form: the bytes take effect later, and WVER counts in place. -/
theorem homeAccept_canon (st : Store) {s : State} (h : Canon s) : Canon (homeAccept st s) := by
  unfold homeAccept
  have h2 : Canon (l2Access st.first st.line (countWrites st.line { s with hm := { s.hm with
      timed := s.hm.timed ++ [{ st with c := completion s st.line }], lineC := mset 0 s.hm.lineC st.line (completion s st.line),
      tlb := s.hm.tlb.map fun e => if e.cluster = clusterOf st.core ∧ e.ctx = st.ctx ∧ keyIn e.leaf (64 * st.line) then
        { e with done := max e.done (completion s st.line) } else e } })) := l2Access_canon _ _ _ (countWrites_canon _ h)
  simp only
  split <;> split <;> simpa [Canon] using h2

theorem setSeq_canon (n : Nat) {s : State} (h : Canon s) : Canon { s with seqNo := n } := h

theorem deliver_canon (sn : Nat) {s : State} (h : Canon s) : Canon (deliver sn s) := by
  unfold deliver
  split
  · exact h
  · rw [arriveHome, Canon, raiseDue_hm]
    exact homeAccept_canon _ h

theorem deliverLine_canon (uid line : Nat) {s : State} (h : Canon s) : Canon (deliverLine uid line s) :=
  fold_canon (fun _ _ ht => deliver_canon _ ht) _ _ h

theorem dropTlb_canon (ctx va n : Nat) {s : State} (h : Canon s) : Canon (dropTlb ctx va n s) := h

theorem putLeaf_canon (ctx va : Nat) (l : Leaf) {s : State} (h : Canon s) : Canon (putLeaf ctx va l s) :=
  dropTlb_canon _ _ _ (physWrite_canon _ _ h)

theorem zeroFrame_canon (frame n : Nat) {s : State} (h : Canon s) : Canon (zeroFrame frame n s) := by
  unfold zeroFrame
  split
  · exact h
  · exact mwf_filter 0#8 _ h

theorem sendStore_canon (st : Store) {s : State} (h : Canon s) : Canon (sendStore st s) := by
  unfold sendStore
  split
  · exact h
  · exact homeAccept_canon _ h

theorem failParked_canon (c : Nat) (p : Parked → Bool) {s : State} (h : Canon s) : Canon (failParked c p s) :=
  fold_canon (fun _ _ ht => by simpa [Canon] using ht) _ _ h

theorem performParked_canon (p : Parked) (l : Leaf) {s : State} (h : Canon s) : Canon (performParked p l s) :=
  sendStore_canon _ (s := modHm _ s) h

/-- Parked stores that are performed, or fail, keep the canonical form. -/
theorem performPage_canon (ctx page : Nat) {s : State} (h : Canon s) : Canon (performPage ctx page s) := by
  unfold performPage
  split
  · exact h
  · dsimp only
    split
    · exact h
    · split
      · exact failParked_canon _ _ h
      · exact fold_canon (fun _ _ ht => performParked_canon _ _ ht) _ _ h

theorem performParkedOn_canon (l : List Nat) {s : State} (h : Canon s) : Canon (performParkedOn l s) :=
  fold_canon (fun _ _ ht => performPage_canon _ _ ht) _ _ h

theorem createPage_canon (ctx va : Nat) (l : Leaf) (frame : Nat) {s : State} (h : Canon s) : Canon (createPage ctx va l frame s) :=
  performPage_canon _ _ (putLeaf_canon _ _ _ (zeroFrame_canon _ _ h))

theorem movePage_canon (old new n : Nat) {s : State} (h : Canon s) : Canon (movePage old new n s) :=
  setCells_wf _ _ (mwf_filter 0#8 _ h)

theorem pushFrame_canon (size frame : Nat) {s : State} (h : Canon s) : Canon (pushFrame size frame s) :=
  physWrite_canon _ _ (by simpa [Canon] using h)

theorem popFrame_canon {size : Nat} {s t : State} {f : Nat} (h : Canon s) (hp : popFrame size s = some (f, t)) : Canon t := by
  unfold popFrame at hp
  dsimp only at hp
  split at hp
  · cases hp
  · obtain ⟨rfl, rfl⟩ := by simpa only [Option.some.injEq, Prod.mk.injEq] using hp
    simpa [Canon] using h

theorem updateL1_canon (l : List (Nat × Byte)) {s : State} (h : Canon s) : Canon (updateL1 l s) := h

theorem dropStale_canon (l : List (Nat × Nat)) {s : State} (h : Canon s) : Canon (dropStale l s) := h

theorem sendStores_canon (ins : Nat) (b : Bool) (f : Nat → Nat) (l : List (Nat × Byte)) {s : State} (h : Canon s) : Canon (sendStores ins b f l s) := by
  unfold sendStores
  refine fold_canon (fun t x ht => ?_) _ _ (updateL1_canon _ h)
  exact ht

theorem acceptAtomics_canon (b : Bool) (m : SMap Byte) {s : State} (h : Canon s) : Canon (acceptAtomics b m s) := by
  unfold acceptAtomics
  refine fold_canon (fun t x ht => ?_) _ _ h
  dsimp only
  exact homeAccept_canon _ (setSeq_canon _ ht)

theorem recordLease_canon (key16 n d : Nat) {s : State} (h : Canon s) : Canon (recordLease key16 n d s) := h

theorem grant_canon (f : Bool) (core ctx va16 key16 : Nat) {s : State} (h : Canon s) : Canon (grant f core ctx va16 key16 s) := by
  unfold grant
  dsimp only
  split
  · exact h
  · exact h

theorem grantFar_canon (ctx key16 : Nat) {s : State} (h : Canon s) : Canon (grantFar ctx key16 s) := by
  unfold grantFar
  split
  · exact h
  · exact h

theorem touchSectors_canon (n : Nat) (sp : Span) {s : State} (h : Canon s) : Canon (touchSectors n sp s) := by
  unfold touchSectors
  split
  · exact h
  · refine fold_canon (fun t i ht => ?_) _ _ h
    split
    · exact l2Access_canon _ _ _ ht
    · split
      · exact ht
      · exact grant_canon _ _ _ _ _ (l2Access_canon _ _ _ ht)

theorem park_canon (b : Bool) (n : Nat) (l : List StCell) (x : Nat × Nat × Nat) {s : State} (h : Canon s) : Canon (park b n l x s) := h

theorem rmwObject_canon (a b c d e : Nat) (f : Nat → Nat) {s : State} (h : Canon s) : Canon (rmwObject a b c d e f s) :=
  homeAccept_canon _ (setSeq_canon _ h)

theorem arriveKey_canon (ctx key n st : Nat) (i : Option (Bool × Nat)) (c : Bool) {s : State} (h : Canon s) : Canon (arriveKey ctx key n st i c s) := by
  rw [arriveKey, Canon, countUncorr_hm]
  exact rmwObject_canon _ _ _ _ _ _ h

theorem arriveVa_canon (ctx : Nat) (a : Word64) (n st : Nat) (i : Option (Bool × Nat)) (c : Bool) {s : State} (h : Canon s) :
    Canon (arriveVa ctx a n st i c s) := by
  unfold arriveVa
  split
  · exact h
  · split
    · exact h
    · exact arriveKey_canon _ _ _ _ _ _ h

theorem arriveScr_canon (u o n st : Nat) (i : Option (Bool × Nat)) (c : Bool) {s : State} (h : Canon s) : Canon (arriveScr u o n st i c s) := by
  unfold arriveScr
  split
  · exact h
  · simp only [Canon, countUncorr_hm]
    split
    · simpa [Canon] using h
    · exact h

/-! ### Traps -/

theorem sendCells_canon (op ctx : Nat) (f : Nat → Nat) (l : List (Nat × Byte)) {s : State} (h : Canon s) : Canon (sendCells op ctx f l s) :=
  fold_canon (fun _ _ ht => sendStore_canon _ (setSeq_canon _ ht)) _ _ h

theorem mgrWrite_canon (pa : Nat) (l : List Byte) {s : State} (h : Canon s) : Canon (mgrWrite pa l s) := by
  unfold mgrWrite
  split
  · exact sendCells_canon _ _ _ _ h
  · exact h

theorem setDeficit_canon (n : Nat) (x : Int) {s : State} (h : Canon s) : Canon (setDeficit n x s) :=
  mgrWrite_canon _ _ (by rw [Canon, modQueue_hm]; exact h)

theorem setCharged_canon (n x : Nat) {s : State} (h : Canon s) : Canon (setCharged n x s) :=
  mgrWrite_canon _ _ (by rw [Canon, modQueue_hm]; exact h)

theorem chargeCrew_canon (c : CrewRec) {s : State} (h : Canon s) : Canon (chargeCrew c s) := by
  unfold chargeCrew
  split
  · exact h
  · exact setCharged_canon _ _ (setDeficit_canon _ _ h)

theorem settleDeficit_canon (n : Nat) {s : State} (h : Canon s) : Canon (settleDeficit n s) := by
  unfold settleDeficit
  split
  · exact h
  · dsimp only
    split
    · exact h
    · exact setDeficit_canon _ _ h

theorem leaveCore_canon (c : Crew) {s : State} (h : Canon s) : Canon (leaveCore c s) := by
  show Canon (if _ then _ else _)
  split <;> exact h

/-- Ending a context keeps the canonical form. -/
theorem kill_canon (ctx c : Nat) {s : State} (h : Canon s) : Canon (kill ctx c s) := by
  unfold kill
  simp only [Canon, setPreg_hm]
  refine fold_canon (fun t c ht => leaveCore_canon _ ht) _ _ ?_
  refine fold_canon (fun t q ht => settleDeficit_canon _ ht) _ _ ?_
  refine fold_canon (fun t q ht => by simpa [Canon] using ht) _ _ ?_
  refine fold_canon (fun t p ht => by simpa [Canon] using ht) _ _ ?_
  refine fold_canon (fun t l ht => ?_) _ _ ?_
  · split
    · simpa [Canon] using ht
    · exact ht
  · show Memory.wf (withCrews _ _).hm.mem = true
    rw [withCrews_hm]
    show Canon (forgetContext _ _ _)
    rw [Canon, forgetContext_hm]
    exact fold_canon (fun t c ht => chargeCrew_canon _ ht) _ _ h

theorem storeRecord_canon (b : List Byte) (key : Nat) {s : State} (h : Canon s) : Canon (storeRecord b key s) := sendStore_canon _ (setSeq_canon _ h)

theorem enterHandler_canon (p : Bool) (t : TrapInfo) (key : Nat) {s : State} (h : Canon s) : Canon (enterHandler p t key s) :=
  storeRecord_canon _ _ h

/-- Taking a trap keeps the canonical form, whether the skein's handler runs or its context ends. -/
theorem takeTrap_canon (p : Bool) (t : TrapInfo) {s : State} (h : Canon s) : Canon (takeTrap p t s) := by
  have h1 : Canon (if t.code = 17 then countUncorr 1 s else s) := by split <;> simpa [Canon] using h
  unfold takeTrap
  simp only
  split
  · exact enterHandler_canon _ _ _ h1
  · exact kill_canon _ _ h1

theorem leaveHandler_canon {s : State} (h : Canon s) : Canon (leaveHandler s) := by
  unfold leaveHandler
  split <;> exact h

/-! ### Results of meanings -/

/-- A result whose states, if any, are canonical; `P` says which part of the answer is the state. -/
def ResCanon {α : Type} (P : α → Prop) : Res α → Prop
  | .ok a => P a
  | .error (.wait s _ _) => Canon s
  | .error _ => True

@[simp] theorem resCanon_ok {α : Type} {P : α → Prop} (a : α) : ResCanon P (.ok a) ↔ P a := Iff.rfl
@[simp] theorem resCanon_pure {α : Type} {P : α → Prop} (a : α) : ResCanon P (pure a) ↔ P a := Iff.rfl
@[simp] theorem resCanon_trap {α : Type} {P : α → Prop} (t : TrapInfo) : ResCanon P (.error (.trap t)) := trivial
@[simp] theorem resCanon_trapAt {α : Type} {P : α → Prop} (a b c d : Nat) : ResCanon P (.error (trapAt a b c d)) := trivial
@[simp] theorem resCanon_bad {α : Type} {P : α → Prop} (f : Fault) : ResCanon P (.error (.bad f)) := trivial
@[simp] theorem resCanon_wait {α : Type} {P : α → Prop} (s : State) (a b : Nat) : ResCanon P (.error (.wait s a b)) ↔ Canon s := Iff.rfl

theorem resCanon_bind {α β : Type} {P : α → Prop} {Q : β → Prop} {r : Res α} {f : α → Res β} (hr : ResCanon P r)
    (hf : ∀ a, P a → ResCanon Q (f a)) : ResCanon Q (r >>= f) := by
  cases r with
  | ok a => exact hf a hr
  | error e =>
    cases e with
    | wait => exact hr
    | trap => trivial
    | bad => trivial

/-- An outcome whose next state is canonical. -/
def OutCanon : Out → Prop
  | .next s => Canon s
  | _ => True

theorem outCanon_next {o : Out} (h : OutCanon o) {t : State} (ht : o = .next t) : Canon t := by subst ht; exact h

theorem conclude_canon (p : Bool) {s : State} (h : Canon s) {r : Res State} (hr : ResCanon Canon r) : OutCanon (conclude p s r) := by
  cases r with
  | ok a => exact hr
  | error e =>
    cases e with
    | trap t => exact takeTrap_canon p t h
    | wait u a b => exact hr
    | bad f => trivial

/-- An instruction keeps the canonical form when what it does once its checks pass keeps it. -/
theorem issue_canon {r : Req} {s : State} (h : Canon s) {f : State → Res State} (hf : ResCanon Canon (f s)) : OutCanon (issue r s f) := by
  unfold issue
  split
  · exact takeTrap_canon _ _ h
  · split
    · exact h
    · exact conclude_canon _ h hf

theorem simple_canon {r : Req} {s : State} (h : Canon s) {f : State → State} (hf : (f s).hm = s.hm) : OutCanon (simple r s f) :=
  issue_canon h (by simpa [Canon, hf] using h)

/-! ### Translation, loads, stores, atomics -/

/-- Reads of physical memory answer no state. -/
theorem resCanon_true {α : Type} {r : Res α} (hw : ∀ s a b, r ≠ .error (.wait s a b)) : ResCanon (fun _ => True) r := by
  cases r with
  | ok a => trivial
  | error e =>
    cases e with
    | wait s a b => exact absurd rfl (hw s a b)
    | trap => trivial
    | bad => trivial

theorem physRead_canon (s : State) (pa n : Nat) : ResCanon (fun _ => True) (physRead s pa n) := by
  unfold physRead
  split <;> trivial

theorem ctxEntry_canon (s : State) (ctx : Nat) : ResCanon (fun _ => True) (ctxEntry s ctx) :=
  resCanon_bind (physRead_canon s _ _) fun _ _ => trivial

theorem walkFrom_canon (s : State) (va : Nat) : ∀ n base, ResCanon (fun _ => True) (walkFrom s va n base) := by
  intro n
  induction n with
  | zero => intro base; trivial
  | succ n ih =>
    intro base
    refine resCanon_bind (physRead_canon s _ _) fun e _ => ?_
    dsimp only
    repeat' split
    all_goals first | trivial | exact ih _

theorem walk_canon (s : State) (ctx va : Nat) : ResCanon (fun _ => True) (walk s ctx va) := by
  refine resCanon_bind (ctxEntry_canon s ctx) fun x _ => ?_
  split
  · trivial
  · exact walkFrom_canon _ _ _ _

theorem leafFor_canon (cluster ctx va : Nat) {s : State} (h : Canon s) :
    ResCanon (fun x : Except Nat Leaf × State => Canon x.2) (leafFor s cluster ctx va) := by
  unfold leafFor
  split
  · exact h
  · refine resCanon_bind (walk_canon s ctx va) fun x _ => ?_
    split <;> exact h

theorem walkSpans_canon (cluster ctx : Nat) : ∀ (l : List (Nat × Nat)) {s : State}, Canon s →
    ResCanon (fun x : Except (Nat × Nat) (List Span) × State => Canon x.2) (walkSpans cluster ctx l s) := by
  intro l
  induction l with
  | nil => intro s h; exact h
  | cons g l ih =>
    intro s h
    refine resCanon_bind (leafFor_canon cluster ctx g.1 h) fun x hx => ?_
    obtain ⟨r, u⟩ := x
    cases r with
    | error e => exact h
    | ok leaf =>
      refine resCanon_bind (ih hx) fun y hy => ?_
      obtain ⟨r2, w⟩ := y
      cases r2 with
      | error e => exact h
      | ok sp => exact hy

theorem checkAccess_canon (p : Bool) (cluster ctx : Nat) (acc : Acc) (va n : Nat) {s : State} (h : Canon s) :
    ResCanon (fun x : Except (Nat × Nat × Nat) (List Span) × State => Canon x.2) (checkAccess p cluster ctx acc va n s) := by
  unfold checkAccess
  split
  · exact h
  · split
    · exact h
    · split
      · exact h
      · refine resCanon_bind (walkSpans_canon cluster ctx _ h) fun x hx => ?_
        obtain ⟨r, u⟩ := x
        cases r with
        | error e => exact h
        | ok sp =>
          dsimp only
          split
          · exact h
          · exact hx

theorem checkLanes_canon (acc : Acc) (b : Bool) (n : Nat) : ∀ (l : List (Nat × Nat)) {s : State}, Canon s →
    ResCanon (fun x : List LaneAcc × State => Canon x.2) (checkLanes acc b n l s) := by
  intro l
  induction l with
  | nil => intro s h; exact h
  | cons x l ih =>
    intro s h
    obtain ⟨L, va⟩ := x
    unfold checkLanes
    split
    · exact resCanon_bind (ih h) fun y hy => hy
    · refine resCanon_bind (checkAccess_canon _ _ _ acc va n h) fun y hy => ?_
      refine resCanon_bind (ih hy) fun z hz => ?_
      dsimp only
      split <;> exact hz

theorem resCanon_error_trap {α : Type} {P : α → Prop} {e : Stop} (he : ∃ t, e = .trap t) : ResCanon P (.error e) := by
  obtain ⟨t, rfl⟩ := he; trivial

theorem laneFault_trap (c : Option Nat) : ∀ (l : List LaneAcc) {e : Stop}, laneFault c l = some e → ∃ t, e = .trap t := by
  intro l
  induction l with
  | nil => intro e h; cases h
  | cons a l ih =>
    intro e h
    unfold laneFault at h
    split at h
    · cases h; exact ⟨_, rfl⟩
    · cases h; exact ⟨_, rfl⟩
    · exact ih h

theorem resolve_canon (acc : Acc) (b : Bool) (c : Option Nat) (n : Nat) (l : List (Nat × Nat)) {s : State} (h : Canon s) :
    ResCanon (fun x : List LaneAcc × State => Canon x.2) (resolve acc b c n l s) := by
  refine resCanon_bind (checkLanes_canon acc b n l h) fun x hx => ?_
  dsimp only
  split
  · split
    · rename_i ht; exact resCanon_error_trap (laneFault_trap _ _ ht)
    · exact h
  · split
    · rename_i ht; exact resCanon_error_trap (laneFault_trap _ _ ht)
    · exact hx

theorem badTrap {l : List LaneAcc} {s : State} {e : Stop}
    (h : l.findSome? (fun a => (badWord s a).map fun va => trapAt 17 1 a.lane va) = some e) : ∃ t, e = .trap t := by
  obtain ⟨a, _, ha⟩ := List.exists_of_findSome?_eq_some h
  obtain ⟨va, _, rfl⟩ := Option.map_eq_some_iff.mp ha
  exact ⟨_, rfl⟩

theorem hostReady_canon (l : List LaneAcc) {s : State} (h : Canon s) : ResCanon Canon (hostReady l s) := by
  unfold hostReady
  dsimp only
  split
  · trivial
  · split
    · exact h
    · exact fold_canon (fun t x ht => by simpa [Canon] using ht) _ _ h

/-- A load keeps the canonical form. -/
theorem loadLanes_canon (a b : Bool) (pol n : Nat) (l : List (Nat × Nat)) (cl : Bool) {s : State} (h : Canon s) :
    ResCanon (fun x : List Loaded × State => Canon x.2) (loadLanes a b pol n l s cl) := by
  refine resCanon_bind (resolve_canon _ _ _ n l h) fun x hx => ?_
  refine resCanon_bind (hostReady_canon _ hx) fun u hu => ?_
  dsimp only
  split
  · rename_i ht; exact resCanon_error_trap (badTrap ht)
  · show Canon _
    simp only [Canon]
    refine fold_canon (fun t y ht => ?_) _ _ hu
    split
    · exact ht
    · exact fold_canon (fun u sp hu => touchSectors_canon _ sp hu) _ _ ht

theorem parkRequest_canon (p : Bool) (ctx page size : Nat) {s : State}
    (hp : ResCanon (fun x : Nat × State => Canon x.2) (pageRequest p ctx page 0 s)) : ResCanon Canon (parkRequest p ctx page size s) := by
  refine resCanon_bind hp fun x hx => ?_
  dsimp only
  split
  · exact failParked_canon _ _ hx
  · exact hx

/-- A page request keeps the canonical form. -/
theorem pageRequest_canon (p : Bool) (ctx va asker : Nat) {s : State} (h : Canon s) :
    ResCanon (fun x : Nat × State => Canon x.2) (pageRequest p ctx va asker s) := by
  refine resCanon_bind (ctxEntry_canon s ctx) fun x _ => ?_
  split
  · exact h
  · refine resCanon_bind (walkFrom_canon s va 4 _) fun y _ => ?_
    dsimp only
    repeat' split
    all_goals first
      | exact h
      | exact createPage_canon _ _ _ _ h
      | (rename_i hp; exact createPage_canon _ _ _ _ (popFrame_canon h hp))

theorem requestAll_canon : ∀ (l : List (Nat × Nat)) {s : State}, Canon s → ResCanon Canon (requestAll l s) := by
  intro l
  induction l with
  | nil => intro s h; exact h
  | cons x l ih =>
    intro s h
    exact resCanon_bind (parkRequest_canon _ _ _ _ (pageRequest_canon _ _ _ _ h)) fun t ht => ih ht

theorem overflowTrap_trap {c : Crew} {l : List (Nat × Nat)} {e : Stop} (h : overflowTrap c l = some e) : ∃ t, e = .trap t := by
  obtain ⟨x, _, rfl⟩ := Option.map_eq_some_iff.mp h
  exact ⟨_, rfl⟩

theorem notePatch_canon {s : State} (h : Canon s) : Canon (notePatch s) := setCells_wf _ _ h

/-- A store keeps the canonical form. -/
theorem storeLanes_canon (n : Nat) (l : List (Nat × Nat)) (f : Nat → List Byte) (pol : Nat) {s : State} (h : Canon s) :
    ResCanon Canon (storeLanes n l f s pol) := by
  refine resCanon_bind (checkLanes_canon _ _ n l h) fun x hx => ?_
  dsimp only
  split
  · rename_i ht; exact resCanon_error_trap (laneFault_trap _ _ ht)
  · split
    · rename_i ht; exact resCanon_error_trap (overflowTrap_trap ht)
    · split
      · exact h
      · refine requestAll_canon _ (fold_canon (fun t y ht => park_canon _ _ _ _ ht) _ _ ?_)
        refine sendStores_canon _ _ _ _ (dropStale_canon _ (performParkedOn_canon _ ?_))
        split
        · exact hx
        · exact notePatch_canon (by simpa [Canon] using hx)

@[simp] theorem patchAtomic_hm (a n va key d : Nat) (s : State) : (patchAtomic a n va key d s).2.hm = s.hm := by
  unfold patchAtomic
  dsimp only
  split
  · rfl
  · split <;> rfl

theorem setOut_canon (l : List (Nat × Nat)) {s : State} (h : Canon s) : ResCanon Canon (setOut l s) := by
  unfold setOut
  split <;> exact h

/-- An atomic keeps the canonical form. -/
theorem atomicLanes_canon (a n : Nat) (q : Bool) (l : List AtLane) (pol : Nat) {s : State} (h : Canon s) :
    ResCanon (fun x : List (Nat × Nat) × State => Canon x.2) (atomicLanes a n q l s pol) := by
  refine resCanon_bind (resolve_canon _ _ _ n _ h) fun x hx => ?_
  dsimp only
  split
  · trivial
  · split
    · rename_i ht; exact resCanon_error_trap (badTrap ht)
    · split
      · rename_i ht; exact resCanon_error_trap (overflowTrap_trap ht)
      · split
        · exact h
        · refine resCanon_bind (setOut_canon _ h) fun _ _ => ?_
          show Canon _
          simp only [Canon]
          refine acceptAtomics_canon _ _ (fold_canon (fun t y ht => deliverLine_canon _ _ ht) _ _ (performParkedOn_canon _ ?_))
          split
          · exact List.foldlRecOn (motive := fun y : List (Nat × Nat) × State => Canon y.2) _ _ hx fun y hy z _ => by simpa [Canon] using hy
          · exact notePatch_canon (List.foldlRecOn (motive := fun y : List (Nat × Nat) × State => Canon y.2) _ _ hx fun y hy z _ => by simpa [Canon] using hy)

/-! ### Pages that move (01 R39 to R42) -/

theorem dropReq_canon (n : Nat) {s : State} (h : Canon s) : Canon (dropReq n s) := h

/-- The end of a request keeps the canonical form. -/
theorem endRequest_canon (r : PageReq) (c : Nat) {s : State} (h : Canon s) : Canon (endRequest r c s) := by
  have h1 : Canon (answerAsker r c s) := by simpa [Canon] using h
  unfold endRequest
  dsimp only
  split
  · exact failParked_canon _ _ h1
  · exact failParked_canon _ _ h1
  · exact h1
  · split
    · simpa [Canon] using h
    · exact h1
  · exact h1

theorem arrivePage_canon (a b c d e f g : Nat) (data : List (Nat × Byte)) {s : State} (h : Canon s) : Canon (arrivePage a b c d e f g data s) := by
  unfold arrivePage
  split
  · exact h
  · split
    · refine endRequest_canon _ _ (performPage_canon _ _ (putLeaf_canon _ _ _ ?_))
      show Memory.wf (setCells _ _) = true
      refine setCells_wf _ _ (zeroFrame_canon _ _ ?_)
      split
      · exact movePage_canon _ _ _ h
      · exact h
    · exact dropReq_canon _ (by rw [Canon, failWaits_hm]; exact failParked_canon _ _ h)
    · exact h

theorem pointRemote_canon (a b c d : Nat) {s : State} (h : Canon s) : Canon (pointRemote a b c d s) := by
  unfold pointRemote
  split
  · exact h
  · split
    · exact h
    · exact performPage_canon _ _ (putLeaf_canon _ _ _ h)

theorem changeHome_canon (a b c d : Nat) {s : State} (h : Canon s) : Canon (changeHome a b c d s) := by
  unfold changeHome
  split
  · exact h
  · dsimp only
    split
    · exact putLeaf_canon _ _ _ (movePage_canon _ _ _ h)
    · split
      · exact putLeaf_canon _ _ _ h
      · exact h

/-- The answer to a request from another device keeps the canonical form. -/
theorem homeRequest_canon (a b c : Nat) {s : State} (h : Canon s) : Canon (homeRequest a b c s) := by
  unfold homeRequest
  split
  · simpa [Canon] using h
  · simpa [Canon] using h
  · simpa [Canon, beginMove] using h
  · exact h
  · dsimp only
    split
    · simpa [Canon, beginMove] using createPage_canon _ _ _ _ h
    · split
      · rename_i hp
        simpa [Canon, beginMove] using createPage_canon _ _ _ _ (popFrame_canon h hp)
      · simpa [Canon] using h

theorem retryAsked_canon {s : State} (h : Canon s) : Canon (retryAsked s) :=
  fold_canon (fun _ _ ht => homeRequest_canon _ _ _ ht) _ _ h

/-- The commit of a move keeps the canonical form. -/
theorem commitMove_canon (m : Migration) (frame : Nat) (l : Leaf) (w : Nat) {s : State} (h : Canon s) : Canon (commitMove m frame l w s) := by
  unfold commitMove
  dsimp only
  refine retryAsked_canon ?_
  simp only [Canon, setMig_hm]
  refine fold_canon (fun t d ht => by simpa [Canon] using ht) _ _ ?_
  simp only [Canon, sendMsg_hm]
  exact putLeaf_canon _ _ _ (modHm_canon (fun _ => rfl) (movePage_canon _ _ _ h))

/-! ### Asynchronous operations -/

theorem requestPage_canon (o : Op) (st : Bool) (va : Nat) {s : State} (h : Canon s) : Canon (requestPage o st va s) := by
  have hf : ∀ (c : Nat) {u : State}, Canon u → Canon (failPage o va c u) := by
    intro c u hu
    unfold failPage
    split <;> exact hu
  have hw : ∀ {u : State}, Canon u → Canon (waitPage o va u) := by
    intro u hu
    unfold waitPage
    split
    · dsimp only
      split <;> exact hu
    · exact hu
  have hr := pageRequest_canon (s.privCtx.contains o.ctx) o.ctx va 0 h
  unfold requestPage
  split <;> (try (rename_i hx; rw [hx] at hr))
  · exact hr
  · exact hf _ hr
  · exact hf _ hr
  · split
    · exact hw hr
    · exact hf _ hr
  · exact hw hr
  · exact hf _ h

theorem opRequest_canon (o : Op) (n : Need) (st : Bool) {s : State} (h : Canon s) : Canon (opRequest o n s st) := by
  unfold opRequest
  split
  · exact h
  · exact h
  · split
    · exact requestPage_canon _ _ _ h
    · exact fold_canon (fun t x ht => by simpa [Canon] using ht) _ _ h

theorem engLine_canon (o : Op) (f : Nat → Nat) (b : Nat → Bool) (c : List (Nat × Byte)) (line : Nat) {s : State} (h : Canon s) : Canon (engLine o f b c s line) :=
  sendStore_canon _ h

theorem engWrite_canon (o : Op) (va : Nat) (l : List Byte) {s : State} (h : Canon s) : Canon (engWrite o va l s).1 := by
  unfold engWrite
  split
  · exact h
  · exact fold_canon (fun t x ht => engLine_canon _ _ _ _ _ ht) _ _ h

theorem doWrite_canon (o : Op) (acc : State × Nat × Nat) (w : Wr) (h : Canon acc.1) : Canon (doWrite o acc w).1 := by
  unfold doWrite
  split
  · exact h
  · exact engWrite_canon _ _ _ h

theorem correctWin_canon (a b c : Nat) {s : State} (h : Canon s) : Canon (correctWin a b c s) := by
  unfold correctWin
  split
  · exact h
  · dsimp only
    split
    · exact h
    · simpa [Canon] using h

theorem touchBrick_canon (o : Op) (p : Nat) (b : List Nat) (va : Nat) {s : State} (h : Canon s) : Canon (touchBrick o p b va s) := by
  unfold touchBrick
  split
  · exact h
  · split
    · split
      · exact h
      · unfold fillBrick
        split
        · exact h
        · have hr := fun (l : List (Nat × Nat)) (d : Nat) {u : State} (hu : Canon u) =>
            fold_canon (act := fun s x => recordLease x.1 x.2 d s) (fun _ _ ht => recordLease_canon _ _ _ ht) l u hu
          have hl := fun (l : List Nat) (b : Bool) => fold_canon (act := fun s x => l2Access b (x / 4) s) (fun _ _ ht => l2Access_canon _ _ _ ht) l s h
          dsimp only
          split
          · exact hr _ _ (hl _ _)
          · exact modHm_canon (fun _ => rfl) (hr _ _ (hl _ _))
    · exact h

theorem touchPage_canon (o : Op) (l : Leaf) (va n : Nat) {s : State} (h : Canon s) : Canon (touchPage o l va n s) := by
  unfold touchPage
  dsimp only
  split
  · refine fold_canon (fun t i ht => ?_) _ _ h
    split
    · exact ht
    · exact grant_canon _ _ _ _ _ (l2Access_canon _ _ _ ht)
  · exact fold_canon (fun _ _ ht => l2Access_canon _ _ _ ht) _ _ h

theorem touchNeed_canon (o : Op) (n : Need) {s : State} (h : Canon s) : Canon (touchNeed o s n) := by
  unfold touchNeed
  split
  · exact touchBrick_canon _ _ _ _ h
  · exact correctWin_canon _ _ _ h
  · split
    · exact touchPage_canon _ _ _ _ h
    · exact h
  · exact h

/-- The reads and writes of an operation keep the canonical form. -/
theorem performPlan_canon (o : Op) (p : Plan) {s : State} (h : Canon s) : Canon (performPlan o p s) := by
  unfold performPlan
  split
  · have h0 : Canon (p.need.foldl (touchNeed o) s) := fold_canon (fun t n ht => touchNeed_canon _ _ ht) _ _ h
    have h1 : Canon (p.writes.foldl (doWrite o) (p.need.foldl (touchNeed o) s, 0, p.st)).1 :=
      List.foldlRecOn (motive := fun x : State × Nat × Nat => Canon x.1) _ _ h0 fun x hx w _ => doWrite_canon o x w hx
    dsimp only
    rw [Canon, setOp_hm, countErrors, countUncorr_hm]
    exact h1
  · exact fold_canon (fun t n ht => opRequest_canon _ _ _ ht) _ _ h

theorem performLater_canon (o : Op) {s : State} (h : Canon s) : Canon (performLater o s) := by
  unfold performLater
  split
  · exact h
  · split
    · have h1 := List.foldlRecOn (motive := fun x : State × Nat × Nat => Canon x.1) o.later
        (fun acc w => doWrite o acc { scr := none, addr := w.1, bytes := w.2 }) (b := (s, 0, 0)) h fun x hx w _ => doWrite_canon o x _ hx
      dsimp only
      rw [Canon, setOp_hm, countErrors, countUncorr_hm]
      exact h1
    · exact fold_canon (fun t n ht => opRequest_canon _ _ _ ht) _ _ h

theorem arriveOp_canon (o : Op) {s : State} (h : Canon s) : Canon (arriveOp o s) := by
  unfold arriveOp
  split
  · exact h
  · exact arriveVa_canon _ _ _ _ _ _ h
  · exact fold_canon (fun t x ht => arriveScr_canon _ _ _ _ _ _ ht) _ _ h

/-! ### Time -/

@[simp] theorem noteStuck_hm (s : State) : (noteStuck s).hm = s.hm := rfl

/-- What the homes do at a tick keeps the canonical form: the stores whose time has come take effect, and the homes' faults and the
arrivals on DONE follow. -/
theorem orphanFaults_canon {s : State} (h : Canon s) : Canon (orphanFaults s) := by
  unfold orphanFaults
  dsimp only
  split
  · exact kill_canon _ _ h
  · exact h

theorem serveDones_canon {s : State} (h : Canon s) : Canon (serveDones s) := by
  refine fold_canon (fun t d ht => ?_) _ _ h
  unfold serveDone
  split
  · exact ht
  · split
    · exact opRequest_canon _ _ _ ht
    · dsimp only
      simp only [Canon, forgetPages_hm]
      split
      · exact arriveVa_canon _ _ _ _ _ _ ht
      · exact ht

/-- A tick at which no kept message has its turn keeps the canonical form. -/
theorem settled_canon (now : Nat) {s t : State} (h : Canon s) (ht : t.hm = settleHomes now s.hm) : Canon (serveDones (orphanFaults t)) :=
  serveDones_canon (orphanFaults_canon (by rw [Canon, ht]; exact settleHomes_wf now _ h))

end Sys2Proof.Laws
end

