-- ==== Sys2Proof/Laws/PerInstr.lean ====
section
/-! SUPPORT. Laws about each instruction: the words of a well-formed instruction are read back as that instruction. -/
namespace Sys2Proof.Laws.RoundTrip
set_option Elab.async false

/-- The words that `encode` gives are 32 bits wide and the decoder reads the instruction back from them. -/
def Reads (i : Instr) : Prop :=
  match encode i with
  | [w] => w < 2 ^ 32 ∧ isPrefix w = false ∧ ∀ v, decode w v = .ok i
  | [x, w] => x < 2 ^ 32 ∧ w < 2 ^ 32 ∧ isPrefix x = true ∧ decode x w = .ok i
  | _ => False

/-- What is shown of each instruction: if it is well formed and no event, its words decode to it. -/
def Statement (i : Instr) : Prop := i.wf = true → i.isEvent = false → Reads i

theorem isPrefix_false {w : Nat} (op : Nat) (ho : opOf w = op) (hp : op ≠ 63 ∧ op ≠ 125) : isPrefix w = false := by
  simp [isPrefix, ho, hp]

theorem wordChecks_pass {w : Nat} (op : Nat) (ho : opOf w = op) (ha : opAssigned op = true)
    (hg : hasGuard op = false ∨ fld w 24 21 ≠ 8) (k : Decoded) : wordChecks w k = k := by
  rcases hg with hg | hg <;> simp [wordChecks, need, ho, ha, hg]

theorem reads_one {i : Instr} {e : Nat} (op : Nat) (he : encode i = [e]) (hl : e < 2 ^ 32) (ho : fld e 31 25 = op)
    (hp : op ≠ 63 ∧ op ≠ 125) (ha : opAssigned op = true) (hg : hasGuard op = false ∨ fld e 24 21 ≠ 8)
    (hb : ∀ w, w = e → opOf w = op → decodeBody .none w = .ok i) : Reads i := by
  have hn : isPrefix e = false := isPrefix_false op ho hp
  simp only [Reads, he, decode, hn, wordChecks_pass op ho ha hg]
  exact ⟨hl, trivial, fun _ => hb e rfl ho⟩

/-- A prefix word of the set that `up` names, with no reserved bit, that stands for `p`. -/
structure PrefixIs (x : Nat) (up : Bool) (p : Pfx) : Prop where
  bound : x < 2 ^ 32
  op : opOf x = if up then 0x7D else 0x3F
  low : up = true → fld x 24 24 = 0
  reserved : prefixReserved x = true
  reads : prefixOf x = p

theorem reads_pair {i : Instr} {x e : Nat} (p : Pfx) (up : Bool) (op : Nat) (he : encode i = [x, e]) (hx : PrefixIs x up p)
    (hl : e < 2 ^ 32) (ho : fld e 31 25 = op) (hu : op / 64 = if up then 1 else 0) (hp : op ≠ 63 ∧ op ≠ 125) (ha : opAssigned op = true)
    (hg : hasGuard op = false ∨ fld e 24 21 ≠ 8) (hb : ∀ w, w = e → opOf w = op → decodeBody p w = .ok i) : Reads i := by
  have hn : isPrefix e = false := isPrefix_false op ho hp
  have hn' : isPrefix x = true := by cases up <;> simp [isPrefix, hx.op]
  have ho' : opOf e = op := ho
  have hb' := hb e rfl ho
  have hlow := hx.low
  have hop := hx.op
  simp only [Reads, he, decode, hn', decodePair, wordChecks_pass op ho ha hg, hn, ho', hx.reserved, hx.reads, withReserved, hb']
  refine ⟨hx.bound, hl, trivial, ?_⟩
  cases up <;> simp_all [need]
  omega

theorem b2n_cases (b : Bool) : b2n b = 0 ∧ b = false ∨ b2n b = 1 ∧ b = true := by cases b <;> simp [b2n]

theorem bitOf_eq {w n : Nat} {b : Bool} (h : fld w n n = b2n b) : bitOf w n = b := by
  cases b <;> simp [bitOf, h, b2n]

theorem encMemPfx_is {x : MemPfx} (ho : x.off < 65536) (hs : x.scope < 8) (hp : x.pol < 4) : PrefixIs (encMemPfx x) false (.mem x) := by
  obtain ⟨off, acq, rel, nf, scope, pol⟩ := x
  simp only [encMemPfx, memPayload] at *
  have h1 := b2n_cases acq
  have h2 := b2n_cases rel
  have h3 := b2n_cases nf
  generalize hw : 0x7E000000 + (off * 0x100 + b2n acq * 0x80 + b2n rel * 0x40 + b2n nf * 0x20 + scope * 4 + pol) = w
  have k0 : fld w 24 24 = 0 := by simp only [fld]; omega
  have k1 : bitOf w 7 = acq := bitOf_eq (by simp only [fld]; omega)
  have k2 : bitOf w 6 = rel := bitOf_eq (by simp only [fld]; omega)
  have k3 : bitOf w 5 = nf := bitOf_eq (by simp only [fld]; omega)
  have k4 : fld w 23 8 = off := by simp only [fld]; omega
  have k5 : fld w 4 2 = scope := by simp only [fld]; omega
  have k6 : fld w 1 0 = pol := by simp only [fld]; omega
  exact ⟨by omega, by simp only [opOf, fld]; simp; omega, fun _ => k0, by simp [prefixReserved, k0],
    by simp [prefixOf, k0, decMemPfx, k1, k2, k3, k4, k5, k6]⟩

theorem encGmod_is {x : MemPfx} (ho : x.off < 65536) (hs : x.scope < 8) (hp : x.pol < 4) : PrefixIs (encGmod x) true (.mem x) := by
  obtain ⟨off, acq, rel, nf, scope, pol⟩ := x
  simp only [encGmod, memPayload] at *
  have h1 := b2n_cases acq
  have h2 := b2n_cases rel
  have h3 := b2n_cases nf
  generalize hw : 0xFA000000 + (off * 0x100 + b2n acq * 0x80 + b2n rel * 0x40 + b2n nf * 0x20 + scope * 4 + pol) = w
  have k0 : fld w 24 24 = 0 := by simp only [fld]; omega
  have k1 : bitOf w 7 = acq := bitOf_eq (by simp only [fld]; omega)
  have k2 : bitOf w 6 = rel := bitOf_eq (by simp only [fld]; omega)
  have k3 : bitOf w 5 = nf := bitOf_eq (by simp only [fld]; omega)
  have k4 : fld w 23 8 = off := by simp only [fld]; omega
  have k5 : fld w 4 2 = scope := by simp only [fld]; omega
  have k6 : fld w 1 0 = pol := by simp only [fld]; omega
  exact ⟨by omega, by simp only [opOf, fld]; simp; omega, fun _ => k0, by simp [prefixReserved, k0],
    by simp [prefixOf, k0, decMemPfx, k1, k2, k3, k4, k5, k6]⟩

theorem encAtomPfx_is {x : AtomPfx} (hv : x.vb < 128) (ha : x.aop < 16) (hs : x.scope < 8) (hp : x.pol < 4) :
    PrefixIs (encAtomPfx x) false (.atom x) := by
  obtain ⟨vb, aop, acq, rel, scope, pol, w64, scr⟩ := x
  simp only [encAtomPfx] at *
  have h1 := b2n_cases acq
  have h2 := b2n_cases rel
  have h3 := b2n_cases w64
  have h4 := b2n_cases scr
  generalize hw : 0x7F000000 + vb * 0x10000 + aop * 0x1000 + b2n acq * 0x800 + b2n rel * 0x400 + scope * 0x80 + pol * 0x20 +
    b2n w64 * 0x10 + b2n scr * 8 = w
  have k0 : fld w 24 24 = 1 := by simp only [fld]; omega
  have k7 : fld w 23 23 = 0 := by simp only [fld]; omega
  have k1 : bitOf w 11 = acq := bitOf_eq (by simp only [fld]; omega)
  have k2 : bitOf w 10 = rel := bitOf_eq (by simp only [fld]; omega)
  have k3 : bitOf w 4 = w64 := bitOf_eq (by simp only [fld]; omega)
  have k8 : bitOf w 3 = scr := bitOf_eq (by simp only [fld]; omega)
  have k4 : fld w 22 16 = vb := by simp only [fld]; omega
  have k5 : fld w 15 12 = aop := by simp only [fld]; omega
  have k6 : fld w 9 7 = scope := by simp only [fld]; omega
  have k9 : fld w 6 5 = pol := by simp only [fld]; omega
  have k10 : fld w 2 0 = 0 := by simp only [fld]; omega
  have k11 : opOf w = 0x3F := by simp only [opOf, fld]; omega
  exact ⟨by omega, by simp [k11], by simp, by simp [prefixReserved, k0, k7, k10, k11],
    by simp [prefixOf, k0, k7, k11, decAtomPfx, k1, k2, k3, k4, k5, k6, k8, k9]⟩

theorem encArithPfx_is {x : ArithPfx} (hr : x.rnd < 8) (hk : x.pk < 4) (hs : x.sh < 4) : PrefixIs (encArithPfx x) false (.arith x) := by
  obtain ⟨rnd, pk, uns, hi, sh⟩ := x
  simp only [encArithPfx] at *
  have h1 := b2n_cases uns
  have h2 := b2n_cases hi
  generalize hw : 0x7F800000 + rnd * 0x100000 + pk * 0x40000 + b2n uns * 0x20000 + b2n hi * 0x10000 + sh * 0x4000 = w
  have k0 : fld w 24 24 = 1 := by simp only [fld]; omega
  have k7 : fld w 23 23 = 1 := by simp only [fld]; omega
  have k1 : bitOf w 17 = uns := bitOf_eq (by simp only [fld]; omega)
  have k2 : bitOf w 16 = hi := bitOf_eq (by simp only [fld]; omega)
  have k4 : fld w 22 20 = rnd := by simp only [fld]; omega
  have k5 : fld w 19 18 = pk := by simp only [fld]; omega
  have k6 : fld w 15 14 = sh := by simp only [fld]; omega
  have k10 : fld w 13 0 = 0 := by simp only [fld]; omega
  have k11 : opOf w = 0x3F := by simp only [opOf, fld]; omega
  exact ⟨by omega, by simp [k11], by simp, by simp [prefixReserved, k0, k7, k10, k11],
    by simp [prefixOf, k0, k7, k11, decArithPfx, k1, k2, k4, k5, k6]⟩

/-- A word of the lane set: opcode, guard, three register fields. -/
theorem reads_lane {i : Instr} {e : Nat} (c g d a b : Nat) (he : encode i = [e])
    (hy : e = c * 33554432 + g * 2097152 + d * 16384 + a * 128 + b) (hr : g < 16 ∧ g ≠ 8 ∧ d < 128 ∧ a < 128 ∧ b < 128)
    (hc : c < 63) (ha : opAssigned c = true)
    (hb : ∀ y, opOf y = c → fld y 24 21 = g → fld y 20 14 = d → fld y 13 7 = a → fld y 6 0 = b →
      y = c * 33554432 + g * 2097152 + d * 16384 + a * 128 + b → decodeBody .none y = .ok i) : Reads i := by
  obtain ⟨h1, h2, h3, h4, h5⟩ := hr
  have ho : fld e 31 25 = c := by simp only [fld]; omega
  have hg : fld e 24 21 = g := by simp only [fld]; omega
  exact reads_one c he (by omega) ho (by omega) ha (.inr (by omega)) fun y hye hyo =>
    hb y hyo (by rw [hye, hg]) (by simp only [fld]; omega) (by simp only [fld]; omega) (by simp only [fld]; omega) (by omega)

/-- The same after a prefix of the lane set. -/
theorem reads_lane_pair {i : Instr} {x e : Nat} {p : Pfx} (c g d a b : Nat) (he : encode i = [x, e]) (hx : PrefixIs x false p)
    (hy : e = c * 33554432 + g * 2097152 + d * 16384 + a * 128 + b) (hr : g < 16 ∧ g ≠ 8 ∧ d < 128 ∧ a < 128 ∧ b < 128)
    (hc : c < 63) (ha : opAssigned c = true)
    (hb : ∀ y, opOf y = c → fld y 24 21 = g → fld y 20 14 = d → fld y 13 7 = a → fld y 6 0 = b →
      y = c * 33554432 + g * 2097152 + d * 16384 + a * 128 + b → decodeBody p y = .ok i) : Reads i := by
  obtain ⟨h1, h2, h3, h4, h5⟩ := hr
  have ho : fld e 31 25 = c := by simp only [fld]; omega
  have hg : fld e 24 21 = g := by simp only [fld]; omega
  exact reads_pair p false c he hx (by omega) ho (by simp only [Bool.false_eq_true, if_false]; omega) (by omega) ha (.inr (by omega)) fun y hye hyo =>
    hb y hyo (by rw [hye, hg]) (by simp only [fld]; omega) (by simp only [fld]; omega) (by simp only [fld]; omega) (by omega)

/-- A word of the uniform set with three register fields, a bit and a function field. -/
theorem reads_uni {i : Instr} {e : Nat} (c d a b n f : Nat) (he : encode i = [e])
    (hy : e = c * 33554432 + d * 524288 + a * 8192 + b * 128 + n * 64 + f) (hr : d < 64 ∧ a < 64 ∧ b < 64 ∧ n < 2 ∧ f < 64)
    (hc : 64 ≤ c ∧ c < 128 ∧ c ≠ 125) (ha : opAssigned c = true) (hg : hasGuard c = false)
    (hb : ∀ y, opOf y = c → fld y 24 19 = d → fld y 18 13 = a → fld y 12 7 = b → fld y 6 6 = n → fld y 5 0 = f →
      decodeBody .none y = .ok i) : Reads i := by
  obtain ⟨h1, h2, h3, h4, h5⟩ := hr
  have ho : fld e 31 25 = c := by simp only [fld]; omega
  exact reads_one c he (by omega) ho (by omega) ha (.inl hg) fun y hye hyo =>
    hb y hyo (by simp only [fld]; omega) (by simp only [fld]; omega) (by simp only [fld]; omega) (by simp only [fld]; omega) (by simp only [fld]; omega)

theorem vadd (g d a b : Nat) : Statement (.vadd g d a b) := by
  intro h _
  simp [Instr.wf, guardOk] at h
  refine reads_lane 0 g d a b rfl (by omega) (by omega) (by decide) (by decide) fun y ho q0 q1 q2 q3 hy => ?_
  simp [decodeBody, ho, decLaneInt, need, noPfx, q0, q1, q2, q3]

theorem vsub (g d a b : Nat) : Statement (.vsub g d a b) := by
  intro h _
  simp [Instr.wf, guardOk] at h
  refine reads_lane 1 g d a b rfl (by omega) (by omega) (by decide) (by decide) fun y ho q0 q1 q2 q3 hy => ?_
  simp [decodeBody, ho, decLaneInt, need, noPfx, q0, q1, q2, q3]

theorem vmul (x : Option ArithPfx) (g d a b : Nat) : Statement (.vmul x g d a b) := by
  intro h _
  cases x with
  | none =>
    simp [Instr.wf, guardOk, optArithOk, vmulPfxOk] at h
    refine reads_lane 2 g d a b rfl (by omega) (by omega) (by decide) (by decide) fun y ho q0 q1 q2 q3 hy => ?_
    simp [decodeBody, ho, decLaneInt, need, arithPerm, q0, q1, q2, q3]
  | some x =>
    simp [Instr.wf, guardOk, arithOk, optArithOk, vmulPfxOk] at h
    refine reads_lane_pair 2 g d a b rfl (encArithPfx_is (by omega) (by omega) (by omega)) (by omega) (by omega) (by decide) (by decide) fun y ho q0 q1 q2 q3 hy => ?_
    simp [decodeBody, ho, decLaneInt, need, arithPerm, q0, q1, q2, q3, h]

theorem vmulh (x : ArithPfx) (g d a b : Nat) : Statement (.vmulh x g d a b) := by
  intro h _
  simp [Instr.wf, guardOk, arithOk, vmulhPfxOk] at h
  refine reads_lane_pair 2 g d a b rfl (encArithPfx_is (by omega) (by omega) (by omega)) (by omega) (by omega) (by decide) (by decide) fun y ho q0 q1 q2 q3 hy => ?_
  simp [decodeBody, ho, decLaneInt, need, arithPerm, q0, q1, q2, q3, h]

theorem vmad (g d a b : Nat) : Statement (.vmad g d a b) := by
  intro h _
  simp [Instr.wf, guardOk] at h
  refine reads_lane 3 g d a b rfl (by omega) (by omega) (by decide) (by decide) fun y ho q0 q1 q2 q3 hy => ?_
  simp [decodeBody, ho, decLaneInt, need, noPfx, q0, q1, q2, q3]

theorem vand (g d a b : Nat) : Statement (.vand g d a b) := by
  intro h _
  simp [Instr.wf, guardOk] at h
  refine reads_lane 4 g d a b rfl (by omega) (by omega) (by decide) (by decide) fun y ho q0 q1 q2 q3 hy => ?_
  simp [decodeBody, ho, decLaneInt, need, noPfx, q0, q1, q2, q3]

theorem vor (g d a b : Nat) : Statement (.vor g d a b) := by
  intro h _
  simp [Instr.wf, guardOk] at h
  refine reads_lane 5 g d a b rfl (by omega) (by omega) (by decide) (by decide) fun y ho q0 q1 q2 q3 hy => ?_
  simp [decodeBody, ho, decLaneInt, need, noPfx, q0, q1, q2, q3]

theorem vxor (g d a b : Nat) : Statement (.vxor g d a b) := by
  intro h _
  simp [Instr.wf, guardOk] at h
  refine reads_lane 6 g d a b rfl (by omega) (by omega) (by decide) (by decide) fun y ho q0 q1 q2 q3 hy => ?_
  simp [decodeBody, ho, decLaneInt, need, noPfx, q0, q1, q2, q3]

theorem vshl (g d a b : Nat) : Statement (.vshl g d a b) := by
  intro h _
  simp [Instr.wf, guardOk] at h
  refine reads_lane 7 g d a b rfl (by omega) (by omega) (by decide) (by decide) fun y ho q0 q1 q2 q3 hy => ?_
  simp [decodeBody, ho, decLaneInt, need, noPfx, q0, q1, q2, q3]

theorem vshr (g d a b : Nat) : Statement (.vshr g d a b) := by
  intro h _
  simp [Instr.wf, guardOk] at h
  refine reads_lane 8 g d a b rfl (by omega) (by omega) (by decide) (by decide) fun y ho q0 q1 q2 q3 hy => ?_
  simp [decodeBody, ho, decLaneInt, need, noPfx, q0, q1, q2, q3]

theorem vsar (g d a b : Nat) : Statement (.vsar g d a b) := by
  intro h _
  simp [Instr.wf, guardOk] at h
  refine reads_lane 9 g d a b rfl (by omega) (by omega) (by decide) (by decide) fun y ho q0 q1 q2 q3 hy => ?_
  simp [decodeBody, ho, decLaneInt, need, noPfx, q0, q1, q2, q3]

theorem vmin (x : Option ArithPfx) (g d a b : Nat) : Statement (.vmin x g d a b) := by
  intro h _
  cases x with
  | none =>
    simp [Instr.wf, guardOk, optArithOk, minPfxOk] at h
    refine reads_lane 10 g d a b rfl (by omega) (by omega) (by decide) (by decide) fun y ho q0 q1 q2 q3 hy => ?_
    simp [decodeBody, ho, decLaneInt, need, arithPerm, Pfx.aritho, q0, q1, q2, q3]
  | some x =>
    simp [Instr.wf, guardOk, arithOk, optArithOk, minPfxOk] at h
    refine reads_lane_pair 10 g d a b rfl (encArithPfx_is (by omega) (by omega) (by omega)) (by omega) (by omega) (by decide) (by decide) fun y ho q0 q1 q2 q3 hy => ?_
    simp [decodeBody, ho, decLaneInt, need, arithPerm, Pfx.aritho, q0, q1, q2, q3, h]

theorem vmax (x : Option ArithPfx) (g d a b : Nat) : Statement (.vmax x g d a b) := by
  intro h _
  cases x with
  | none =>
    simp [Instr.wf, guardOk, optArithOk, minPfxOk] at h
    refine reads_lane 11 g d a b rfl (by omega) (by omega) (by decide) (by decide) fun y ho q0 q1 q2 q3 hy => ?_
    simp [decodeBody, ho, decLaneInt, need, arithPerm, Pfx.aritho, q0, q1, q2, q3]
  | some x =>
    simp [Instr.wf, guardOk, arithOk, optArithOk, minPfxOk] at h
    refine reads_lane_pair 11 g d a b rfl (encArithPfx_is (by omega) (by omega) (by omega)) (by omega) (by omega) (by decide) (by decide) fun y ho q0 q1 q2 q3 hy => ?_
    simp [decodeBody, ho, decLaneInt, need, arithPerm, Pfx.aritho, q0, q1, q2, q3, h]

theorem vlea (x : Option ArithPfx) (g d a b : Nat) : Statement (.vlea x g d a b) := by
  intro h _
  cases x with
  | none =>
    simp [Instr.wf, guardOk, optArithOk, leaPfxOk] at h
    refine reads_lane 12 g d a b rfl (by omega) (by omega) (by decide) (by decide) fun y ho q0 q1 q2 q3 hy => ?_
    simp [decodeBody, ho, decLaneInt, need, arithPerm, Pfx.aritho, q0, q1, q2, q3]
  | some x =>
    simp [Instr.wf, guardOk, arithOk, optArithOk, leaPfxOk] at h
    refine reads_lane_pair 12 g d a b rfl (encArithPfx_is (by omega) (by omega) (by omega)) (by omega) (by omega) (by decide) (by decide) fun y ho q0 q1 q2 q3 hy => ?_
    simp [decodeBody, ho, decLaneInt, need, arithPerm, Pfx.aritho, q0, q1, q2, q3, h]

theorem vaddi (g d a i : Nat) : Statement (.vaddi g d a i) := by
  intro h _
  simp [Instr.wf, guardOk] at h
  refine reads_lane 13 g d a i rfl (by omega) (by omega) (by decide) (by decide) fun y ho q0 q1 q2 q3 hy => ?_
  simp [decodeBody, ho, decLaneInt, need, noPfx, q0, q1, q2, q3]

theorem vimm (g d i : Nat) : Statement (.vimm g d i) := by
  intro h _
  simp [Instr.wf, guardOk] at h
  refine reads_one 14 rfl (by omega) (by simp only [fld]; omega) (by decide) (by decide) (.inr (by simp only [fld]; omega)) fun y hy ho => ?_
  have k0 : fld y 24 21 = g := by simp only [fld]; omega
  have k1 : fld y 20 14 = d := by simp only [fld]; omega
  have k2 : fld y 13 0 = i := by simp only [fld]; omega
  simp [decodeBody, ho, decLaneInt, need, noPfx, k0, k1, k2]

theorem vmov (g d a : Nat) : Statement (.vmov g d a) := by
  intro h _
  simp [Instr.wf, guardOk] at h
  refine reads_lane 15 g d a 0 rfl (by omega) (by omega) (by decide) (by decide) fun y ho q0 q1 q2 q3 hy => ?_
  simp [decodeBody, ho, decUnary, need, noPfx, q0, q1, q2, q3]

theorem vabs (g d a : Nat) : Statement (.vabs g d a) := by
  intro h _
  simp [Instr.wf, guardOk] at h
  refine reads_lane 15 g d a 1 rfl (by omega) (by omega) (by decide) (by decide) fun y ho q0 q1 q2 q3 hy => ?_
  simp [decodeBody, ho, decUnary, need, noPfx, q0, q1, q2, q3]

theorem vpopc (g d a : Nat) : Statement (.vpopc g d a) := by
  intro h _
  simp [Instr.wf, guardOk] at h
  refine reads_lane 15 g d a 2 rfl (by omega) (by omega) (by decide) (by decide) fun y ho q0 q1 q2 q3 hy => ?_
  simp [decodeBody, ho, decUnary, need, noPfx, q0, q1, q2, q3]

theorem vclz (g d a : Nat) : Statement (.vclz g d a) := by
  intro h _
  simp [Instr.wf, guardOk] at h
  refine reads_lane 15 g d a 3 rfl (by omega) (by omega) (by decide) (by decide) fun y ho q0 q1 q2 q3 hy => ?_
  simp [decodeBody, ho, decUnary, need, noPfx, q0, q1, q2, q3]

theorem vbcast (g d a : Nat) : Statement (.vbcast g d a) := by
  intro h _
  simp [Instr.wf, guardOk] at h
  refine reads_lane 15 g d a 4 rfl (by omega) (by omega) (by decide) (by decide) fun y ho q0 q1 q2 q3 hy => ?_
  simp [decodeBody, ho, decUnary, need, noPfx, q0, q1, q2, q3, h]

theorem movsVector (g d a : Nat) : Statement (.movsVector g d a) := by
  intro h _
  simp [Instr.wf, guardOk] at h
  refine reads_lane 15 g d a 5 rfl (by omega) (by omega) (by decide) (by decide) fun y ho q0 q1 q2 q3 hy => ?_
  simp [decodeBody, ho, decUnary, need, noPfx, q0, q1, q2, q3, h]

theorem vcvtiI32I8 (g d a : Nat) : Statement (.vcvtiI32I8 g d a) := by
  intro h _
  simp [Instr.wf, guardOk] at h
  refine reads_lane 15 g d a 8 rfl (by omega) (by omega) (by decide) (by decide) fun y ho q0 q1 q2 q3 hy => ?_
  simp [decodeBody, ho, decUnary, need, noPfx, q0, q1, q2, q3]

theorem vcvtiI32I16 (g d a : Nat) : Statement (.vcvtiI32I16 g d a) := by
  intro h _
  simp [Instr.wf, guardOk] at h
  refine reads_lane 15 g d a 9 rfl (by omega) (by omega) (by decide) (by decide) fun y ho q0 q1 q2 q3 hy => ?_
  simp [decodeBody, ho, decUnary, need, noPfx, q0, q1, q2, q3]

theorem vcvtiN32N8 (g d a : Nat) : Statement (.vcvtiN32N8 g d a) := by
  intro h _
  simp [Instr.wf, guardOk] at h
  refine reads_lane 15 g d a 10 rfl (by omega) (by omega) (by decide) (by decide) fun y ho q0 q1 q2 q3 hy => ?_
  simp [decodeBody, ho, decUnary, need, noPfx, q0, q1, q2, q3]

theorem vcvtiN32N16 (g d a : Nat) : Statement (.vcvtiN32N16 g d a) := by
  intro h _
  simp [Instr.wf, guardOk] at h
  refine reads_lane 15 g d a 11 rfl (by omega) (by omega) (by decide) (by decide) fun y ho q0 q1 q2 q3 hy => ?_
  simp [decodeBody, ho, decUnary, need, noPfx, q0, q1, q2, q3]

theorem vcvtiI8I32 (g d a : Nat) : Statement (.vcvtiI8I32 g d a) := by
  intro h _
  simp [Instr.wf, guardOk] at h
  refine reads_lane 15 g d a 12 rfl (by omega) (by omega) (by decide) (by decide) fun y ho q0 q1 q2 q3 hy => ?_
  simp [decodeBody, ho, decUnary, need, noPfx, q0, q1, q2, q3]

theorem vcvtiI16I32 (g d a : Nat) : Statement (.vcvtiI16I32 g d a) := by
  intro h _
  simp [Instr.wf, guardOk] at h
  refine reads_lane 15 g d a 13 rfl (by omega) (by omega) (by decide) (by decide) fun y ho q0 q1 q2 q3 hy => ?_
  simp [decodeBody, ho, decUnary, need, noPfx, q0, q1, q2, q3]

theorem vcvtiN8N32 (g d a : Nat) : Statement (.vcvtiN8N32 g d a) := by
  intro h _
  simp [Instr.wf, guardOk] at h
  refine reads_lane 15 g d a 14 rfl (by omega) (by omega) (by decide) (by decide) fun y ho q0 q1 q2 q3 hy => ?_
  simp [decodeBody, ho, decUnary, need, noPfx, q0, q1, q2, q3]

theorem vcvtiN16N32 (g d a : Nat) : Statement (.vcvtiN16N32 g d a) := by
  intro h _
  simp [Instr.wf, guardOk] at h
  refine reads_lane 15 g d a 15 rfl (by omega) (by omega) (by decide) (by decide) fun y ho q0 q1 q2 q3 hy => ?_
  simp [decodeBody, ho, decUnary, need, noPfx, q0, q1, q2, q3]

theorem fadd (x : Option ArithPfx) (g d a b : Nat) : Statement (.fadd x g d a b) := by
  intro h _
  cases x with
  | none =>
    simp [Instr.wf, guardOk, optArithOk, fpPfxOk] at h
    refine reads_lane 16 g d a b rfl (by omega) (by omega) (by decide) (by decide) fun y ho q0 q1 q2 q3 hy => ?_
    simp [decodeBody, ho, decLaneFp, need, arithPerm, Pfx.aritho, arithRes, q0, q1, q2, q3]
  | some x =>
    simp [Instr.wf, guardOk, arithOk, optArithOk, fpPfxOk] at h
    refine reads_lane_pair 16 g d a b rfl (encArithPfx_is (by omega) (by omega) (by omega)) (by omega) (by omega) (by decide) (by decide) fun y ho q0 q1 q2 q3 hy => ?_
    simp [decodeBody, ho, decLaneFp, need, arithPerm, Pfx.aritho, arithRes, q0, q1, q2, q3, h]

theorem fsub (x : Option ArithPfx) (g d a b : Nat) : Statement (.fsub x g d a b) := by
  intro h _
  cases x with
  | none =>
    simp [Instr.wf, guardOk, optArithOk, fpPfxOk] at h
    refine reads_lane 17 g d a b rfl (by omega) (by omega) (by decide) (by decide) fun y ho q0 q1 q2 q3 hy => ?_
    simp [decodeBody, ho, decLaneFp, need, arithPerm, Pfx.aritho, arithRes, q0, q1, q2, q3]
  | some x =>
    simp [Instr.wf, guardOk, arithOk, optArithOk, fpPfxOk] at h
    refine reads_lane_pair 17 g d a b rfl (encArithPfx_is (by omega) (by omega) (by omega)) (by omega) (by omega) (by decide) (by decide) fun y ho q0 q1 q2 q3 hy => ?_
    simp [decodeBody, ho, decLaneFp, need, arithPerm, Pfx.aritho, arithRes, q0, q1, q2, q3, h]

theorem fmul (x : Option ArithPfx) (g d a b : Nat) : Statement (.fmul x g d a b) := by
  intro h _
  cases x with
  | none =>
    simp [Instr.wf, guardOk, optArithOk, fpPfxOk] at h
    refine reads_lane 18 g d a b rfl (by omega) (by omega) (by decide) (by decide) fun y ho q0 q1 q2 q3 hy => ?_
    simp [decodeBody, ho, decLaneFp, need, arithPerm, Pfx.aritho, arithRes, q0, q1, q2, q3]
  | some x =>
    simp [Instr.wf, guardOk, arithOk, optArithOk, fpPfxOk] at h
    refine reads_lane_pair 18 g d a b rfl (encArithPfx_is (by omega) (by omega) (by omega)) (by omega) (by omega) (by decide) (by decide) fun y ho q0 q1 q2 q3 hy => ?_
    simp [decodeBody, ho, decLaneFp, need, arithPerm, Pfx.aritho, arithRes, q0, q1, q2, q3, h]

theorem ffma (x : Option ArithPfx) (g d a b : Nat) : Statement (.ffma x g d a b) := by
  intro h _
  cases x with
  | none =>
    simp [Instr.wf, guardOk, optArithOk, fpPfxOk] at h
    refine reads_lane 19 g d a b rfl (by omega) (by omega) (by decide) (by decide) fun y ho q0 q1 q2 q3 hy => ?_
    simp [decodeBody, ho, decLaneFp, need, arithPerm, Pfx.aritho, arithRes, q0, q1, q2, q3]
  | some x =>
    simp [Instr.wf, guardOk, arithOk, optArithOk, fpPfxOk] at h
    refine reads_lane_pair 19 g d a b rfl (encArithPfx_is (by omega) (by omega) (by omega)) (by omega) (by omega) (by decide) (by decide) fun y ho q0 q1 q2 q3 hy => ?_
    simp [decodeBody, ho, decLaneFp, need, arithPerm, Pfx.aritho, arithRes, q0, q1, q2, q3, h]

theorem fmin (x : Option ArithPfx) (g d a b : Nat) : Statement (.fmin x g d a b) := by
  intro h _
  cases x with
  | none =>
    simp [Instr.wf, guardOk, optArithOk, fminPfxOk] at h
    refine reads_lane 20 g d a b rfl (by omega) (by omega) (by decide) (by decide) fun y ho q0 q1 q2 q3 hy => ?_
    simp [decodeBody, ho, decLaneFp, need, arithPerm, Pfx.aritho, arithRes, q0, q1, q2, q3]
  | some x =>
    simp [Instr.wf, guardOk, arithOk, optArithOk, fminPfxOk] at h
    refine reads_lane_pair 20 g d a b rfl (encArithPfx_is (by omega) (by omega) (by omega)) (by omega) (by omega) (by decide) (by decide) fun y ho q0 q1 q2 q3 hy => ?_
    simp [decodeBody, ho, decLaneFp, need, arithPerm, Pfx.aritho, arithRes, q0, q1, q2, q3, h]

theorem fmax (x : Option ArithPfx) (g d a b : Nat) : Statement (.fmax x g d a b) := by
  intro h _
  cases x with
  | none =>
    simp [Instr.wf, guardOk, optArithOk, fminPfxOk] at h
    refine reads_lane 21 g d a b rfl (by omega) (by omega) (by decide) (by decide) fun y ho q0 q1 q2 q3 hy => ?_
    simp [decodeBody, ho, decLaneFp, need, arithPerm, Pfx.aritho, arithRes, q0, q1, q2, q3]
  | some x =>
    simp [Instr.wf, guardOk, arithOk, optArithOk, fminPfxOk] at h
    refine reads_lane_pair 21 g d a b rfl (encArithPfx_is (by omega) (by omega) (by omega)) (by omega) (by omega) (by decide) (by decide) fun y ho q0 q1 q2 q3 hy => ?_
    simp [decodeBody, ho, decLaneFp, need, arithPerm, Pfx.aritho, arithRes, q0, q1, q2, q3, h]

theorem fcmp (g c p a b : Nat) : Statement (.fcmp g c p a b) := by
  intro h _
  simp [Instr.wf, guardOk] at h
  refine reads_one 22 rfl (by omega) (by simp only [fld]; omega) (by decide) (by decide) (.inr (by simp only [fld]; omega)) fun y hy ho => ?_
  have k0 : fld y 24 21 = g := by simp only [fld]; omega
  have k1 : fld y 20 17 = c := by simp only [fld]; omega
  have k3 : fld y 16 14 = p := by simp only [fld]; omega
  have k4 : fld y 13 7 = a := by simp only [fld]; omega
  have k5 : fld y 6 0 = b := by simp only [fld]; omega
  simp [decodeBody, ho, decLaneFp, need, noPfx, k0, k1, k3, k4, k5, h]

theorem fscale (x : Option ArithPfx) (g d a b : Nat) : Statement (.fscale x g d a b) := by
  intro h _
  cases x with
  | none =>
    simp [Instr.wf, guardOk, optArithOk, fpPfxOk] at h
    refine reads_lane 23 g d a b rfl (by omega) (by omega) (by decide) (by decide) fun y ho q0 q1 q2 q3 hy => ?_
    simp [decodeBody, ho, decLaneFp, need, arithPerm, Pfx.aritho, arithRes, q0, q1, q2, q3]
  | some x =>
    simp [Instr.wf, guardOk, arithOk, optArithOk, fpPfxOk] at h
    refine reads_lane_pair 23 g d a b rfl (encArithPfx_is (by omega) (by omega) (by omega)) (by omega) (by omega) (by decide) (by decide) fun y ho q0 q1 q2 q3 hy => ?_
    simp [decodeBody, ho, decLaneFp, need, arithPerm, Pfx.aritho, arithRes, q0, q1, q2, q3, h]

theorem fcvt (x : Option ArithPfx) (g d a t s : Nat) : Statement (.fcvt x g d a t s) := by
  intro h _
  cases x with
  | none =>
    simp [Instr.wf, guardOk, optArithOk, fcvtPfxOk] at h
    refine reads_lane 24 g d a (8 * t + s) rfl (by omega) (by omega) (by decide) (by decide) fun y ho q0 q1 q2 q3 hy => ?_
    have k3 : fld y 6 3 = t := by simp only [fld]; omega
    have k5 : fld y 2 0 = s := by simp only [fld]; omega
    simp [decodeBody, ho, decLaneFp, need, arithPerm, Pfx.aritho, arithRes, k3, k5, q0, q1, q2, h]
  | some x =>
    simp [Instr.wf, guardOk, arithOk, optArithOk, fcvtPfxOk] at h
    refine reads_lane_pair 24 g d a (8 * t + s) rfl (encArithPfx_is (by omega) (by omega) (by omega)) (by omega) (by omega) (by decide) (by decide) fun y ho q0 q1 q2 q3 hy => ?_
    have k3 : fld y 6 3 = t := by simp only [fld]; omega
    have k5 : fld y 2 0 = s := by simp only [fld]; omega
    simp [decodeBody, ho, decLaneFp, need, arithPerm, Pfx.aritho, arithRes, k3, k5, q0, q1, q2, h]

theorem fround (x : Option ArithPfx) (g d a : Nat) : Statement (.fround x g d a) := by
  intro h _
  cases x with
  | none =>
    simp [Instr.wf, guardOk, optArithOk, fpPfxOk] at h
    refine reads_lane 25 g d a 0 rfl (by omega) (by omega) (by decide) (by decide) fun y ho q0 q1 q2 q3 hy => ?_
    simp [decodeBody, ho, decLaneFp, need, arithPerm, Pfx.aritho, arithRes, q0, q1, q2, q3]
  | some x =>
    simp [Instr.wf, guardOk, arithOk, optArithOk, fpPfxOk] at h
    refine reads_lane_pair 25 g d a 0 rfl (encArithPfx_is (by omega) (by omega) (by omega)) (by omega) (by omega) (by decide) (by decide) fun y ho q0 q1 q2 q3 hy => ?_
    simp [decodeBody, ho, decLaneFp, need, arithPerm, Pfx.aritho, arithRes, q0, q1, q2, q3, h]

theorem fclass (x : Option ArithPfx) (g d a : Nat) : Statement (.fclass x g d a) := by
  intro h _
  cases x with
  | none =>
    simp [Instr.wf, guardOk, optArithOk, fminPfxOk] at h
    refine reads_lane 25 g d a 1 rfl (by omega) (by omega) (by decide) (by decide) fun y ho q0 q1 q2 q3 hy => ?_
    simp [decodeBody, ho, decLaneFp, need, arithPerm, Pfx.aritho, arithRes, q0, q1, q2, q3]
  | some x =>
    simp [Instr.wf, guardOk, arithOk, optArithOk, fminPfxOk] at h
    refine reads_lane_pair 25 g d a 1 rfl (encArithPfx_is (by omega) (by omega) (by omega)) (by omega) (by omega) (by decide) (by decide) fun y ho q0 q1 q2 q3 hy => ?_
    simp [decodeBody, ho, decLaneFp, need, arithPerm, Pfx.aritho, arithRes, q0, q1, q2, q3, h]

theorem iadd (g d a b : Nat) : Statement (.iadd g d a b) := by
  intro h _
  simp [Instr.wf, guardOk] at h
  refine reads_lane 32 g d a b rfl (by omega) (by omega) (by decide) (by decide) fun y ho q0 q1 q2 q3 hy => ?_
  simp [decodeBody, ho, decLaneInterval, need, noPfx, q0, q1, q2, q3]

theorem isub (g d a b : Nat) : Statement (.isub g d a b) := by
  intro h _
  simp [Instr.wf, guardOk] at h
  refine reads_lane 33 g d a b rfl (by omega) (by omega) (by decide) (by decide) fun y ho q0 q1 q2 q3 hy => ?_
  simp [decodeBody, ho, decLaneInterval, need, noPfx, q0, q1, q2, q3]

theorem imul (g d a b : Nat) : Statement (.imul g d a b) := by
  intro h _
  simp [Instr.wf, guardOk] at h
  refine reads_lane 34 g d a b rfl (by omega) (by omega) (by decide) (by decide) fun y ho q0 q1 q2 q3 hy => ?_
  simp [decodeBody, ho, decLaneInterval, need, noPfx, q0, q1, q2, q3]

theorem idiv (g d a b : Nat) : Statement (.idiv g d a b) := by
  intro h _
  simp [Instr.wf, guardOk] at h
  refine reads_lane 35 g d a b rfl (by omega) (by omega) (by decide) (by decide) fun y ho q0 q1 q2 q3 hy => ?_
  simp [decodeBody, ho, decLaneInterval, need, noPfx, q0, q1, q2, q3]

theorem imin (g d a b : Nat) : Statement (.imin g d a b) := by
  intro h _
  simp [Instr.wf, guardOk] at h
  refine reads_lane 36 g d a b rfl (by omega) (by omega) (by decide) (by decide) fun y ho q0 q1 q2 q3 hy => ?_
  simp [decodeBody, ho, decLaneInterval, need, noPfx, q0, q1, q2, q3]

theorem imax (g d a b : Nat) : Statement (.imax g d a b) := by
  intro h _
  simp [Instr.wf, guardOk] at h
  refine reads_lane 37 g d a b rfl (by omega) (by omega) (by decide) (by decide) fun y ho q0 q1 q2 q3 hy => ?_
  simp [decodeBody, ho, decLaneInterval, need, noPfx, q0, q1, q2, q3]

theorem ihull (g d a b : Nat) : Statement (.ihull g d a b) := by
  intro h _
  simp [Instr.wf, guardOk] at h
  refine reads_lane 38 g d a b rfl (by omega) (by omega) (by decide) (by decide) fun y ho q0 q1 q2 q3 hy => ?_
  simp [decodeBody, ho, decLaneInterval, need, noPfx, q0, q1, q2, q3]

theorem isq (g d a : Nat) : Statement (.isq g d a) := by
  intro h _
  simp [Instr.wf, guardOk] at h
  refine reads_lane 39 g d a 0 rfl (by omega) (by omega) (by decide) (by decide) fun y ho q0 q1 q2 q3 hy => ?_
  simp [decodeBody, ho, decLaneInterval, need, noPfx, q0, q1, q2, q3]

theorem isqrt (g d a : Nat) : Statement (.isqrt g d a) := by
  intro h _
  simp [Instr.wf, guardOk] at h
  refine reads_lane 39 g d a 1 rfl (by omega) (by omega) (by decide) (by decide) fun y ho q0 q1 q2 q3 hy => ?_
  simp [decodeBody, ho, decLaneInterval, need, noPfx, q0, q1, q2, q3]

theorem iabs (g d a : Nat) : Statement (.iabs g d a) := by
  intro h _
  simp [Instr.wf, guardOk] at h
  refine reads_lane 39 g d a 2 rfl (by omega) (by omega) (by decide) (by decide) fun y ho q0 q1 q2 q3 hy => ?_
  simp [decodeBody, ho, decLaneInterval, need, noPfx, q0, q1, q2, q3]

theorem sfn (g d a f : Nat) : Statement (.sfn g d a f) := by
  intro h _
  simp [Instr.wf, guardOk] at h
  refine reads_lane 39 g d a (f + 32) rfl (by omega) (by omega) (by decide) (by decide) fun y ho q0 q1 q2 q3 hy => ?_
  simp [decodeBody, ho, decLaneInterval, need, noPfx, q0, q1, q2, q3]
  intro; omega

theorem sfnSlot (g d a s : Nat) : Statement (.sfnSlot g d a s) := by
  intro h _
  simp [Instr.wf, guardOk] at h
  refine reads_lane 39 g d a (s + 48) rfl (by omega) (by omega) (by decide) (by decide) fun y ho q0 q1 q2 q3 hy => ?_
  simp [decodeBody, ho, decLaneInterval, need, noPfx, q0, q1, q2, q3]
  omega

theorem pand (g d a b : Nat) : Statement (.pand g d a b) := by
  intro h _
  simp [Instr.wf, guardOk] at h
  refine reads_lane 40 g d a b rfl (by omega) (by omega) (by decide) (by decide) fun y ho q0 q1 q2 q3 hy => ?_
  have k2 : fld y 20 17 = 0 := by simp only [fld]; omega
  have k5 : fld y 16 14 = d := by simp only [fld]; omega
  have k7 : fld y 13 10 = 0 := by simp only [fld]; omega
  have k10 : fld y 9 7 = a := by simp only [fld]; omega
  have k13 : fld y 6 3 = 0 := by simp only [fld]; omega
  have k17 : fld y 2 0 = b := by simp only [fld]; omega
  simp [decodeBody, ho, decLanePred, need, noPfx, k2, k5, k7, k10, k13, k17, q0]

theorem por (g d a b : Nat) : Statement (.por g d a b) := by
  intro h _
  simp [Instr.wf, guardOk] at h
  refine reads_lane 40 g (d + 8) a b rfl (by omega) (by omega) (by decide) (by decide) fun y ho q0 q1 q2 q3 hy => ?_
  have k2 : fld y 20 17 = 1 := by simp only [fld]; omega
  have k5 : fld y 16 14 = d := by simp only [fld]; omega
  have k7 : fld y 13 10 = 0 := by simp only [fld]; omega
  have k10 : fld y 9 7 = a := by simp only [fld]; omega
  have k13 : fld y 6 3 = 0 := by simp only [fld]; omega
  have k17 : fld y 2 0 = b := by simp only [fld]; omega
  simp [decodeBody, ho, decLanePred, need, noPfx, k2, k5, k7, k10, k13, k17, q0]

theorem pxor (g d a b : Nat) : Statement (.pxor g d a b) := by
  intro h _
  simp [Instr.wf, guardOk] at h
  refine reads_lane 40 g (d + 16) a b rfl (by omega) (by omega) (by decide) (by decide) fun y ho q0 q1 q2 q3 hy => ?_
  have k2 : fld y 20 17 = 2 := by simp only [fld]; omega
  have k5 : fld y 16 14 = d := by simp only [fld]; omega
  have k7 : fld y 13 10 = 0 := by simp only [fld]; omega
  have k10 : fld y 9 7 = a := by simp only [fld]; omega
  have k13 : fld y 6 3 = 0 := by simp only [fld]; omega
  have k17 : fld y 2 0 = b := by simp only [fld]; omega
  simp [decodeBody, ho, decLanePred, need, noPfx, k2, k5, k7, k10, k13, k17, q0]

theorem pnot (g d a : Nat) : Statement (.pnot g d a) := by
  intro h _
  simp [Instr.wf, guardOk] at h
  refine reads_lane 40 g (d + 24) a 0 rfl (by omega) (by omega) (by decide) (by decide) fun y ho q0 q1 q2 q3 hy => ?_
  have k2 : fld y 20 17 = 3 := by simp only [fld]; omega
  have k5 : fld y 16 14 = d := by simp only [fld]; omega
  have k7 : fld y 13 10 = 0 := by simp only [fld]; omega
  have k10 : fld y 9 7 = a := by simp only [fld]; omega
  have k13 : fld y 6 3 = 0 := by simp only [fld]; omega
  have k17 : fld y 2 0 = 0 := by simp only [fld]; omega
  simp [decodeBody, ho, decLanePred, need, noPfx, k2, k5, k7, k10, k13, k17, q0]

theorem pmovgToPredicate (g p x : Nat) : Statement (.pmovgToPredicate g p x) := by
  intro h _
  simp [Instr.wf, guardOk] at h
  refine reads_lane 41 g p x 0 rfl (by omega) (by omega) (by decide) (by decide) fun y ho q0 q1 q2 q3 hy => ?_
  have k2 : fld y 20 17 = 0 := by simp only [fld]; omega
  have k5 : fld y 16 14 = p := by simp only [fld]; omega
  have k6 : fld y 13 13 = 0 := by simp only [fld]; omega
  have k8 : fld y 12 7 = x := by simp only [fld]; omega
  simp [decodeBody, ho, decLanePred, need, noPfx, k2, k5, k6, k8, q0, q3]

theorem pmovgToUniform (g p x : Nat) : Statement (.pmovgToUniform g p x) := by
  intro h _
  simp [Instr.wf, guardOk] at h
  refine reads_lane 41 g p x 1 rfl (by omega) (by omega) (by decide) (by decide) fun y ho q0 q1 q2 q3 hy => ?_
  have k2 : fld y 20 17 = 0 := by simp only [fld]; omega
  have k5 : fld y 16 14 = p := by simp only [fld]; omega
  have k6 : fld y 13 13 = 0 := by simp only [fld]; omega
  have k8 : fld y 12 7 = x := by simp only [fld]; omega
  simp [decodeBody, ho, decLanePred, need, noPfx, k2, k5, k6, k8, q0, q3]

theorem shflIdx (g d a n : Nat) : Statement (.shflIdx g d a n) := by
  intro h _
  simp [Instr.wf, guardOk] at h
  refine reads_lane 42 g d a n rfl (by omega) (by omega) (by decide) (by decide) fun y ho q0 q1 q2 q3 hy => ?_
  have k4 : fld y 6 5 = 0 := by simp only [fld]; omega
  have k6 : fld y 4 0 = n := by simp only [fld]; omega
  simp [decodeBody, ho, decLanePred, need, noPfx, k4, k6, q0, q1, q2]

theorem shflUp (g d a n : Nat) : Statement (.shflUp g d a n) := by
  intro h _
  simp [Instr.wf, guardOk] at h
  refine reads_lane 42 g d a (n + 32) rfl (by omega) (by omega) (by decide) (by decide) fun y ho q0 q1 q2 q3 hy => ?_
  have k4 : fld y 6 5 = 1 := by simp only [fld]; omega
  have k6 : fld y 4 0 = n := by simp only [fld]; omega
  simp [decodeBody, ho, decLanePred, need, noPfx, k4, k6, q0, q1, q2]

theorem shflDown (g d a n : Nat) : Statement (.shflDown g d a n) := by
  intro h _
  simp [Instr.wf, guardOk] at h
  refine reads_lane 42 g d a (n + 64) rfl (by omega) (by omega) (by decide) (by decide) fun y ho q0 q1 q2 q3 hy => ?_
  have k4 : fld y 6 5 = 2 := by simp only [fld]; omega
  have k6 : fld y 4 0 = n := by simp only [fld]; omega
  simp [decodeBody, ho, decLanePred, need, noPfx, k4, k6, q0, q1, q2]

theorem shflXor (g d a n : Nat) : Statement (.shflXor g d a n) := by
  intro h _
  simp [Instr.wf, guardOk] at h
  refine reads_lane 42 g d a (n + 96) rfl (by omega) (by omega) (by decide) (by decide) fun y ho q0 q1 q2 q3 hy => ?_
  have k4 : fld y 6 5 = 3 := by simp only [fld]; omega
  have k6 : fld y 4 0 = n := by simp only [fld]; omega
  simp [decodeBody, ho, decLanePred, need, noPfx, k4, k6, q0, q1, q2]

theorem shflIdxRegister (g d a b : Nat) : Statement (.shflIdxRegister g d a b) := by
  intro h _
  simp [Instr.wf, guardOk] at h
  refine reads_lane 43 g d a b rfl (by omega) (by omega) (by decide) (by decide) fun y ho q0 q1 q2 q3 hy => ?_
  simp [decodeBody, ho, decLanePred, need, noPfx, q0, q1, q2, q3]

theorem voteAny (g d a : Nat) : Statement (.voteAny g d a) := by
  intro h _
  simp [Instr.wf, guardOk] at h
  refine reads_lane 44 g d a 0 rfl (by omega) (by omega) (by decide) (by decide) fun y ho q0 q1 q2 q3 hy => ?_
  have k2 : fld y 20 17 = 0 := by simp only [fld]; omega
  have k5 : fld y 16 14 = d := by simp only [fld]; omega
  have k7 : fld y 13 10 = 0 := by simp only [fld]; omega
  have k10 : fld y 9 7 = a := by simp only [fld]; omega
  simp [decodeBody, ho, decLanePred, need, noPfx, k2, k5, k7, k10, q0, q3]

theorem voteAll (g d a : Nat) : Statement (.voteAll g d a) := by
  intro h _
  simp [Instr.wf, guardOk] at h
  refine reads_lane 44 g d a 1 rfl (by omega) (by omega) (by decide) (by decide) fun y ho q0 q1 q2 q3 hy => ?_
  have k2 : fld y 20 17 = 0 := by simp only [fld]; omega
  have k5 : fld y 16 14 = d := by simp only [fld]; omega
  have k7 : fld y 13 10 = 0 := by simp only [fld]; omega
  have k10 : fld y 9 7 = a := by simp only [fld]; omega
  simp [decodeBody, ho, decLanePred, need, noPfx, k2, k5, k7, k10, q0, q3]

theorem voteNone (g d a : Nat) : Statement (.voteNone g d a) := by
  intro h _
  simp [Instr.wf, guardOk] at h
  refine reads_lane 44 g d a 2 rfl (by omega) (by omega) (by decide) (by decide) fun y ho q0 q1 q2 q3 hy => ?_
  have k2 : fld y 20 17 = 0 := by simp only [fld]; omega
  have k5 : fld y 16 14 = d := by simp only [fld]; omega
  have k7 : fld y 13 10 = 0 := by simp only [fld]; omega
  have k10 : fld y 9 7 = a := by simp only [fld]; omega
  simp [decodeBody, ho, decLanePred, need, noPfx, k2, k5, k7, k10, q0, q3]

theorem voteBallot (g d a : Nat) : Statement (.voteBallot g d a) := by
  intro h _
  simp [Instr.wf, guardOk] at h
  refine reads_lane 44 g d a 3 rfl (by omega) (by omega) (by decide) (by decide) fun y ho q0 q1 q2 q3 hy => ?_
  have k1 : fld y 20 20 = 0 := by simp only [fld]; omega
  have k3 : fld y 19 14 = d := by simp only [fld]; omega
  have k5 : fld y 13 10 = 0 := by simp only [fld]; omega
  have k8 : fld y 9 7 = a := by simp only [fld]; omega
  simp [decodeBody, ho, decLanePred, need, noPfx, k1, k3, k5, k8, q0, q3]

theorem vred (g d a o t : Nat) : Statement (.vred g d a o t) := by
  intro h _
  simp [Instr.wf, guardOk, redOk] at h
  refine reads_lane 45 g d a (8 * o + t) rfl (by omega) (by omega) (by decide) (by decide) fun y ho q0 q1 q2 q3 hy => ?_
  have k3 : fld y 6 6 = 0 := by simp only [fld]; omega
  have k6 : fld y 5 3 = o := by simp only [fld]; omega
  have k7 : fld y 2 0 = t := by simp only [fld]; omega
  simp [decodeBody, ho, decLanePred, need, noPfx, redOk, k3, k6, k7, q0, q1, q2, h]

theorem vscan (g d a o t : Nat) : Statement (.vscan g d a o t) := by
  intro h _
  simp [Instr.wf, guardOk, redOk] at h
  refine reads_lane 45 g d a (8 * o + t + 64) rfl (by omega) (by omega) (by decide) (by decide) fun y ho q0 q1 q2 q3 hy => ?_
  have k3 : fld y 6 6 = 1 := by simp only [fld]; omega
  have k6 : fld y 5 3 = o := by simp only [fld]; omega
  have k7 : fld y 2 0 = t := by simp only [fld]; omega
  simp [decodeBody, ho, decLanePred, need, noPfx, redOk, k3, k6, k7, q0, q1, q2, h]

theorem vsel (g d a b : Nat) : Statement (.vsel g d a b) := by
  intro h _
  simp [Instr.wf, guardOk] at h
  refine reads_lane 46 g d a b rfl (by omega) (by omega) (by decide) (by decide) fun y ho q0 q1 q2 q3 hy => ?_
  simp [decodeBody, ho, decLanePred, need, noPfx, q0, q1, q2, q3]

theorem vsetp (g c p a b : Nat) : Statement (.vsetp g c p a b) := by
  intro h _
  simp [Instr.wf, guardOk] at h
  refine reads_one 47 rfl (by omega) (by simp only [fld]; omega) (by decide) (by decide) (.inr (by simp only [fld]; omega)) fun y hy ho => ?_
  have k0 : fld y 24 21 = g := by simp only [fld]; omega
  have k1 : fld y 20 17 = c := by simp only [fld]; omega
  have k3 : fld y 16 14 = p := by simp only [fld]; omega
  have k4 : fld y 13 7 = a := by simp only [fld]; omega
  have k5 : fld y 6 0 = b := by simp only [fld]; omega
  simp [decodeBody, ho, decLanePred, need, noPfx, k0, k1, k3, k4, k5, h]

theorem vldN8 (x : Option MemPfx) (g d a b : Nat) : Statement (.vldN8 x g d a b) := by
  intro h _
  cases x with
  | none =>
    simp [Instr.wf, guardOk, loadPfxOk] at h
    refine reads_lane 48 g d a (2 * b) rfl (by omega) (by omega) (by decide) (by decide) fun y ho q0 q1 q2 q3 hy => ?_
    have k3 : fld y 6 1 = b := by simp only [fld]; omega
    have k5 : fld y 0 0 = 0 := by simp only [fld]; omega
    simp [decodeBody, ho, decLaneMem, need, memPerm, Pfx.memo, scopeChk, k3, k5, q0, q1, q2]
  | some x =>
    simp [Instr.wf, guardOk, MemPfx.inRange, scopeOk, loadPfxOk] at h
    refine reads_lane_pair 48 g d a (2 * b) rfl (encMemPfx_is (by omega) (by omega) (by omega)) (by omega) (by omega) (by decide) (by decide) fun y ho q0 q1 q2 q3 hy => ?_
    have k3 : fld y 6 1 = b := by simp only [fld]; omega
    have k5 : fld y 0 0 = 0 := by simp only [fld]; omega
    simp [decodeBody, ho, decLaneMem, need, memPerm, Pfx.memo, scopeChk, scopeOk, k3, k5, q0, q1, q2, h]

theorem vldN16 (x : Option MemPfx) (g d a b : Nat) : Statement (.vldN16 x g d a b) := by
  intro h _
  cases x with
  | none =>
    simp [Instr.wf, guardOk, loadPfxOk] at h
    refine reads_lane 48 g d a (2 * b + 1) rfl (by omega) (by omega) (by decide) (by decide) fun y ho q0 q1 q2 q3 hy => ?_
    have k3 : fld y 6 1 = b := by simp only [fld]; omega
    have k5 : fld y 0 0 = 1 := by simp only [fld]; omega
    simp [decodeBody, ho, decLaneMem, need, memPerm, Pfx.memo, scopeChk, k3, k5, q0, q1, q2]
  | some x =>
    simp [Instr.wf, guardOk, MemPfx.inRange, scopeOk, loadPfxOk] at h
    refine reads_lane_pair 48 g d a (2 * b + 1) rfl (encMemPfx_is (by omega) (by omega) (by omega)) (by omega) (by omega) (by decide) (by decide) fun y ho q0 q1 q2 q3 hy => ?_
    have k3 : fld y 6 1 = b := by simp only [fld]; omega
    have k5 : fld y 0 0 = 1 := by simp only [fld]; omega
    simp [decodeBody, ho, decLaneMem, need, memPerm, Pfx.memo, scopeChk, scopeOk, k3, k5, q0, q1, q2, h]

theorem vld (x : Option MemPfx) (g d a b s : Nat) : Statement (.vld x g d a b s) := by
  intro h _
  cases x with
  | none =>
    simp [Instr.wf, guardOk, loadPfxOk] at h
    refine reads_lane 49 g d a (2 * b + s) rfl (by omega) (by omega) (by decide) (by decide) fun y ho q0 q1 q2 q3 hy => ?_
    have k3 : fld y 6 1 = b := by simp only [fld]; omega
    have k5 : fld y 0 0 = s := by simp only [fld]; omega
    simp [decodeBody, ho, decLaneMem, need, memPerm, Pfx.memo, scopeChk, k3, k5, q0, q1, q2]
  | some x =>
    simp [Instr.wf, guardOk, MemPfx.inRange, scopeOk, loadPfxOk] at h
    refine reads_lane_pair 49 g d a (2 * b + s) rfl (encMemPfx_is (by omega) (by omega) (by omega)) (by omega) (by omega) (by decide) (by decide) fun y ho q0 q1 q2 q3 hy => ?_
    have k3 : fld y 6 1 = b := by simp only [fld]; omega
    have k5 : fld y 0 0 = s := by simp only [fld]; omega
    simp [decodeBody, ho, decLaneMem, need, memPerm, Pfx.memo, scopeChk, scopeOk, k3, k5, q0, q1, q2, h]

theorem vldN64 (x : Option MemPfx) (g d a b s : Nat) : Statement (.vldN64 x g d a b s) := by
  intro h _
  cases x with
  | none =>
    simp [Instr.wf, guardOk, loadPfxOk] at h
    refine reads_lane 50 g d a (2 * b + s) rfl (by omega) (by omega) (by decide) (by decide) fun y ho q0 q1 q2 q3 hy => ?_
    have k3 : fld y 6 1 = b := by simp only [fld]; omega
    have k5 : fld y 0 0 = s := by simp only [fld]; omega
    simp [decodeBody, ho, decLaneMem, need, memPerm, Pfx.memo, scopeChk, k3, k5, q0, q1, q2]
  | some x =>
    simp [Instr.wf, guardOk, MemPfx.inRange, scopeOk, loadPfxOk] at h
    refine reads_lane_pair 50 g d a (2 * b + s) rfl (encMemPfx_is (by omega) (by omega) (by omega)) (by omega) (by omega) (by decide) (by decide) fun y ho q0 q1 q2 q3 hy => ?_
    have k3 : fld y 6 1 = b := by simp only [fld]; omega
    have k5 : fld y 0 0 = s := by simp only [fld]; omega
    simp [decodeBody, ho, decLaneMem, need, memPerm, Pfx.memo, scopeChk, scopeOk, k3, k5, q0, q1, q2, h]

theorem vstN8 (x : Option MemPfx) (g v a b : Nat) : Statement (.vstN8 x g v a b) := by
  intro h _
  cases x with
  | none =>
    simp [Instr.wf, guardOk, storePfxOk] at h
    refine reads_lane 51 g v a (2 * b) rfl (by omega) (by omega) (by decide) (by decide) fun y ho q0 q1 q2 q3 hy => ?_
    have k3 : fld y 6 1 = b := by simp only [fld]; omega
    have k5 : fld y 0 0 = 0 := by simp only [fld]; omega
    simp [decodeBody, ho, decLaneMem, need, memPerm, Pfx.memo, scopeChk, k3, k5, q0, q1, q2]
  | some x =>
    simp [Instr.wf, guardOk, MemPfx.inRange, scopeOk, storePfxOk] at h
    refine reads_lane_pair 51 g v a (2 * b) rfl (encMemPfx_is (by omega) (by omega) (by omega)) (by omega) (by omega) (by decide) (by decide) fun y ho q0 q1 q2 q3 hy => ?_
    have k3 : fld y 6 1 = b := by simp only [fld]; omega
    have k5 : fld y 0 0 = 0 := by simp only [fld]; omega
    simp [decodeBody, ho, decLaneMem, need, memPerm, Pfx.memo, scopeChk, scopeOk, k3, k5, q0, q1, q2, h]

theorem vstN16 (x : Option MemPfx) (g v a b : Nat) : Statement (.vstN16 x g v a b) := by
  intro h _
  cases x with
  | none =>
    simp [Instr.wf, guardOk, storePfxOk] at h
    refine reads_lane 51 g v a (2 * b + 1) rfl (by omega) (by omega) (by decide) (by decide) fun y ho q0 q1 q2 q3 hy => ?_
    have k3 : fld y 6 1 = b := by simp only [fld]; omega
    have k5 : fld y 0 0 = 1 := by simp only [fld]; omega
    simp [decodeBody, ho, decLaneMem, need, memPerm, Pfx.memo, scopeChk, k3, k5, q0, q1, q2]
  | some x =>
    simp [Instr.wf, guardOk, MemPfx.inRange, scopeOk, storePfxOk] at h
    refine reads_lane_pair 51 g v a (2 * b + 1) rfl (encMemPfx_is (by omega) (by omega) (by omega)) (by omega) (by omega) (by decide) (by decide) fun y ho q0 q1 q2 q3 hy => ?_
    have k3 : fld y 6 1 = b := by simp only [fld]; omega
    have k5 : fld y 0 0 = 1 := by simp only [fld]; omega
    simp [decodeBody, ho, decLaneMem, need, memPerm, Pfx.memo, scopeChk, scopeOk, k3, k5, q0, q1, q2, h]

theorem vst (x : Option MemPfx) (g v a b s : Nat) : Statement (.vst x g v a b s) := by
  intro h _
  cases x with
  | none =>
    simp [Instr.wf, guardOk, storePfxOk] at h
    refine reads_lane 52 g v a (2 * b + s) rfl (by omega) (by omega) (by decide) (by decide) fun y ho q0 q1 q2 q3 hy => ?_
    have k3 : fld y 6 1 = b := by simp only [fld]; omega
    have k5 : fld y 0 0 = s := by simp only [fld]; omega
    simp [decodeBody, ho, decLaneMem, need, memPerm, Pfx.memo, scopeChk, k3, k5, q0, q1, q2]
  | some x =>
    simp [Instr.wf, guardOk, MemPfx.inRange, scopeOk, storePfxOk] at h
    refine reads_lane_pair 52 g v a (2 * b + s) rfl (encMemPfx_is (by omega) (by omega) (by omega)) (by omega) (by omega) (by decide) (by decide) fun y ho q0 q1 q2 q3 hy => ?_
    have k3 : fld y 6 1 = b := by simp only [fld]; omega
    have k5 : fld y 0 0 = s := by simp only [fld]; omega
    simp [decodeBody, ho, decLaneMem, need, memPerm, Pfx.memo, scopeChk, scopeOk, k3, k5, q0, q1, q2, h]

theorem vstN64 (x : Option MemPfx) (g v a b s : Nat) : Statement (.vstN64 x g v a b s) := by
  intro h _
  cases x with
  | none =>
    simp [Instr.wf, guardOk, storePfxOk] at h
    refine reads_lane 53 g v a (2 * b + s) rfl (by omega) (by omega) (by decide) (by decide) fun y ho q0 q1 q2 q3 hy => ?_
    have k3 : fld y 6 1 = b := by simp only [fld]; omega
    have k5 : fld y 0 0 = s := by simp only [fld]; omega
    simp [decodeBody, ho, decLaneMem, need, memPerm, Pfx.memo, scopeChk, k3, k5, q0, q1, q2]
  | some x =>
    simp [Instr.wf, guardOk, MemPfx.inRange, scopeOk, storePfxOk] at h
    refine reads_lane_pair 53 g v a (2 * b + s) rfl (encMemPfx_is (by omega) (by omega) (by omega)) (by omega) (by omega) (by decide) (by decide) fun y ho q0 q1 q2 q3 hy => ?_
    have k3 : fld y 6 1 = b := by simp only [fld]; omega
    have k5 : fld y 0 0 = s := by simp only [fld]; omega
    simp [decodeBody, ho, decLaneMem, need, memPerm, Pfx.memo, scopeChk, scopeOk, k3, k5, q0, q1, q2, h]

theorem vatom (x : AtomPfx) (g d a b s : Nat) : Statement (.vatom x g d a b s) := by
  intro h _
  simp [Instr.wf, guardOk, aopOk, vatomPfxOk] at h
  refine reads_lane_pair 54 g d a (2 * b + s) rfl (encAtomPfx_is (by omega) (by omega) (by omega) (by omega)) (by omega) (by omega) (by decide) (by decide) fun y ho q0 q1 q2 q3 hy => ?_
  have k3 : fld y 6 1 = b := by simp only [fld]; omega
  have k5 : fld y 0 0 = s := by simp only [fld]; omega
  simp [decodeBody, ho, decLaneMem, need, aopOk, b2n, k3, k5, q0, q1, q2, h]

theorem pgreq (x : Option MemPfx) (g d a b : Nat) : Statement (.pgreq x g d a b) := by
  intro h _
  cases x with
  | none =>
    simp [Instr.wf, guardOk, pgreqPfxOk] at h
    refine reads_lane 55 g d a (2 * b) rfl (by omega) (by omega) (by decide) (by decide) fun y ho q0 q1 q2 q3 hy => ?_
    have k3 : fld y 6 1 = b := by simp only [fld]; omega
    have k5 : fld y 0 0 = 0 := by simp only [fld]; omega
    simp [decodeBody, ho, decLaneMem, need, memPerm, Pfx.memo, k3, k5, q0, q1, q2]
  | some x =>
    simp [Instr.wf, guardOk, MemPfx.inRange, pgreqPfxOk] at h
    refine reads_lane_pair 55 g d a (2 * b) rfl (encMemPfx_is (by omega) (by omega) (by omega)) (by omega) (by omega) (by decide) (by decide) fun y ho q0 q1 q2 q3 hy => ?_
    have k3 : fld y 6 1 = b := by simp only [fld]; omega
    have k5 : fld y 0 0 = 0 := by simp only [fld]; omega
    simp [decodeBody, ho, decLaneMem, need, memPerm, Pfx.memo, k3, k5, q0, q1, q2, h]

theorem sld (x : Option MemPfx) (g d a b : Nat) : Statement (.sld x g d a b) := by
  intro h _
  cases x with
  | none =>
    simp [Instr.wf, guardOk, sldPlainPfxOk] at h
    refine reads_lane 56 g d a (2 * b) rfl (by omega) (by omega) (by decide) (by decide) fun y ho q0 q1 q2 q3 hy => ?_
    have k3 : fld y 6 1 = b := by simp only [fld]; omega
    have k5 : fld y 0 0 = 0 := by simp only [fld]; omega
    simp [decodeBody, ho, decLaneMem, need, memPerm, memScope2, k3, k5, q0, q1, q2]
  | some x =>
    simp [Instr.wf, guardOk, MemPfx.inRange, scopeOk, scratchPfxOk, sldPlainPfxOk] at h
    refine reads_lane_pair 56 g d a (2 * b) rfl (encMemPfx_is (by omega) (by omega) (by omega)) (by omega) (by omega) (by decide) (by decide) fun y ho q0 q1 q2 q3 hy => ?_
    have k3 : fld y 6 1 = b := by simp only [fld]; omega
    have k5 : fld y 0 0 = 0 := by simp only [fld]; omega
    simp [decodeBody, ho, decLaneMem, need, memPerm, memScope2, scopeChk, widthChk, scopeOk, k3, k5, q0, q1, q2, h]

theorem sldFe (x : MemPfx) (g d a b : Nat) : Statement (.sldFe x g d a b) := by
  intro h _
  simp [Instr.wf, guardOk, MemPfx.inRange, scopeOk, scratchPfxOk, sldFePfxOk] at h
  refine reads_lane_pair 56 g d a (2 * b) rfl (encMemPfx_is (by omega) (by omega) (by omega)) (by omega) (by omega) (by decide) (by decide) fun y ho q0 q1 q2 q3 hy => ?_
  have k3 : fld y 6 1 = b := by simp only [fld]; omega
  have k5 : fld y 0 0 = 0 := by simp only [fld]; omega
  simp [decodeBody, ho, decLaneMem, need, memPerm, memScope2, scopeChk, widthChk, scopeOk, k3, k5, q0, q1, q2, h]

theorem sldFeClr (x : MemPfx) (g d a b : Nat) : Statement (.sldFeClr x g d a b) := by
  intro h _
  simp [Instr.wf, guardOk, MemPfx.inRange, scopeOk, scratchPfxOk, sldFePfxOk] at h
  refine reads_lane_pair 56 g d a (2 * b + 1) rfl (encMemPfx_is (by omega) (by omega) (by omega)) (by omega) (by omega) (by decide) (by decide) fun y ho q0 q1 q2 q3 hy => ?_
  have k3 : fld y 6 1 = b := by simp only [fld]; omega
  have k5 : fld y 0 0 = 1 := by simp only [fld]; omega
  simp [decodeBody, ho, decLaneMem, need, memPerm, memScope2, scopeChk, widthChk, scopeOk, k3, k5, q0, q1, q2, h]

theorem sst (x : Option MemPfx) (g v a b : Nat) : Statement (.sst x g v a b) := by
  intro h _
  cases x with
  | none =>
    simp [Instr.wf, guardOk, sstPfxOk] at h
    refine reads_lane 57 g v a (2 * b) rfl (by omega) (by omega) (by decide) (by decide) fun y ho q0 q1 q2 q3 hy => ?_
    have k3 : fld y 6 1 = b := by simp only [fld]; omega
    have k5 : fld y 0 0 = 0 := by simp only [fld]; omega
    simp [decodeBody, ho, decLaneMem, need, memPerm, memScope2, Pfx.memo, scopeChk, widthChk, k3, k5, q0, q1, q2]
  | some x =>
    simp [Instr.wf, guardOk, MemPfx.inRange, scopeOk, scratchPfxOk, sstPfxOk] at h
    refine reads_lane_pair 57 g v a (2 * b) rfl (encMemPfx_is (by omega) (by omega) (by omega)) (by omega) (by omega) (by decide) (by decide) fun y ho q0 q1 q2 q3 hy => ?_
    have k3 : fld y 6 1 = b := by simp only [fld]; omega
    have k5 : fld y 0 0 = 0 := by simp only [fld]; omega
    simp [decodeBody, ho, decLaneMem, need, memPerm, memScope2, Pfx.memo, scopeChk, widthChk, scopeOk, k3, k5, q0, q1, q2, h]
    intro hr; have ha : x.acq = false := by simp only [h]
    simp [ha, hr] at h
    omega

theorem sclr (x : Option MemPfx) (g v a b : Nat) : Statement (.sclr x g v a b) := by
  intro h _
  cases x with
  | none =>
    simp [Instr.wf, guardOk, sclrPfxOk] at h
    refine reads_lane 58 g v a (2 * b) rfl (by omega) (by omega) (by decide) (by decide) fun y ho q0 q1 q2 q3 hy => ?_
    have k3 : fld y 6 1 = b := by simp only [fld]; omega
    have k5 : fld y 0 0 = 0 := by simp only [fld]; omega
    simp [decodeBody, ho, decLaneMem, need, memPerm, memScope2, Pfx.memo, scopeChk, k3, k5, q0, q1, q2]
  | some x =>
    simp [Instr.wf, guardOk, MemPfx.inRange, scopeOk, scratchPfxOk, sclrPfxOk] at h
    refine reads_lane_pair 58 g v a (2 * b) rfl (encMemPfx_is (by omega) (by omega) (by omega)) (by omega) (by omega) (by decide) (by decide) fun y ho q0 q1 q2 q3 hy => ?_
    have k3 : fld y 6 1 = b := by simp only [fld]; omega
    have k5 : fld y 0 0 = 0 := by simp only [fld]; omega
    simp [decodeBody, ho, decLaneMem, need, memPerm, memScope2, Pfx.memo, scopeChk, scopeOk, k3, k5, q0, q1, q2, h]
    intro hr; have ha : x.acq = false := by simp only [h]
    simp [ha, hr] at h
    omega

theorem smp (g d a b : Nat) : Statement (.smp g d a b) := by
  intro h _
  simp [Instr.wf, guardOk] at h
  refine reads_lane 59 g d a (2 * b) rfl (by omega) (by omega) (by decide) (by decide) fun y ho q0 q1 q2 q3 hy => ?_
  have k3 : fld y 6 1 = b := by simp only [fld]; omega
  have k5 : fld y 0 0 = 0 := by simp only [fld]; omega
  simp [decodeBody, ho, decLaneMem, need, noPfx, k3, k5, q0, q1, q2]

theorem smpPool (g d a b : Nat) : Statement (.smpPool g d a b) := by
  intro h _
  simp [Instr.wf, guardOk] at h
  refine reads_lane 59 g d a (2 * b + 1) rfl (by omega) (by omega) (by decide) (by decide) fun y ho q0 q1 q2 q3 hy => ?_
  have k3 : fld y 6 1 = b := by simp only [fld]; omega
  have k5 : fld y 0 0 = 1 := by simp only [fld]; omega
  simp [decodeBody, ho, decLaneMem, need, noPfx, k3, k5, q0, q1, q2]

theorem gadd (d a b w : Nat) : Statement (.gadd d a b w) := by
  intro h _
  simp [Instr.wf] at h
  refine reads_uni 64 d a b w 0 rfl (by omega) (by omega) (by decide) (by decide) (by decide) fun y ho q0 q1 q2 q3 q4 => ?_
  simp [decodeBody, ho, decUniInt, need, noPfx, q0, q1, q2, q3, q4]

theorem gsub (d a b w : Nat) : Statement (.gsub d a b w) := by
  intro h _
  simp [Instr.wf] at h
  refine reads_uni 64 d a b w 1 rfl (by omega) (by omega) (by decide) (by decide) (by decide) fun y ho q0 q1 q2 q3 q4 => ?_
  simp [decodeBody, ho, decUniInt, need, noPfx, q0, q1, q2, q3, q4]

theorem gmul (d a b w : Nat) : Statement (.gmul d a b w) := by
  intro h _
  simp [Instr.wf] at h
  refine reads_uni 64 d a b w 2 rfl (by omega) (by omega) (by decide) (by decide) (by decide) fun y ho q0 q1 q2 q3 q4 => ?_
  simp [decodeBody, ho, decUniInt, need, noPfx, q0, q1, q2, q3, q4]

theorem gmulh (d a b w : Nat) : Statement (.gmulh d a b w) := by
  intro h _
  simp [Instr.wf] at h
  refine reads_uni 64 d a b w 3 rfl (by omega) (by omega) (by decide) (by decide) (by decide) fun y ho q0 q1 q2 q3 q4 => ?_
  simp [decodeBody, ho, decUniInt, need, noPfx, q0, q1, q2, q3, q4]

theorem gmulhN (d a b w : Nat) : Statement (.gmulhN d a b w) := by
  intro h _
  simp [Instr.wf] at h
  refine reads_uni 64 d a b w 4 rfl (by omega) (by omega) (by decide) (by decide) (by decide) fun y ho q0 q1 q2 q3 q4 => ?_
  simp [decodeBody, ho, decUniInt, need, noPfx, q0, q1, q2, q3, q4]

theorem gdiv (d a b w : Nat) : Statement (.gdiv d a b w) := by
  intro h _
  simp [Instr.wf] at h
  refine reads_uni 64 d a b w 5 rfl (by omega) (by omega) (by decide) (by decide) (by decide) fun y ho q0 q1 q2 q3 q4 => ?_
  simp [decodeBody, ho, decUniInt, need, noPfx, q0, q1, q2, q3, q4]

theorem gdivN (d a b w : Nat) : Statement (.gdivN d a b w) := by
  intro h _
  simp [Instr.wf] at h
  refine reads_uni 64 d a b w 6 rfl (by omega) (by omega) (by decide) (by decide) (by decide) fun y ho q0 q1 q2 q3 q4 => ?_
  simp [decodeBody, ho, decUniInt, need, noPfx, q0, q1, q2, q3, q4]

theorem grem (d a b w : Nat) : Statement (.grem d a b w) := by
  intro h _
  simp [Instr.wf] at h
  refine reads_uni 64 d a b w 7 rfl (by omega) (by omega) (by decide) (by decide) (by decide) fun y ho q0 q1 q2 q3 q4 => ?_
  simp [decodeBody, ho, decUniInt, need, noPfx, q0, q1, q2, q3, q4]

theorem gremN (d a b w : Nat) : Statement (.gremN d a b w) := by
  intro h _
  simp [Instr.wf] at h
  refine reads_uni 64 d a b w 8 rfl (by omega) (by omega) (by decide) (by decide) (by decide) fun y ho q0 q1 q2 q3 q4 => ?_
  simp [decodeBody, ho, decUniInt, need, noPfx, q0, q1, q2, q3, q4]

theorem gand (d a b w : Nat) : Statement (.gand d a b w) := by
  intro h _
  simp [Instr.wf] at h
  refine reads_uni 64 d a b w 9 rfl (by omega) (by omega) (by decide) (by decide) (by decide) fun y ho q0 q1 q2 q3 q4 => ?_
  simp [decodeBody, ho, decUniInt, need, noPfx, q0, q1, q2, q3, q4]

theorem gor (d a b w : Nat) : Statement (.gor d a b w) := by
  intro h _
  simp [Instr.wf] at h
  refine reads_uni 64 d a b w 10 rfl (by omega) (by omega) (by decide) (by decide) (by decide) fun y ho q0 q1 q2 q3 q4 => ?_
  simp [decodeBody, ho, decUniInt, need, noPfx, q0, q1, q2, q3, q4]

theorem gxor (d a b w : Nat) : Statement (.gxor d a b w) := by
  intro h _
  simp [Instr.wf] at h
  refine reads_uni 64 d a b w 11 rfl (by omega) (by omega) (by decide) (by decide) (by decide) fun y ho q0 q1 q2 q3 q4 => ?_
  simp [decodeBody, ho, decUniInt, need, noPfx, q0, q1, q2, q3, q4]

theorem gshl (d a b w : Nat) : Statement (.gshl d a b w) := by
  intro h _
  simp [Instr.wf] at h
  refine reads_uni 64 d a b w 12 rfl (by omega) (by omega) (by decide) (by decide) (by decide) fun y ho q0 q1 q2 q3 q4 => ?_
  simp [decodeBody, ho, decUniInt, need, noPfx, q0, q1, q2, q3, q4]

theorem gshr (d a b w : Nat) : Statement (.gshr d a b w) := by
  intro h _
  simp [Instr.wf] at h
  refine reads_uni 64 d a b w 13 rfl (by omega) (by omega) (by decide) (by decide) (by decide) fun y ho q0 q1 q2 q3 q4 => ?_
  simp [decodeBody, ho, decUniInt, need, noPfx, q0, q1, q2, q3, q4]

theorem gsar (d a b w : Nat) : Statement (.gsar d a b w) := by
  intro h _
  simp [Instr.wf] at h
  refine reads_uni 64 d a b w 14 rfl (by omega) (by omega) (by decide) (by decide) (by decide) fun y ho q0 q1 q2 q3 q4 => ?_
  simp [decodeBody, ho, decUniInt, need, noPfx, q0, q1, q2, q3, q4]

theorem gmin (d a b w : Nat) : Statement (.gmin d a b w) := by
  intro h _
  simp [Instr.wf] at h
  refine reads_uni 64 d a b w 15 rfl (by omega) (by omega) (by decide) (by decide) (by decide) fun y ho q0 q1 q2 q3 q4 => ?_
  simp [decodeBody, ho, decUniInt, need, noPfx, q0, q1, q2, q3, q4]

theorem gminN (d a b w : Nat) : Statement (.gminN d a b w) := by
  intro h _
  simp [Instr.wf] at h
  refine reads_uni 64 d a b w 16 rfl (by omega) (by omega) (by decide) (by decide) (by decide) fun y ho q0 q1 q2 q3 q4 => ?_
  simp [decodeBody, ho, decUniInt, need, noPfx, q0, q1, q2, q3, q4]

theorem gmax (d a b w : Nat) : Statement (.gmax d a b w) := by
  intro h _
  simp [Instr.wf] at h
  refine reads_uni 64 d a b w 17 rfl (by omega) (by omega) (by decide) (by decide) (by decide) fun y ho q0 q1 q2 q3 q4 => ?_
  simp [decodeBody, ho, decUniInt, need, noPfx, q0, q1, q2, q3, q4]

theorem gmaxN (d a b w : Nat) : Statement (.gmaxN d a b w) := by
  intro h _
  simp [Instr.wf] at h
  refine reads_uni 64 d a b w 18 rfl (by omega) (by omega) (by decide) (by decide) (by decide) fun y ho q0 q1 q2 q3 q4 => ?_
  simp [decodeBody, ho, decUniInt, need, noPfx, q0, q1, q2, q3, q4]

theorem gpopc (d a w : Nat) : Statement (.gpopc d a w) := by
  intro h _
  simp [Instr.wf] at h
  refine reads_uni 64 d a 0 w 19 rfl (by omega) (by omega) (by decide) (by decide) (by decide) fun y ho q0 q1 q2 q3 q4 => ?_
  simp [decodeBody, ho, decUniInt, need, noPfx, q0, q1, q2, q3, q4]

theorem gclz (d a w : Nat) : Statement (.gclz d a w) := by
  intro h _
  simp [Instr.wf] at h
  refine reads_uni 64 d a 0 w 20 rfl (by omega) (by omega) (by decide) (by decide) (by decide) fun y ho q0 q1 q2 q3 q4 => ?_
  simp [decodeBody, ho, decUniInt, need, noPfx, q0, q1, q2, q3, q4]

theorem gsel (d a b : Nat) : Statement (.gsel d a b) := by
  intro h _
  simp [Instr.wf] at h
  refine reads_uni 64 d a b 0 21 rfl (by omega) (by omega) (by decide) (by decide) (by decide) fun y ho q0 q1 q2 q3 q4 => ?_
  simp [decodeBody, ho, decUniInt, need, noPfx, q0, q1, q2, q3, q4]

theorem gcmp (d a b w c : Nat) : Statement (.gcmp d a b w c) := by
  intro h _
  simp [Instr.wf] at h
  refine reads_uni 64 d a b w (c + 32) rfl (by omega) (by omega) (by decide) (by decide) (by decide) fun y ho q0 q1 q2 q3 q4 => ?_
  simp [decodeBody, ho, decUniInt, need, noPfx, q0, q1, q2, q3, q4, h]

theorem gaddi (d a w i : Nat) : Statement (.gaddi d a w i) := by
  intro h _
  simp [Instr.wf] at h
  refine reads_one 65 rfl (by omega) (by simp only [fld]; omega) (by decide) (by decide) (.inl (by decide)) fun y hy ho => ?_
  have k0 : fld y 24 19 = d := by simp only [fld]; omega
  have k1 : fld y 18 13 = a := by simp only [fld]; omega
  have k2 : fld y 12 12 = w := by simp only [fld]; omega
  have k3 : fld y 11 0 = i := by simp only [fld]; omega
  simp [decodeBody, ho, decUniImm, need, noPfx, k0, k1, k2, k3]

theorem gandi (d a v i : Nat) : Statement (.gandi d a v i) := by
  intro h _
  simp [Instr.wf] at h
  refine reads_one 66 rfl (by omega) (by simp only [fld]; omega) (by decide) (by decide) (.inl (by decide)) fun y hy ho => ?_
  have k0 : fld y 24 19 = d := by simp only [fld]; omega
  have k1 : fld y 18 13 = a := by simp only [fld]; omega
  have k2 : fld y 12 12 = v := by simp only [fld]; omega
  have k3 : fld y 11 0 = i := by simp only [fld]; omega
  simp [decodeBody, ho, decUniImm, need, noPfx, k0, k1, k2, k3]

theorem gori (d a v i : Nat) : Statement (.gori d a v i) := by
  intro h _
  simp [Instr.wf] at h
  refine reads_one 67 rfl (by omega) (by simp only [fld]; omega) (by decide) (by decide) (.inl (by decide)) fun y hy ho => ?_
  have k0 : fld y 24 19 = d := by simp only [fld]; omega
  have k1 : fld y 18 13 = a := by simp only [fld]; omega
  have k2 : fld y 12 12 = v := by simp only [fld]; omega
  have k3 : fld y 11 0 = i := by simp only [fld]; omega
  simp [decodeBody, ho, decUniImm, need, noPfx, k0, k1, k2, k3]

theorem gxori (d a v i : Nat) : Statement (.gxori d a v i) := by
  intro h _
  simp [Instr.wf] at h
  refine reads_one 68 rfl (by omega) (by simp only [fld]; omega) (by decide) (by decide) (.inl (by decide)) fun y hy ho => ?_
  have k0 : fld y 24 19 = d := by simp only [fld]; omega
  have k1 : fld y 18 13 = a := by simp only [fld]; omega
  have k2 : fld y 12 12 = v := by simp only [fld]; omega
  have k3 : fld y 11 0 = i := by simp only [fld]; omega
  simp [decodeBody, ho, decUniImm, need, noPfx, k0, k1, k2, k3]

theorem gshli (d a w n : Nat) : Statement (.gshli d a w n) := by
  intro h _
  simp [Instr.wf] at h
  refine reads_one 69 rfl (by omega) (by simp only [fld]; omega) (by decide) (by decide) (.inl (by decide)) fun y hy ho => ?_
  have k0 : fld y 24 19 = d := by simp only [fld]; omega
  have k1 : fld y 18 13 = a := by simp only [fld]; omega
  have k2 : fld y 12 12 = w := by simp only [fld]; omega
  have k3 : fld y 11 8 = 0 := by simp only [fld]; omega
  have k5 : fld y 7 6 = 0 := by simp only [fld]; omega
  have k7 : fld y 5 0 = n := by simp only [fld]; omega
  simp [decodeBody, ho, decUniImm, need, noPfx, k0, k1, k2, k3, k5, k7, h]

theorem gshri (d a w n : Nat) : Statement (.gshri d a w n) := by
  intro h _
  simp [Instr.wf] at h
  refine reads_one 69 rfl (by omega) (by simp only [fld]; omega) (by decide) (by decide) (.inl (by decide)) fun y hy ho => ?_
  have k0 : fld y 24 19 = d := by simp only [fld]; omega
  have k1 : fld y 18 13 = a := by simp only [fld]; omega
  have k2 : fld y 12 12 = w := by simp only [fld]; omega
  have k3 : fld y 11 8 = 0 := by simp only [fld]; omega
  have k5 : fld y 7 6 = 1 := by simp only [fld]; omega
  have k7 : fld y 5 0 = n := by simp only [fld]; omega
  simp [decodeBody, ho, decUniImm, need, noPfx, k0, k1, k2, k3, k5, k7, h]

theorem gsari (d a w n : Nat) : Statement (.gsari d a w n) := by
  intro h _
  simp [Instr.wf] at h
  refine reads_one 69 rfl (by omega) (by simp only [fld]; omega) (by decide) (by decide) (.inl (by decide)) fun y hy ho => ?_
  have k0 : fld y 24 19 = d := by simp only [fld]; omega
  have k1 : fld y 18 13 = a := by simp only [fld]; omega
  have k2 : fld y 12 12 = w := by simp only [fld]; omega
  have k3 : fld y 11 8 = 0 := by simp only [fld]; omega
  have k5 : fld y 7 6 = 2 := by simp only [fld]; omega
  have k7 : fld y 5 0 = n := by simp only [fld]; omega
  simp [decodeBody, ho, decUniImm, need, noPfx, k0, k1, k2, k3, k5, k7, h]

theorem gcmpi (d a w c i : Nat) : Statement (.gcmpi d a w c i) := by
  intro h _
  simp [Instr.wf] at h
  refine reads_one 70 rfl (by omega) (by simp only [fld]; omega) (by decide) (by decide) (.inl (by decide)) fun y hy ho => ?_
  have k0 : fld y 24 19 = d := by simp only [fld]; omega
  have k1 : fld y 18 13 = a := by simp only [fld]; omega
  have k2 : fld y 12 12 = w := by simp only [fld]; omega
  have k3 : fld y 11 8 = c := by simp only [fld]; omega
  have k5 : fld y 7 0 = i := by simp only [fld]; omega
  simp [decodeBody, ho, decUniImm, need, noPfx, k0, k1, k2, k3, k5, h]

theorem ghi (d i : Nat) : Statement (.ghi d i) := by
  intro h _
  simp [Instr.wf] at h
  have body : ∀ y, y = 0xfc000000 + d * 0x100000 + i → opOf y = 126 ∨ opOf y = 127 → decodeBody .none y = .ok (.ghi d i) := by
    intro y hy ho
    have k0 : fld y 25 20 = d := by simp only [fld]; omega
    have k1 : fld y 19 0 = i := by simp only [fld]; omega
    rcases ho with ho | ho <;> simp [decodeBody, ho, need, noPfx, k0, k1]
  by_cases hd : d < 32
  · exact reads_one 126 rfl (by omega) (by simp only [fld]; omega) (by decide) (by decide) (.inl (by decide)) fun y hy ho => body y hy (.inl ho)
  · exact reads_one 127 rfl (by omega) (by simp only [fld]; omega) (by decide) (by decide) (.inl (by decide)) fun y hy ho => body y hy (.inr ho)

theorem bru (o : Nat) : Statement (.bru o) := by
  intro h _
  simp [Instr.wf] at h
  refine reads_one 80 rfl (by omega) (by simp only [fld]; omega) (by decide) (by decide) (.inr (by simp only [fld]; omega)) fun y hy ho => ?_
  have k1 : fld y 24 21 = 0 := by simp only [fld]; omega
  have k8 : fld y 20 16 = 0 := by simp only [fld]; omega
  have k12 : fld y 15 0 = o := by simp only [fld]; omega
  simp [decodeBody, ho, decUniCtl, need, noPfx, k1, k8, k12]

theorem bcc (c a b o : Nat) : Statement (.bcc c a b o) := by
  intro h _
  simp [Instr.wf] at h
  refine reads_one 81 rfl (by omega) (by simp only [fld]; omega) (by decide) (by decide) (.inl (by decide)) fun y hy ho => ?_
  have k0 : fld y 24 22 = c := by simp only [fld]; omega
  have k3 : fld y 21 16 = a := by simp only [fld]; omega
  have k4 : fld y 15 10 = b := by simp only [fld]; omega
  have k6 : fld y 9 0 = o := by simp only [fld]; omega
  simp [decodeBody, ho, decUniCtl, need, noPfx, k0, k3, k4, k6, h]

theorem bvoteAny (g o : Nat) : Statement (.bvoteAny g o) := by
  intro h _
  simp [Instr.wf, guardOk] at h
  refine reads_one 82 rfl (by omega) (by simp only [fld]; omega) (by decide) (by decide) (.inr (by simp only [fld]; omega)) fun y hy ho => ?_
  have k0 : fld y 24 21 = g := by simp only [fld]; omega
  have k5 : fld y 20 18 = 0 := by simp only [fld]; omega
  have k9 : fld y 17 16 = 0 := by simp only [fld]; omega
  have k10 : fld y 15 0 = o := by simp only [fld]; omega
  simp [decodeBody, ho, decUniCtl, need, noPfx, k0, k5, k9, k10]

theorem bvoteAll (g o : Nat) : Statement (.bvoteAll g o) := by
  intro h _
  simp [Instr.wf, guardOk] at h
  refine reads_one 82 rfl (by omega) (by simp only [fld]; omega) (by decide) (by decide) (.inr (by simp only [fld]; omega)) fun y hy ho => ?_
  have k0 : fld y 24 21 = g := by simp only [fld]; omega
  have k5 : fld y 20 18 = 0 := by simp only [fld]; omega
  have k9 : fld y 17 16 = 1 := by simp only [fld]; omega
  have k10 : fld y 15 0 = o := by simp only [fld]; omega
  simp [decodeBody, ho, decUniCtl, need, noPfx, k0, k5, k9, k10]

theorem bvoteNone (g o : Nat) : Statement (.bvoteNone g o) := by
  intro h _
  simp [Instr.wf, guardOk] at h
  refine reads_one 82 rfl (by omega) (by simp only [fld]; omega) (by decide) (by decide) (.inr (by simp only [fld]; omega)) fun y hy ho => ?_
  have k0 : fld y 24 21 = g := by simp only [fld]; omega
  have k5 : fld y 20 18 = 0 := by simp only [fld]; omega
  have k9 : fld y 17 16 = 2 := by simp only [fld]; omega
  have k10 : fld y 15 0 = o := by simp only [fld]; omega
  simp [decodeBody, ho, decUniCtl, need, noPfx, k0, k5, k9, k10]

theorem br (g o : Nat) : Statement (.br g o) := by
  intro h _
  simp [Instr.wf, guardOk] at h
  refine reads_one 83 rfl (by omega) (by simp only [fld]; omega) (by decide) (by decide) (.inr (by simp only [fld]; omega)) fun y hy ho => ?_
  have k0 : fld y 24 21 = g := by simp only [fld]; omega
  have k6 : fld y 20 16 = 0 := by simp only [fld]; omega
  have k10 : fld y 15 0 = o := by simp only [fld]; omega
  simp [decodeBody, ho, decUniCtl, need, noPfx, k0, k6, k10]

theorem brx (g n o : Nat) : Statement (.brx g n o) := by
  intro h _
  simp [Instr.wf, guardOk] at h
  refine reads_one 84 rfl (by omega) (by simp only [fld]; omega) (by decide) (by decide) (.inr (by simp only [fld]; omega)) fun y hy ho => ?_
  have k0 : fld y 24 21 = g := by simp only [fld]; omega
  have k3 : fld y 20 20 = 0 := by simp only [fld]; omega
  have k6 : fld y 19 16 = n := by simp only [fld]; omega
  have k7 : fld y 15 0 = o := by simp only [fld]; omega
  simp [decodeBody, ho, decUniCtl, need, noPfx, k0, k3, k6, k7]

theorem call (o : Nat) : Statement (.call o) := by
  intro h _
  simp [Instr.wf] at h
  refine reads_one 85 rfl (by omega) (by simp only [fld]; omega) (by decide) (by decide) (.inr (by simp only [fld]; omega)) fun y hy ho => ?_
  have k1 : fld y 24 21 = 0 := by simp only [fld]; omega
  have k8 : fld y 20 16 = 0 := by simp only [fld]; omega
  have k12 : fld y 15 0 = o := by simp only [fld]; omega
  simp [decodeBody, ho, decUniCtl, need, noPfx, k1, k8, k12]

theorem ret (a : Nat) : Statement (.ret a) := by
  intro h _
  simp [Instr.wf] at h
  refine reads_one 86 rfl (by omega) (by simp only [fld]; omega) (by decide) (by decide) (.inl (by decide)) fun y hy ho => ?_
  have k2 : fld y 24 19 = 0 := by simp only [fld]; omega
  have k7 : fld y 18 13 = a := by simp only [fld]; omega
  have k9 : fld y 12 0 = 0 := by simp only [fld]; omega
  simp [decodeBody, ho, decUniCtl, need, noPfx, k2, k7, k9]

theorem jmpg (d a : Nat) : Statement (.jmpg d a) := by
  intro h _
  simp [Instr.wf] at h
  refine reads_one 87 rfl (by omega) (by simp only [fld]; omega) (by decide) (by decide) (.inl (by decide)) fun y hy ho => ?_
  have k0 : fld y 24 19 = d := by simp only [fld]; omega
  have k3 : fld y 18 13 = a := by simp only [fld]; omega
  have k5 : fld y 12 0 = 0 := by simp only [fld]; omega
  simp [decodeBody, ho, decUniCtl, need, noPfx, k0, k3, k5]

theorem exit (g : Nat) : Statement (.exit g) := by
  intro h _
  simp [Instr.wf, guardOk] at h
  refine reads_one 88 rfl (by omega) (by simp only [fld]; omega) (by decide) (by decide) (.inr (by simp only [fld]; omega)) fun y hy ho => ?_
  have k0 : fld y 24 21 = g := by simp only [fld]; omega
  have k8 : fld y 20 0 = 0 := by simp only [fld]; omega
  simp [decodeBody, ho, decUniCtl, need, noPfx, k0, k8]

theorem tail (g : Nat) : Statement (.tail g) := by
  intro h _
  simp [Instr.wf, guardOk] at h
  refine reads_one 89 rfl (by omega) (by simp only [fld]; omega) (by decide) (by decide) (.inr (by simp only [fld]; omega)) fun y hy ho => ?_
  have k0 : fld y 24 21 = g := by simp only [fld]; omega
  have k8 : fld y 20 0 = 0 := by simp only [fld]; omega
  simp [decodeBody, ho, decUniCtl, need, noPfx, k0, k8]

theorem yield : Statement (.yield) := by
  intro h _
  refine reads_one 90 rfl (by decide) (by decide) (by decide) (by decide) (.inl (by decide)) fun y hy ho => ?_
  have k5 : fld y 24 0 = 0 := by simp only [fld]; omega
  simp [decodeBody, ho, decUniCtl, need, noPfx, k5]

theorem meld (p : Nat) : Statement (.meld p) := by
  intro h _
  simp [Instr.wf] at h
  refine reads_one 92 rfl (by omega) (by simp only [fld]; omega) (by decide) (by decide) (.inl (by decide)) fun y hy ho => ?_
  have k3 : fld y 24 16 = 0 := by simp only [fld]; omega
  have k14 : fld y 15 13 = p := by simp only [fld]; omega
  have k18 : fld y 12 7 = 0 := by simp only [fld]; omega
  have k22 : fld y 6 0 = 0 := by simp only [fld]; omega
  simp [decodeBody, ho, decUniCtl, need, noPfx, k3, k14, k18, k22]

theorem mend : Statement (.mend) := by
  intro h _
  refine reads_one 92 rfl (by decide) (by decide) (by decide) (by decide) (.inl (by decide)) fun y hy ho => ?_
  have k4 : fld y 24 7 = 0 := by simp only [fld]; omega
  have k22 : fld y 6 0 = 1 := by simp only [fld]; omega
  simp [decodeBody, ho, decUniCtl, need, noPfx, k4, k22]

theorem mmap (p i v : Nat) : Statement (.mmap p i v) := by
  intro h _
  simp [Instr.wf] at h
  refine reads_one 93 rfl (by omega) (by simp only [fld]; omega) (by decide) (by decide) (.inl (by decide)) fun y hy ho => ?_
  have k1 : fld y 24 21 = 0 := by simp only [fld]; omega
  have k6 : fld y 20 20 = p := by simp only [fld]; omega
  have k9 : fld y 19 16 = i := by simp only [fld]; omega
  have k10 : fld y 15 9 = v := by simp only [fld]; omega
  have k12 : fld y 8 0 = 0 := by simp only [fld]; omega
  simp [decodeBody, ho, decUniCtl, need, noPfx, k1, k6, k9, k10, k12]

theorem wopen : Statement (.wopen) := by
  intro h _
  refine reads_one 94 rfl (by decide) (by decide) (by decide) (by decide) (.inl (by decide)) fun y hy ho => ?_
  have k4 : fld y 24 7 = 0 := by simp only [fld]; omega
  have k22 : fld y 6 0 = 0 := by simp only [fld]; omega
  simp [decodeBody, ho, decUniCtl, need, noPfx, k4, k22]

theorem wclose : Statement (.wclose) := by
  intro h _
  refine reads_one 94 rfl (by decide) (by decide) (by decide) (by decide) (.inl (by decide)) fun y hy ho => ?_
  have k4 : fld y 24 7 = 0 := by simp only [fld]; omega
  have k22 : fld y 6 0 = 1 := by simp only [fld]; omega
  simp [decodeBody, ho, decUniCtl, need, noPfx, k4, k22]

theorem spawn (g n o : Nat) : Statement (.spawn g n o) := by
  intro h _
  simp [Instr.wf, guardOk] at h
  refine reads_one 95 rfl (by omega) (by simp only [fld]; omega) (by decide) (by decide) (.inr (by simp only [fld]; omega)) fun y hy ho => ?_
  have k0 : fld y 24 21 = g := by simp only [fld]; omega
  have k3 : fld y 20 20 = 0 := by simp only [fld]; omega
  have k6 : fld y 19 16 = n := by simp only [fld]; omega
  have k7 : fld y 15 0 = o := by simp only [fld]; omega
  simp [decodeBody, ho, decUniCtl, need, noPfx, k0, k3, k6, k7]

theorem bar (l b : Nat) : Statement (.bar l b) := by
  intro h _
  simp [Instr.wf, barOk] at h
  refine reads_one 96 rfl (by omega) (by simp only [fld]; omega) (by decide) (by decide) (.inl (by decide)) fun y hy ho => ?_
  have k1 : fld y 24 22 = 0 := by simp only [fld]; omega
  have k5 : fld y 21 19 = l := by simp only [fld]; omega
  have k6 : fld y 18 17 = b := by simp only [fld]; omega
  have k8 : fld y 16 0 = 0 := by simp only [fld]; omega
  simp [decodeBody, ho, decUniSys, need, noPfx, barOk, k1, k5, k6, k8, h]

theorem barArrive (l b : Nat) : Statement (.barArrive l b) := by
  intro h _
  simp [Instr.wf, barOk] at h
  refine reads_one 96 rfl (by omega) (by simp only [fld]; omega) (by decide) (by decide) (.inl (by decide)) fun y hy ho => ?_
  have k1 : fld y 24 22 = 1 := by simp only [fld]; omega
  have k5 : fld y 21 19 = l := by simp only [fld]; omega
  have k6 : fld y 18 17 = b := by simp only [fld]; omega
  have k8 : fld y 16 0 = 0 := by simp only [fld]; omega
  simp [decodeBody, ho, decUniSys, need, noPfx, barOk, k1, k5, k6, k8, h]

theorem barWait (l b : Nat) : Statement (.barWait l b) := by
  intro h _
  simp [Instr.wf, barOk] at h
  refine reads_one 96 rfl (by omega) (by simp only [fld]; omega) (by decide) (by decide) (.inl (by decide)) fun y hy ho => ?_
  have k1 : fld y 24 22 = 2 := by simp only [fld]; omega
  have k5 : fld y 21 19 = l := by simp only [fld]; omega
  have k6 : fld y 18 17 = b := by simp only [fld]; omega
  have k8 : fld y 16 0 = 0 := by simp only [fld]; omega
  simp [decodeBody, ho, decUniSys, need, noPfx, barOk, k1, k5, k6, k8, h]

theorem waitc (l s c t : Nat) : Statement (.waitc l s c t) := by
  intro h _
  simp [Instr.wf] at h
  refine reads_one 97 rfl (by omega) (by simp only [fld]; omega) (by decide) (by decide) (.inl (by decide)) fun y hy ho => ?_
  have k0 : fld y 24 20 = l := by simp only [fld]; omega
  have k1 : fld y 19 15 = s := by simp only [fld]; omega
  have k3 : fld y 14 10 = c := by simp only [fld]; omega
  have k4 : fld y 9 5 = t := by simp only [fld]; omega
  have k5 : fld y 4 0 = 0 := by simp only [fld]; omega
  simp [decodeBody, ho, decUniSys, need, noPfx, k0, k1, k3, k4, k5]

theorem fenceRel (s : Nat) : Statement (.fenceRel s) := by
  intro h _
  simp [Instr.wf] at h
  refine reads_one 98 rfl (by omega) (by simp only [fld]; omega) (by decide) (by decide) (.inl (by decide)) fun y hy ho => ?_
  have k0 : fld y 24 23 = 1 := by simp only [fld]; omega
  have k5 : fld y 22 20 = s := by simp only [fld]; omega
  have k7 : fld y 19 0 = 0 := by simp only [fld]; omega
  simp [decodeBody, ho, decUniSys, need, noPfx, k0, k5, k7, h]

theorem fenceAcq (s : Nat) : Statement (.fenceAcq s) := by
  intro h _
  simp [Instr.wf] at h
  refine reads_one 98 rfl (by omega) (by simp only [fld]; omega) (by decide) (by decide) (.inl (by decide)) fun y hy ho => ?_
  have k0 : fld y 24 23 = 2 := by simp only [fld]; omega
  have k5 : fld y 22 20 = s := by simp only [fld]; omega
  have k7 : fld y 19 0 = 0 := by simp only [fld]; omega
  simp [decodeBody, ho, decUniSys, need, noPfx, k0, k5, k7, h]

theorem fenceAr (s : Nat) : Statement (.fenceAr s) := by
  intro h _
  simp [Instr.wf] at h
  refine reads_one 98 rfl (by omega) (by simp only [fld]; omega) (by decide) (by decide) (.inl (by decide)) fun y hy ho => ?_
  have k0 : fld y 24 23 = 3 := by simp only [fld]; omega
  have k5 : fld y 22 20 = s := by simp only [fld]; omega
  have k7 : fld y 19 0 = 0 := by simp only [fld]; omega
  simp [decodeBody, ho, decUniSys, need, noPfx, k0, k5, k7, h]

theorem movs (d n : Nat) : Statement (.movs d n) := by
  intro h _
  simp [Instr.wf, specialOk] at h
  refine reads_one 99 rfl (by omega) (by simp only [fld]; omega) (by decide) (by decide) (.inl (by decide)) fun y hy ho => ?_
  have k0 : fld y 24 19 = d := by simp only [fld]; omega
  have k3 : fld y 18 13 = 0 := by simp only [fld]; omega
  have k5 : fld y 12 12 = 0 := by simp only [fld]; omega
  have k7 : fld y 11 0 = n := by simp only [fld]; omega
  simp [decodeBody, ho, decUniSys, need, noPfx, specialOk, k0, k3, k5, k7, h]

theorem movsw (a n : Nat) : Statement (.movsw a n) := by
  intro h _
  simp [Instr.wf, specialOk] at h
  refine reads_one 99 rfl (by omega) (by simp only [fld]; omega) (by decide) (by decide) (.inl (by decide)) fun y hy ho => ?_
  have k3 : fld y 24 19 = 0 := by simp only [fld]; omega
  have k8 : fld y 18 13 = a := by simp only [fld]; omega
  have k9 : fld y 12 12 = 1 := by simp only [fld]; omega
  have k11 : fld y 11 0 = n := by simp only [fld]; omega
  simp [decodeBody, ho, decUniSys, need, noPfx, specialOk, k3, k8, k9, k11, h]

theorem gang (a : Nat) : Statement (.gang a) := by
  intro h _
  simp [Instr.wf] at h
  refine reads_one 100 rfl (by omega) (by simp only [fld]; omega) (by decide) (by decide) (.inl (by decide)) fun y hy ho => ?_
  have k3 : fld y 24 19 = 0 := by simp only [fld]; omega
  have k9 : fld y 18 13 = a := by simp only [fld]; omega
  have k12 : fld y 12 0 = 0 := by simp only [fld]; omega
  simp [decodeBody, ho, decUniSys, need, noPfx, k3, k9, k12]

theorem cfgmode (r e f c : Nat) : Statement (.cfgmode r e f c) := by
  intro h _
  simp [Instr.wf] at h
  refine reads_one 101 rfl (by omega) (by simp only [fld]; omega) (by decide) (by decide) (.inl (by decide)) fun y hy ho => ?_
  have k4 : fld y 24 12 = 0 := by simp only [fld]; omega
  have k16 : fld y 11 9 = r := by simp only [fld]; omega
  have k18 : fld y 8 7 = e := by simp only [fld]; omega
  have k19 : fld y 6 6 = f := by simp only [fld]; omega
  have k21 : fld y 5 5 = c := by simp only [fld]; omega
  have k22 : fld y 4 0 = 0 := by simp only [fld]; omega
  simp [decodeBody, ho, decUniSys, need, noPfx, k4, k16, k18, k19, k21, k22, h]

theorem nop : Statement (.nop) := by
  intro h _
  refine reads_one 102 rfl (by decide) (by decide) (by decide) (by decide) (.inl (by decide)) fun y hy ho => ?_
  have k4 : fld y 24 12 = 0 := by simp only [fld]; omega
  have k18 : fld y 11 8 = 0 := by simp only [fld]; omega
  have k23 : fld y 7 0 = 0 := by simp only [fld]; omega
  simp [decodeBody, ho, decUniSys, need, noPfx, k4, k18, k23]

theorem trap (c : Nat) : Statement (.trap c) := by
  intro h _
  simp [Instr.wf] at h
  refine reads_one 102 rfl (by omega) (by simp only [fld]; omega) (by decide) (by decide) (.inl (by decide)) fun y hy ho => ?_
  have k4 : fld y 24 12 = 0 := by simp only [fld]; omega
  have k16 : fld y 11 8 = 1 := by simp only [fld]; omega
  have k18 : fld y 7 0 = c := by simp only [fld]; omega
  simp [decodeBody, ho, decUniSys, need, noPfx, k4, k16, k18]

theorem brk (c : Nat) : Statement (.brk c) := by
  intro h _
  simp [Instr.wf] at h
  refine reads_one 102 rfl (by omega) (by simp only [fld]; omega) (by decide) (by decide) (.inl (by decide)) fun y hy ho => ?_
  have k4 : fld y 24 12 = 0 := by simp only [fld]; omega
  have k16 : fld y 11 8 = 2 := by simp only [fld]; omega
  have k18 : fld y 7 0 = c := by simp only [fld]; omega
  simp [decodeBody, ho, decUniSys, need, noPfx, k4, k16, k18]

theorem eret : Statement (.eret) := by
  intro h _
  refine reads_one 102 rfl (by decide) (by decide) (by decide) (by decide) (.inl (by decide)) fun y hy ho => ?_
  have k4 : fld y 24 12 = 0 := by simp only [fld]; omega
  have k18 : fld y 11 8 = 3 := by simp only [fld]; omega
  have k23 : fld y 7 0 = 0 := by simp only [fld]; omega
  simp [decodeBody, ho, decUniSys, need, noPfx, k4, k18, k23]

theorem halt : Statement (.halt) := by
  intro h _
  refine reads_one 102 rfl (by decide) (by decide) (by decide) (by decide) (.inl (by decide)) fun y hy ho => ?_
  have k4 : fld y 24 12 = 0 := by simp only [fld]; omega
  have k18 : fld y 11 8 = 4 := by simp only [fld]; omega
  have k23 : fld y 7 0 = 0 := by simp only [fld]; omega
  simp [decodeBody, ho, decUniSys, need, noPfx, k4, k18, k23]

theorem sfload (a s : Nat) : Statement (.sfload a s) := by
  intro h _
  simp [Instr.wf] at h
  refine reads_one 102 rfl (by omega) (by simp only [fld]; omega) (by decide) (by decide) (.inl (by decide)) fun y hy ho => ?_
  have k3 : fld y 24 19 = 0 := by simp only [fld]; omega
  have k9 : fld y 18 13 = a := by simp only [fld]; omega
  have k10 : fld y 12 12 = 0 := by simp only [fld]; omega
  have k14 : fld y 11 8 = 5 := by simp only [fld]; omega
  have k18 : fld y 7 4 = 0 := by simp only [fld]; omega
  have k24 : fld y 3 0 = s := by simp only [fld]; omega
  simp [decodeBody, ho, decUniSys, need, noPfx, k3, k9, k10, k14, k18, k24]

theorem launch (a b c : Nat) : Statement (.launch a b c) := by
  intro h _
  simp [Instr.wf] at h
  refine reads_one 103 rfl (by omega) (by simp only [fld]; omega) (by decide) (by decide) (.inl (by decide)) fun y hy ho => ?_
  have k0 : fld y 24 19 = a := by simp only [fld]; omega
  have k2 : fld y 18 13 = b := by simp only [fld]; omega
  have k3 : fld y 12 7 = c := by simp only [fld]; omega
  have k6 : fld y 6 0 = 0 := by simp only [fld]; omega
  simp [decodeBody, ho, decUniSys, need, noPfx, k0, k2, k3, k6]

theorem launchWait (a b c : Nat) : Statement (.launchWait a b c) := by
  intro h _
  simp [Instr.wf] at h
  refine reads_one 103 rfl (by omega) (by simp only [fld]; omega) (by decide) (by decide) (.inl (by decide)) fun y hy ho => ?_
  have k0 : fld y 24 19 = a := by simp only [fld]; omega
  have k2 : fld y 18 13 = b := by simp only [fld]; omega
  have k3 : fld y 12 7 = c := by simp only [fld]; omega
  have k6 : fld y 6 0 = 1 := by simp only [fld]; omega
  simp [decodeBody, ho, decUniSys, need, noPfx, k0, k2, k3, k6]

theorem lwait : Statement (.lwait) := by
  intro h _
  refine reads_one 103 rfl (by decide) (by decide) (by decide) (by decide) (.inl (by decide)) fun y hy ho => ?_
  have k5 : fld y 24 7 = 0 := by simp only [fld]; omega
  have k25 : fld y 6 0 = 2 := by simp only [fld]; omega
  simp [decodeBody, ho, decUniSys, need, noPfx, k5, k25]

theorem gld (x : Option MemPfx) (d a b z s : Nat) : Statement (.gld x d a b z s) := by
  intro h _
  cases x with
  | none =>
    simp [Instr.wf, loadPfxOk] at h
    refine reads_one 104 rfl (by omega) (by simp only [fld]; omega) (by decide) (by decide) (.inl (by decide)) fun y hy ho => ?_
    have k0 : fld y 24 19 = d := by simp only [fld]; omega
    have k1 : fld y 18 13 = a := by simp only [fld]; omega
    have k2 : fld y 12 7 = b := by simp only [fld]; omega
    have k3 : fld y 6 4 = z := by simp only [fld]; omega
    have k5 : fld y 3 3 = s := by simp only [fld]; omega
    have k8 : fld y 2 0 = 0 := by simp only [fld]; omega
    simp [decodeBody, ho, decUniMem, need, memPerm, Pfx.memo, scopeChk, k0, k1, k2, k3, k5, k8, h]
  | some x =>
    simp [Instr.wf, MemPfx.inRange, scopeOk, loadPfxOk] at h
    refine reads_pair (.mem x) true 104 rfl (encGmod_is (by omega) (by omega) (by omega)) (by omega) (by simp only [fld]; omega) (by decide) (by decide) (by decide) (.inl (by decide)) fun y hy ho => ?_
    have k0 : fld y 24 19 = d := by simp only [fld]; omega
    have k1 : fld y 18 13 = a := by simp only [fld]; omega
    have k2 : fld y 12 7 = b := by simp only [fld]; omega
    have k3 : fld y 6 4 = z := by simp only [fld]; omega
    have k5 : fld y 3 3 = s := by simp only [fld]; omega
    have k8 : fld y 2 0 = 0 := by simp only [fld]; omega
    simp [decodeBody, ho, decUniMem, need, memPerm, Pfx.memo, scopeChk, scopeOk, k0, k1, k2, k3, k5, k8, h]

theorem gst (x : Option MemPfx) (d a b z : Nat) : Statement (.gst x d a b z) := by
  intro h _
  cases x with
  | none =>
    simp [Instr.wf, storePfxOk] at h
    refine reads_one 105 rfl (by omega) (by simp only [fld]; omega) (by decide) (by decide) (.inl (by decide)) fun y hy ho => ?_
    have k0 : fld y 24 19 = d := by simp only [fld]; omega
    have k1 : fld y 18 13 = a := by simp only [fld]; omega
    have k2 : fld y 12 7 = b := by simp only [fld]; omega
    have k3 : fld y 6 4 = z := by simp only [fld]; omega
    have k6 : fld y 3 0 = 0 := by simp only [fld]; omega
    simp [decodeBody, ho, decUniMem, need, memPerm, Pfx.memo, scopeChk, k0, k1, k2, k3, k6, h]
  | some x =>
    simp [Instr.wf, MemPfx.inRange, scopeOk, storePfxOk] at h
    refine reads_pair (.mem x) true 105 rfl (encGmod_is (by omega) (by omega) (by omega)) (by omega) (by simp only [fld]; omega) (by decide) (by decide) (by decide) (.inl (by decide)) fun y hy ho => ?_
    have k0 : fld y 24 19 = d := by simp only [fld]; omega
    have k1 : fld y 18 13 = a := by simp only [fld]; omega
    have k2 : fld y 12 7 = b := by simp only [fld]; omega
    have k3 : fld y 6 4 = z := by simp only [fld]; omega
    have k6 : fld y 3 0 = 0 := by simp only [fld]; omega
    simp [decodeBody, ho, decUniMem, need, memPerm, Pfx.memo, scopeChk, scopeOk, k0, k1, k2, k3, k6, h]

theorem gatom (x : Option MemPfx) (d a b o w s : Nat) : Statement (.gatom x d a b o w s) := by
  intro h _
  cases x with
  | none =>
    simp [Instr.wf, aopOk, gatomPfxOk] at h
    refine reads_one 106 rfl (by omega) (by simp only [fld]; omega) (by decide) (by decide) (.inl (by decide)) fun y hy ho => ?_
    have k0 : fld y 24 19 = d := by simp only [fld]; omega
    have k1 : fld y 18 13 = a := by simp only [fld]; omega
    have k2 : fld y 12 7 = b := by simp only [fld]; omega
    have k3 : fld y 6 3 = o := by simp only [fld]; omega
    have k4 : fld y 2 2 = w := by simp only [fld]; omega
    have k6 : fld y 1 1 = s := by simp only [fld]; omega
    have k7 : fld y 0 0 = 0 := by simp only [fld]; omega
    simp [decodeBody, ho, decUniMem, need, memPerm, Pfx.memo, scopeLt5, aopOk, k0, k1, k2, k3, k4, k6, k7, h]
  | some x =>
    simp [Instr.wf, aopOk, MemPfx.inRange, gatomPfxOk] at h
    refine reads_pair (.mem x) true 106 rfl (encGmod_is (by omega) (by omega) (by omega)) (by omega) (by simp only [fld]; omega) (by decide) (by decide) (by decide) (.inl (by decide)) fun y hy ho => ?_
    have k0 : fld y 24 19 = d := by simp only [fld]; omega
    have k1 : fld y 18 13 = a := by simp only [fld]; omega
    have k2 : fld y 12 7 = b := by simp only [fld]; omega
    have k3 : fld y 6 3 = o := by simp only [fld]; omega
    have k4 : fld y 2 2 = w := by simp only [fld]; omega
    have k6 : fld y 1 1 = s := by simp only [fld]; omega
    have k7 : fld y 0 0 = 0 := by simp only [fld]; omega
    simp [decodeBody, ho, decUniMem, need, memPerm, Pfx.memo, scopeLt5, aopOk, k0, k1, k2, k3, k4, k6, k7, h]

theorem cpyLin (a b c o : Nat) : Statement (.cpyLin a b c o) := by
  intro h _
  simp [Instr.wf] at h
  refine reads_uni 112 a b c o 0 rfl (by omega) (by omega) (by decide) (by decide) (by decide) fun y ho q0 q1 q2 q3 q4 => ?_
  simp [decodeBody, ho, decCpy, need, noPfx, q0, q1, q2, q3, q4]

theorem cpyShape (a b c o : Nat) : Statement (.cpyShape a b c o) := by
  intro h _
  simp [Instr.wf] at h
  refine reads_uni 112 a b c o 1 rfl (by omega) (by omega) (by decide) (by decide) (by decide) fun y ho q0 q1 q2 q3 q4 => ?_
  simp [decodeBody, ho, decCpy, need, noPfx, q0, q1, q2, q3, q4]

theorem cpyGather (a b c o : Nat) : Statement (.cpyGather a b c o) := by
  intro h _
  simp [Instr.wf] at h
  refine reads_uni 112 a b c o 2 rfl (by omega) (by omega) (by decide) (by decide) (by decide) fun y ho q0 q1 q2 q3 q4 => ?_
  simp [decodeBody, ho, decCpy, need, noPfx, q0, q1, q2, q3, q4]

theorem cpyScatter (a b c o : Nat) : Statement (.cpyScatter a b c o) := by
  intro h _
  simp [Instr.wf] at h
  refine reads_uni 112 a b c o 3 rfl (by omega) (by omega) (by decide) (by decide) (by decide) fun y ho q0 q1 q2 q3 q4 => ?_
  simp [decodeBody, ho, decCpy, need, noPfx, q0, q1, q2, q3, q4]

theorem cpyMcast (a b c o : Nat) : Statement (.cpyMcast a b c o) := by
  intro h _
  simp [Instr.wf] at h
  refine reads_uni 112 a b c o 4 rfl (by omega) (by omega) (by decide) (by decide) (by decide) fun y ho q0 q1 q2 q3 q4 => ?_
  simp [decodeBody, ho, decCpy, need, noPfx, q0, q1, q2, q3, q4]

theorem cpyRadd (a b c o : Nat) : Statement (.cpyRadd a b c o) := by
  intro h _
  simp [Instr.wf] at h
  refine reads_uni 112 a b c o 5 rfl (by omega) (by omega) (by decide) (by decide) (by decide) fun y ho q0 q1 q2 q3 q4 => ?_
  simp [decodeBody, ho, decCpy, need, noPfx, q0, q1, q2, q3, q4]

theorem cpyDec (a b c o : Nat) : Statement (.cpyDec a b c o) := by
  intro h _
  simp [Instr.wf] at h
  refine reads_uni 112 a b c o 6 rfl (by omega) (by omega) (by decide) (by decide) (by decide) fun y ho q0 q1 q2 q3 q4 => ?_
  simp [decodeBody, ho, decCpy, need, noPfx, q0, q1, q2, q3, q4]

theorem cpyDeq (a b c o : Nat) : Statement (.cpyDeq a b c o) := by
  intro h _
  simp [Instr.wf] at h
  refine reads_uni 112 a b c o 7 rfl (by omega) (by omega) (by decide) (by decide) (by decide) fun y ho q0 q1 q2 q3 q4 => ?_
  simp [decodeBody, ho, decCpy, need, noPfx, q0, q1, q2, q3, q4]

theorem cpyPack (a b c o : Nat) : Statement (.cpyPack a b c o) := by
  intro h _
  simp [Instr.wf] at h
  refine reads_uni 112 a b c o 8 rfl (by omega) (by omega) (by decide) (by decide) (by decide) fun y ho q0 q1 q2 q3 q4 => ?_
  simp [decodeBody, ho, decCpy, need, noPfx, q0, q1, q2, q3, q4]

theorem cpyUnpack (a b c o : Nat) : Statement (.cpyUnpack a b c o) := by
  intro h _
  simp [Instr.wf] at h
  refine reads_uni 112 a b c o 9 rfl (by omega) (by omega) (by decide) (by decide) (by decide) fun y ho q0 q1 q2 q3 q4 => ?_
  simp [decodeBody, ho, decCpy, need, noPfx, q0, q1, q2, q3, q4]

theorem cpyPut (a b c o : Nat) : Statement (.cpyPut a b c o) := by
  intro h _
  simp [Instr.wf] at h
  refine reads_uni 112 a b c o 10 rfl (by omega) (by omega) (by decide) (by decide) (by decide) fun y ho q0 q1 q2 q3 q4 => ?_
  simp [decodeBody, ho, decCpy, need, noPfx, q0, q1, q2, q3, q4]

theorem cpyGet (a b c o : Nat) : Statement (.cpyGet a b c o) := by
  intro h _
  simp [Instr.wf] at h
  refine reads_uni 112 a b c o 11 rfl (by omega) (by omega) (by decide) (by decide) (by decide) fun y ho q0 q1 q2 q3 q4 => ?_
  simp [decodeBody, ho, decCpy, need, noPfx, q0, q1, q2, q3, q4]

theorem cpySig (a b c o : Nat) : Statement (.cpySig a b c o) := by
  intro h _
  simp [Instr.wf] at h
  refine reads_uni 112 a b c o 12 rfl (by omega) (by omega) (by decide) (by decide) (by decide) fun y ho q0 q1 q2 q3 q4 => ?_
  simp [decodeBody, ho, decCpy, need, noPfx, q0, q1, q2, q3, q4]

theorem binit (a b o : Nat) : Statement (.binit a b o) := by
  intro h _
  simp [Instr.wf] at h
  refine reads_one 113 rfl (by omega) (by simp only [fld]; omega) (by decide) (by decide) (.inl (by decide)) fun y hy ho => ?_
  have k0 : fld y 24 19 = 0 := by simp only [fld]; omega
  have k1 : fld y 18 13 = a := by simp only [fld]; omega
  have k2 : fld y 12 7 = b := by simp only [fld]; omega
  have k4 : fld y 6 1 = 0 := by simp only [fld]; omega
  have k5 : fld y 0 0 = o := by simp only [fld]; omega
  simp [decodeBody, ho, decObj, need, noPfx, k0, k1, k2, k4, k5]

theorem barrive (a b o : Nat) : Statement (.barrive a b o) := by
  intro h _
  simp [Instr.wf] at h
  refine reads_one 114 rfl (by omega) (by simp only [fld]; omega) (by decide) (by decide) (.inl (by decide)) fun y hy ho => ?_
  have k0 : fld y 24 19 = 0 := by simp only [fld]; omega
  have k1 : fld y 18 13 = a := by simp only [fld]; omega
  have k2 : fld y 12 7 = b := by simp only [fld]; omega
  have k4 : fld y 6 1 = 0 := by simp only [fld]; omega
  have k5 : fld y 0 0 = o := by simp only [fld]; omega
  simp [decodeBody, ho, decObj, need, noPfx, k0, k1, k2, k4, k5]

theorem bwait (a b o : Nat) : Statement (.bwait a b o) := by
  intro h _
  simp [Instr.wf] at h
  refine reads_one 115 rfl (by omega) (by simp only [fld]; omega) (by decide) (by decide) (.inl (by decide)) fun y hy ho => ?_
  have k0 : fld y 24 19 = 0 := by simp only [fld]; omega
  have k1 : fld y 18 13 = a := by simp only [fld]; omega
  have k2 : fld y 12 7 = b := by simp only [fld]; omega
  have k4 : fld y 6 1 = 0 := by simp only [fld]; omega
  have k5 : fld y 0 0 = o := by simp only [fld]; omega
  simp [decodeBody, ho, decObj, need, noPfx, k0, k1, k2, k4, k5]

theorem btest (d a b o : Nat) : Statement (.btest d a b o) := by
  intro h _
  simp [Instr.wf] at h
  refine reads_one 116 rfl (by omega) (by simp only [fld]; omega) (by decide) (by decide) (.inl (by decide)) fun y hy ho => ?_
  have k0 : fld y 24 19 = d := by simp only [fld]; omega
  have k1 : fld y 18 13 = a := by simp only [fld]; omega
  have k2 : fld y 12 7 = b := by simp only [fld]; omega
  have k4 : fld y 6 1 = 0 := by simp only [fld]; omega
  have k5 : fld y 0 0 = o := by simp only [fld]; omega
  simp [decodeBody, ho, decObj, need, noPfx, k0, k1, k2, k4, k5]

theorem shfence (a : Nat) : Statement (.shfence a) := by
  intro h _
  simp [Instr.wf] at h
  refine reads_one 117 rfl (by omega) (by simp only [fld]; omega) (by decide) (by decide) (.inl (by decide)) fun y hy ho => ?_
  have k0 : fld y 24 19 = 0 := by simp only [fld]; omega
  have k1 : fld y 18 13 = a := by simp only [fld]; omega
  have k3 : fld y 12 0 = 0 := by simp only [fld]; omega
  simp [decodeBody, ho, decObj, need, noPfx, k0, k1, k3]

theorem tmap (t g : Nat) : Statement (.tmap t g) := by
  intro h _
  simp [Instr.wf] at h
  refine reads_one 120 rfl (by omega) (by simp only [fld]; omega) (by decide) (by decide) (.inl (by decide)) fun y hy ho => ?_
  have k0 : fld y 24 22 = 0 := by simp only [fld]; omega
  have k1 : fld y 21 18 = t := by simp only [fld]; omega
  have k4 : fld y 17 14 = 0 := by simp only [fld]; omega
  have k6 : fld y 13 8 = g := by simp only [fld]; omega
  have k10 : fld y 7 0 = 0 := by simp only [fld]; omega
  simp [decodeBody, ho, decMatrix, need, noPfx, k0, k1, k4, k6, k10]

theorem mma (a t u g o : Nat) : Statement (.mma a t u g o) := by
  intro h _
  simp [Instr.wf] at h
  refine reads_one 121 rfl (by omega) (by simp only [fld]; omega) (by decide) (by decide) (.inl (by decide)) fun y hy ho => ?_
  have k0 : fld y 24 22 = a := by simp only [fld]; omega
  have k1 : fld y 21 18 = t := by simp only [fld]; omega
  have k3 : fld y 17 14 = u := by simp only [fld]; omega
  have k4 : fld y 13 8 = g := by simp only [fld]; omega
  have k7 : fld y 7 3 = 0 := by simp only [fld]; omega
  have k12 : fld y 2 2 = o := by simp only [fld]; omega
  have k14 : fld y 1 0 = 0 := by simp only [fld]; omega
  simp [decodeBody, ho, decMatrix, need, noPfx, k0, k1, k3, k4, k7, k12, k14]

theorem mmas (a t u g s o : Nat) : Statement (.mmas a t u g s o) := by
  intro h _
  simp [Instr.wf] at h
  refine reads_one 121 rfl (by omega) (by simp only [fld]; omega) (by decide) (by decide) (.inl (by decide)) fun y hy ho => ?_
  have k0 : fld y 24 22 = a := by simp only [fld]; omega
  have k1 : fld y 21 18 = t := by simp only [fld]; omega
  have k3 : fld y 17 14 = u := by simp only [fld]; omega
  have k4 : fld y 13 8 = g := by simp only [fld]; omega
  have k6 : fld y 7 4 = 0 := by simp only [fld]; omega
  have k11 : fld y 3 3 = s := by simp only [fld]; omega
  have k12 : fld y 2 2 = o := by simp only [fld]; omega
  have k14 : fld y 1 0 = 1 := by simp only [fld]; omega
  simp [decodeBody, ho, decMatrix, need, noPfx, k0, k1, k3, k4, k6, k11, k12, k14]

theorem cmma (a t u g : Nat) : Statement (.cmma a t u g) := by
  intro h _
  simp [Instr.wf] at h
  refine reads_one 121 rfl (by omega) (by simp only [fld]; omega) (by decide) (by decide) (.inl (by decide)) fun y hy ho => ?_
  have k0 : fld y 24 22 = a := by simp only [fld]; omega
  have k1 : fld y 21 18 = t := by simp only [fld]; omega
  have k3 : fld y 17 14 = u := by simp only [fld]; omega
  have k4 : fld y 13 8 = g := by simp only [fld]; omega
  have k7 : fld y 7 3 = 0 := by simp only [fld]; omega
  have k12 : fld y 2 2 = 1 := by simp only [fld]; omega
  have k14 : fld y 1 0 = 2 := by simp only [fld]; omega
  simp [decodeBody, ho, decMatrix, need, noPfx, k0, k1, k3, k4, k7, k12, k14]

theorem accz (a g : Nat) : Statement (.accz a g) := by
  intro h _
  simp [Instr.wf] at h
  refine reads_one 122 rfl (by omega) (by simp only [fld]; omega) (by decide) (by decide) (.inl (by decide)) fun y hy ho => ?_
  have k0 : fld y 24 22 = a := by simp only [fld]; omega
  have k4 : fld y 21 14 = 0 := by simp only [fld]; omega
  have k7 : fld y 13 8 = g := by simp only [fld]; omega
  have k10 : fld y 7 3 = 0 := by simp only [fld]; omega
  have k16 : fld y 2 0 = 0 := by simp only [fld]; omega
  simp [decodeBody, ho, decMatrix, need, noPfx, k0, k4, k7, k10, k16]

theorem accin (a t g : Nat) : Statement (.accin a t g) := by
  intro h _
  simp [Instr.wf] at h
  refine reads_one 122 rfl (by omega) (by simp only [fld]; omega) (by decide) (by decide) (.inl (by decide)) fun y hy ho => ?_
  have k0 : fld y 24 22 = a := by simp only [fld]; omega
  have k1 : fld y 21 18 = t := by simp only [fld]; omega
  have k4 : fld y 17 14 = 0 := by simp only [fld]; omega
  have k6 : fld y 13 8 = g := by simp only [fld]; omega
  have k9 : fld y 7 3 = 0 := by simp only [fld]; omega
  have k15 : fld y 2 0 = 1 := by simp only [fld]; omega
  simp [decodeBody, ho, decMatrix, need, noPfx, k0, k1, k4, k6, k9, k15]

theorem accout (a t g o : Nat) : Statement (.accout a t g o) := by
  intro h _
  simp [Instr.wf] at h
  refine reads_one 122 rfl (by omega) (by simp only [fld]; omega) (by decide) (by decide) (.inl (by decide)) fun y hy ho => ?_
  have k0 : fld y 24 22 = a := by simp only [fld]; omega
  have k1 : fld y 21 18 = t := by simp only [fld]; omega
  have k4 : fld y 17 14 = 0 := by simp only [fld]; omega
  have k6 : fld y 13 8 = g := by simp only [fld]; omega
  have k8 : fld y 7 4 = 0 := by simp only [fld]; omega
  have k13 : fld y 3 3 = o := by simp only [fld]; omega
  have k15 : fld y 2 0 = 2 := by simp only [fld]; omega
  simp [decodeBody, ho, decMatrix, need, noPfx, k0, k1, k4, k6, k8, k13, k15]

theorem accmov (a s : Nat) : Statement (.accmov a s) := by
  intro h _
  simp [Instr.wf] at h
  refine reads_one 122 rfl (by omega) (by simp only [fld]; omega) (by decide) (by decide) (.inl (by decide)) fun y hy ho => ?_
  have k0 : fld y 24 22 = a := by simp only [fld]; omega
  have k3 : fld y 21 17 = 0 := by simp only [fld]; omega
  have k7 : fld y 16 14 = s := by simp only [fld]; omega
  have k9 : fld y 13 3 = 0 := by simp only [fld]; omega
  have k18 : fld y 2 0 = 3 := by simp only [fld]; omega
  simp [decodeBody, ho, decMatrix, need, noPfx, k0, k3, k7, k9, k18]

theorem trowSum (a b c o : Nat) : Statement (.trowSum a b c o) := by
  intro h _
  simp [Instr.wf] at h
  refine reads_uni 123 a b c o 0 rfl (by omega) (by omega) (by decide) (by decide) (by decide) fun y ho q0 q1 q2 q3 q4 => ?_
  simp [decodeBody, ho, decMatrix, need, noPfx, q0, q1, q2, q3, q4]

theorem trowMax (a b c o : Nat) : Statement (.trowMax a b c o) := by
  intro h _
  simp [Instr.wf] at h
  refine reads_uni 123 a b c o 1 rfl (by omega) (by omega) (by decide) (by decide) (by decide) fun y ho q0 q1 q2 q3 q4 => ?_
  simp [decodeBody, ho, decMatrix, need, noPfx, q0, q1, q2, q3, q4]

theorem trowSmax (a b c o : Nat) : Statement (.trowSmax a b c o) := by
  intro h _
  simp [Instr.wf] at h
  refine reads_uni 123 a b c o 2 rfl (by omega) (by omega) (by decide) (by decide) (by decide) fun y ho q0 q1 q2 q3 q4 => ?_
  simp [decodeBody, ho, decMatrix, need, noPfx, q0, q1, q2, q3, q4]

theorem trowNorm (a b c o : Nat) : Statement (.trowNorm a b c o) := by
  intro h _
  simp [Instr.wf] at h
  refine reads_uni 123 a b c o 3 rfl (by omega) (by omega) (by decide) (by decide) (by decide) fun y ho q0 q1 q2 q3 q4 => ?_
  simp [decodeBody, ho, decMatrix, need, noPfx, q0, q1, q2, q3, q4]

theorem march (k p q o : Nat) : Statement (.march k p q o) := by
  intro h _
  simp [Instr.wf] at h
  refine reads_uni 124 k p q o 0 rfl (by omega) (by omega) (by decide) (by decide) (by decide) fun y ho q0 q1 q2 q3 q4 => ?_
  simp [decodeBody, ho, decField, need, noPfx, q0, q1, q2, q3, q4]

theorem marchIv (k p q o : Nat) : Statement (.marchIv k p q o) := by
  intro h _
  simp [Instr.wf] at h
  refine reads_uni 124 k p q o 1 rfl (by omega) (by omega) (by decide) (by decide) (by decide) fun y ho q0 q1 q2 q3 q4 => ?_
  simp [decodeBody, ho, decField, need, noPfx, q0, q1, q2, q3, q4]

theorem mresume (k p q o : Nat) : Statement (.mresume k p q o) := by
  intro h _
  simp [Instr.wf] at h
  refine reads_uni 124 k p q o 2 rfl (by omega) (by omega) (by decide) (by decide) (by decide) fun y ho q0 q1 q2 q3 q4 => ?_
  simp [decodeBody, ho, decField, need, noPfx, q0, q1, q2, q3, q4]

theorem fprep (d s q o : Nat) : Statement (.fprep d s q o) := by
  intro h _
  simp [Instr.wf] at h
  refine reads_uni 124 d s q o 3 rfl (by omega) (by omega) (by decide) (by decide) (by decide) fun y ho q0 q1 q2 q3 q4 => ?_
  simp [decodeBody, ho, decField, need, noPfx, q0, q1, q2, q3, q4]

theorem boxt (k m : Nat) : Statement (.boxt k m) := by
  intro h _
  simp [Instr.wf] at h
  refine reads_uni 124 k 0 m 0 8 rfl (by omega) (by omega) (by decide) (by decide) (by decide) fun y ho q0 q1 q2 q3 q4 => ?_
  simp [decodeBody, ho, decField, need, noPfx, q0, q1, q2, q3, q4]

theorem trit (k m : Nat) : Statement (.trit k m) := by
  intro h _
  simp [Instr.wf] at h
  refine reads_uni 124 k 0 m 0 9 rfl (by omega) (by omega) (by decide) (by decide) (by decide) fun y ho q0 q1 q2 q3 q4 => ?_
  simp [decodeBody, ho, decField, need, noPfx, q0, q1, q2, q3, q4]

theorem stkpush (k s m : Nat) : Statement (.stkpush k s m) := by
  intro h _
  simp [Instr.wf] at h
  refine reads_uni 124 k s m 0 10 rfl (by omega) (by omega) (by decide) (by decide) (by decide) fun y ho q0 q1 q2 q3 q4 => ?_
  simp [decodeBody, ho, decField, need, noPfx, q0, q1, q2, q3, q4]

theorem stkpop (k s m : Nat) : Statement (.stkpop k s m) := by
  intro h _
  simp [Instr.wf] at h
  refine reads_uni 124 k s m 0 11 rfl (by omega) (by omega) (by decide) (by decide) (by decide) fun y ho q0 q1 q2 q3 q4 => ?_
  simp [decodeBody, ho, decField, need, noPfx, q0, q1, q2, q3, q4]

theorem draw (r t g o : Nat) : Statement (.draw r t g o) := by
  intro h _
  simp [Instr.wf] at h
  refine reads_uni 124 r t g o 16 rfl (by omega) (by omega) (by decide) (by decide) (by decide) fun y ho q0 q1 q2 q3 q4 => ?_
  simp [decodeBody, ho, decField, need, noPfx, q0, q1, q2, q3, q4]

theorem depthw (k t m : Nat) : Statement (.depthw k t m) := by
  intro h _
  simp [Instr.wf] at h
  refine reads_uni 124 k t m 0 17 rfl (by omega) (by omega) (by decide) (by decide) (by decide) fun y ho q0 q1 q2 q3 q4 => ?_
  simp [decodeBody, ho, decField, need, noPfx, q0, q1, q2, q3, q4]

theorem nbin (a b c o : Nat) : Statement (.nbin a b c o) := by
  intro h _
  simp [Instr.wf] at h
  refine reads_uni 124 a b c o 24 rfl (by omega) (by omega) (by decide) (by decide) (by decide) fun y ho q0 q1 q2 q3 q4 => ?_
  simp [decodeBody, ho, decField, need, noPfx, q0, q1, q2, q3, q4]

theorem npairs (a b c o : Nat) : Statement (.npairs a b c o) := by
  intro h _
  simp [Instr.wf] at h
  refine reads_uni 124 a b c o 25 rfl (by omega) (by omega) (by decide) (by decide) (by decide) fun y ho q0 q1 q2 q3 q4 => ?_
  simp [decodeBody, ho, decField, need, noPfx, q0, q1, q2, q3, q4]

theorem nstat (d a b : Nat) : Statement (.nstat d a b) := by
  intro h _
  simp [Instr.wf] at h
  refine reads_uni 124 d a b 0 26 rfl (by omega) (by omega) (by decide) (by decide) (by decide) fun y ho q0 q1 q2 q3 q4 => ?_
  simp [decodeBody, ho, decField, need, noPfx, q0, q1, q2, q3, q4]

theorem registerWrite (a : Nat) (b : Word64) : Statement (.registerWrite a b) := fun _ h => nomatch h

theorem xltinvPage (a : Word64) : Statement (.xltinvPage a) := fun _ h => nomatch h

theorem xltinvContext (a : Word64) : Statement (.xltinvContext a) := fun _ h => nomatch h

theorem xltinvAll (a : Word64) : Statement (.xltinvAll a) := fun _ h => nomatch h

theorem xltinvComplete : Statement (.xltinvComplete) := fun _ h => nomatch h

theorem frmgive64 (a : Word64) : Statement (.frmgive64 a) := fun _ h => nomatch h

theorem frmgive2m (a : Word64) : Statement (.frmgive2m a) := fun _ h => nomatch h

theorem migrationCommit (a : Nat) : Statement (.migrationCommit a) := fun _ h => nomatch h

theorem frameFree (a : Nat) : Statement (.frameFree a) := fun _ h => nomatch h

theorem parkedStorePerform (a : Nat) : Statement (.parkedStorePerform a) := fun _ h => nomatch h

theorem parkedStoreTimeout (a : Nat) : Statement (.parkedStoreTimeout a) := fun _ h => nomatch h

theorem homeStore (a : Nat) : Statement (.homeStore a) := fun _ h => nomatch h

theorem homeAtomic (a : Nat) (b : AtomOp) : Statement (.homeAtomic a b) := fun _ h => nomatch h

theorem homeRead (a : Nat) (b : Nat) (c : Word64) : Statement (.homeRead a b c) := fun _ h => nomatch h

theorem memoryScrub (a : Nat) : Statement (.memoryScrub a) := fun _ h => nomatch h

theorem consumingLoadProceed (a : Ref) : Statement (.consumingLoadProceed a) := fun _ h => nomatch h

theorem fullEmptyStall (a : Ref) : Statement (.fullEmptyStall a) := fun _ h => nomatch h

theorem arrival (a : Nat) : Statement (.arrival a) := fun _ h => nomatch h

theorem npairsClosingArrival (a : Nat) : Statement (.npairsClosingArrival a) := fun _ h => nomatch h

theorem sequencerOpStart (a : Nat) : Statement (.sequencerOpStart a) := fun _ h => nomatch h

theorem gangLatchTimeout (a : Ref) : Statement (.gangLatchTimeout a) := fun _ h => nomatch h

theorem pairRecordEmit (a : Nat) : Statement (.pairRecordEmit a) := fun _ h => nomatch h

theorem merge (a : Nat) (b : Nat) : Statement (.merge a b) := fun _ h => nomatch h

theorem levelBarrierRelease (a : Ref) : Statement (.levelBarrierRelease a) := fun _ h => nomatch h

theorem barrierStallTimeout (a : Ref) : Statement (.barrierStallTimeout a) := fun _ h => nomatch h

theorem spawnWaitTimeout (a : Ref) : Statement (.spawnWaitTimeout a) := fun _ h => nomatch h

theorem bwaitTimeout (a : Ref) : Statement (.bwaitTimeout a) := fun _ h => nomatch h

theorem preemptWaitingCrew (a : Nat) (b : Nat) : Statement (.preemptWaitingCrew a b) := fun _ h => nomatch h

theorem basketTimerExpiry (a : Nat) (b : Nat) (c : Nat) : Statement (.basketTimerExpiry a b c) := fun _ h => nomatch h

theorem basketLaunch (a : Nat) (b : Nat) : Statement (.basketLaunch a b) := fun _ h => nomatch h

theorem skeinEnd (a : Ref) : Statement (.skeinEnd a) := fun _ h => nomatch h

theorem retirementEntryFree (a : Nat) : Statement (.retirementEntryFree a) := fun _ h => nomatch h

theorem crewEnd (a : Nat) (b : Nat) : Statement (.crewEnd a b) := fun _ h => nomatch h

theorem takeRecord (a : Nat) : Statement (.takeRecord a) := fun _ h => nomatch h

theorem placeUnit : Statement (.placeUnit) := fun _ h => nomatch h

theorem priorityPreemption (a : Nat) : Statement (.priorityPreemption a) := fun _ h => nomatch h

theorem preemptCrew (a : Nat) (b : Nat) : Statement (.preemptCrew a b) := fun _ h => nomatch h

theorem restoreCrew (a : Nat) : Statement (.restoreCrew a) := fun _ h => nomatch h

theorem qctlOpen (a : Word64) : Statement (.qctlOpen a) := fun _ h => nomatch h

theorem qctlClose (a : Word64) : Statement (.qctlClose a) := fun _ h => nomatch h

theorem qctlReset (a : Word64) : Statement (.qctlReset a) := fun _ h => nomatch h

theorem mailboxPendingAppend (a : Nat) (b : Nat) : Statement (.mailboxPendingAppend a b) := fun _ h => nomatch h

theorem deferredTrapTake (a : Ref) : Statement (.deferredTrapTake a) := fun _ h => nomatch h

theorem watchdogTrap (a : Nat) : Statement (.watchdogTrap a) := fun _ h => nomatch h

theorem watchdogKill (a : Nat) : Statement (.watchdogKill a) := fun _ h => nomatch h

theorem kill (a : Nat) : Statement (.kill a) := fun _ h => nomatch h

theorem frameStart (a : Nat) : Statement (.frameStart a) := fun _ h => nomatch h

theorem frameSlotEnd (a : Nat) : Statement (.frameSlotEnd a) := fun _ h => nomatch h

theorem ethernetFrame (a : Nat) (b : EthFrame) : Statement (.ethernetFrame a b) := fun _ h => nomatch h

theorem enq (a : PvlMsg) : Statement (.enq a) := fun _ h => nomatch h

theorem read (a : PvlMsg) : Statement (.read a) := fun _ h => nomatch h

theorem write (a : PvlMsg) : Statement (.write a) := fun _ h => nomatch h

theorem resp (a : PvlMsg) : Statement (.resp a) := fun _ h => nomatch h

theorem mbox (a : PvlMsg) : Statement (.mbox a) := fun _ h => nomatch h

theorem put (a : PvlMsg) : Statement (.put a) := fun _ h => nomatch h

theorem get (a : PvlMsg) : Statement (.get a) := fun _ h => nomatch h

theorem atom (a : PvlMsg) (b : AtomOp) : Statement (.atom a b) := fun _ h => nomatch h

theorem mig (a : PvlMsg) (b : MigMsg) : Statement (.mig a b) := fun _ h => nomatch h

theorem leave (a : PvlMsg) : Statement (.leave a) := fun _ h => nomatch h

theorem mgmt (a : PvlMsg) : Statement (.mgmt a) := fun _ h => nomatch h

theorem ptpMessage (a : PtpMsg) : Statement (.ptpMessage a) := fun _ h => nomatch h

theorem syncTimeout : Statement (.syncTimeout) := fun _ h => nomatch h

theorem peerTimeout (a : Nat) : Statement (.peerTimeout a) := fun _ h => nomatch h

theorem join (a : Word64) : Statement (.join a) := fun _ h => nomatch h

theorem joinComplete : Statement (.joinComplete) := fun _ h => nomatch h

theorem fabctlLeave (a : Word64) : Statement (.fabctlLeave a) := fun _ h => nomatch h

theorem powerOn (a : BringUp) : Statement (.powerOn a) := fun _ h => nomatch h

theorem status (a : Nat) : Statement (.status a) := fun _ h => nomatch h

theorem selftest (a : Nat) : Statement (.selftest a) := fun _ h => nomatch h

theorem diag (a : Nat) (b : Nat) (c : Nat) : Statement (.diag a b c) := fun _ h => nomatch h

theorem regread (a : Nat) (b : Nat) : Statement (.regread a b) := fun _ h => nomatch h

theorem regwrite (a : Nat) (b : Nat) (c : Word64) : Statement (.regwrite a b c) := fun _ h => nomatch h

theorem attest (a : Nat) (b : List Byte) : Statement (.attest a b) := fun _ h => nomatch h

theorem manifest (a : Nat) (b : Nat) (c : Nat) : Statement (.manifest a b c) := fun _ h => nomatch h

theorem compare (a : Nat) (b : Nat) (c : Nat) (d : List Byte) : Statement (.compare a b c d) := fun _ h => nomatch h

theorem resume (a : Nat) (b : Nat) (c : Nat) : Statement (.resume a b c) := fun _ h => nomatch h

theorem fatalrec (a : Nat) (b : Nat) : Statement (.fatalrec a b) := fun _ h => nomatch h

theorem stream (a : Nat) (b : List Byte) : Statement (.stream a b) := fun _ h => nomatch h

theorem streamq (a : Nat) (b : Nat) : Statement (.streamq a b) := fun _ h => nomatch h

theorem clockThrottle (a : Nat) (b : Nat) : Statement (.clockThrottle a b) := fun _ h => nomatch h

theorem overtempShutdown (a : Nat) : Statement (.overtempShutdown a) := fun _ h => nomatch h

theorem globalTimeTick : Statement (.globalTimeTick) := fun _ h => nomatch h

theorem pageRequestTimeout (a : Nat) : Statement (.pageRequestTimeout a) := fun _ h => nomatch h

theorem asyncOperationEnd (a : Nat) : Statement (.asyncOperationEnd a) := fun _ h => nomatch h

end Sys2Proof.Laws.RoundTrip
end

