-- ==== Sys2Proof/Machine/Loader.lean ====
section
/-! DEFINITION. Code objects and their loading, as a function of the object's bytes (07 R215 to R219, log entry 83). -/
namespace Sys2Proof.Machine

/-! ### The tables of a code object (07 R216 to R218) -/

/-- The 64-byte header. -/
structure ObjHeader where
  magic : Nat
  version : Nat
  flags : Nat
  prefBase : Nat
  imageSize : Nat
  sectOff : Nat
  nsect : Nat
  symOff : Nat
  nsym : Nat
  relOff : Nat
  nrel : Nat
  strOff : Nat
  strSize : Nat
  gotOff : Nat
  ngot : Nat
  deriving DecidableEq, Repr

def headerOf (f : List Byte) : ObjHeader :=
  { magic := leAt f 0 4, version := leAt f 4 2, flags := leAt f 6 2, prefBase := leAt f 8 8, imageSize := leAt f 16 8, sectOff := leAt f 24 4,
    nsect := leAt f 28 4, symOff := leAt f 32 4, nsym := leAt f 36 4, relOff := leAt f 40 4, nrel := leAt f 44 4, strOff := leAt f 48 4,
    strSize := leAt f 52 4, gotOff := leAt f 56 4, ngot := leAt f 60 4 }

/-- A section entry: kinds 1 code, 2 const, 3 data, 4 zero-filled, 5 got, 6 information. -/
structure ObjSection where
  name : Nat
  kind : Nat
  align : Nat
  res6 : Nat
  imageOff : Nat
  size : Nat
  fileOff : Nat
  res28 : Nat
  deriving DecidableEq, Repr

def sectionAt (f : List Byte) (h : ObjHeader) (i : Nat) : ObjSection :=
  let o := h.sectOff + 32 * i
  { name := leAt f o 4, kind := leAt f (o + 4) 1, align := leAt f (o + 5) 1, res6 := leAt f (o + 6) 2, imageOff := leAt f (o + 8) 8,
    size := leAt f (o + 16) 8, fileOff := leAt f (o + 24) 4, res28 := leAt f (o + 28) 4 }

def sectionsOf (f : List Byte) (h : ObjHeader) : List ObjSection := (List.range h.nsect).map (sectionAt f h)

/-- A symbol entry; `sect` is the section index plus 1, or 0 for an external symbol. -/
structure ObjSymbol where
  name : Nat
  sect : Nat
  kind : Nat
  bind : Nat
  value : Nat
  extra : Nat
  deriving DecidableEq, Repr

def symbolAt (f : List Byte) (h : ObjHeader) (i : Nat) : ObjSymbol :=
  let o := h.symOff + 24 * i
  { name := leAt f o 4, sect := leAt f (o + 4) 2, kind := leAt f (o + 6) 1, bind := leAt f (o + 7) 1, value := leAt f (o + 8) 8, extra := leAt f (o + 16) 8 }

def symbolsOf (f : List Byte) (h : ObjHeader) : List ObjSymbol := (List.range h.nsym).map (symbolAt f h)

/-- A relocation record. -/
structure ObjReloc where
  off : Nat
  sym : Nat
  type : Nat
  res14 : Nat
  addend : Int
  deriving DecidableEq, Repr

def relocAt (f : List Byte) (h : ObjHeader) (i : Nat) : ObjReloc :=
  let o := h.relOff + 24 * i
  { off := leAt f o 8, sym := leAt f (o + 8) 4, type := leAt f (o + 12) 2, res14 := leAt f (o + 14) 2, addend := sxt 64 (leAt f (o + 16) 8) }

def relocsOf (f : List Byte) (h : ObjHeader) : List ObjReloc := (List.range h.nrel).map (relocAt f h)

/-- The zero-terminated name at an offset of the string table. -/
def nameAt (f : List Byte) (h : ObjHeader) (o : Nat) : List Byte := ((f.drop (h.strOff + o)).take (h.strSize - o)).takeWhile fun b => decide (b ≠ 0#8)

/-! ### The checks (07 R219) -/

/-- Code 0x01: the header, and every table within the file. -/
def objectOk (f : List Byte) : Bool :=
  let h := headerOf f
  let inFile := fun off n : Nat => decide (off + n ≤ f.length)
  decide (64 ≤ f.length) && decide (h.magic = 0x014F484D) && decide (h.version = 1) && decide (h.flags = 0) && inFile h.sectOff (32 * h.nsect) &&
    inFile h.symOff (24 * h.nsym) && inFile h.relOff (24 * h.nrel) && inFile h.strOff h.strSize

/-- Code 0x02: the base, and the image within the lower half. -/
def baseOk (h : ObjHeader) (base : Nat) : Bool := decide (base % 65536 = 0) && decide (base + h.imageSize ≤ 2 ^ 55)

def isLoaded (x : ObjSection) : Bool := decide (1 ≤ x.kind) && decide (x.kind ≤ 5)
/-- The section has bytes in the file. -/
def hasBytes (x : ObjSection) : Bool := decide (x.kind = 1) || decide (x.kind = 2) || decide (x.kind = 3) || decide (x.kind = 6)

def sectionOk (f : List Byte) (h : ObjHeader) (x : ObjSection) : Bool :=
  decide (1 ≤ x.kind) && decide (x.kind ≤ 6) && decide (x.align ≤ 16) && decide (x.res6 = 0) && decide (x.res28 = 0) && decide (x.name < h.strSize) &&
    (!isLoaded x || (decide (x.imageOff + x.size ≤ h.imageSize) && decide (x.imageOff % 2 ^ x.align = 0))) &&
    (!hasBytes x || decide (x.fileOff + x.size ≤ f.length))

/-- Loaded sections do not overlap. -/
def apart : List ObjSection → Bool
  | [] => true
  | x :: l => (!isLoaded x || l.all fun y => !isLoaded y || decide (x.imageOff + x.size ≤ y.imageOff) || decide (y.imageOff + y.size ≤ x.imageOff)) && apart l

def symbolOk (h : ObjHeader) (ss : List ObjSection) (x : ObjSymbol) : Bool :=
  decide (x.name < h.strSize) && decide (1 ≤ x.kind) && decide (x.kind ≤ 4) && decide (x.bind ≤ 1) && decide (x.sect ≤ h.nsect) &&
    (decide (x.kind = 1) || decide (x.extra = 0)) &&
    (decide (x.sect = 0) || (match ss[x.sect - 1]? with | some y => isLoaded y && decide (x.value ≤ y.size) | none => false))

/-- Code 0x06: sections, the offset table and symbols. -/
def tablesOk (f : List Byte) : Bool :=
  let h := headerOf f
  let ss := sectionsOf f h
  ss.all (sectionOk f h) && apart ss && (symbolsOf f h).all (symbolOk h ss) && decide (h.gotOff % 8 = 0) && decide (h.gotOff + 8 * h.ngot ≤ h.imageSize)

/-! ### Symbols and the global offset table -/

/-- The address of a symbol at a base; external symbols come from system software's set, none when they are not there. -/
def symbolAddr (f : List Byte) (base : Nat) (ext : List (List Byte × Nat)) (x : ObjSymbol) : Option Nat :=
  let h := headerOf f
  if x.sect = 0 then (ext.find? fun e => decide (e.1 = nameAt f h x.name)).map (·.2)
  else (sectionsOf f h)[x.sect - 1]?.map fun y => base + y.imageOff + x.value

def isGotReloc (r : ObjReloc) : Bool := decide (r.type = 6) || decide (r.type = 7)

/-- Symbols with entries of the offset table, in the order in which records first name them. -/
def gotSymbols (rs : List ObjReloc) : List Nat :=
  rs.foldl (fun l r => if isGotReloc r ∧ !l.contains r.sym then l ++ [r.sym] else l) []

/-! ### Relocations (07 R215, R218) -/

/-- The upper part of a value built by ghi and gaddi. -/
def hiPart (v : Int) : Int := (v + 0x800) / 4096

/-- The value lies in the range that ghi and gaddi build. -/
def hiLoOk (v : Int) : Bool := decide (-(2 ^ 31) - 2 ^ 11 ≤ v) && decide (v ≤ 2 ^ 31 - 2 ^ 11 - 1)

/-- The forms that relocations name, by the opcode of a uniform-set word (07 R193, R207). -/
inductive WordForm where
  | gh
  | gi
  | gb
  | gc
  | other
  deriving DecidableEq, Repr

def wordForm (w : Nat) : WordForm :=
  let op := nb w 30 25
  if !nbit w 31 then .other
  else if op = 0x3E ∨ op = 0x3F then .gh
  else if op = 0x11 then .gc
  else if [0x01, 0x02, 0x03, 0x04, 0x05, 0x06, 0x23, 0x25, 0x26].contains op then .gi
  else if [0x10, 0x12, 0x13, 0x14, 0x15, 0x18, 0x19, 0x1F].contains op then .gb
  else .other

/-- The form a relocation type asks for; none for data. -/
def relocForm (type : Nat) : Option WordForm :=
  match type with
  | 2 => some .gh
  | 3 => some .gi
  | 4 => some .gb
  | 5 => some .gc
  | 6 => some .gh
  | 7 => some .gi
  | _ => none

def relocSize (type : Nat) : Nat := if type = 1 then 8 else 4

/-- A word with its low `n` bits replaced. -/
def withLow (w n : Nat) (x : Int) : Nat := w / 2 ^ n * 2 ^ n + (x % (2 ^ n : Int)).toNat

/-- The distance in words from `p`, when `n` bits hold it. -/
def pcRel (n : Nat) (v p : Int) : Option Int :=
  if (v - p) % 4 = 0 ∧ -(2 ^ (n - 1) : Int) ≤ (v - p) / 4 ∧ (v - p) / 4 < 2 ^ (n - 1) then some ((v - p) / 4) else none

/-- The word after relocation, none on overflow: type, value V (or G + A), address P, the word before. -/
def relocField (type : Nat) (v p : Int) (w : Nat) : Option Nat :=
  match type with
  | 1 => some (v % (2 ^ 64 : Int)).toNat
  | 2 => if hiLoOk v then some (withLow w 20 (hiPart v)) else none
  | 6 => if hiLoOk v then some (withLow w 20 (hiPart v)) else none
  | 3 => some (withLow w 12 (v - 4096 * hiPart v))
  | 7 => some (withLow w 12 (v - 4096 * hiPart v))
  | 4 => (pcRel 16 v p).map (withLow w 16)
  | 5 => (pcRel 10 v p).map (withLow w 10)
  | _ => none

/-! ### The image -/

/-- The loaded sections as offset and bytes; the offset table is written apart. -/
def imagePieces (f : List Byte) : List (Nat × List Byte) :=
  ((sectionsOf f (headerOf f)).filter fun x => decide (x.kind ≤ 4)).map fun x =>
    (x.imageOff, if x.kind = 4 then List.replicate x.size 0#8 else (f.drop x.fileOff).take x.size)

def pieceByte (l : List (Nat × List Byte)) (o : Nat) : Byte :=
  match l.find? fun p => decide (p.1 ≤ o) && decide (o < p.1 + p.2.length) with
  | some p => p.2.getD (o - p.1) 0#8
  | none => 0#8

def pieceNat (l : List (Nat × List Byte)) (o n : Nat) : Nat := ofBytes ((List.range n).map fun i => pieceByte l (o + i))

/-- Why a load fails: its code and, for 0x04 and 0x05, the record. -/
structure LoadFail where
  code : Nat
  record : Option Nat := none
  deriving DecidableEq, Repr

/-- Record i: the bytes it writes at its image offset, or the code noted for it. -/
def relocOne (f : List Byte) (base : Nat) (addrs : List Nat) (pieces : List (Nat × List Byte)) (r : ObjReloc) : Except Nat (Nat × List Byte) :=
  let h := headerOf f
  let n := relocSize r.type
  if r.type = 0 ∨ 7 < r.type ∨ r.res14 ≠ 0 ∨ h.imageSize < r.off + n ∨ h.nsym ≤ r.sym then .error 5
  else
    let w := pieceNat pieces r.off n
    if (match relocForm r.type with | some x => decide (wordForm w ≠ x) | none => false) then .error 5
    else
      let got := (gotSymbols (relocsOf f h)).findIdx? fun x => decide (x = r.sym)
      let s := if isGotReloc r then base + h.gotOff + 8 * got.getD 0 else addrs.getD r.sym 0
      match relocField r.type ((s : Int) + r.addend) ((base + r.off : Nat) : Int) w with
      | some x => .ok (r.off, toBytes n x)
      | none => .error 4

/-- Every record in order: the writes, or the lowest noted record with its code. -/
def relocAll (f : List Byte) (base : Nat) (addrs : List Nat) (pieces : List (Nat × List Byte)) : List ObjReloc → Nat → Except LoadFail (List (Nat × List Byte))
  | [], _ => .ok []
  | r :: l, i =>
    match relocOne f base addrs pieces r with
    | .error c => .error { code := c, record := some i }
    | .ok w => (relocAll f base addrs pieces l (i + 1)).map (w :: ·)

/-- load(O, B) (07 R219): the bytes to write by address, or the failure; nothing is written unless every step succeeds. -/
def loadObject (f : List Byte) (base : Nat) (ext : List (List Byte × Nat)) : Except LoadFail (List (Nat × List Byte)) :=
  let h := headerOf f
  if !objectOk f then .error { code := 1 }
  else if !baseOk h base then .error { code := 2 }
  else if !tablesOk f then .error { code := 6 }
  else
    let known := (symbolsOf f h).map (symbolAddr f base ext)
    if known.any (·.isNone) then .error { code := 3 }
    else
      let addrs := known.map (·.getD 0)
      let rs := relocsOf f h
      let gots := gotSymbols rs
      if h.ngot < gots.length then .error { code := 6 }
      else
        let pieces := imagePieces f
        let table := gots.zipIdx.map fun x => (h.gotOff + 8 * x.2, toBytes 8 (addrs.getD x.1 0))
        (relocAll f base addrs pieces rs 0).map fun ws => (pieces ++ table ++ ws).map fun p => (base + p.1, p.2)

end Sys2Proof.Machine
end

