-- ==== Sys2Proof/Tests/Slice0.lean ====
section
/-! SUPPORT. The package's own tests: ill-formed terms are refused, words of the spec's worked encodings decode to their
instructions, results of the spec's worked examples, and for each statement states that meet its hypotheses. -/
namespace Sys2Proof.Tests
open Sys2Proof Sys2Proof.Machine Sys2Proof.Claims
set_option Elab.async false

/-! ### Well-formed instructions -/

def mem (off : Nat) (acq rel nf : Bool) (scope pol : Nat) : MemPfx := { off := off, acq := acq, rel := rel, nf := nf, scope := scope, pol := pol }
def ari (rnd pk : Nat) (uns hi : Bool) (sh : Nat) : ArithPfx := { rnd := rnd, pk := pk, uns := uns, hi := hi, sh := sh }
def ato (vb aop : Nat) (scope pol : Nat) (w64 scr : Bool) : AtomPfx :=
  { vb := vb, aop := aop, acq := false, rel := false, scope := scope, pol := pol, w64 := w64, scr := scr }

/-- One ill-formed term for each check on fields: reserved guard, register and immediate ranges, conditions, formats. -/
def badFields : List Instr :=
  [.vadd 8 0 0 0, .vadd 16 0 0 0, .vadd 0 128 0 0, .vadd 0 0 128 0, .vadd 0 0 0 128, .vaddi 0 0 0 128, .vimm 0 0 16384, .vbcast 0 0 64,
   .movsVector 0 0 16, .fcmp 0 8 1 0 0, .fcmp 0 0 8 0 0, .fcvt none 0 0 0 2 2, .fcvt none 0 0 0 8 0, .fcvt none 0 0 0 6 7, .sfn 0 0 0 13,
   .sfnSlot 0 0 0 16, .pand 0 8 0 0, .pmovgToPredicate 0 0 64, .shflIdx 0 0 0 32, .vred 0 0 0 6 0, .vred 0 0 0 0 3, .vscan 0 0 0 3 2, .vsetp 0 10 1 0 0]

def badUniform : List Instr :=
  [.gadd 64 0 0 0, .gadd 0 0 0 2, .gcmp 0 0 0 0 10, .gaddi 0 0 0 4096, .gshli 0 0 1 32, .gshli 0 0 0 64, .gcmpi 0 0 0 0 256, .ghi 0 1048576,
   .bru 65536, .bcc 6 0 0 0, .bcc 0 0 0 1024, .brx 0 16 0, .meld 8, .mmap 2 0 0, .mmap 0 16 0, .mmap 0 0 128, .bar 1 0, .bar 3 1, .bar 2 4,
   .waitc 32 0 0 0, .fenceRel 5, .movs 0 0, .movs 0 16, .movsw 0 4096, .cfgmode 6 0 0 0, .cfgmode 0 3 0 0, .trap 256, .sfload 0 16, .launch 64 0 0]

/-- One for each rule of a prefix: arithmetic fields that a form leaves zero, memory orders, scopes and policies, atomics. -/
def badPrefixes : List Instr :=
  [.vmul (some (ari 1 0 false false 0)) 0 0 0 0, .vmulh (ari 0 0 false false 0) 0 0 0 0, .vmin (some (ari 0 1 false false 0)) 0 0 0 0,
   .vlea (some (ari 0 0 true false 0)) 0 0 0 0, .vlea (some (ari 0 0 false false 4)) 0 0 0 0, .fadd (some (ari 6 0 false false 0)) 0 0 0 0,
   .fadd (some (ari 0 3 false false 0)) 0 0 0 0, .fmin (some (ari 1 0 false false 0)) 0 0 0 0, .fcvt (some (ari 1 1 false false 0)) 0 0 0 0 2,
   .vld (some (mem 65536 false false false 0 0)) 0 0 0 0 0, .vld (some (mem 0 false false false 1 0)) 0 0 0 0 0,
   .vld (some (mem 0 true false false 5 0)) 0 0 0 0 0, .vst (some (mem 0 true false false 0 0)) 0 0 0 0 0, .vst (some (mem 0 false false true 0 0)) 0 0 0 0 0,
   .pgreq (some (mem 0 false false true 0 0)) 0 0 0 0, .pgreq (some (mem 0 false false false 0 1)) 0 0 0 0, .sld (some (mem 0 true false false 2 0)) 0 0 0 0,
   .sld (some (mem 0 false false false 0 3)) 0 0 0 0, .sld (some (mem 0 false false true 0 0)) 0 0 0 0, .sldFe (mem 0 false false false 0 0) 0 0 0 0,
   .sst (some (mem 0 true false false 0 0)) 0 0 0 0, .sclr (some (mem 0 false false false 0 1)) 0 0 0 0, .gld none 0 0 0 4 0, .gld none 0 0 0 3 1,
   .gst none 0 0 0 4, .gatom none 0 0 0 13 0 0, .gatom none 0 0 0 10 1 0, .gatom (some (mem 0 true false false 2 0)) 0 0 0 0 0 1,
   .vatom (ato 0 13 0 0 false false) 0 0 0 0 0, .vatom (ato 0 10 0 0 true false) 0 0 0 0 0, .vatom (ato 0 0 0 1 false true) 0 0 0 0 0]

def badEngines : List Instr :=
  [.cpyLin 64 0 0 0, .cpyLin 0 0 0 2, .binit 0 0 2, .bwait 64 0 0, .btest 64 0 0 0, .shfence 64, .tmap 16 0, .mma 8 0 0 0 0, .mmas 0 16 0 0 0 0,
   .cmma 0 0 0 64, .accz 8 0, .accin 0 16 0, .accout 0 0 64 0, .accmov 8 0, .trowSum 64 0 0 0, .march 64 0 0 0, .fprep 0 0 64 0, .boxt 0 64,
   .stkpush 0 64 0, .draw 64 0 0 0, .depthw 64 0 0, .nbin 0 64 0 0, .nstat 64 0 0]

theorem test_bad_fields_refused : badFields.all (fun i => !i.wf) = true := by decide
theorem test_bad_uniform_refused : badUniform.all (fun i => !i.wf) = true := by decide
theorem test_bad_prefixes_refused : badPrefixes.all (fun i => !i.wf) = true := by decide
theorem test_bad_engines_refused : badEngines.all (fun i => !i.wf) = true := by decide

/-! ### Words of the spec's worked encodings -/

/-- The words, bit fields as the spec writes them, decode to the instruction beside them. -/
def decodes (p : List Nat × Instr) : Bool := match decode (p.1.getD 0 0) (p.1.getD 1 0) with | .ok i => decide (i = p.2) | .error _ => false

/-- 07, worked encodings of the lane set. -/
def laneWords : List (List Nat × Instr) :=
  [([0b0000000_0000_0001011_0000101_0000110], .vadd 0 11 5 6), ([0x01614307], .vadd 11 5 6 7), ([0x5E044205], .vsetp 0 2 1 4 5), ([0x54018370], .shflXor 0 6 6 16), ([0x5A01C302], .vred 0 7 6 0 2),
   ([0x1E00C005], .movsVector 0 3 0), ([0x20014307], .fadd none 0 5 6 7), ([0x7FA00000, 0x20014307], .fadd (some (ari 2 0 false false 0)) 0 5 6 7),
   ([0x2C048205], .fcmp 0 2 2 4 5), ([0x7FD00000, 0x30020490], .fcvt (some (ari 5 0 false false 0)) 0 8 9 2 0), ([0x4002860E], .iadd 0 10 12 14),
   ([0x4E050B00], .isq 0 20 22), ([0x4E00C123], .sfn 0 3 2 3), ([0x7F090000, 0x6C010110], .vatom (ato 9 0 0 0 false false) 0 4 2 8 0),
   ([0x7F099180, 0x6C010111], .vatom (ato 9 9 3 0 false false) 0 4 2 8 1), ([0x7E004022, 0x70020181], .sldFeClr (mem 64 false false true 0 2) 0 8 3 0),
   ([0x6E014094], .pgreq none 0 5 1 10)]

/-- 07, 08, 09 and 18, worked encodings of the uniform set. -/
def uniformWords : List (List Nat × Instr) :=
  [([0x80182100], .gadd 3 1 2 0), ([0x80182140], .gadd 3 1 2 1), ([0x82514005], .gaddi 10 10 0 5), ([0xA28417FD], .bcc 2 4 5 1021), ([0xA6400006], .br 2 6),
   ([0xB0000000], .exit 0), ([0xB8006000], .meld 3), ([0xBA135000], .mmap 1 3 40), ([0xB8000001], .mend), ([0xC0120000], .bar 2 1), ([0xC20FFFE0], .waitc 0 31 31 31),
   ([0xC4B00000], .fenceRel 3), ([0xC6280820], .movs 5 0x820), ([0xCA000540], .cfgmode 2 2 1 0), ([0xCC000121], .trap 0x21), ([0xCC000300], .eret),
   ([0xCC028503], .sfload 20 3), ([0xD428C384], .gatom none 5 6 7 0 1 0)]

/-- 10 to 14, worked encodings of the engines. -/
def engineWords : List (List Nat × Instr) :=
  [([0xE020A440], .cpyLin 4 5 8 1), ([0xE600C381], .bwait 6 7 1), ([0xEA012000], .shfence 9), ([0xF00C0A00], .tmap 3 10), ([0xF2004904], .mma 0 0 1 9 1),
   ([0xF248C90D], .mmas 1 2 3 9 1 1), ([0xF2004906], .cmma 0 0 1 9), ([0xF4C00C00], .accz 3 12), ([0xF4D00C01], .accin 3 4 12), ([0xF4D00E0A], .accout 3 4 14 1),
   ([0xF500C003], .accmov 4 3), ([0xF620A442], .trowSmax 4 5 8 1), ([0xF8408540], .march 8 4 10 1), ([0xF8408501], .marchIv 8 4 10 0), ([0xF8808542], .mresume 16 4 10 1),
   ([0xF8A08543], .fprep 20 4 10 1), ([0xF8400008], .boxt 8 0), ([0xF8400389], .trit 8 7), ([0xF811800A], .stkpush 2 12 0), ([0xF811800B], .stkpop 2 12 0),
   ([0xF820A350], .draw 4 5 6 1), ([0xF820A011], .depthw 4 5 0), ([0xF820A458], .nbin 4 5 8 1), ([0xF820C459], .npairs 4 6 8 1), ([0xF818829A], .nstat 3 4 5)]

theorem test_lane_words : laneWords.all decodes = true := by decide
theorem test_uniform_words : uniformWords.all decodes = true := by decide
theorem test_engine_words : engineWords.all decodes = true := by decide

/-- 07 R195: guard 8 is reserved; 07 R209: opcode 0x1A is assigned to nothing. -/
theorem test_guard_eight : decode 0x01000000 0 = .error .guardReserved := by decide
theorem test_unassigned : decode (0x1A * 2 ^ 25) 0 = .error .opcodeUnassigned := by decide


/-! ### A small state -/

/-- One skein of one crew in context 0, whose first GiB is mapped (log entry 4). -/
def base : State := { State.reset.withFetchWord 32 0 with gtime := 1000 }
def onK (f : Skein → Skein) (s : State) : State := { s with k := f s.k }
def onCrew (f : Crew → Crew) (s : State) : State := { s with crew := f s.crew }
def setG (n x : Nat) (s : State) : State := onK (wrG n (nat64 x)) s
/-- Register n of every lane holds f of the lane. -/
def setV (n : Nat) (f : Nat → Nat) (s : State) : State := onK (fun k => { k with v := putV 0xFFFFFFFF#32 (fun _ => n) (fun L => nat32 (f L)) k.v }) s
def setP (n x : Nat) (s : State) : State := onK (wrP n (nat32 x)) s
def setMem (a : Nat) (l : List Byte) (s : State) : State := modHm (fun h => { h with mem := setBytes h.mem a l }) s
def setWin (a : Nat) (l : List Byte) (s : State) : State := onCrew (fun c => { c with win := putRange 0#8 c.win a l }) s
/-- One lane only. -/
def lane0 (s : State) : State := onK (fun k => { k with e := { k.e with mask := 1#32 } }) s

def nextIs (o : Out) (p : State → Bool) : Bool := match o with | .next t => p t | _ => false
/-- A result that answers, with a property of what it answers. -/
def okIs {α : Type} (x : Res α) (p : α → Bool) : Bool := match x with | .ok a => p a | .error _ => false

/-- A value that is there, with a property. -/
def optIs {α : Type} (x : Option α) (p : α → Bool) : Bool := match x with | some a => p a | none => false

theorem some_of {α : Type} {x : Option α} {p : α → Bool} (h : optIs x p = true) : ∃ a, x = some a ∧ p a = true := by
  unfold optIs at h
  split at h
  · exact ⟨_, rfl, h⟩
  · cases h

theorem ok_of {α : Type} {x : Res α} {p : α → Bool} (h : okIs x p = true) : ∃ a, x = .ok a ∧ p a = true := by
  unfold okIs at h
  split at h
  · exact ⟨_, rfl, h⟩
  · cases h

/-- The decision of `Passes`. -/
def passes (r : Req) (s : State) : Bool := decide (check r s = none) && (!r.stores || decide (storeCount s < 255)) && !heldHit r s

theorem passes_of {r : Req} {s : State} (h : passes r s = true) : Passes r s := by
  simp only [passes, Bool.and_eq_true, decide_eq_true_eq, Bool.or_eq_true, Bool.not_eq_eq_eq_not, Bool.not_true] at h
  refine ⟨h.1.1, fun hs => ?_, h.2⟩
  rcases h.1.2 with h1 | h1
  · rw [hs] at h1; cases h1
  · exact h1

/-! ### Results of the spec's worked examples -/

/-- 08 R230: lane 0 holds 2^24 and the others 1.0; the exact sum rounds to 0x4B800010, and the scan is as listed. -/
def sums : State := setV 6 (fun L => if L = 0 then 0x4B800000 else 0x3F800000) base
theorem test_vred_exact : nextIs (exec (.vred 0 7 6 0 2) sums) (fun t => decide (getV t.k.v 7 31 = 0x4B800010#32)) = true := by decide +kernel
theorem test_vscan_exact :
    nextIs (exec (.vscan 0 7 6 0 2) sums) (fun t => [(0, 0x4B800000#32), (1, 0x4B800000#32), (2, 0x4B800001#32), (3, 0x4B800002#32), (31, 0x4B800010#32)].all
      fun p => decide (getV t.k.v 7 p.1 = p.2)) = true := by decide +kernel

/-- 09 R268: the examples of the interval instructions, as pairs of bounds. -/
def itv (d x y : Nat) (s : State) : State := setV d (fun _ => x) (setV (d + 1) (fun _ => y) s)
def pairIs (d x y : Nat) (t : State) : Bool := decide (getV t.k.v d 0 = nat32 x) && decide (getV t.k.v (d + 1) 0 = nat32 y)
theorem test_iadd : nextIs (exec (.iadd 0 0 2 4) (itv 2 0x3F800000 0x3F800000 (itv 4 0x33800000 0x33800000 (lane0 base)))) (pairIs 0 0x3F800000 0x3F800001) = true := by decide +kernel
theorem test_imul_zero_line : nextIs (exec (.imul 0 0 2 4) (itv 2 0 0 (itv 4 0xFF800000 0x7F800000 (lane0 base)))) (pairIs 0 0 0) = true := by decide +kernel
theorem test_iadd_line : nextIs (exec (.iadd 0 0 2 4) (itv 2 0x7F800000 0x7F800000 (itv 4 0xFF800000 0 (lane0 base))))
    (fun t => pairIs 0 0xFF800000 0x7F800000 t && !t.k.fmode.getLsbD 5) = true := by decide +kernel
theorem test_isq : nextIs (exec (.isq 0 0 2) (itv 2 0xC0400000 0x40000000 (lane0 base))) (pairIs 0 0 0x41100000) = true := by decide +kernel

/-- 08 R231: the corners of division. -/
theorem test_div_by_zero : nextIs (exec (.gdiv 3 1 2 0) (setG 1 7 base)) (fun t => decide (rdG t.k 3 = BitVec.allOnes 64)) = true := by decide +kernel
theorem test_rem_by_zero : nextIs (exec (.gremN 3 1 2 1) (setG 1 7 base)) (fun t => decide (rdG t.k 3 = 7#64)) = true := by decide +kernel
theorem test_div_overflow : nextIs (exec (.gdiv 3 1 2 0) (setG 1 (2 ^ 63) (setG 2 (2 ^ 64 - 1) base))) (fun t => decide (rdG t.k 3 = BitVec.ofNat 64 (2 ^ 63))) = true := by decide +kernel
theorem test_gadd_w32 : nextIs (exec (.gadd 3 1 2 1) (setG 1 0x7FFFFFFF (setG 2 1 base))) (fun t => decide (rdG t.k 3 = 0xFFFFFFFF80000000#64)) = true := by decide +kernel
/-- 08 R223: the absolute value of the most negative number, and a source that is also the destination. -/
theorem test_vabs : nextIs (exec (.vabs 0 2 2) (setV 2 (fun _ => 2 ^ 31) (lane0 base))) (fun t => decide (getV t.k.v 2 0 = 0x80000000#32)) = true := by decide +kernel
theorem test_vcvti : nextIs (exec (.vcvtiI8I32 0 3 2) (setV 2 (fun _ => 200) (lane0 base))) (fun t => decide (getV t.k.v 3 0 = 127#32)) = true := by decide +kernel
/-- 08 R228: a shuffle past the last lane keeps the lane's own value. -/
theorem test_shfl_down : nextIs (exec (.shflDown 0 3 2 1) (setV 2 (fun L => L) base)) (fun t => decide (getV t.k.v 3 0 = 1#32) && decide (getV t.k.v 3 31 = 31#32)) = true := by decide +kernel
/-- 18 R450: an unprivileged read of MGSTAT takes the privilege trap, cause 0x02; without a handler the context is killed with its code. -/
theorem test_privileged_read :
    nextIs (step (State.reset.withFetchWord 32 0xC6280820)) (fun t => decide (nb (ctxTrap t 0) 15 8 = 2) && !t.crew.live) = true := by decide +kernel
/-- 07 R201: a first instruction after reset, gadd g3, g0, g0 then the next word. -/
theorem test_first_step : nextIs (step (State.reset.withFetchWord 32 0x80180000)) (fun t => decide (t.k.e.pc = 0x100004#64)) = true := by decide +kernel
/-- 08 R250: trap 0x21 without a handler is fatal. -/
theorem test_trap_no_handler : nextIs (exec (.trap 0x21) base) (fun t => decide (nb (ctxTrap t 0) 15 8 = 0x12)) = true := by decide +kernel

/-! ### States that meet the hypotheses: registers, predicates, floating point -/

/-- The first and the last register of the allotment, under the last guard value. -/
theorem witness_LaneIntegerResults :
    (Instr.vadd 15 127 0 127).wf = true ∧ ∃ r, laneRow (.vadd 15 127 0 127) = some r ∧ Passes r.req base :=
  ⟨by decide, _, rfl, passes_of (by decide +kernel)⟩

/-- A prefixed pair at its extreme values. -/
theorem witness_LaneIntegerResults_pair :
    (Instr.vlea (some (ari 0 0 false false 3)) 0 0 1 2).wf = true ∧
      ∃ r, laneRow (.vlea (some (ari 0 0 false false 3)) 0 0 1 2) = some r ∧ Passes r.req base :=
  ⟨by decide, _, rfl, passes_of (by decide +kernel)⟩

/-- g0 as the destination, and the last immediate. -/
theorem witness_UniformIntegerResults :
    (Instr.gaddi 0 63 1 4095).wf = true ∧ ∃ d f, uniformRow (.gaddi 0 63 1 4095) = some (d, f) ∧ Passes {} base :=
  ⟨by decide, _, _, rfl, passes_of (by decide +kernel)⟩

theorem witness_PredicateResults :
    ((Instr.vsetp 0 9 0 127 127).wf = true ∧ ∃ r, predRow (.vsetp 0 9 0 127 127) = some r ∧ Passes r.req base) ∧
    ((Instr.voteBallot 9 0 7).wf = true ∧ Passes { full := true } base) ∧ ((Instr.pmovgToUniform 0 0 63).wf = true ∧ Passes { full := false } base) ∧
    ((Instr.vsel 15 0 1 127).wf = true ∧ Passes { vs := [(0, 1), (1, 1), (127, 1)] } base) :=
  ⟨⟨by decide, _, rfl, passes_of (by decide +kernel)⟩, ⟨by decide, passes_of (by decide +kernel)⟩, ⟨by decide, passes_of (by decide +kernel)⟩,
    by decide, passes_of (by decide +kernel)⟩

theorem witness_ShuffleResults :
    (Instr.shflDown 0 1 2 31).wf = true ∧ ∃ q g d a src, shuffleRow (.shflDown 0 1 2 31) = some (q, g, d, a, src) ∧ Passes q base :=
  ⟨by decide, _, _, _, _, _, rfl, passes_of (by decide +kernel)⟩

/-- The integer type and FP32. -/
theorem witness_ReductionResults :
    ((Instr.vred 0 1 2 5 1).wf = true ∧ reduceRow (.vred 0 1 2 5 1) = some (0, 1, 2, 5, 1, false)) ∧
    ((Instr.vscan 0 1 2 2 2).wf = true ∧ reduceRow (.vscan 0 1 2 2 2) = some (0, 1, 2, 2, 2, true)) ∧
    Passes { vs := [(1, 1), (2, 1)], full := true } base :=
  ⟨⟨by decide, rfl⟩, ⟨by decide, rfl⟩, passes_of (by decide +kernel)⟩

/-- With stochastic rounding, and for the rows without flags. -/
theorem witness_FloatResults :
    ((Instr.fadd (some (ari 5 2 false false 0)) 0 0 1 127).wf = true ∧
      ∃ r, floatRow base (.fadd (some (ari 5 2 false false 0)) 0 0 1 127) = some r ∧ Passes r.req base) ∧
    ((Instr.fmax (some (ari 0 1 false false 0)) 0 0 1 2).wf = true ∧
      ∃ r, floatQuietRow (.fmax (some (ari 0 1 false false 0)) 0 0 1 2) = some r ∧ Passes r.req base) ∧
    ((Instr.fcmp 0 7 0 1 2).wf = true ∧ Passes { vs := [(1, 1), (2, 1)] } base) :=
  ⟨⟨by decide, _, rfl, passes_of (by decide +kernel)⟩, ⟨by decide, _, rfl, passes_of (by decide +kernel)⟩, by decide, passes_of (by decide +kernel)⟩

theorem witness_IntervalResults :
    ((Instr.ihull 0 126 2 4).wf = true ∧ ∃ a b h op, intervalTwo (.ihull 0 126 2 4) = some (0, 126, a, b, h, op) ∧
      Passes { vs := [(126, 2), (a, 2), (b, 2)] } base) ∧
    ((Instr.isq 0 0 2).wf = true ∧ ∃ a op, intervalOne (.isq 0 0 2) = some (0, 0, a, op) ∧ Passes { vs := [(0, 2), (a, 2)] } base) :=
  ⟨⟨by decide, _, _, _, _, rfl, passes_of (by decide +kernel)⟩, by decide, _, _, rfl, passes_of (by decide +kernel)⟩

/-! ### Control -/

/-- The last lane of a skein. -/
theorem witness_EntriesKeepTheirLanes : 31 < 32 ∧ Stands base.k 31 0x100000#64 := ⟨by decide, _, List.mem_cons_self, by decide +kernel⟩
theorem witness_NextWordFrame : 31 < 32 ∧ laneOn base.k.e.mask 31 = true := ⟨by decide, by decide +kernel⟩

def withLink : State := setG 63 0x100000 base
/-- Lane 0 alone has the bit of p1. -/
def oneBit : State := setP 1 1 base

/-- A register target, a word target, an exit that leaves lanes, and one of the last lanes. -/
theorem witness_ControlCompletes :
    ((Instr.ret 63).wf = true ∧ ∃ t, branchTo withLink.k (.ret 63) = some t ∧ Passes plainControl withLink ∧ t.toNat % 4 = 0) ∧
    ((Instr.bru 0x8000).wf = true ∧ ∃ t, branchTo base.k (.bru 0x8000) = some t ∧ Passes plainControl base) ∧
    ((Instr.br 1 0xFFFF).wf = true ∧ Passes divergent oneBit ∧ liveMask oneBit.k &&& ~~~ active oneBit.k 1 ≠ 0#32) ∧
    ((Instr.br 0 0).wf = true ∧ Passes divergent base ∧ base.k.e.mask &&& ~~~ active base.k 0 = 0#32 ∧ (∀ e ∈ base.k.rest, e.mask = 0#32) ∧
      (base.sch.tracker.filter fun t => decide (t.core = base.crew.core)).length < 32) :=
  ⟨⟨by decide, _, rfl, passes_of (by decide +kernel), by decide +kernel⟩, ⟨by decide, _, rfl, passes_of (by decide +kernel)⟩,
    ⟨by decide, passes_of (by decide +kernel), by decide +kernel⟩, by decide, passes_of (by decide +kernel), by decide +kernel⟩

/-- A crew with a basket role of eight registers in role 1. -/
def spawner : State :=
  onCrew (fun c => { c with lrec := { c.lrec with flags := 0x540, alloc := 0x10840, roles := [{ skeins := 1, regs := 128, mode := 4 }, { skeins := 1, regs := 8, mode := 0 }, {}, {}] } }) oneBit

/-- A spawn of one lane, brx with both sides, with no lane leaving and with every lane leaving. -/
theorem witness_SpawnCompletes :
    (Instr.spawn 1 7 0).wf = true ∧ (Passes (spawning 7 true) spawner ∧ Passes (spawning 7 false) spawner) ∧ maySpawn 7 spawner ∧
    (writeRecs (recordsOf 0 7 (wordTarget 16 0 spawner.k.e.pc) (active spawner.k 1) spawner.k) spawner).isSome = true ∧
    (active spawner.k 1 ≠ 0#32 ∧ spawner.k.e.mask &&& ~~~ active spawner.k 1 ≠ 0#32 ∧
      (writeRecs (recordsOf 1 7 (brxEnds spawner.k 1 0).2.1 (brxEnds spawner.k 1 0).1 spawner.k) spawner).isSome = true) ∧
    active spawner.k 2 = 0#32 ∧ (active spawner.k 0 ≠ 0#32 ∧ spawner.k.e.mask &&& ~~~ active spawner.k 0 = 0#32) :=
  ⟨by decide, ⟨passes_of (by decide +kernel), passes_of (by decide +kernel)⟩, by unfold maySpawn; decide +kernel, by decide +kernel,
    by decide +kernel, by decide +kernel⟩

def inRegion (st : MeldSt) (words : Nat) : State :=
  onK (fun k => { k with meld := { st := st, path := 1#32, addr := 0x100000#64, words := words, ta := ownNames, tb := ownNames } }) base
def inBracket : State := onK (fun k => { k with bracket := some (0x100000#64, 3#32) }) base

theorem witness_ControlTraps :
    (∃ t, branchTo (setG 63 2 base).k (.ret 63) = some t ∧ fromRegister (.ret 63) = true ∧ Passes plainControl (setG 63 2 base) ∧ t.toNat % 4 ≠ 0) ∧
    (forbiddenInRegion .yield = true ∧ (inRegion .opened 1).k.meld.st ≠ .closed) :=
  ⟨⟨_, rfl, rfl, passes_of (by decide +kernel), by decide +kernel⟩, rfl, by decide +kernel⟩

/-- The last word that a region may have, and the last mapping. -/
theorem witness_RegionsComplete :
    base.k.meld.st = .closed ∧ roomInRegion (inRegion .opened 1022).k ∧
    (1 < 2 ∧ roomInRegion (inRegion .mapping 1022).k ∧ (inRegion .mapping 1022).k.meld.st = .mapping ∧ 127 < (inRegion .mapping 1022).k.regs) ∧
    (Passes plainControl base ∧ base.k.bracket = none) ∧ (Passes plainControl inBracket ∧ inBracket.k.bracket = some (0x100000#64, 3#32)) :=
  ⟨by decide +kernel, by unfold roomInRegion; decide +kernel, ⟨by decide, by unfold roomInRegion; decide +kernel, by decide +kernel⟩,
    ⟨passes_of (by decide +kernel), by decide +kernel⟩, passes_of (by decide +kernel), by decide +kernel⟩

/-- A wait for an arrival whose generation is over. -/
def arrived : State := onCrew (fun c => { c with bars := [(0, { gen := 1 })] }) (onK (fun k => { k with arrivals := [{ level := 2, b := 0, gen := 0, at_ := none }] }) base)

/-- A full form by the crew's only skein: its arrival completes the phase. -/
theorem witness_BarrierFormsComplete :
    (barUndeclared 2 3 base = false ∧ check plainControl base = none ∧ wholeSkein base ∧ myArrival base.k 2 3 = none ∧
      releaseDone (barScope base.crew 2) base = true ∧ releaseDone (barScope base.crew 2) (standAt 2 3 base) = true ∧
      (∃ a, myArrival (arriveAt 2 3 (some base.k.e.pc) (standAt 2 3 base)).k 2 3 = some a ∧
        phaseOver a (arriveAt 2 3 (some base.k.e.pc) (standAt 2 3 base)) = true)) ∧
    (barUndeclared 2 0 arrived = false ∧ check plainControl arrived = none ∧ wholeSkein arrived ∧
      ∃ a, myArrival arrived.k 2 0 = some a ∧ phaseOver a (standAt 2 0 arrived) = true) :=
  ⟨⟨by decide +kernel, by decide +kernel, by unfold wholeSkein; decide +kernel, by decide +kernel, by decide +kernel, by decide +kernel, _, rfl, by decide +kernel⟩,
    by decide +kernel, by decide +kernel, by unfold wholeSkein; decide +kernel, _, rfl, by decide +kernel⟩

def faulty : State := onCrew (fun c => { c with defStores := [{ cause := 4, va := 8#64, pc := 0#64, sid := 0 }] }) base

def waitsParked : State :=
  { onCrew (fun c => { c with restored := true }) base with
    hm := { base.hm with parked := [{ sn := 1, uid := 99, cuid := base.crew.uid, core := 0, ctx := 0, sid := 1, pc := 0#64, page := 0, size := 65536,
                                      cells := [(0, 1#8)], since := 0 }] } }

theorem witness_CountsAndFences :
    (Passes {} base ∧ storeCount base ≤ 0 ∧ copyCount base ≤ 0 ∧ tileCount base ≤ 0 ∧ releaseDone 4 base = true ∧ crewParked base = false ∧
      base.crew.defStores = []) ∧
    (Passes {} waitsParked ∧ crewParked waitsParked = true) ∧
    (Passes {} faulty ∧ crewParked faulty = false ∧ ∃ d, faulty.crew.defStores = d :: [] ∧ faulty.k.handler = false) :=
  ⟨⟨passes_of (by decide +kernel), by decide +kernel⟩,
    ⟨passes_of (by decide +kernel), by decide +kernel⟩, passes_of (by decide +kernel), by decide +kernel, _, rfl, by decide +kernel⟩

def priv : State := { base with privCtx := [0] }

/-- The last unprivileged number, the context's own last register, a frame for a stack that lies in memory and for one that does not, a write of
FMODE, a gang of the one skein. -/
theorem witness_SpecialRegistersComplete :
    (15 < 0x800 ∧ Passes {} base) ∧ (specialTrap 0x907 priv = none ∧ viewIndex priv.crew.ctx 0x907 = some 0x1007 ∧ Passes {} priv) ∧
    (specialTrap 0x80A priv = none ∧ viewIndex priv.crew.ctx 0x80A = some 0xA ∧ viewMemory 0xA 0#64 priv = true ∧
      viewMemory 0xA 0#64 (setPreg (frmIdx 0) (nat64 (2 ^ 47)) priv) = false) ∧
    (Passes { vs := [(127, 1)] } base) ∧ isPriv priv = true ∧
    (let s := setG 1 1 base
     let l := (List.range 64).filter fun i => (rdG s.k 1).toNat.testBit i
     l.length ≤ 6 ∧ (∀ i ∈ l, i < skeinTotal s.crew.lrec) ∧
       gangOk (nat64 (l.length * 2 ^ 36 + ((List.range l.length).map fun j => l.getD j 0 * 2 ^ (6 * j)).sum)) s = true) :=
  ⟨⟨by decide, passes_of (by decide +kernel)⟩, ⟨by decide +kernel, by decide +kernel, passes_of (by decide +kernel)⟩, by decide +kernel,
    passes_of (by decide +kernel), by decide +kernel, by decide +kernel⟩

theorem witness_ModeRegisterFields : (Instr.cfgmode 5 2 1 1).wf = true ∧ Passes {} base := ⟨by decide, passes_of (by decide +kernel)⟩

/-! ### States that meet the hypotheses: memory, scratch, objects -/

/-- The decision of `Readable`. -/
def readable (row : LoadRow) (s : State) : Bool :=
  okIs (resolve .read (plainLoad row.pfx) (if nfOf row.pfx = true then none else some 1) row.n row.acc s) fun x =>
    x.1.all fun a => decide (badWord s a = none) && (hostParts a.spans).all fun y => decide (hostStatus (skeinReader s.k) s y = some 0)

theorem readable_of {row : LoadRow} {s : State} (h : readable row s = true) : ∃ r, Readable row s r := by
  obtain ⟨a, ha, hp⟩ := ok_of h
  refine ⟨a.1, ⟨a.2, ha⟩, fun x hx => ?_, fun x hx => ?_⟩
  · exact of_decide_eq_true (Bool.and_eq_true _ _ |>.mp (List.all_eq_true.mp hp x hx)).1
  · intro y hy
    exact of_decide_eq_true (List.all_eq_true.mp (Bool.and_eq_true _ _ |>.mp (List.all_eq_true.mp hp x hx)).2 y hy)

/-- g3 names an address near the end of a 64 KiB part, and register 1 holds offsets. -/
def loads : State := setV 1 (fun L => 8 * L) (setG 3 0x20FFFD base)

/-- A misaligned load of pairs across a part, with acquire and release, and a uniform load of the last bytes of a page. -/
theorem witness_LoadResults :
    (let i := Instr.vldN64 (some (mem 0xFFFF true true false 4 3)) 0 126 1 3 0
     i.wf = true ∧ ∃ row r, loadRow loads.k i = some row ∧ Passes row.req loads ∧ released true 4 loads ∧ Readable row loads r) ∧
    (let s := setG 3 0x3FFFFFF8 base
     (Instr.gld none 0 3 0 3 0).wf = true ∧ ∃ row r, loadRow s.k (.gld none 0 3 0 3 0) = some row ∧ Passes row.req s ∧ released false 0 s ∧ Readable row s r) := by
  refine ⟨⟨by decide, ?_⟩, by decide, ?_⟩
  · obtain ⟨r, hr⟩ := readable_of (row := ⟨some (mem 0xFFFF true true false 4 3), 8, laneAccesses (some (mem 0xFFFF true true false 4 3)) loads.k 0 1 3 1,
        { len := 2, vs := [(126, 2), (1, 1)] }⟩) (s := loads) (by decide +kernel)
    exact ⟨_, r, rfl, passes_of (by decide +kernel), fun _ => by decide +kernel, hr⟩
  · obtain ⟨r, hr⟩ := readable_of (row := ⟨none, 8, [(0xFF, uniformAddr none (setG 3 0x3FFFFFF8 base).k 3 0)], { len := 1 }⟩) (s := setG 3 0x3FFFFFF8 base) (by decide +kernel)
    exact ⟨_, r, rfl, passes_of (by decide +kernel), fun h => absurd h (by decide), hr⟩

/-- The decision of `Writable` for a crew without merge ranges. -/
def writable (row : StoreRow) (s : State) : Bool :=
  okIs (checkLanes .write false row.n row.acc s) (fun x => x.1.all fun a => decide (a.fault = none) && a.spans.all fun sp => !sp.absent) && s.crew.mergeRanges.isEmpty && s.hm.parked.isEmpty

theorem writable_of {row : StoreRow} {s : State} (h : writable row s = true) : ∃ r, Writable row s r := by
  simp only [writable, Bool.and_eq_true, List.isEmpty_iff] at h
  obtain ⟨a, ha, hp⟩ := ok_of h.1.1
  refine ⟨a.1, ⟨a.2, ha⟩, fun x hx => ?_, fun va _ i _ => by simp [inMerge, h.1.2, h.2]⟩
  have hq := List.all_eq_true.mp hp x hx
  simp only [Bool.and_eq_true, decide_eq_true_eq, List.all_eq_true, Bool.not_eq_eq_eq_not, Bool.not_true] at hq
  exact hq

/-- Lanes that overlap each other, across a part. -/
theorem witness_StoreResults :
    (Instr.vstN64 none 0 0 1 3 0).wf = true ∧ ∃ row r, storeRow loads.k (.vstN64 none 0 0 1 3 0) = some row ∧ Passes row.req loads ∧
      released (relOf row.pfx) (scopeOf row.pfx) loads ∧ Writable row loads r := by
  refine ⟨by decide, ?_⟩
  obtain ⟨r, hr⟩ := writable_of (row := ⟨none, 8, laneAccesses none loads.k 0 1 3 1, fun L => littleEndian 8 (rdV2 loads.k 0 L).toNat,
    { len := 1, vs := [(0, 2), (1, 1)], stores := true }⟩) (s := loads) (by decide +kernel)
  exact ⟨_, r, rfl, passes_of (by decide +kernel), fun h => absurd h (by decide), hr⟩

/-- A 64-bit atomic of every lane in memory, and one in scratch. -/
theorem witness_AtomicResults :
    (let s := setV 4 (fun L => 8 * L) (setG 3 0x200000 base)
     let i := Instr.vatom (ato 6 9 0 0 true false) 0 2 4 3 0
     i.wf = true ∧ ∃ row u old, atomicRow s.k i = some row ∧ Passes row.req s ∧ released row.rel row.scope s ∧ Atomics row s u old) ∧
    (let s := setG 3 0x3FFFC base
     let i := Instr.gatom none 2 3 4 7 0 1
     i.wf = true ∧ ∃ row u old, atomicRow s.k i = some row ∧ Passes row.req s ∧ released row.rel row.scope s ∧ Atomics row s u old) := by
  refine ⟨⟨by decide, ?_⟩, by decide, ?_⟩
  · have h : okIs (atomicLanes 9 8 false (atomicLanesOf ((atomicRow (setV 4 (fun L => 8 * L) (setG 3 0x200000 base)).k (.vatom (ato 6 9 0 0 true false) 0 2 4 3 0)).getD
        ⟨false, false, 0, false, 0, 0, 0, [], {}⟩)) (setV 4 (fun L => 8 * L) (setG 3 0x200000 base))) (fun _ => true) = true := by decide +kernel
    obtain ⟨a, ha, -⟩ := ok_of h
    exact ⟨_, a.2, a.1, rfl, passes_of (by decide +kernel), fun h => absurd h (by decide), ha⟩
  · have h : okIs (scrAtomic 7 4 false (((atomicRow (setG 3 0x3FFFC base).k (.gatom none 2 3 4 7 0 1)).getD ⟨false, false, 0, false, 0, 0, 0, [], {}⟩).lanes)
        (setG 3 0x3FFFC base)) (fun _ => true) = true := by decide +kernel
    obtain ⟨a, ha, -⟩ := ok_of h
    exact ⟨_, a.2, a.1, rfl, passes_of (by decide +kernel), fun h => absurd h (by decide), ha⟩

/-- The last word of the window. -/
theorem witness_ScratchAtomicUpdatesItsWord :
    (0 : Int) ≤ 0x3FFF8 ∧ (0x3FFF8 : Int) % (8 : Nat) = 0 ∧ (0x3FFF8 : Int) + (8 : Nat) ≤ (4096 * nb base.crew.lrec.alloc 6 0 : Nat) ∧
      2 ^ 64 - 1 < 2 ^ (8 * 8) ∧ ∀ i < 8, ((0x3FFF8 : Int).toNat + i) / 8 ∉ base.crew.winBad := by decide +kernel

/-- Quads at the end of the window; one lane whose granule is full, and one whose granule is not. -/
def scratch : State := setG 3 0x3FFF0 (lane0 base)
def filled : State := onCrew (fun c => { c with fe := [0] }) (lane0 base)

theorem witness_ScratchLoadResults :
    (let x := some (mem 0 false false false 0 2)
     (Instr.sld x 0 124 1 3).wf = true ∧ Passes { len := words x, vs := [(124, scratchWidth x), (1, 1)] } scratch ∧ released (relOf x) (scopeOf x) scratch ∧
      inWindow (scratchAccesses x scratch.k 0 1 3) (4 * scratchWidth x) scratch ∧ sound (scratchAccesses x scratch.k 0 1 3) (4 * scratchWidth x) scratch) ∧
    (let x := mem 0 false false true 0 0
     let l := scratchAccesses (some x) filled.k 0 1 3
     (Instr.sldFe x 0 2 1 3).wf = true ∧ Passes { len := 2, vs := [(2, scratchWidth (some x)), (1, 1)] } filled ∧ released x.rel x.scope filled ∧
      inWindow l (4 * scratchWidth (some x)) filled ∧ sound l (4 * scratchWidth (some x)) filled ∧ filled.k.wait = none ∧
      ∀ G, touches l (4 * scratchWidth (some x)) G → isFull filled.crew G = true) ∧
    (let l := scratchAccesses (some (mem 0 false false true 0 0)) (lane0 base).k 0 1 3
     inWindow l 4 (lane0 base) ∧ ∃ G, touches l 4 G ∧ isFull (lane0 base).crew G = false) := by
  refine ⟨⟨by decide, passes_of (by decide +kernel), fun h => absurd h (by decide), by unfold inWindow; decide +kernel, by unfold sound; decide +kernel⟩,
    ⟨by decide, passes_of (by decide +kernel), fun h => absurd h (by decide), by unfold inWindow; decide +kernel, by unfold sound; decide +kernel, by decide +kernel, ?_⟩,
    by unfold inWindow; decide +kernel, 0, by unfold touches; decide +kernel, by decide +kernel⟩
  rintro G ⟨x, hx, h1, h2⟩
  have hl : scratchAccesses (some (mem 0 false false true 0 0)) filled.k 0 1 3 = [(0, 0)] := by decide +kernel
  rw [hl, List.mem_singleton] at hx
  subst hx
  have hG : G = 0 := by
    have : G ≤ ((0 : Int).toNat + 4 * scratchWidth (some (mem 0 false false true 0 0)) - 1) / 16 := h2
    have e : ((0 : Int).toNat + 4 * scratchWidth (some (mem 0 false false true 0 0)) - 1) / 16 = 0 := by decide
    omega
  subst hG
  decide +kernel

theorem witness_ScratchStoreResults :
    (let x := some (mem 0 false true true 1 2)
     (Instr.sst x 0 124 1 3).wf = true ∧ Passes { len := words x, vs := [(124, scratchWidth x), (1, 1)], stores := true } scratch ∧
      released (relOf x) (scopeOf x) scratch ∧ inWindow (scratchAccesses x scratch.k 0 1 3) (4 * scratchWidth x) scratch) ∧
    (let s := setV 2 (fun _ => 16) scratch
     (Instr.sclr none 0 2 1 3).wf = true ∧ Passes { len := words (none : Option MemPfx), vs := [(2, 1), (1, 1)], stores := true } s ∧
      ∀ y ∈ scratchAccesses none s.k 0 1 3, U s.k 2 y.1 ≠ 0 → 0 ≤ y.2 ∧ y.2 + U s.k 2 y.1 ≤ (4096 * nb s.crew.lrec.alloc 6 0 : Nat)) :=
  ⟨⟨by decide, passes_of (by decide +kernel), fun _ => by decide +kernel, by unfold inWindow; decide +kernel⟩, by decide, passes_of (by decide +kernel), by decide +kernel⟩

/-- The arrival that flips, the one that passes EXPECT, EXPECT 0, and one that does neither. -/
theorem witness_ObjectArrivalResults_rule :
    (let o := 5 + 4 * 2 ^ 32
     o < 2 ^ 128 ∧ expectOf o ≤ arrivedOf o + 1 ∧ ¬ expectOf o < arrivedOf o + 1 ∧ expectOf o < arrivedOf o + 2 ∧ expectOf o ≠ 0 ∧ arrivedOf o + 0 < expectOf o) ∧
      expectOf (7 * 2 ^ 64) = 0 ∧ 2 ^ 32 - 1 < 2 ^ 32 := by decide

/-- An object at the end of the window, and one in memory. -/
theorem witness_ObjectArrivalResults :
    (let s := setG 1 0x3FFF0 base
     Passes { stores := true } s ∧ scratchObject s (rdG s.k 1).toNat ∧ releaseDone 1 s = true) ∧
    (let s := setG 1 0x200000 base
     Passes { stores := true } s ∧ (∃ u v, checkObj false (rdG s.k 1) s = .ok u ∧
        storeLanes 16 [(0xFF, (rdG s.k 1).toNat)] (fun _ => littleEndian 4 ((rdG s.k 2).toNat % 2 ^ 32) ++ List.replicate 12 0#8) u = .ok v) ∧
      ∃ key u, objHome (rdG s.k 1) s = .ok (key, u) ∧ releaseDone (objScope key) u = true) := by
  refine ⟨⟨passes_of (by decide +kernel), by unfold scratchObject; decide +kernel, by decide +kernel⟩, passes_of (by decide +kernel), ?_, ?_⟩
  · have h : okIs (checkObj false (rdG (setG 1 0x200000 base).k 1) (setG 1 0x200000 base)) (fun u => okIs (storeLanes 16 [(0xFF, (rdG (setG 1 0x200000 base).k 1).toNat)]
        (fun _ => littleEndian 4 ((rdG (setG 1 0x200000 base).k 2).toNat % 2 ^ 32) ++ List.replicate 12 0#8) u) fun _ => true) = true := by decide +kernel
    obtain ⟨u, hu, h2⟩ := ok_of h
    obtain ⟨v, hv, -⟩ := ok_of h2
    exact ⟨u, v, hu, hv⟩
  · have h : okIs (objHome (rdG (setG 1 0x200000 base).k 1) (setG 1 0x200000 base)) (fun x => releaseDone (objScope x.1) x.2) = true := by decide +kernel
    obtain ⟨x, hx, hp⟩ := ok_of h
    exact ⟨x.1, x.2, hx, hp⟩

/-- A flip count that the condition holds of, and one that it does not; an object in memory; a release that is done. -/
theorem witness_ObjectWaitResults :
    (let s := setG 1 0x3FFF0 base
     scratchObject s (rdG s.k 1).toNat ∧ (∀ i < 4, ((rdG s.k 1).toNat + 8 + i) / 8 ∉ s.crew.winBad) ∧ Passes {} s ∧ Passes plainControl s ∧
      flipped (phaseOf (winNat s.crew (rdG s.k 1).toNat 16)) (rdG s.k 2).toNat = true ∧
      flipped (phaseOf (winNat s.crew (rdG s.k 1).toNat 16)) 1 = false) ∧
    (let s := setG 1 0x200000 base
     Passes {} s ∧ Passes plainControl s ∧ releaseDone 3 s = true ∧ ∃ p u, readPhase false (rdG s.k 1) s = .ok (p, u) ∧ flipped p (rdG s.k 2).toNat = true) := by
  refine ⟨⟨by unfold scratchObject; decide +kernel, by decide +kernel, passes_of (by decide +kernel), passes_of (by decide +kernel), by decide +kernel⟩,
    passes_of (by decide +kernel), passes_of (by decide +kernel), by decide +kernel, ?_⟩
  have h : okIs (readPhase false (rdG (setG 1 0x200000 base).k 1) (setG 1 0x200000 base)) (fun x => flipped x.1 (rdG (setG 1 0x200000 base).k 2).toNat) = true := by decide +kernel
  obtain ⟨x, hx, hp⟩ := ok_of h
  exact ⟨x.1, x.2, hx, hp⟩

/-- A skein in its handler that holds aside its frontier of two entries; it is privileged and has not halted. -/
def handling : State :=
  onK (fun k => { k with handler := true, held := some { frontier := [{ pc := 0x100000#64, mask := 1#32 }, { pc := 0x100040#64, mask := 2#32 }], mask := 1#32, meld := {}, bracket := none } }) priv

theorem witness_SystemGroupCompletes :
    (Passes {} priv ∧ isPriv priv = true) ∧ (base.k.handler = false ∧ isPriv base = false) ∧
    (handling.k.handler = true ∧ (∃ h x l, handling.k.held = some h ∧ h.frontier = x :: l) ∧ Passes { full := true } handling) :=
  ⟨⟨passes_of (by decide +kernel), by decide +kernel⟩, by decide +kernel, by decide +kernel, ⟨_, _, _, rfl, rfl⟩, passes_of (by decide +kernel)⟩

/-- An open queue of `size` slots for context 0. -/
def queued (size mask : Nat) : State :=
  modSch (fun x => { x with queues := [{ n := 16383, opened := true, size := size, enqmask := [BitVec.ofNat 8 mask] }] }) (setG 2 16383 (setG 3 0x200000 base))

/-- A queue with one free slot, a full one, one not for the context, and one that does not exist. -/
theorem witness_LaunchCompletes :
    (let s := queued 1 1
     Passes {} s ∧ releaseDone 3 s = true ∧ (rdG s.k 3).toNat % 64 = 0 ∧
      okIs (loadLanes false false 1 256 [(0xFF, (rdG s.k 3).toNat)] s) (fun x => match openQueue x.2 16383 with
        | some q => mayEnqueue q x.2.crew.ctx && !ringFull q && !waiterAhead x.2 q.n s.k.uid && !x.2.sch.denied.contains s.k.uid
        | none => false) = true) ∧
    okIs (loadLanes false false 1 256 [(0xFF, 0x200000)] (queued 0 1)) (fun x => match openQueue x.2 16383 with | some q => mayEnqueue q x.2.crew.ctx && ringFull q | none => false) = true ∧
    okIs (loadLanes false false 1 256 [(0xFF, 0x200000)] (queued 1 2)) (fun x => match openQueue x.2 16383 with | some q => !mayEnqueue q x.2.crew.ctx | none => false) = true ∧
    okIs (loadLanes false false 1 256 [(0xFF, 0x200000)] (setG 2 16384 (queued 1 1))) (fun x => decide (openQueue x.2 16384 = none)) = true ∧
    okIs (loadLanes false false 1 256 [(0xFF, 0x200000)] (modSch (fun x => { x with denied := [2] }) (queued 1 1))) (fun x => x.2.sch.denied.contains 2) = true ∧
    (Passes {} base ∧ base.crew.children = 0) :=
  ⟨⟨passes_of (by decide +kernel), by decide +kernel⟩, by decide +kernel, by decide +kernel, by decide +kernel,
    by decide +kernel, passes_of (by decide +kernel), by decide +kernel⟩

/-- A table of one constant segment over [0, 1). -/
def tableBytes : List Byte := [0x46#8, 0x53#8, 1#8, 0#8, 1#8, 0#8, 0#8, 0#8, 0#8, 0#8, 0#8, 0#8, 0#8, 0#8, 0x80#8, 0x3F#8] ++ List.replicate 80 0#8
def withTable : State := setMem 0x200000 tableBytes (setG 20 0x200000 priv)

theorem witness_TableLoadCompletes :
    Passes { priv := 1 } withTable ∧ (rdG withTable.k 20).toNat % 64 = 0 ∧
    okIs (loadOne 64 (rdG withTable.k 20).toNat withTable) (fun x => decide (leAt x.1 4 1 ∈ [1, 2, 4, 8, 16, 32, 64]) &&
      okIs (loadOne (64 + 32 * leAt x.1 4 1) (rdG withTable.k 20).toNat x.2) fun y => decide (slotBad y.1 = none)) = true :=
  ⟨passes_of (by decide +kernel), by decide +kernel⟩

/-! ### States that meet the hypotheses: copies, tiles, engines

Where a hypothesis says that a check answers a value, `okIs` runs the check on the state and tests what it answers. -/

/-- G[a], G[b], G[c] and G[c + 1] for c = 6. -/
def pars (x y z w : Nat) (s : State) : State := setG 2 x (setG 4 y (setG 6 z (setG 7 w s)))

/-- The longest copy to scratch, and a multicast without a cluster level; an odd parameter word. -/
theorem witness_CopyOperations :
    (let i := Instr.cpyLin 2 4 6 1
     let s := pars 0x0 0x200000 (2 ^ 33 + 0x10) 0x3FFF0 base
     i.wf = true ∧ ∃ m, copyMode i = some m ∧ m.cluster = false ∧ Passes (copyReq m.fields.2.2.1) s ∧ m.ok (copyIn m s.k) = true ∧
      (copyIn m s.k).scr = true ∧ okIs (checkObj true (copyIn m s.k).x s) (fun u => okIs (m.capture (copyIn m s.k) u) fun x => decide (copyCount x.2 < 255)) = true) ∧
    (∃ m, copyMode (.cpyMcast 2 4 6 1) = some m ∧ m.cluster = true ∧ m.fields.2.2.1 % 2 = 0 ∧ clusterLevel base.crew.lrec = none) ∧
    (∃ m, copyMode (.cpyLin 2 4 6 0) = some m ∧ m.cluster = false ∧ Passes (copyReq m.fields.2.2.1) base ∧
      (m.ok (copyIn m base.k) = false ∨ ((copyIn m base.k).scr = false ∧ (copyIn m base.k).x = 0#64))) :=
  ⟨⟨by decide, _, rfl, rfl, passes_of (by decide +kernel), by decide +kernel⟩, ⟨_, rfl, rfl, rfl, by decide +kernel⟩,
    _, rfl, rfl, passes_of (by decide +kernel), by decide +kernel⟩

/-- 255 copies of the skein outstanding. -/
def manyOps : State :=
  { base with en := { base.en with ops := List.replicate 255 { id := 9, uid := 2, cuid := 1, core := 0, slot := 0, ctx := 0, sid := 0, kind := .cpy 0, obj := .none } } }
theorem witness_CopyOperations_full :
    let s := { pars 0x0 0x200000 (2 ^ 33 + 0x10) 0x3FFF0 base with en := manyOps.en }
    okIs (checkObj true 0x3FFF0#64 s) (fun u => okIs (linIssue (copyIn ⟨0, (2, 4, 6, 1), fun _ => true, linIssue, false⟩ s.k) u) fun x => decide (255 ≤ copyCount x.2)) = true := by
  decide +kernel

/-- A map of `r` rows and `c` columns of FP16 at `b`, rows `st` units apart; with a metadata row base. -/
def mapWord (b r c st : Nat) (fmt : Nat) (extra : Nat) : Word128 := BitVec.ofNat 128 (b + (r - 1) * 2 ^ 16 + (c - 1) * 2 ^ 24 + st * 2 ^ 32 + fmt * 2 ^ 48 + extra)
/-- A region of 4 rows and 8 columns of FP32. -/
def region : Word64 := BitVec.ofNat 64 (2 ^ 63 + 7 * 2 ^ 24)

def tiled : State :=
  setG 12 (2 ^ 63 + 7 * 2 ^ 24) (setG 14 0 (setG 15 0 (onK (fun k => { k with
    t := [(0, mapWord 0 4 32 4 0x11 0), (1, mapWord 64 32 8 1 0x11 0), (2, mapWord 0 4 16 4 0x11 (2 ^ 108 + 256 * 2 ^ 96)), (3, mapWord 128 4 8 1 0x11 0), (4, mapWord 64 8 8 1 0x11 0), (5, mapWord 0 4 8 1 0x11 0)],
    a := [(0, region), (1, region)] }) base)))

theorem witness_TileOperations_map :
    (let s := setG 10 (3 * 2 ^ 16 + 7 * 2 ^ 24 + 2 ^ 32 + 0x11 * 2 ^ 48) base
     let w : Word128 := rdG s.k 11 ++ rdG s.k 10
     Passes (tilesReq [15] [10]) s ∧ mapBad w = false ∧ mapOver (mapOf w) (4096 * (nb s.crew.lrec.alloc 6 0 / 4)) = none) :=
  ⟨passes_of (by decide +kernel), by decide +kernel⟩

/-- Every form of a tile operation with operands that agree. -/
theorem witness_TileOperations :
    (Passes (tilesReq [0, 1] []) tiled ∧ nb tiled.k.gang.toNat 38 36 < 2 ∧ okIs (captureProd .mma false true 0 0 1 14 tiled) (fun x => decide (tileCount x.2 < 255)) = true) ∧
    (Passes (tilesReq [2, 1] []) tiled ∧ okIs (captureProd .mmas true true 0 2 1 14 tiled) (fun x => decide (tileCount x.2 < 255)) = true) ∧
    (Passes (tilesReq [] []) tiled ∧ tileCount tiled < 255 ∧ okIs (installHandle 3 12 tiled) (fun x => decide (tileCount x.2 < 255)) = true) ∧
    (Passes (tilesReq [3] []) tiled ∧ okIs (installHandle 0 0 tiled) (fun x => decide ((mapOf (rdT tiled.k 3)).rows = (accOf x.1).rows) &&
      decide ((mapOf (rdT tiled.k 3)).cols = (accOf x.1).cols) && accinFmt (accOf x.1).int (mapOf (rdT tiled.k 3)).fmt) = true) ∧
    ((accOf (rdA tiled.k 0)).valid = true ∧ (accOf (rdA tiled.k 1)).valid = true ∧ (accOf (rdA tiled.k 0)).rows = (accOf (rdA tiled.k 1)).rows) ∧
    (Passes (tilesReq [3] [14]) tiled ∧ (mapOf (rdT tiled.k 3)).rows = (accOf (rdA tiled.k 0)).rows ∧ (mapOf (rdT tiled.k 3)).cols = (accOf (rdA tiled.k 0)).cols ∧
      accoutFmt (mapOf (rdT tiled.k 3)).fmt = true ∧ (mapOf (rdT tiled.k 3)).block = 0 ∧
      okIs (fetchEpi (rdG tiled.k 15).toNat (accOf (rdA tiled.k 0)).cols tiled) (fun x => okIs (tileObj true (rdG tiled.k 14) x.2) fun y => decide (tileCount y.2 < 255)) = true) :=
  ⟨⟨passes_of (by decide +kernel), by decide +kernel⟩, ⟨passes_of (by decide +kernel), by decide +kernel⟩,
    ⟨passes_of (by decide +kernel), by decide +kernel⟩, ⟨passes_of (by decide +kernel), by decide +kernel⟩, by decide +kernel,
    passes_of (by decide +kernel), by decide +kernel⟩

/-- A crew of a cluster of sixteen, and fifteen entries like its own. -/
def clustered : State := onCrew (fun c => { c with lrec := { c.lrec with levels := [{ size := 16, domain := 3 }, {}, {}, {}, {}] } }) tiled
def others15 : List (Nat × Op) :=
  match captureProd .cmma false true 0 5 4 14 clustered with
  | .ok (q, _) => (List.range 15).map fun i => (i + 1, { clusterEntry q with cuid := i + 3, uid := i + 30, members := [i + 30] })
  | .error _ => []
/-- The first `n` of them have entered the latch. -/
def entered (n : Nat) : State := { clustered with en := { clustered.en with clatches := [{ launch := 0, inst := 0, issue := 1, entered := others15.take n }] } }
def latched : State := entered 15

theorem witness_TileOperations_cluster :
    (cluster16 base = none ∧ chkRegs { tiles := [0, 1] } base.k = none) ∧
    (cluster16 clustered = some 3 ∧ Passes (tilesReq [5, 4] []) clustered ∧ inCluster clustered clustered.k.uid = false ∧ nb clustered.k.gang.toNat 38 36 < 2 ∧
      okIs (captureProd .cmma false true 0 5 4 14 clustered) (fun x => decide (tileCount x.2 < 255) && decide (cluster16 x.2 = some 3) && decide (x.2.en.clatches.find? (clusterLatchOf 3 x.2) = none)) = true) ∧
    (okIs (captureProd .cmma false true 0 5 4 14 latched) (fun x => let me := clusterEntry x.1
      match x.2.en.clatches.find? (clusterLatchOf 3 x.2) with
      | some l => decide (l.entered.length = 15) && sameIssue me me && (l.entered.all fun e => sameIssue e.2 me) &&
          (l.entered ++ [(x.2.crew.t % 16, me)]).all fun e => e.2.members.all fun m => !trapDue x.2 m
      | none => false) = true) ∧
    (∀ n ∈ [1, 14], okIs (captureProd .cmma false true 0 5 4 14 (entered n)) (fun x =>
      optIs (x.2.en.clatches.find? (clusterLatchOf 3 x.2)) fun l => decide (l.entered.length = n)) = true) :=
  ⟨by decide +kernel, ⟨by decide +kernel, passes_of (by decide +kernel), by decide +kernel⟩, by decide +kernel, by decide +kernel⟩

/-- The decision of `roomForLong`. -/
def room (w : State) : Bool := decide (copyCount w < 255) && decide ((w.en.ops.filter fun o => decide (o.cuid = w.crew.uid) && isLong o.kind).length < 8)

/-- The field-code program of one operation, pushx. -/
def program : List Byte := [0x46#8, 0x43#8, 1#8, 0#8, 1#8, 0#8, 0#8, 0#8, 36#8, 0#8, 0#8, 0#8, 0#8, 0#8, 1#8, 0#8] ++ List.replicate 16 0#8 ++ [2#8, 0#8, 0#8, 0#8]
def marching : State := setMem 0x200000 program (setG 4 0x200000 (setG 10 (0x3F800000 * 2 ^ 32) (lane0 base)))
/-- A skein whose lane 0 runs from a launching record of a marcher, with the program's address in it. -/
def resuming : State :=
  onCrew (fun c => { c with recs := [{ idx := 0, order := 0, carry := List.replicate 16 0#32, entry := 0#64, ncarry := 16, kind := 3, skein := 0, lane := 0,
                                       extra := List.replicate 4 0#8 ++ [0#8, 0#8, 0x20#8] ++ List.replicate 25 0#8, started := true }] })
    (onK (fun k => { k with laneRecs := [(0, 0)] }) marching)

theorem witness_MarchesStart :
    (Passes { blocks := [(16, 16)], even := [4, 10], noMeld := true, full := true } marching ∧ rdG marching.k 5 = 0#64 ∧
      okIs (tileObj true (rdG marching.k 11) marching) (fun y => paramBad false (rdG marching.k 10).toNat 0#64 = false &&
        okIs (capture false (rdG marching.k 4).toNat y.2) fun x => room x.2) = true) ∧
    (Passes { blocks := [(16, 16)], even := [4, 10], noMeld := true, full := true } resuming ∧ paramBad true (rdG resuming.k 10).toNat 0#64 = false ∧
      ((lanesOf (resuming.k.e.mask &&& rdP resuming.k 0)).filterMap (kind3Of resuming)).length = (lanesOf (resuming.k.e.mask &&& rdP resuming.k 0)).length ∧
      okIs (tileObj true 0#64 resuming) (fun y => okIs (captureAll ((lanesOf (resuming.k.e.mask &&& rdP resuming.k 0)).filterMap (kind3Of resuming)) y.2) fun x => room x.2.2) = true) :=
  ⟨⟨passes_of (by decide +kernel), by decide +kernel⟩, passes_of (by decide +kernel), by decide +kernel⟩

/-- A grid of one cell with a valid binning, and a draw of one triangle on a view of one tile. -/
def gridBytes : List Byte :=
  List.replicate 12 0#8 ++ [0#8, 0#8, 0x80#8, 0x3F#8] ++ List.replicate 8 0#8 ++ [1#8, 0#8, 1#8, 0#8, 1#8, 0#8, 0#8, 1#8] ++ [0#8, 0#8, 0x30#8] ++ List.replicate 41 0#8 ++ [1#8] ++ List.replicate 51 0#8
def drawBytes : List Byte := [0#8, 0#8, 0x30#8] ++ List.replicate 5 0#8 ++ [1#8] ++ List.replicate 15 0#8 ++ [32#8, 0#8, 32#8, 0#8] ++ List.replicate 36 0#8
def engines : State := setMem 0x201000 drawBytes (setMem 0x200000 gridBytes (setMem 0x202000 program spawner))

theorem witness_EngineOperationsStart_rows :
    (let i := Instr.trowNorm 2 4 6 1
     let s := pars 0x1000 0x2000 (16 * 2 ^ 32 + 3) 0 base
     i.wf = true ∧ rowForm i = some (3, 2, 4, 6, 1) ∧ Passes { even := [6], full := true } s ∧
      rowOk 3 (rdG s.k 6).toNat (rowPar (rdG s.k 2).toNat (rdG s.k 4).toNat (rdG s.k 6).toNat) = true ∧
      (∀ r ∈ rowRanges 3 (rowPar (rdG s.k 2).toNat (rdG s.k 4).toNat (rdG s.k 6).toNat), scrBad (4096 * nb s.crew.lrec.alloc 6 0) r.1 r.2 = none) ∧
      okIs (tileObj true (rdG s.k 7) s) (fun x => decide (tileCount x.2 < 255)) = true) :=
  ⟨by decide, rfl, passes_of (by decide +kernel), by decide +kernel⟩

/-- fprep with the largest capacity, nbin of one particle, npairs over the last cell, draw of one triangle. -/
theorem witness_EngineOperationsStart :
    (let s := pars 0x1000 0x202000 (256 * 2 ^ 32) 0 engines
     Passes (evens [4, 6]) s ∧ (rdG s.k 2).toNat + 16 * nb (rdG s.k 6).toNat 47 32 ≤ 4096 * nb s.crew.lrec.alloc 6 0 ∧ nb (rdG s.k 6).toNat 63 48 = 0 ∧
      nb (rdG s.k 6).toNat 31 0 = 0 ∧
      okIs (winRead (rdG s.k 5).toNat 32 s) (fun t => !tileBad t.1 &&
        okIs (tileObj true (rdG s.k 7) t.2) (fun y => okIs (capture false (rdG s.k 4).toNat y.2) fun x => decide (copyCount x.2 < 255))) = true) ∧
    (let s := pars 0x200000 0x300000 1 0 engines
     Passes (evens [6]) s ∧ okIs (tileObj true (rdG s.k 7) s) (fun y => okIs (fetchGrid (rdG s.k 2).toNat (some 1) false y.2) fun x =>
      okIs (chkArray (rdG s.k 4).toNat 1 x.2) (fun _ => true) && okIs (chkMerges x.2.crew [((gridOf (rdG s.k 2).toNat x.1).cells, 16), (0, 0), (0, 16), (0x200000, 128)]) fun _ => decide (copyCount x.2 < 255)) = true) ∧
    (let s := pars 0x200000 0x300000 0 0 engines
     Passes (evens [4, 6]) s ∧ okIs (engObj false true (rdG s.k 7) s) (fun y => okIs (fetchGrid (rdG s.k 2).toNat none true y.2) fun x =>
      okIs (chkArray (rdG s.k 4).toNat (gridOf 0x200000 x.1).npart x.2) (fun _ => true) && decide (nb (rdG s.k 5).toNat 29 0 < (gridOf 0x200000 x.1).count) &&
        decide (16 * nb (rdG s.k 6).toNat 63 48 + 16 * (nb (rdG s.k 6).toNat 43 32 + 1) ≤ 4096 * nb x.2.crew.lrec.alloc 6 0) && room x.2 &&
        okIs (chkMerge x.2.crew ((rdG s.k 2).toNat + 80) 20) fun _ => true) = true) ∧
    (let s := pars 0x201000 0 0x3FFF0 0 engines
     Passes (evens []) s ∧ okIs (engObj false true (rdG s.k 6) s) (fun y => okIs (loadOne 64 (rdG s.k 2).toNat y.2) fun x => decide (drawBad x.1 = none) &&
      decide (32 * nb (rdG s.k 4).toNat 7 0 < (drawOf x.1).vieww) && hasBaskets x.2.crew && decide (8 ≤ (basketRole x.2.crew).regs) &&
      room x.2 && okIs (chkGlob (drawOf x.1).verts (48 * (drawOf x.1).ntri) x.2) fun _ => true) = true) :=
  ⟨⟨passes_of (by decide +kernel), by decide +kernel⟩, ⟨passes_of (by decide +kernel), by decide +kernel⟩,
    ⟨passes_of (by decide +kernel), by decide +kernel⟩, passes_of (by decide +kernel), by decide +kernel⟩

/-- A ray block at the last place of the allotment; the records of the served lane are readable. -/
theorem witness_RayTestResults :
    let s := setV 120 (fun _ => 0x200000) (lane0 base)
    Passes { blocks := [(2 * 56, 16)] } s ∧ (rdG s.k 0).toNat < 8 ∧ okIs (loadNodes 128 128 (rayRecords 56 (servedLanes 0 s.k) s.k) s) (fun _ => true) = true ∧
      okIs (loadNodes 48 16 (rayRecords 56 (servedLanes 0 s.k) s.k) s) (fun _ => true) = true :=
  ⟨passes_of (by decide +kernel), by decide +kernel⟩

/-- Depths below, at and above the sixteen slots, with one spill entry a lane. -/
def stacked : State := setV 6 (fun L => [0, 15, 16, 17].getD L 3) (setG 12 (2 ^ 32) (setG 13 0x200000 base))

theorem witness_StackResults :
    Passes { blocks := [(4, 4)], even := [12], stores := true } stacked ∧ okIs (stkOf 12 0 stacked) (fun x =>
      let ls := (List.range 32).filter (laneOn x.2)
      let D := word stacked.k 2 2
      let live := ls.filter fun L => decide (D L < 16 + x.1.scap)
      let deep := live.filter fun L => decide (16 ≤ D L)
      (live.map fun L => slotAt x.1 L (D L)).all (fun o => decide (o + 8 ≤ 4096 * nb stacked.crew.lrec.alloc 6 0) && (List.range 8).all fun i => !stacked.crew.winBad.contains ((o + i) / 8)) && decide (deep = [2]) &&
      okIs (storeLanes 8 (deep.map fun L => (L, spillSlot x.1 L (D L - 16))) (fun L => (List.range 8).map fun i => winByte stacked.crew (slotAt x.1 L (D L) + i)) stacked) fun _ => true) = true ∧
    okIs (stkOf 12 0 stacked) (fun x =>
      let ls := (List.range 32).filter (laneOn x.2)
      let D := word stacked.k 2 2
      let deep := (ls.filter fun L => decide (D L ≠ 0)).filter fun L => decide (17 ≤ D L)
      decide (deep = [3]) && okIs (loadLanes false false 0 8 (deep.map fun L => (L, spillSlot x.1 L (D L - 17))) stacked) fun _ => true) = true :=
  ⟨passes_of (by decide +kernel), by decide +kernel⟩

/-- The last pixel of a tile at the end of the window, and a pixel outside it. -/
theorem witness_DepthTestResults :
    let s := setV 4 (fun L => if L = 0 then 31 + 31 * 2 ^ 16 else 32) (setG 5 (0x3F00 * 2 ^ 48 + 2 ^ 18) base)
    Passes { blocks := [(4, 3)] } s ∧ (rdG s.k 0).toNat < 8 ∧ nb (rdG s.k 5).toNat 47 19 = 0 ∧ 16 * nb (rdG s.k 5).toNat 63 48 + 4096 ≤ 4096 * nb s.crew.lrec.alloc 6 0 ∧
      (∀ L ∈ (servedLanes 0 s.k).filter fun L => pixelOk (word s.k 2 0 L), pixelAt (16 * nb (rdG s.k 5).toNat 63 48) (word s.k 2 0 L) / 8 ∉ s.crew.winBad) ∧
      pixelOk (word s.k 2 0 0) = true ∧ pixelOk (word s.k 2 0 1) = false ∧ 4092 % 4 = 0 ∧ 4092 / 8 ∉ s.crew.winBad ∧ 2 ^ 32 - 1 < 2 ^ 32 :=
  ⟨passes_of (by decide +kernel), by decide +kernel⟩

/-- An image of 2 × 2 FP32 samples, and a pool of one brick whose index entry is 0. -/
def imageBytes : List Byte :=
  [0#8, 0#8, 0x30#8, 0#8, 0#8, 0#8, 0#8, 0#8, 0x10#8, 2#8, 0#8, 0#8, 0#8, 0#8, 0#8, 0#8] ++ (toBytes 8 2 ++ toBytes 8 2 ++ toBytes 8 1 ++ toBytes 8 1 ++ toBytes 8 1) ++
    (toBytes 8 16 ++ List.replicate 24 0#8) ++ (toBytes 4 1 ++ toBytes 4 1 ++ toBytes 4 1 ++ toBytes 4 1 ++ toBytes 4 1) ++ List.replicate 84 0#8
def poolBytes : List Byte := [0#8, 0#8, 0x30#8, 0#8, 0#8, 0#8, 0#8, 0#8, 0#8, 0#8, 0x31#8, 0#8, 0#8, 0#8, 0#8, 0#8, 1#8, 0#8, 1#8, 0#8, 1#8] ++ List.replicate 11 0#8
def sampling : State := setMem 0x200000 imageBytes (setMem 0x200100 poolBytes (setG 2 0x200000 (setG 3 0x200100 (lane0 base))))

theorem witness_SampleResults :
    (Passes (smpReq 0 125 sampling) sampling ∧ okIs (fetchShape (rdG sampling.k 2).toNat sampling) (fun x =>
      decide (imageBad x.1 = none) && decide (runTrap 125 x.1.rank x.2.k = none) &&
        okIs (loadMany (x.1.bits / 8) (((sampledLanes sampling.k 0 125 x.1.rank).map fun L => (imageCell x.1 (coordinates sampling.k 125 x.1.rank L)).2.map fun p => (L, p.2)).flatten) x.2) fun _ => true) = true) ∧
    (Passes (poolReq 0 125 sampling) sampling ∧ okIs (fetchRecord 32 32 brickBad (rdG sampling.k 3).toNat sampling) (fun x =>
        okIs (poolLanes (rdG sampling.k 3).toNat (brickOf x.1) (coordinates x.2.k 125 3) ((List.range 32).filter (laneOn (active sampling.k 0))) x.2) fun _ => true) = true) ∧
    (let p := brickOf poolBytes
     let us := [fxZero, fxZero, fxZero]
     let c := brickCell p us
     [Fx.nan, fxZero, fxZero].any fxIsNan = true ∧ us.any fxIsNan = false ∧
      okIs (loadMany 4 [(0, brickEntry p c.1 % 2 ^ 64)] sampling) (fun x => decide (x.1 = [0]) &&
        okIs (brickLoad 0x200100 c.1 (p.bricks % 2 ^ 64) 0 ((corners 3).map fun q => brickSample p 0 c.2.1 q % 2 ^ 64) x.2) fun _ => true) = true ∧
      okIs (loadMany 4 [(0, brickEntry p c.1 % 2 ^ 64)] (setMem (brickEntry p c.1) (List.replicate 4 0xFF#8) sampling)) (fun x => decide (x.1 = [0xFFFFFFFF])) = true) :=
  ⟨⟨passes_of (by decide +kernel), by decide +kernel⟩, ⟨passes_of (by decide +kernel), by decide +kernel⟩, by decide +kernel⟩

/-- Every page asked for is LOCAL; a page that its home, the joined device 1, has still to give; the last byte of a page. -/
def asking : State :=
  setMem (0x800000 + 32 + 17) [1#8] (setMem 0x40010 (toBytes 16 (1 + 0x50000 * 2 ^ 64)) (setMem 0x50000 (toBytes 16 (3 + 16 + 7 * 64 + 1024 + 2 ^ 16 + 2 ^ 30 * 2 ^ 64))
    (setPreg 0x19 0x800000#64 (setPreg 0x1A 16#64 (setG 3 0x40000000 base)))))

theorem witness_PageRequestCompletes :
    (let s := setG 3 0x3FFFFFFF base
     (Instr.pgreq none 0 2 1 3).wf = true ∧ Passes { len := words (none : Option MemPfx), vs := [(2, 1), (1, 1)] } s ∧
      (∀ p ∈ laneAccesses none s.k 0 1 3 1, canonical p.2 = true ∧ (isPriv s = false → nb p.2 63 55 = 0)) ∧ s.k.wait = none ∧
      okIs (pgLanes [] (laneAccesses none s.k 0 1 3 1) s) (fun x => x.2.1.all fun o => decide (o.2 ≠ 8)) = true) ∧
    okIs (pgLanes [] [(0, 0x40000000)] asking) (fun x => x.2.1.any fun o => decide (o.2 = 8)) = true :=
  ⟨⟨by decide, passes_of (by decide +kernel), by decide +kernel⟩, by decide +kernel⟩

/-- The last selector, of a record that is readable. -/
theorem witness_GridStatisticReads :
    let s := setG 4 0x200000 (setG 5 6 base)
    Passes {} s ∧ (rdG s.k 5).toNat < 7 ∧ okIs (loadLanes true false 0 8 [(0xFF, ((rdG s.k 4).toNat + 96) % 2 ^ 64)] s false) (fun _ => true) = true :=
  ⟨passes_of (by decide +kernel), by decide +kernel⟩

/-! ### States that meet the hypotheses: registers of the privileged view, commands, homes -/

/-- Every register that the statement names, the context's at context 255. -/
theorem witness_PrivilegedRegisterFields :
    [0, 0x21, 0x19, 0x1000 + 8 * 255 + 5, 0x1000 + 8 * 255, 0x1000 + 8 * 255 + 1].all (fun i => !hasCommand i (BitVec.allOnes 64)) = true ∧ 255 < 256 := by decide

def setReg (i x : Nat) (s : State) : State := setPreg i (nat64 x) s

/-- An invalidation under way, with a store of its page to the host that waits, and with none; stacks and a queue table that lie in memory, and
that do not. -/
theorem witness_CommandEventsComplete :
    (∀ x ∈ [(1, 0), (0x41, 1), (0x81, 2)], (nat64 x.1).getLsbD 0 = true ∧ nb (nat64 x.1).toNat 7 6 = x.2) ∧
    ((modXl (fun t => { t with inv := some 1#64 }) base).xl.inv = some 1#64 ∧ base.hm.inflight = []) ∧
    (let s := modXl (fun t => { t with inv := some 0x41#64 }) (modHm (fun h => { h with
       inflight := [{ sn := 3, uid := 2, cuid := 1, core := 0, ctx := 1, remote := some 255, line := 8, cells := [(512, 5#8)] }] }) base)
     s.xl.inv = some 0x41#64 ∧ ∀ st ∈ s.hm.inflight, storeWaits s st = true ∧ invUnder 0x41 s st = false) ∧
    (∀ z ∈ [0, 1], frmOk base z = true ∧ frmOk (setReg (frmIdx z) (2 ^ 47) base) z = false) ∧
    (queueOk base 16383 = true ∧ queueOk (setReg 0x10 (2 ^ 47) base) 0 = false) ∧
    (∀ n ∈ [1, 2, 3], nb (nat64 (n * 2 ^ 16)).toNat 17 16 = n ∧ nb (nat64 n).toNat 1 0 = n) ∧
    ((preg (setReg 0x1A 36 base) 0x1A).getLsbD 2 = true ∧ (preg (setReg 0x1A 36 base) 0x1A).getLsbD 5 = true ∧ (setReg 0x1A 36 base).fab.joinWait = []) ∧
    (preg (setReg (ctxReg 255 6) 64 base) (ctxReg 255 6)).getLsbD 6 = true := by decide +kernel

/-- Two stores of one skein to one line on their way, to this part or to the host. -/
def flying (host : Option Nat) : State :=
  let st : Nat → Store := fun n => { sn := n, uid := 2, cuid := 1, core := 0, ctx := 0, remote := host, line := 8, cells := [(512 + n, 5#8)] }
  modHm (fun h => { h with inflight := [st 3, st 4] }) base
def firstStore (s : State) : Bool :=
  optIs (s.hm.inflight.find? fun y => decide (y.sn = 3)) fun st =>
    (s.hm.inflight.all fun y => decide (y.uid = st.uid → y.line = st.line → 3 ≤ y.sn)) && !heldPage s (64 * st.line)
/-- Context 0 with a residency timeout of 2^4 ticks; a parked store of the page at `page`, and an operation that waits for it, both since 0. -/
def parking (page : Nat) : State :=
  let p : Parked := { sn := 5, uid := 2, cuid := 1, core := 0, ctx := 0, sid := 0, pc := 0#64, page := page, size := 2 ^ 30, cells := [(page + 16, 5#8)], since := 0 }
  modXl (fun x => { x with waits := [{ id := 7, op := 9, ctx := 0, page := page, size := 2 ^ 30, since := 0 }] }) (modHm (fun h => { h with parked := [p] }) (setMem 4 [4#8] base))
/-- A move of the page at 0 in a stage of its own, before and after its commit. -/
def moving (attempt : Nat) (ver : Option Nat) (inHold committed : Bool) : State :=
  let m : Migration := { id := 6, ctx := 0, page := 0, size := 2, old := 0, pa := 0x40000, dst := 1, frame := some 0x40000000, lease := 900, committed := committed, acks := [],
                         attempt := attempt, ver := ver, held := inHold }
  modXl (fun x => { x with migs := [m] }) base
def mayMove (attempt : Nat) (ver : Option Nat) (inHold : Bool) (p : State → Migration → Bool) : Bool :=
  let s := moving attempt ver inHold false
  optIs (s.xl.migs.find? fun m => decide (m.id = 6) && !m.committed) fun m => m.frame.isSome && okIs (ctxEntry s m.ctx) (·.isSome) &&
    optIs (leafAt s m.ctx m.page) (fun l => decide (l.resid = 0) && decide (l.addr = m.old)) && p s m

/-- Stores that are their skein's first to their line; the last aligned word of memory; a readable page, for a core here and elsewhere; a parked
store whose page is here, one whose page has no mapping; waits that are over; every stage of a move, and one to finish. -/
theorem witness_HomeEventsComplete :
    (firstStore (flying none) = true ∧ firstStore (flying (some 255)) = true) ∧
    (let op : AtomOp := { aop := 9, w64 := true, data := 1#64, cmp := 0#64 }
     op.aop ≤ 12 ∧ (op.w64 = true → op.aop < 10) ∧ (2 ^ 38 - 8) % (if op.w64 then 8 else 4) = 0 ∧ (2 ^ 38 - 8) + (if op.w64 then 8 else 4) ≤ 2 ^ 38 ∧ heldPage base (2 ^ 38 - 8) = false) ∧
    (∀ n ∈ [2047, 2048], okIs (leafFor base (n / 16) 0 0x200000) (fun x => match x.1 with
      | .ok l => decide (l.resid = 0) && l.rd && decide (l.cpol % 2 = 0) | .error _ => false) = true) ∧
    (optIs ((parking 0).hm.parked.find? fun q => decide (q.sn = 5)) (fun p => optIs (leafAt (parking 0) p.ctx p.page) (fun l => decide (l.resid ≠ 2)) &&
      decide (rtexpOf (parking 0) p.ctx ≠ 0) && decide (p.since + 2 ^ rtexpOf (parking 0) p.ctx < (parking 0).gtime)) = true) ∧
    (optIs ((parking (2 ^ 40)).hm.parked.find? fun q => decide (q.sn = 5)) (fun p => (leafAt (parking (2 ^ 40)) p.ctx p.page).isNone && (reqFor (parking (2 ^ 40)) p.ctx p.page).isNone) = true) ∧
    (optIs ((parking 0).xl.waits.find? fun w => decide (w.id = 7)) (fun w => decide (rtexpOf (parking 0) w.ctx ≠ 0) && decide (w.since + 2 ^ rtexpOf (parking 0) w.ctx ≤ (parking 0).gtime)) = true) ∧
    (mayMove 4 none false (fun _ m => !m.held && m.ver.isNone) = true ∧ mayMove 1 (some 0) false (fun _ m => !m.held && m.ver.isSome) = true ∧
      mayMove 5 (some 9) true (fun s m => m.held && s.hm.timed.isEmpty && decide (5 ≤ m.attempt)) = true ∧
      mayMove 1 (some 0) true (fun s m => m.held && s.hm.timed.isEmpty && decide (m.ver = some (verNow s m))) = true ∧
      mayMove 4 (some 9) true (fun s m => m.held && s.hm.timed.isEmpty && decide (m.attempt < 5) && decide (m.ver ≠ some (verNow s m))) = true) ∧
    (∀ s ∈ [moving 1 none true true, setReg 9 (2 ^ 47) (moving 1 none true true)], optIs (s.xl.migs.find? fun m => decide (m.id = 6) && m.committed) (fun m =>
      (members s).all m.acks.contains && decide (m.lease + 25 < s.gtime) && decide (frmCount s m.size < 4096)) = true) := by
  decide +kernel

/-! ### States that meet the hypotheses: operations, waits, crews, launches -/

def anOp (kind : OpKind) (obj : Obj) : Op := { id := 9, uid := 2, cuid := 1, core := 0, slot := 0, ctx := 0, sid := 0, kind := kind, obj := obj, args := [0x200000#64] }
def withOp (o : Op) : State := { base with en := { base.en with ops := [o] } }
def held (o : Op) : Bool := decide ((withOp o).en.ops.find? (fun q => decide (q.id = o.id)) = some o) && !opStops o (withOp o)
/-- An npairs that has found one record, at its search, at that record, and at its closing arrival. -/
def pairs (count pos : Nat) : Op := { anOp .npairs .none with count := count, pos := pos, recs := [[], List.replicate 16 1#8], due := 900 }

theorem witness_OperationEventsComplete :
    (held (anOp (.cpy 0) (.va 0x200000#64)) = true ∧ unitTurn (anOp (.cpy 0) (.va 0x200000#64)) (withOp (anOp (.cpy 0) (.va 0x200000#64))) = true ∧
      held { anOp (.cpy 0) (.va 0x200000#64) with taken := true } = true ∧
      (let o : Op := { anOp (.cpy 0) (.scr 0) with performed := true, due := 999 }
       held o = true ∧ opDue o (withOp o) = true)) ∧
    (held (anOp (.cpy 0) .none) = true ∧ unitTurn (anOp (.cpy 0) .none) (withOp (anOp (.cpy 0) .none)) = true ∧ held { anOp (.cpy 0) .none with taken := true } = true ∧
      (let o : Op := { anOp (.trow 3) .none with performed := true }
       held o = true ∧ opDue o (withOp o) = true)) ∧
    (held (pairs 0 0) = true ∧ (pairs 0 0).count = 0 ∧ unitTurn (pairs 0 0) (withOp (pairs 0 0)) = true ∧ held { pairs 0 0 with taken := true } = true) ∧
    (held (pairs 1 0) = true ∧ (crewOf (withOp (pairs 1 0)) 1).isSome = true ∧ (pairs 1 0).recs[(pairs 1 0).pos + 1]? = some (List.replicate 16 1#8)) ∧
    (∀ b ∈ [.none, .scr 0, .va 0x200000#64], let o : Op := { pairs 1 1 with obj := b }
     held o = true ∧ o.recs.length ≤ o.pos + 1 ∧ o.performed = false ∧ waitingPages o (endNeeds o) (withOp o) = [] ∧ objWaits o (withOp o) = none) ∧
    (let o : Op := { pairs 2 1 with performed := true, due := 999 }
     held o = true ∧ o.recs.length ≤ o.pos + 1 ∧ o.due < (withOp o).gtime) ∧
    (let o : Op := { pairs 2 0 with started := true, due := 999 }
     held o = true ∧ o.due < (withOp o).gtime ∧ objWaits o (withOp o) = none) ∧
    (withOp (anOp .accz .none)).en.ops.find? (fun q => decide (q.core = 0) && isSeq q.kind && !q.performed) = some (anOp .accz .none) ∧
    (let o := anOp .draw (.va 0x200000#64)
     objWaits o (withOp o) = none ∧ ∀ m, o.kind ≠ .cpy m) := by
  iterate 9 refine ⟨by decide +kernel, ?_⟩
  intro m h
  cases h

def ref0 : Ref := { core := 0, slot := 0, sid := 0 }
/-- The skein waits in instruction `i` with the wait `w`. -/
def waiting (i : Instr) (w : WaitRec) : State :=
  { onK (fun k => { k with wait := some w }) (State.reset.withFetchWord 64 ((encode i).getD 0 0 + 2 ^ 32 * (encode i).getD 1 0)) with gtime := 1000, clocks := 1000 }
def aWait (kind : Nat) : WaitRec := { pc := 0x100000#64, since := 0, kind := kind, grans := [0], exp := 4 }

/-- The decisions of `mayGo` and `resumes`. -/
def mayGoB (s : State) : Bool := s.k.pending.isEmpty || s.k.handler || onTheWay s.k
def unheldB (s : State) : Bool := s.k.holdOn.isNone && (decide (s.k.hold = 0) || decide (s.k.hold < s.gtime))
def resumesB (s : State) : Bool := mayGoB s && !s.crew.halted && unheldB s
theorem mayGo_of {s : State} (h : mayGoB s = true) : mayGo s := by simpa [mayGoB, mayGo, or_assoc] using h
theorem unheld_of {s : State} (h : unheldB s = true) : unheld s := by simpa [unheldB, unheld] using h
theorem resumes_of {s : State} (h : resumesB s = true) : resumes s := by
  simp only [resumesB, Bool.and_eq_true, Bool.not_eq_eq_eq_not, Bool.not_true] at h
  exact ⟨mayGo_of h.1.1, h.1.2, unheld_of h.2⟩

/-- The decision of `mayConsume` for a skein without peers and an access without release. -/
def consumes (x : MemPfx) (g d a b : Nat) (s : State) : Bool :=
  let l := scratchAccesses (some x) s.k g a b
  let n := 4 * scratchWidth (some x)
  passes { len := 2, vs := [(d, scratchWidth (some x)), (a, 1)] } s && !x.rel && s.peers.isEmpty &&
    l.all fun y => decide (0 ≤ y.2) && decide (y.2 + n ≤ (4096 * nb s.crew.lrec.alloc 6 0 : Nat)) &&
      ((List.range n).all fun i => !s.crew.winBad.contains ((y.2.toNat + i) / 8)) &&
      (List.range ((y.2.toNat + n - 1) / 16 + 1)).all fun G => isFull s.crew G

theorem mayConsume_of {x : MemPfx} {g d a b : Nat} {s : State} (h : consumes x g d a b s = true) : mayConsume x g d a b s := by
  simp only [consumes, Bool.and_eq_true, Bool.not_eq_eq_eq_not, Bool.not_true, List.isEmpty_iff, List.all_eq_true, decide_eq_true_eq] at h
  obtain ⟨⟨⟨h1, h2⟩, h3⟩, h4⟩ := h
  refine ⟨passes_of h1, fun hr => absurd hr (by simp [h2]), fun y hy => (h4 y hy).1.1, fun y hy i hi => ?_, ?_, fun p hp => absurd hp (by simp [h3])⟩
  · simpa using (h4 y hy).1.2 i (List.mem_range.mpr hi)
  · rintro G ⟨y, hy, -, hg⟩
    exact (h4 y hy).2 G (List.mem_range.mpr (Nat.lt_succ_of_le hg))

def loadFe (clr : Bool) : Instr := let x := mem 0 false false true 0 2; if clr then .sldFeClr x 0 8 3 0 else .sldFe x 0 8 3 0
/-- Lane 0 waits in a consuming load of granule 0, which is full. -/
def consuming (clr : Bool) : State := onCrew (fun c => { c with fe := [0] }) (lane0 (waiting (loadFe clr) (aWait 2)))

theorem witness_WaitAndCrewEventsComplete_load :
    ∀ clr, ∃ t w u, focusOn ref0 (consuming clr) = some t ∧ t.k.wait = some w ∧ w.kind = 2 ∧ (∀ G ∈ w.grans, isFull t.crew G = true) ∧ resumes t ∧
      (loadFe clr).wf = true ∧ (fetchInstr t).2 = .ok (loadFe clr, u) ∧ mayConsume (mem 0 false false true 0 2) 0 8 3 0 u := by
  have h : ∀ clr, optIs (focusOn ref0 (consuming clr)) (fun t => optIs t.k.wait (fun w => decide (w.kind = 2) && w.grans.all (isFull t.crew)) && resumesB t &&
      okIs (fetchInstr t).2 fun x => decide (x.1 = loadFe clr) && consumes (mem 0 false false true 0 2) 0 8 3 0 x.2) = true := by
    intro clr; cases clr <;> decide +kernel
  intro clr
  obtain ⟨t, ht, hp⟩ := some_of (h clr)
  simp only [Bool.and_eq_true] at hp
  obtain ⟨w, hw, hq⟩ := some_of hp.1.1
  obtain ⟨x, hx, hr⟩ := ok_of hp.2
  simp only [Bool.and_eq_true, decide_eq_true_eq, List.all_eq_true] at hq hr
  refine ⟨t, w, x.2, ht, hw, hq.1, hq.2, resumes_of hp.1.2, ?_, ?_, mayConsume_of hr.2⟩
  · cases clr <;> decide
  · rw [hx, ← hr.1]

/-- The skein waits at barrier 0 of level 3 in `i`, where it arrived with the instruction at `at_`; the object, at 2 MiB, expects 100 arrivals
and has flipped since when `since` says another count. -/
def atBarrier (i : Instr) (at_ : Option Word64) (since : Nat) (traps : List TrapInfo) : State :=
  let s := waiting i (aWait 1)
  let s1 := onK (fun k => { k with arrivals := [{ level := 3, b := 0, gen := 0, at_ := at_ }] }) (setMem 0x200004 (toBytes 4 100) s)
  let s2 := onCrew (fun c => { c with lrec := { c.lrec with levels := [{ size := 1, domain := 2, scope := 3, barrier := 0x200000#64 }, {}, {}, {}, {}] },
                                      levelArrs := [{ level := 3, made := 1, flips := since }] }) s1
  modSch (fun x => { x with launches := [{ uid := s.crew.launch, queue := 16383, ctx := 0, lrec := s2.crew.lrec, start := 0, mergeRanges := [], crewsLeft := 1, merged := [(3, 999, traps)] }] }) s2
/-- What the clauses on a barrier ask of the state after the fetch. -/
def barrierB (i : Instr) (s : State) (p : BarArrival → State → Bool) : Bool :=
  optIs (focusOn ref0 s) fun t => optIs t.k.wait (fun w => decide (w.kind = 1) && decide (w.stage ≠ 2)) && resumesB t && okIs (fetchInstr t).2 fun x =>
    decide (x.1 = i) && !barUndeclared 3 0 x.2 && decide (check plainControl x.2 = none) && decide (x.2.k.e.mask = liveMask x.2.k) && optIs (myArrival x.2.k 3 0) fun a => p a x.2

/-- A barrier that has flipped: with a merge that left no trap and with one that left one, arrived at before and anew; and a `bar.arrive`
that waited for the flip before. -/
theorem witness_WaitAndCrewEventsComplete_barriers :
    barrierB (.barWait 3 0) (atBarrier (.barWait 3 0) none 9 []) (fun a u => phaseOver a (standAt 3 0 u) && decide (conflictAt 3 u = [])) = true ∧
    barrierB (.bar 3 0) (atBarrier (.bar 3 0) (some 0x100000#64) 9 []) (fun a u => phaseOver a (standAt 3 0 u) && decide (conflictAt 3 u = []) && decide (a.at_ = some u.k.e.pc)) = true ∧
    barrierB (.barWait 3 0) (atBarrier (.barWait 3 0) none 9 [{ code := 0x0F }]) (fun a u => phaseOver a (standAt 3 0 u) && decide (conflictAt 3 u ≠ [])) = true ∧
    barrierB (.bar 3 0) (atBarrier (.bar 3 0) none 9 []) (fun a u => phaseOver a (standAt 3 0 u) && decide (a.at_ ≠ some u.k.e.pc) &&
      decide (conflictAt 3 u = []) && releaseDone (barScope u.crew 3) (observed 3 0 (standAt 3 0 u)) &&
      let v := arriveAt 3 0 (some u.k.e.pc) (observed 3 0 (standAt 3 0 u))
      optIs (myArrival v.k 3 0) fun m => !phaseOver m v) = true ∧
    barrierB (.barArrive 3 0) (atBarrier (.barArrive 3 0) none 9 []) (fun a u => phaseOver a u && decide (conflictAt 3 u = []) && releaseDone (barScope u.crew 3) (observed 3 0 u)) = true := by
  refine by decide +kernel

def waitsLong (kind : Nat) : Bool :=
  optIs (focusOn ref0 (waiting (.barWait 3 0) (aWait kind))) fun t => mayGoB t && optIs t.k.wait fun w => decide (w.kind = kind) && decide (w.exp ≠ 0) && decide (w.since + 2 ^ w.exp ≤ t.clocks)

/-- Waits of each kind that are over; a barrier stall; deferred traps of which the middle one has the lowest code. -/
theorem witness_WaitAndCrewEventsComplete :
    (∀ kind ∈ [2, 3, 4, 5], waitsLong kind = true) ∧
    optIs (focusOn ref0 (onCrew (fun c => { c with bars := [(3, { stand := some 0, exp := 4 })] }) { base with clocks := 16 })) (fun t => (stalled t).isSome) = true ∧
    optIs (focusOn ref0 (onK (fun k => { k with pending := [{ code := 0x14 }, { code := 7 }, { code := 7, cause := 3 }] }) base)) (fun t =>
      decide (t.k.pending = [{ code := 0x14 }] ++ { code := 7 } :: [{ code := 7, cause := 3 }]) && !t.k.handler && unheldB t && !onTheWay t.k && (choose true t.k).isSome) = true := by
  refine by decide +kernel

/-- A crew with a basket of one record, filling since clock 0 or ready. -/
def basketed (st : BasketSt) : State :=
  let r : SpawnRec := { idx := 0, order := 1, carry := [], entry := 0x100000#64, ncarry := 0, kind := 0, skein := 0, lane := 0, extra := [] }
  let l : LaunchRec := { soleRecord with flags := 0x440 + 0x100, roles := [{ skeins := 1, regs := 8 }, { skeins := 1, regs := 8 }, {}, {}] }
  onCrew (fun c => { c with lrec := l, recs := [r], baskets := [(0, { st := st, key := 0x100000#64 })] }) base
/-- No skein is left of the crew. -/
def emptied (d : List DefStore) : State := onCrew (fun c => { c with defStores := d }) { base with k := {} }
/-- Save slots for context 0: 4095 at 2^20. -/
def saving : State := setReg (ctxReg 0 7) (2 ^ 20 + 4095) base
def aLaunch (uid flags : Nat) : Launch :=
  { uid := uid, queue := 16383, ctx := 0, lrec := { soleRecord with flags := soleRecord.flags + flags, cap := flags }, start := 0, mergeRanges := [], crewsLeft := 0 }
def launched (l : Launch) : State := modSch (fun x => { x with launches := [l], queues := [{ n := 16383, opened := true, prio := 9, flags := 2, stuck := some (0, 5, 0) }] }) saving
def leaves (c : Crew) (s : State) : Bool := (companions c s).all (drained s) && slotsFor s (companions c s) []
theorem mayLeave_of {c : Crew} {s : State} (h : leaves c s = true) : mayLeave c s := by simpa [leaves, mayLeave] using h

theorem witness_WaitAndCrewEventsComplete_crews :
    optIs (crewAt 0 0 (basketed .filling)) (fun c => decide ((basketAt c.crew 0).st = .filling) && decide ((basketAt c.crew 0).timer ≤ (basketed .filling).clocks)) = true ∧
    optIs (crewAt 0 0 (basketed .ready)) (fun c => decide (oldestReady c.crew = some 0) && (basketSid c).isSome) = true ∧
    optIs (crewAt 0 0 (emptied [])) (fun c => crewOver c (emptied []) && decide (c.crew.defStores = [])) = true ∧
    (let s := emptied [{ cause := 4, va := 8#64, pc := 0#64, sid := 0 }]
     optIs (crewAt 0 0 s) (fun c => crewOver c s && decide (c.crew.defStores ≠ [])) = true) ∧
    optIs (crewAt 0 0 saving) (fun c => leaves c.crew saving && decide ((companions c.crew saving).map (·.crew.uid) = [c.crew.uid])) = true ∧
    (let s := onK (fun k => { k with e := { k.e with mask := 0#32 } }) base
     optIs (focusOn ref0 s) (fun t => decide (liveMask t.k = 0#32) && storesDone 3 t) = true) ∧
    (let s := modSch (fun x => { x with tracker := [{ n := 1, uid := 2, cuid := 1, core := 0 }] }) base
     optIs (s.sch.tracker.find? fun t => decide (t.n = 1)) (fun t => s.hm.inflight.all (fun y => decide (y.uid ≠ t.uid)) &&
       s.en.ops.all fun o => decide (o.uid = t.uid → isTileOp o.kind = true)) = true) := by
  decide +kernel

theorem witness_WaitAndCrewEventsComplete_launches :
    (let l : Launch := { aLaunch 5 1 with merged := [(0, 999, [])] }
     (launched l).sch.launches.find? (fun x => decide (x.uid = 5)) = some l ∧ l.lrec.flags.testBit 0 = true ∧
       l.merged.find? (fun a => decide (a.1 = 0) && decide (a.2.1 ≠ 0)) = some (0, 999, []) ∧ mergePast l 0 999 (launched l) = true) ∧
    ((aLaunch 5 1).merged.find? (fun a => decide (a.1 = 0) && decide (a.2.1 ≠ 0)) = none ∧ mergeReady (aLaunch 5 1) 0 = true) ∧
    (let s := setReg (ctxReg 0 6) 4 (launched (aLaunch 5 0))
     wdExp s 0 ≠ 0 ∧ (aLaunch 5 0).wdTrapped = false ∧ (aLaunch 5 0).start + 2 ^ wdExp s 0 < s.gtime ∧ (aLaunch 5 0).start + 2 ^ (wdExp s 0 + 1) < s.gtime) := by
  decide +kernel

/-- Queue 16383, above the crew's, has a launch whose crews fit on no cluster, and has waited since time 0; the crew waits in lwait. -/
def blocking : State :=
  let l : LaunchRec := { soleRecord with gx := 16, roles := [{ skeins := 64, regs := 128 }, {}, {}, {}], levels := [{ size := 16, domain := 3 }, {}, {}, {}, {}] }
  let q : Queue := { n := 16383, opened := true, prio := 9, flags := 2, stuck := some (0, 5, 0) }
  { modSch (fun x => { x with launches := [{ aLaunch 5 0 with lrec := l }], queues := [q] }) (onK (fun k => { k with wait := some (aWait 6) }) saving) with gtime := 100000 }

/-- The crew is a cluster-level instance of its own. -/
def clusterAlone : State := onCrew (fun c => { c with lrec := { c.lrec with levels := [{ size := 1, domain := 3 }, {}, {}, {}, {}] } }) saving

theorem witness_WaitAndCrewEventsComplete_preemption :
    optIs (crewAt 0 0 blocking) (fun c => leaves c.crew blocking && decide (crewWaits c blocking ≠ []) &&
      blocking.sch.queues.any fun q => decide (prioOf blocking c.crew.queue < q.prio) && blocked blocking q.n) = true ∧
    optIs (findQueue blocking 16383) (fun q => decide (q.stuck = some (0, 5, 0)) && decide (frontId blocking 16383 = some (5, 0)) && q.flags.testBit 1 &&
      decide (0 + 100000 ≤ blocking.gtime) && blocked blocking 16383 &&
      optIs ((victims blocking q.prio).find? fun c => slotsFor blocking (companions c.crew blocking) []) fun c => leaves c.crew blocking) = true := by
  decide +kernel

/-- A saved crew of one core, and one of a cluster instance; and the first with a bad word in its save slot. -/
def savedFrom (s : State) : State := match crewAt 0 0 s with
  | some c => saveOne 7 c s
  | none => s
theorem witness_WaitAndCrewEventsComplete_restore :
    (∀ s ∈ [savedFrom saving, savedFrom clusterAlone], ∃ r l, groupOf 7 s = r :: l ∧ restorable (r :: l) s = true ∧ (∀ x ∈ r :: l, saveBad s x = false) ∧
      ∃ p < places r.crewRec.crew.lrec, (atPlace (comesBack (r :: l) r.crewRec.crew.lrec) r.crewRec.crew.lrec p s).isSome = true) ∧
    (let s := modHm (fun h => { h with memBad := [(2 ^ 20 + 8) / 8] }) (savedFrom saving)
     ∃ r l x, groupOf 7 s = r :: l ∧ restorable (r :: l) s = true ∧ (r :: l).find? (saveBad s) = some x) := by
  have h : ∀ s ∈ [savedFrom saving, savedFrom clusterAlone], (match groupOf 7 s with
      | r :: l => restorable (r :: l) s && (r :: l).all (fun x => !saveBad s x) && decide (0 < places r.crewRec.crew.lrec) &&
          (atPlace (comesBack (r :: l) r.crewRec.crew.lrec) r.crewRec.crew.lrec 0 s).isSome
      | [] => false) = true := by decide +kernel
  have h2 : (let s := modHm (fun h => { h with memBad := [(2 ^ 20 + 8) / 8] }) (savedFrom saving)
      match groupOf 7 s with
      | r :: l => restorable (r :: l) s && ((r :: l).find? (saveBad s)).isSome
      | [] => false) = true := by decide +kernel
  refine ⟨fun s hs => ?_, ?_⟩
  · have := h s hs
    split at this
    · next r l e =>
      simp only [Bool.and_eq_true, List.all_eq_true, decide_eq_true_eq, Bool.not_eq_eq_eq_not, Bool.not_true] at this
      exact ⟨r, l, e, this.1.1.1, this.1.1.2, 0, this.1.2, this.2⟩
    · cases this
  · dsimp only at h2
    split at h2
    · next r l e =>
      simp only [Bool.and_eq_true, Option.isSome_iff_exists] at h2
      obtain ⟨h3, x, hx⟩ := h2
      exact ⟨r, l, x, e, h3, hx⟩
    · cases h2

/-! ### States that meet the hypotheses: the manager, the ports, messages, time and power -/

/-- Queue 0 of a table at 8 MiB: a ring of one slot for context 0 at 6 MiB, with `tail` records appended. -/
def ring (tail : Nat) : State :=
  let q : Queue := { n := 0, opened := true, ring := 0x600000#64, size := 1, prio := 255, enqmask := [1#8], quantum := 1, tail := tail }
  modSch (fun x => { x with queues := [q] }) (setReg 0x10 0x800000 (setReg 0x20 4 base))
/-- A trigger of entry 0 of context 0, and one that is pending. -/
def trig (pending : Bool) (queue : Nat) : MboxTrig := { ctx := 0, n := 0, addr := 0x200000, time := 999, queue := queue, record := 0x300000, pending := pending }
/-- One entry of context 0's mailbox table at 4 MiB, with triggers on it. -/
def boxed (tail : Nat) (l : List MboxTrig) : State :=
  let e := toBytes 8 0x200000 ++ toBytes 4 64 ++ toBytes 2 0 ++ toBytes 1 1 ++ toBytes 1 0 ++ toBytes 8 0x300000 ++ toBytes 8 0
  modSch (fun x => { x with mbox := l }) (setReg (ctxReg 0 4) (0x400000 + 1) (setMem 0x400000 e (ring tail)))
def given (s : State) (m : MboxTrig) : Bool := decide (hostGaps (mboxReader m.ctx m.n) s m.ctx m.record 256 = []) && !mboxEarly s m
def triggers (s : State) : List MboxTrig := s.sch.mbox.filter fun m => decide (m.ctx = 0) && decide (m.n = 0)
def dueTrig (s : State) : Option MboxTrig := (triggers s).find? fun m => !m.pending && decide (m.time < s.gtime) && !underWay m.op s
/-- The queue has a launch of one crew, an instance of a cluster level of its own, or of one core. -/
def toPlace (s : State) : State := modSch (fun x => { x with launches := [{ aLaunch 5 0 with queue := 0, lrec := s.crew.lrec }] }) (ring 0)

theorem witness_ManagerEventsComplete :
    optIs (openQueue (ring 1) 0) (fun q => takeable (ring 1) q) = true ∧
    (let s := toPlace clusterAlone
     let l := (ringFrom (mget 0 s.sch.ptr 255) ((s.sch.queues.filter fun q => decide (q.prio = 255)).map (·.n))).filter (placeable s)
     computeOn s = true ∧ 255 ∈ levelsDown s ∧ (∀ q ∈ s.sch.queues, 255 < q.prio → placeable s q.n = false) ∧
       optIs (winner s l) (fun w => (placeFront w (addQuanta w (rounds s w) l s)).isSome) = true) ∧
    (∀ s ∈ [toPlace clusterAlone, toPlace base], (match frontOf s 0 with
      | .unit l => !l.lrec.flags.testBit 0 && decide (1 < places l.lrec) && (atPlace (fun i core s => addCrew l (l.nextUnit * unitTasks l.lrec + i) core s) l.lrec 1 s).isSome
      | _ => false) = true) ∧
    (let s := boxed 0 [trig true 0]
     optIs ((triggers s).find? (·.pending)) (fun m => !mboxFull s m && given s m) = true) ∧
    (let s := boxed 1 [trig true 0, trig false 0]
     (optIs ((triggers s).find? (·.pending)) (mboxFull s) && (dueTrig s).isSome) = true) ∧
    (∀ n ∈ [0, 1], let s := boxed n [trig false 0]
     (triggers s).find? (·.pending) = none ∧ optIs (dueTrig s) (fun m => decide (mboxFull s m = decide (n = 1)) && given s m) = true) ∧
    ((mboxQueue (boxed 0 []) (trig false 0)).isSome = true ∧ (recordAt (mboxReader 0 0) (boxed 0 []) 0 0x300000 256).isSome = true ∧
      mboxQueue (boxed 0 []) (trig false 1) = none) := by
  refine by decide +kernel

/-- A message of `type` from device `src` to this part, device 0 of set 0, with the payload that the type asks for. -/
def message (type src seq : Nat) : PvlMsg :=
  let p : List Byte := match type with
    | 1 => List.replicate 256 0#8
    | 3 | 5 | 6 => [1#8, 2#8, 3#8, 4#8]
    | 8 => atomPayload { aop := 9, w64 := true, data := 1#64, cmp := 0#64 }
    | 11 => [1#8, 0#8, 0#8, 0#8]
    | _ => []
  { magic := 0x5650, version := 1, type := type, setid := 0, src := src, dst := 0, ctx := 0, status := 0, seq := seq,
    addr := if type = 1 then 0#64 else 0x3FFFFFF8#64, len := if type = 2 ∨ type = 7 then 8 else p.length, payload := p }
/-- The host and device 1 in the peer table, the host a sender whose next SEQ is `e`. -/
def peered (e : Nat) : State :=
  let s := setReg 0x19 0x900000 (setMem (0x900000 + 32 * 255 + 17) [1#8] (setMem (0x900000 + 32 + 17) [1#8] (ring 0)))
  { s with fab := { s.fab with seqExp := mset 0 [] 255 e } }
def fabric (f : Fabric → Fabric) (s : State) : State := { s with fab := f s.fab }

/-- The first GiB, which context 0 maps, lies at device `d`. -/
def away (d : Nat) (s : State) : State := setMem 0x40000 (toBytes 16 (3 + 2 * 2 ^ 4 + 7 * 2 ^ 6 + 2 ^ 10 + d * 2 ^ 16)) s
/-- It lies at the host. -/
def heldAway (s : State) : State := away 255 s

theorem witness_EthernetFrames :
    (portOpen 3 { base with mgt := { base.mgt with safe := true } } ∧ portOpen 3 (setReg 0x18 8 base)) ∧ base.mgt.safe = false ∧
    (3, 7) ∈ { base with netAddrs := [(3, 7)] }.netAddrs ∧ (3, 7) ∉ { base with netAddrs := [(2, 7)] }.netAddrs := by
  refine ⟨⟨⟨by decide, .inl rfl⟩, ⟨by decide, .inr (by decide +kernel)⟩⟩, by decide +kernel, by decide, by decide⟩

/-- Of each type; a message that is not admitted, one of no member, a duplicate, the next one that waits for no write and one that does, one
ahead with nothing kept and one ahead of a kept one; a response. -/
theorem witness_EthernetFrames_order :
    (∀ n ∈ [1, 2, 3, 5, 6, 7, 10, 11], ∃ i, messageOf i = some (n, message n 255 0, .plain)) ∧
    messageOf (.atom (message 8 255 0) ⟨9, true, 1#64, 0#64⟩) = some (8, message 8 255 0, .atom ⟨9, true, 1#64, 0#64⟩) ∧
    (∃ i, messageOf i = some (9, message 9 255 0, .mig (.ack 0#64))) ∧
    (¬ admitted { message 1 255 0 with setid := 1 } (peered 0)) ∧
    (admitted (message 1 1 0) (peered 0) ∧ ¬ heard (message 1 1 0) (peered 0)) ∧
    (∀ n ∈ [1, 2, 3, 4, 5, 6, 7, 8, 9, 10, 11], admitted (message n 255 0) (peered 0) ∧ heard (message n 255 0) (peered 0)) ∧
    (message 1 255 0).seq < mget 0 (readmit (message 1 255 0) (peered 1)).fab.seqExp 255 ∧
    (let u := readmit (message 1 255 0) (peered 0)
     ¬ isKept (message 1 255 0) u ∧ u.fab.inbox.find? (isDue u) = none ∧ (message 1 255 0).seq = mget 0 u.fab.seqExp 255 ∧ settled (message 1 255 0) u ∧ mustWait (message 1 255 0) u = false) ∧
    (let u := readmit (message 1 255 0) (fabric (fun f => { f with writeC := [(255, 990)] }) (peered 0))
     ¬ isKept (message 1 255 0) u ∧ u.fab.inbox.find? (isDue u) = none ∧ mustWait (message 1 255 0) u = true) ∧
    (let u := readmit (message 3 255 0) (fabric (fun f => { f with owed := [{ msg := message 3 255 7, op := 5, time := 0 }] }) (peered 0))
     ¬ isKept (message 3 255 0) u ∧ u.fab.inbox.find? (isDue u) = none ∧ ¬ settled (message 3 255 0) u) ∧
    (let s := { peered 0 with mgt := { base.mgt with safe := true } }
     admitted (message 1 255 0) s ∧ s.mgt.safe = true ∧ heard (message 11 255 0) s) ∧
    (let u := readmit (message 2 255 1) (peered 0)
     ¬ isKept (message 2 255 1) u ∧ u.fab.inbox.find? (isDue u) = none ∧ mget 0 u.fab.seqExp 255 < (message 2 255 1).seq ∧ u.fab.inbox = []) ∧
    (let u := readmit (message 2 255 1) (fabric (fun f => { f with writeC := [(255, 990)], inbox := [(message 1 255 0, .plain)] }) (peered 0))
     ¬ isKept (message 2 255 1) u ∧ u.fab.inbox.find? (isDue u) = none ∧ ∃ x ∈ u.fab.inbox, x.1.src = 255 ∧ x.1.seq = mget 0 u.fab.seqExp 255) := by
  refine ⟨?_, rfl, ⟨.mig (message 9 255 0) (.ack 0#64), rfl⟩, ?_, ?_, ?_, ?_, ?_, ?_, ?_, ?_, ?_, ?_⟩
  · intro n hn
    simp only [List.mem_cons, List.not_mem_nil, or_false] at hn
    rcases hn with rfl | rfl | rfl | rfl | rfl | rfl | rfl | rfl
    · exact ⟨.enq _, rfl⟩
    · exact ⟨.read _, rfl⟩
    · exact ⟨.write _, rfl⟩
    · exact ⟨.mbox _, rfl⟩
    · exact ⟨.put _, rfl⟩
    · exact ⟨.get _, rfl⟩
    · exact ⟨.leave _, rfl⟩
    · exact ⟨.mgmt _, rfl⟩
  all_goals first | decide +kernel | (simp only [admitted, heard, isKept, settled]; decide +kernel)

/-- Every turn at its type; a queue with room; the last bytes of a page, which a read, a write and an atomic name. -/
theorem witness_ManagementMessages_results :
    (∀ n ∈ [1, 2, 3, 5, 6, 7, 8, 9, 10, 11], Turn n (message n 255 0) (peered 0)) ∧
    (let m := message 1 255 0
     m.len = 256 ∧ m.payload.length = 256 ∧ m.addr.toNat < 16384 ∧ optIs (openQueue (awaitNext m (peered 0)) m.addr.toNat) (fun q => !ringFull q) = true) ∧
    (let m := message 2 255 0
     let u := awaitNext m (peered 0)
     0 < m.len ∧ m.len ≤ 4096 ∧ msgAccess u m.ctx m.addr.toNat m.len true false = 0 ∧ hostRefusal m u = none ∧ notHome m u = none ∧
       ∀ i < m.len, keyAt u m.ctx (m.addr.toNat + i) = some (m.addr.toNat + i) ∧ (m.addr.toNat + i) / 8 ∉ (peered 0).hm.memBad) ∧
    (let m := message 8 255 0
     let op : AtomOp := { aop := 9, w64 := true, data := 1#64, cmp := 0#64 }
     let u := awaitNext m (peered 0)
     op.aop ≤ 12 ∧ (op.w64 = true → op.aop < 10) ∧ m.payload = atomPayload op ∧ m.len = m.payload.length ∧ m.addr.toNat % (if op.w64 then 8 else 4) = 0 ∧
       msgAccess u m.ctx m.addr.toNat (if op.w64 then 8 else 4) true true = 0 ∧ optIs (leafAt u m.ctx m.addr.toNat) (fun l => decide (l.resid = 0)) = true ∧
       keyAt u m.ctx m.addr.toNat = some m.addr.toNat ∧ m.addr.toNat / 8 ∉ (peered 0).hm.memBad) := by
  simp only [Turn, admitted, isKept, settled]
  refine by decide +kernel

/-- Writes here and to the host, whose answer they wait for; a part's messages that name a page at home elsewhere. -/
theorem witness_ManagementMessages_writes :
    (∀ n ∈ [3, 5, 6], ∀ b ∈ [false, true], let m := message n 255 0
     let s := if b then heldAway (peered 0) else peered 0
     let u := awaitNext m s
     let v := storeVa (s.ids + 1) m.ctx m.addr.toNat m.payload { u with ids := s.ids + 1 }
     m.payload.length = m.len ∧ msgAccess u 0 m.addr.toNat m.len false true = 0 ∧ notHome m u = none ∧ underWay (s.ids + 1) v = b ∧
       underWay (s.ids + 1) (trigger m.ctx [(m.addr.toNat, m.len)] (msgTime v m.ctx m.addr.toNat m.len) v (s.ids + 1)) = b) ∧
    (∀ n ∈ [2, 3, 8], let m := message n 1 0
     let s := away 2 (fabric (fun f => { f with present := [1] }) (peered 0))
     Turn n m s ∧ (notHome { m with len := 8 } (awaitNext m s)).isSome = true) := by
  simp only [Turn, admitted, isKept, settled]
  refine by decide +kernel

/-- A command to answer; requests to device 1 and to the host that are open. -/
theorem witness_ManagementMessages_fabric :
    ((message 11 255 0).payload.length = (message 11 255 0).len ∧ parseCmd (message 11 255 0).payload = some .status ∧ mayCommand 255 .status (peered 0)) ∧
    ∀ d ∈ [1, 255], (message 4 d 0).type = 4 ∧ admitted (message 4 d 0) (fabric (fun f => { f with reqs := [{ peer := d, seq := 0, since := 0 }] }) (peered 0)) ∧
      (message 4 d 0).status ≠ 7 ∧ { message 4 d 0 with status := 7 }.status = 7 ∧ ∃ r ∈ [({ peer := d, seq := 0, since := 0 } : OutReq)], r.peer = d ∧ r.seq = 0 := by
  simp only [mayCommand, admitted]
  refine by decide +kernel

theorem witness_ManagementMessages_answers :
    (commandOf (.regread 1 0)).isSome = true ∧ inSafeState (.regread 0) = false ∧ ofHost (.stream []) = true ∧ inSafeState .status = true ∧ ofHost .status = false ∧
      mayCommand 1 .status { base with mgt := { base.mgt with safe := true } } := by
  exact ⟨rfl, rfl, rfl, rfl, rfl, .inr rfl, fun h => absurd h (by decide)⟩

/-- A stream of 64 by 64 pixels, its record at 2 MiB, a frame every ten ticks; with a configuration that disables it to come, and slots. -/
def streaming (off : Bool) (slots : List FrameSlot) : State :=
  let rec_ := toBytes 8 0x300000 ++ toBytes 2 64 ++ toBytes 2 64 ++ toBytes 4 256 ++ toBytes 1 2 ++ toBytes 1 1 ++ toBytes 6 0 ++ toBytes 8 0x201000 ++ toBytes 8 0x201010 ++
    toBytes 8 0 ++ toBytes 4 10 ++ toBytes 4 1 ++ toBytes 8 0
  let cfg := toBytes 1 7 ++ toBytes 1 1 ++ toBytes 1 0 ++ toBytes 1 96 ++ toBytes 4 0 ++ toBytes 8 0x200000 ++ List.replicate 48 0#8
  { setMem 0x200000 rec_ base with fab := { base.fab with streams := [{ n := 7, cfg := cfg, pending := if off then [(0, List.replicate 64 0#8)] else [], slots := slots }], reqs := [{ peer := 3, seq := 0, since := 0 }] } }

theorem witness_TimeAndPowerEventsComplete :
    (let s := streaming false []
     stopsNow (streamOf s 7) s = false ∧ (dueFrame s.gtime (streamOf s 7) s).isSome = true) ∧
    stopsNow (streamOf (streaming true []) 7) (streaming true []) = true ∧
    (let f : FrameSlot := { frame := 99, ends := 1000, ctx := 0, release := 0x201010#64 }
     slotDue (streamOf (streaming false [f]) 7) (streaming false [f]) = some f) ∧
    (timeOn (ring 0) = true ∧ computeOn (ring 0) = true ∧ (ring 0).fab.slew = 0 ∧ (ring 0).fab.streams = []) ∧
    (let s := { setReg 0x1A 32 base with gtime := 2000000001 }
     (preg s 0x1A).getLsbD 5 = true ∧ s.fab.lastSync + 2000000000 < s.gtime) ∧
    (let s := { streaming false [] with gtime := 2 ^ 24 + 1 }
     ∃ r ∈ s.fab.reqs, r.peer = 3 ∧ r.since + peerTime s < s.gtime) := by
  iterate 5 refine ⟨by decide +kernel, ?_⟩
  exact ⟨_, List.mem_singleton_self _, by decide +kernel⟩

/-- A part at each step of its power-up, with what the step may find; no copy of the firmware without a key is accepted. -/
def found (ok : Bool) : BringUp :=
  { fuseOk := ok, copyA := ⟨[], [], [], 0⟩, copyB := ⟨[], [], [], 0⟩, failedUnit := if ok then none else some (2, 3), channelsOk := ok, portsLinked := if ok then 1 else 0 }
theorem witness_TimeAndPowerEventsComplete_power :
    (∀ n ∈ [0, 1, 2, 3], nb (preg (setReg 0x20 n State.reset) 0x20).toNat 3 0 = n ∧ (setReg 0x20 n State.reset).mgt.safe = false) ∧
    ((found true).fuseOk = true ∧ (found false).fuseOk = false ∧ (found true).failedUnit = none ∧ (found false).failedUnit ≠ none ∧ (found true).channelsOk = true ∧
      0 < (found true).portsLinked ∧ (found false).channelsOk = false) ∧
    bootCopy (found false) = none ∧ computeOn State.reset = false := by
  have h : edVerify [] [] [] = false := by decide +kernel
  refine ⟨by decide +kernel, by decide +kernel, ?_, by decide +kernel⟩
  simp [bootCopy, found, copyOk, h]

/-- A part without fault and one whose self-test failed at a unit; a readable record; a halted crew; a sound configuration. -/
theorem witness_ManagementMessages_commands :
    (base.mgt.failedStep = 0 ∧ { base with mgt := { base.mgt with failedStep := 1, failedUnit := some (2, 3) } }.mgt.failedStep ≠ 0 ∧ base.mgt.safe = false ∧ 255 < 256) ∧
    (∀ d ∈ [1, 255], ∀ va ∈ [0, 0x3FFFFF00], (recordFields d base 0 va).toOption.isSome = true) ∧
    (viewMemory 0xA 0#64 base = true ∧ viewMemory 0xA 0#64 (setReg (frmIdx 0) (2 ^ 47) base) = false) ∧
    ((allCrews (onCrew (fun c => { c with halted := true }) base)).find? (fun c => decide (c.crew.ctx = 0) && decide (c.crew.core + 2048 * c.crew.slot = 0) && c.crew.halted)).isSome = true ∧
    (let s := setReg 0x18 1 (streaming false [])
     (streamOf s 7).cfg.length = 64 ∧ cfgBad s (streamOf s 7).cfg = false) := by
  refine by decide +kernel

/-! ### States that meet the hypotheses: registers, encodings, the step, traps, memory -/

theorem witness_HardwiredRegisters : (63 : Nat) ≠ 0 ∧ (0 : Nat) ≠ 63 := by decide

/-- The last operand values of a pair, and of a word. -/
theorem witness_DecodingInvertsEncoding :
    ∀ i ∈ [Instr.vatom (ato 127 9 4 3 false false) 15 127 127 63 1, .vldN64 (some (mem 0xFFFF true true false 4 3)) 15 126 127 63 1, .cpyLin 63 63 63 1, .exit 0],
      i.wf = true ∧ i.isEvent = false := by decide

theorem witness_UnassignedWordsAreIllegal :
    (isPrefix (0x1A * 2 ^ 25 + 2 ^ 25 - 1) = false ∧ opAssigned 0x1A = false) ∧
    (isPrefix 0x01000000 = false ∧ opAssigned 0 = true ∧ hasGuard 0 = true ∧ 0x01000000 / 2 ^ 21 % 16 = 8) := by decide

/-- A line in the instruction cache, at its last word; and the last word of a page, which no line holds. -/
theorem witness_FetchReadsProgramCounter :
    (codeHit 0x3C (modHm (fun h => { h with code := [{ core := 0, ctx := 0, line := 0, bytes := List.replicate 64 1#8 }] }) base)).isSome = true ∧
    codeHit (2 ^ 30 - 4) base = none ∧ 2 ^ 30 - 4 < 2 ^ 64 ∧ (2 ^ 30 - 4) % 4 = 0 ∧ nb (2 ^ 30 - 4) 63 55 = 0 ∧ base.hm.memBad = [] ∧
    okIs (leafFor base (clusterOf base.crew.core) base.crew.ctx (2 ^ 30 - 4)) (fun x => match x.1 with
      | .ok l => decide (l.x = true ∧ (l.priv = true → isPriv base = true) ∧ l.resid ≠ 2 ∧ keyDev (keyOf l (2 ^ 30 - 4)) ≠ some 255)
      | .error _ => false) = true := by
  refine ⟨by decide +kernel, by decide +kernel, by decide, by decide, by decide, by decide +kernel⟩

/-- It is an issue, and some skein's turn, of which `p` holds. -/
def atIssue (s : State) (p : State → Bool) : Bool := decide (s.schedule = []) && decide (s.beat = .issue) && optIs (ready { s with beat := .event }) p
/-- At an issue, the word at the program counter of the skein whose turn it is, or the trap of its fetch. -/
def issues (s : State) (p : State → Res (Nat × State) → Bool) : Bool :=
  atIssue s fun t => decide (t.k.wait = none) && decide (takeDeferred t = none) && !t.k.fileBad && optIs (chooseEntry (correctFile t)) fun u => p u (fetchWord u.k.e.pc.toNat u)
/-- The word after it. -/
def nextWord (u v : State) : Res (Nat × State) := fetchWord ((u.k.e.pc.toNat + 4) % 2 ^ 64) v
def refusedWord (w v : Nat) : Bool := match decode w v with | .ok _ => false | .error _ => true
def failed {α : Type} (x : Res α) : Bool := match x with | .ok _ => false | .error _ => true
def at_ (pc : Nat) (s : State) : State := onK (fun k => { k with e := { k.e with pc := nat64 pc } }) s

/-- A word and a pair that decode, and that do not; a fetch of each that traps. -/
theorem witness_StepRunsTheDecodedInstruction_issue :
    issues (State.reset.withFetchWord 32 0x80182100) (fun _ x => okIs x fun w => !isPrefix w.1 && decodes ([w.1], .gadd 3 1 2 0)) = true ∧
    issues (State.reset.withFetchWord 64 (0x7FA00000 + 0x20014307 * 2 ^ 32)) (fun u x => okIs x fun w => isPrefix w.1 &&
      okIs (nextWord u w.2) fun y => decodes ([w.1, y.1], .fadd (some (ari 2 0 false false 0)) 0 5 6 7)) = true ∧
    issues (State.reset.withFetchWord 32 0x01000000) (fun _ x => okIs x fun w => !isPrefix w.1 && refusedWord w.1 0) = true ∧
    issues (State.reset.withFetchWord 64 (0x7FA00000 + 0x7FA00000 * 2 ^ 32)) (fun u x => okIs x fun w => isPrefix w.1 && okIs (nextWord u w.2) fun y => refusedWord w.1 y.1) = true ∧
    issues (at_ (2 ^ 30) (State.reset.withFetchWord 32 0)) (fun _ x => failed x) = true ∧
    issues (at_ (2 ^ 30 - 4) (setMem (2 ^ 30 - 4) (toBytes 4 0x7FA00000) (State.reset.withFetchWord 32 0))) (fun u x => okIs x fun w => isPrefix w.1 && failed (nextWord u w.2)) = true := by
  refine by decide +kernel

/-- A skein that waits, of which nothing is asked; a deferred trap that is due; a register file in error; no skein at all; a scheduled event and a
scheduled instruction, which is dropped; the turns of an event and of a tick. -/
theorem witness_StepRunsTheDecodedInstruction :
    atIssue (onK (fun k => { k with pending := [{ code := 7 }] }) (State.reset.withFetchWord 32 0)) (fun t => (takeDeferred t).isSome) = true ∧
    atIssue (onK (fun k => { k with fileBad := true }) (State.reset.withFetchWord 32 0)) (fun t => decide (takeDeferred t = none) && t.k.fileBad) = true ∧
    (State.reset.schedule = [] ∧ { State.reset with beat := .issue }.beat = .issue ∧ ready { State.reset with beat := .event } = none) ∧
    (Instr.isEvent .placeUnit = true ∧ { base with schedule := [.placeUnit] }.schedule = [.placeUnit] ∧ (Instr.gadd 0 0 0 0).isEvent = false) ∧
    (let s := { base with beat := .event }
     s.schedule = [] ∧ (eventAt s).isSome = true) ∧ { base with beat := .tick }.beat = .tick := by
  iterate 5 refine ⟨by decide +kernel, ?_⟩
  exact rfl

/-- Context 0 with a handler, and its records from 8 MiB. -/
def handled : State := setReg (ctxReg 0 5) 0x100040 (setReg (ctxReg 0 6) 0x800000 base)

/-- A trap that the instruction raises, a deferred one in handler mode, and an uncorrectable error. -/
theorem witness_TrapEntersHandler :
    (let t : TrapInfo := { code := 0x12, info0 := 0x21#64, after := true }
     t.code ≠ 17 ∧ isFatal t handled = false ∧ (recordKey handled).isSome = true) ∧
    (let t : TrapInfo := { code := 0x14, deferred := true }
     let s := onK (fun k => { k with handler := true }) handled
     isFatal t s = false ∧ (recordKey s).isSome = true) ∧
    (let t : TrapInfo := { code := 17, cause := 1 }
     isFatal t (countUncorr 1 handled) = false ∧ (recordKey (countUncorr 1 handled)).isSome = true) := by
  refine by decide +kernel

theorem witness_FatalTrapKills : isFatal { code := 18 } base = true ∧ isFatal { code := 17, cause := 2 } (countUncorr 1 handled) = true := by
  refine by decide +kernel

theorem witness_KillEndsContext :
    (255 < 256 ∧ ∀ c ∈ { base with others := [{ crew := { soleCrew with uid := 7, ctx := 255 }, skeins := [soleSkein] }] }.others, c.crew.live = true ∧ ∀ k ∈ c.skeins, k.uid ≠ 0) ∧ base.xl.migs = [] := by decide +kernel

theorem witness_MemoryStaysCanonical : Memory.wf base.hm.mem = true ∧ nextIs (step base) (fun _ => true) = true := by decide +kernel
/-! ### The loader (07 R218, R219: the manual's table of six records) -/

theorem test_loader_fields :
    relocField 2 0x20030800 0x20030000 0xFCA01001 = some 0xFCA20031 ∧ relocField 3 0x20030800 0x20030004 0x82514800 = some 0x82514800 ∧
    relocField 4 0x60004000 0x2003000C 0xAA000000 = none ∧ relocField 6 0x20030840 0x20030100 0xFCC01001 = some 0xFCC20031 ∧
    relocField 7 0x20030840 0x20030104 0x82618840 = some 0x82618840 ∧ relocField 1 0x20030100 0x20030838 0 = some 0x20030100 := by decide +kernel

/-- ctab at 0x800 of an image of 0x808 bytes, named by a ghi and a gaddi at 0. -/
def smallObject : List Byte :=
  toBytes 4 0x014F484D ++ toBytes 4 1 ++ toBytes 8 0x1000000 ++ toBytes 8 0x808 ++ toBytes 4 64 ++ toBytes 4 2 ++ toBytes 4 128 ++ toBytes 4 1 ++
    toBytes 4 152 ++ toBytes 4 2 ++ toBytes 4 200 ++ toBytes 4 2 ++ toBytes 8 0 ++
    (toBytes 4 1 ++ toBytes 4 1 ++ toBytes 8 0 ++ toBytes 8 8 ++ toBytes 8 202) ++ (toBytes 4 1 ++ toBytes 4 0x0B02 ++ toBytes 8 0x800 ++ toBytes 8 8 ++ toBytes 8 210) ++
    (toBytes 4 0 ++ toBytes 2 2 ++ toBytes 2 3 ++ toBytes 16 0) ++
    (toBytes 8 0 ++ toBytes 4 0 ++ toBytes 4 2 ++ toBytes 8 0) ++ (toBytes 8 4 ++ toBytes 4 0 ++ toBytes 4 3 ++ toBytes 8 0) ++
    toBytes 2 0x63 ++ toBytes 4 0xFCA01001 ++ toBytes 4 0x82514800 ++ toBytes 8 0x3F800000

theorem test_loader_object :
    (loadObject smallObject 0x20030000 []).toOption =
      some [(0x20030000, toBytes 8 0x82514800FCA01001), (0x20030800, toBytes 8 0x3F800000), (0x20030000, toBytes 4 0xFCA20031),
            (0x20030004, toBytes 4 0x82514800)] := by decide +kernel


/-! ### States that meet the hypotheses: parked stores, patches, words at other parts, barriers in held pages -/

/-- The page of 2 MiB at 2 MiB is ABSENT, its home device 0. -/
def absent (s : State) : State := setMem 0x60010 (toBytes 16 (3 + 2 ^ 4 + 7 * 2 ^ 6 + 2 * 2 ^ 10)) (setMem 0x40000 (toBytes 16 (1 + 0x60000 * 2 ^ 64)) s)
def theStore : Instr := .vstN64 none 0 0 1 3 0
def theRow : StoreRow :=
  ⟨none, 8, laneAccesses none loads.k 0 1 3 1, fun L => littleEndian 8 (rdV2 loads.k 0 L).toNat, { len := 1, vs := [(0, 2), (1, 1)], stores := true }⟩
/-- A hold buffer with `n` entries in use, of another page. -/
def held64 (n : Nat) : State :=
  modHm (fun h => { h with parked := List.replicate n { sn := 5, uid := 9, cuid := 1, core := 0, ctx := 0, sid := 0, pc := 0#64, page := 2 ^ 40, size := 2 ^ 16, cells := [], since := 0 } }) (absent loads)

/-- The launch merges the pages that the store writes. -/
def merging : State := onCrew (fun c => { c with mergeRanges := [(0x200000, 2 ^ 20)], lrec := { c.lrec with cap := 4096, patchBase := 0x400000#64 } }) loads

/-- A store whose lines are all ABSENT, with room in the hold buffer and without; one in a merge range, with room in the patch. -/
theorem witness_StoreResults_parked :
    (theStore.wf = true ∧ storeRow loads.k theStore = some theRow ∧ (held64 0).k = loads.k ∧ merging.k = loads.k) ∧
    (∀ n ∈ [0, 64], (held64 n).k = loads.k ∧ passes theRow.req (held64 n) = true ∧ (held64 n).crew.mergeRanges = [] ∧
      okIs (checkLanes .write false 8 theRow.acc (held64 n)) (fun x => x.1.all (fun a => decide (a.fault = none)) && decide (absentLines x.1 ≠ []) &&
        x.1.all (fun a => a.spans.all (·.absent)) && decide (decide (64 < heldEntries (held64 n) + (absentLines x.1).eraseDups.length) = decide (n = 64)) &&
        okIs (requestAll ((x.1.flatMap (·.spans)).map pageOfSpan) (held64 n)) fun _ => true) = true) ∧
    (passes theRow.req merging = true ∧ theRow.acc ≠ [] ∧ (∀ x ∈ theRow.acc, ∀ j < theRow.n, inMerge merging.crew (x.2 + j) = true) ∧
       (patchGranules theRow merging).eraseDups.length ≤ merging.crew.lrec.cap ∧
       okIs (checkLanes .write false 8 theRow.acc merging) (fun x => x.1.all fun a => decide (a.fault = none)) = true) := by
  refine ⟨⟨by decide, rfl, rfl, rfl⟩, ?_⟩
  decide +kernel

/-- A word here, and one at device 2 that has not been sent and one that has. -/
theorem witness_AtomicResults_memory :
    let x : AtLane := { lane := 0, va := 0x3FFFFFF8, data := 1, cmp := 0 }
    ∀ d ∈ [none, some 2], ∀ n ∈ [0, 1], let s0 := match d with | none => base | some d => away d base
      let s := onK (fun k => { k with wait := if n = 0 then none else some { aWait 10 with stage := 1 } }) s0
      flightStage s = n ∧ x.data < 2 ^ 64 ∧ x.cmp < 2 ^ 64 ∧ okIs (resolve .atomic false (some 3) 8 [(0, x.va)] s) (fun r =>
        r.1.all fun a => decide (absentAt a = none) && decide (badWord s a = none) && !heldPage s (atKey a) && decide (keyDev (atKey a) = d)) = true ∧
      s.crew.mergeRanges = [] ∧ s.hm.parked = [] ∧ s.hm.inflight = [] := by
  decide +kernel

/-- A barrier object at the end of the window; one in a page that its home holds, and one that it does not hold. -/
theorem witness_ObjectArrivalResults_held :
    (let s := setG 1 0x3FFF0 base
     ∀ i < 16, ((rdG s.k 1).toNat + i) / 8 ∉ s.crew.winBad) ∧
    ∀ b ∈ [false, true], let s := setG 1 0x200000 (if b then moving 1 none true false else base)
      okIs (resolve .atomic false (some 3) 16 [(0xFF, (rdG s.k 1).toNat)] s) (fun r => match r.1 with
        | [x] => decide (badWord s x = none) && decide (absentAt x = none) && releaseDone (objScope (atKey x)) r.2 && decide (heldPage r.2 (atKey x) = b) && decide (keyDev (atKey x) = none)
        | _ => false) = true := by
  decide +kernel

/-- launch.wait at a full ring; an append that would come after a mailbox's in its clock; a crew with a launch that has not ended. -/
theorem witness_LaunchCompletes_wait :
    okIs (loadLanes false false 1 256 [(0xFF, 0x200000)] (queued 0 1)) (fun x => optIs (openQueue x.2 16383) fun q =>
      mayEnqueue q x.2.crew.ctx && ringFull q && !x.2.sch.denied.contains x.2.k.uid) = true ∧
    (let s := modQueue 16383 (fun q => { q with lastApp := some (0, [3, 0, 0]) }) (queued 1 1)
     okIs (loadLanes false false 1 256 [(0xFF, 0x200000)] s) (fun x => optIs (openQueue x.2 16383) fun q =>
      mayEnqueue q x.2.crew.ctx && !ringFull q && !mayAppend q.n (launchKey x.2) x.2 && !x.2.sch.denied.contains x.2.k.uid) = true) ∧
    (onCrew (fun c => { c with children := 1 }) base).crew.children ≠ 0 := by
  decide +kernel

/-- A handler that moved epc, the entries held aside not parked; a record whose home is here and free; a power-up in progress. -/
theorem witness_SystemGroupCompletes_parked :
    ∃ h x l, handling.k.held = some h ∧ h.frontier = x :: l ∧ x.pc ≠ (onK (fun k => { k with epc := x.pc + 4#64 }) handling).k.epc ∧ ∀ y ∈ l, y.parked = false :=
  ⟨_, _, _, rfl, rfl, by decide, by decide⟩
theorem witness_TrapEntersHandler_home :
    optIs (recordKey handled) (fun k => decide (keyDev k ≠ some 255) && !heldPage handled (64 * (k / 64)) && handled.hm.inflight.isEmpty) = true := by decide +kernel
theorem witness_StepRunsTheDecodedInstruction_power :
    ({ base with beat := .tick }.schedule = [] ∧ { base with beat := .tick }.mgt.bring = none) ∧
    { base with beat := .tick, mgt := { base.mgt with bring := some (found true) } }.mgt.bring = some (found true) := by
  decide +kernel

end Sys2Proof.Tests
end

section
/-! PROOFS. Writes of the privileged view that start no command (00 R8, 18 R450). -/
namespace Sys2Proof.Proofs
open Sys2Proof Sys2Proof.Machine Sys2Proof.Laws

/-! ### Bit fields -/

theorem nb_lt (w hi lo : Nat) : nb w hi lo < 2 ^ (hi + 1 - lo) := Nat.mod_lt _ (Nat.two_pow_pos _)

theorem w64_toNat_of_lt {n : Nat} (h : n < 2 ^ 64) : (w64 n).toNat = n := by
  rw [w64, BitVec.toNat_ofNat, Nat.mod_eq_of_lt h]

/-! ### Registers of the privileged view after a write of one of them -/

/-- A write of one key keeps the others, whatever default value they are read with. -/
theorem mget_mset_of_ne {α : Type} [DecidableEq α] (d e : α) (m : SMap α) (k : Nat) (v : α) {j : Nat} (h : j ≠ k) :
    mget e (mset d m k v) j = mget e m j := by
  unfold mset
  split
  · rw [mget_mdel, if_neg h]
  · rw [mget_mins _ _ _ _ _ (mdel_ne k m), mget_mdel, if_neg h, if_neg h]

@[simp] theorem preg_setPreg_same (i : Nat) (v : Word64) (s : State) : preg (setPreg i v s) i = v := by
  rw [preg, setPreg_preg, mget_mset, if_pos rfl]

theorem preg_setPreg_of_ne {i j : Nat} (v : Word64) (s : State) (h : j ≠ i) : preg (setPreg i v s) j = preg s j := by
  rw [preg, setPreg_preg, mget_mset_of_ne _ _ _ _ _ h, preg]

/-- The shape of a write that starts no command: it stores at most one value, at its own index. -/
def StoresAtMost (i : Nat) (s t : State) : Prop := t = s ∨ ∃ v, t = setPreg i v s

theorem storesAtMost_setPreg (i : Nat) (v : Word64) (s : State) : StoresAtMost i s (setPreg i v s) := .inr ⟨v, rfl⟩

theorem StoresAtMost.eq_with_preg {i : Nat} {s t : State} (h : StoresAtMost i s t) : t = { s with preg := t.preg } := by
  obtain rfl | ⟨v, rfl⟩ := h <;> rfl

theorem StoresAtMost.preg_of_ne {i j : Nat} {s t : State} (h : StoresAtMost i s t) (hj : j ≠ i) : preg t j = preg s j := by
  obtain rfl | ⟨v, rfl⟩ := h
  · rfl
  · exact preg_setPreg_of_ne v s hj

/-! ### Each register's own write -/

theorem writeCtxReg_storesAtMost (i f v : Nat) (s : State) : StoresAtMost i s (writeCtxReg i f v s) := by
  unfold writeCtxReg
  split <;> exact storesAtMost_setPreg _ _ _

/-- QCTL without a command stores ERR and the queue's number. -/
theorem writeQctl_storesAtMost {x : Word64} (s : State) (h : nb x.toNat 17 16 = 0) : StoresAtMost 0x11 s (writeQctl x s) := by
  simp only [writeQctl, h]
  exact storesAtMost_setPreg _ _ _

/-- FABCTL without JOIN or LEAVE clears at most its bit 3. -/
theorem writeFabctl_storesAtMost {x : Word64} (s : State) (hjoin : nb x.toNat 1 0 ≠ 1) (hleave : nb x.toNat 1 0 ≠ 2) :
    StoresAtMost 0x1A s (writeFabctl x s) := by
  have hcmd : writeFabctl x s = if nbit x.toNat 3 then setFabBit 3 false s else s := by
    unfold writeFabctl
    split <;> simp_all
  rw [hcmd]
  split
  · exact storesAtMost_setPreg _ _ _
  · exact .inl rfl

/-- A write that starts no command is not of XLTINV, FRMGIVE64 or FRMGIVE2M, and names no command in QCTL or FABCTL. -/
theorem noCommand_of_hasCommand_eq_false {i : Nat} {x : Word64} (h : hasCommand i x = false) :
    i ≠ 1 ∧ i ≠ 0xA ∧ i ≠ 0xB ∧ (i = 0x11 → nb x.toNat 17 16 = 0) ∧ (i = 0x1A → nb x.toNat 1 0 ≠ 1 ∧ nb x.toNat 1 0 ≠ 2) := by
  simp only [hasCommand, Bool.or_eq_false_iff, Bool.and_eq_false_imp, decide_eq_false_iff_not, decide_eq_true_eq] at h
  obtain ⟨⟨⟨⟨⟨hinv, h64⟩, h2m⟩, hq⟩, hf⟩, -⟩ := h
  exact ⟨hinv, h64, h2m, fun hi => not_not.mp (hq hi), hf⟩

theorem viewWrite_storesAtMost {i : Nat} {x : Word64} (s : State) (h : hasCommand i x = false) :
    StoresAtMost i s (viewWrite i x s) := by
  obtain ⟨hinv, h64, h2m, hq, hf⟩ := noCommand_of_hasCommand_eq_false h
  simp only [viewWrite, if_neg hinv, if_neg h64, if_neg h2m]
  split_ifs with hctx hbase hfrm hqtab hopen hqctl hcfg hpeer hfab herr
  · exact writeCtxReg_storesAtMost _ _ _ _
  · exact hbase ▸ storesAtMost_setPreg _ _ _
  · exact storesAtMost_setPreg _ _ _
  · exact .inl rfl
  · exact hqtab ▸ storesAtMost_setPreg _ _ _
  · exact hqctl ▸ writeQctl_storesAtMost s (hq hqctl)
  · exact hcfg ▸ storesAtMost_setPreg _ _ _
  · exact hpeer ▸ storesAtMost_setPreg _ _ _
  · exact hfab ▸ writeFabctl_storesAtMost s (hf hfab).1 (hf hfab).2
  · exact herr ▸ storesAtMost_setPreg _ _ _
  · exact .inl rfl

/-- The index of a context's register leads to that register's write. -/
theorem viewWrite_ctxReg {c f : Nat} (x : Word64) (s : State) (hc : c < 256) (hf : f < 8) :
    viewWrite (ctxReg c f) x s = writeCtxReg (ctxReg c f) f x.toNat s := by
  have hview : 0x1000 ≤ ctxReg c f ∧ ctxReg c f < 0x1800 := by unfold ctxReg; omega
  have hfield : (ctxReg c f - 0x1000) % 8 = f := by unfold ctxReg; omega
  rw [viewWrite, if_pos hview, hfield]

/-! ### The fields that software writes -/

/-- XLTBASE keeps bits 47:12 (01 R29). -/
theorem preg_viewWrite_xltbase (x : Word64) (s : State) : (preg (viewWrite 0 x s) 0).toNat = nb x.toNat 47 12 * 2 ^ 12 := by
  have hw : viewWrite 0 x s = setPreg 0 (w64 (nb x.toNat 47 12 * 2 ^ 12)) s := rfl
  have := nb_lt x.toNat 47 12
  rw [hw, preg_setPreg_same, w64_toNat_of_lt (by omega)]

/-- PVLPEER keeps bits 47:13 (17 R434). -/
theorem preg_viewWrite_pvlpeer (x : Word64) (s : State) : (preg (viewWrite 0x19 x s) 0x19).toNat = nb x.toNat 47 13 * 2 ^ 13 := by
  have hw : viewWrite 0x19 x s = setPreg 0x19 (w64 (nb x.toNat 47 13 * 2 ^ 13)) s := rfl
  have := nb_lt x.toNat 47 13
  rw [hw, preg_setPreg_same, w64_toNat_of_lt (by omega)]

/-- ERRCNT keeps the whole value (18 R451). -/
theorem preg_viewWrite_errcnt (x : Word64) (s : State) : preg (viewWrite 0x21 x s) 0x21 = x := by
  have hw : viewWrite 0x21 x s = setPreg 0x21 x s := rfl
  rw [hw, preg_setPreg_same]

/-- CTXFEST keeps bits 4:0 (02 R58). -/
theorem preg_viewWrite_ctxfest {c : Nat} (x : Word64) (s : State) (hc : c < 256) :
    (preg (viewWrite (ctxReg c 0) x s) (ctxReg c 0)).toNat = nb x.toNat 4 0 := by
  have := nb_lt x.toNat 4 0
  rw [viewWrite_ctxReg x s hc (by decide), writeCtxReg, preg_setPreg_same, w64_toNat_of_lt (by omega)]

/-- CTXLEASE keeps bits 14:0, held between 64 and 16,384 (04 R110). -/
theorem preg_viewWrite_ctxlease {c : Nat} (x : Word64) (s : State) (hc : c < 256) :
    (preg (viewWrite (ctxReg c 1) x s) (ctxReg c 1)).toNat = min 16384 (max 64 (nb x.toNat 14 0)) := by
  rw [viewWrite_ctxReg x s hc (by decide), writeCtxReg, preg_setPreg_same, w64_toNat_of_lt (by omega)]

/-- CTXHAND keeps bits 63:2 (16 R416). -/
theorem preg_viewWrite_ctxhand {c : Nat} (x : Word64) (s : State) (hc : c < 256) :
    (preg (viewWrite (ctxReg c 5) x s) (ctxReg c 5)).toNat = nb x.toNat 63 2 * 4 := by
  have := nb_lt x.toNat 63 2
  rw [viewWrite_ctxReg x s hc (by decide), writeCtxReg, preg_setPreg_same, w64_toNat_of_lt (by omega)]

/-! ### The statement -/

/-- A write that starts no command is the view's own write. -/
theorem exec_registerWrite {i : Nat} {x : Word64} (s : State) (h : hasCommand i x = false) :
    exec (.registerWrite i x) s = .next (viewWrite i x s) := by
  have harm : exec (.registerWrite i x) s = execRegisterWrite i x s := rfl
  rw [harm, execRegisterWrite, h, if_neg Bool.false_ne_true]

/-- Settles O39: the write stores at most one value, at its own index, and the named registers each have a write of their own. -/
theorem privilegedRegisterFields : Obligations.PrivilegedRegisterFields := by
  unfold Obligations.PrivilegedRegisterFields
  intro i x s h
  have hw := viewWrite_storesAtMost s h
  refine ⟨(viewWrite i x s).preg, ?_⟩
  rw [← hw.eq_with_preg]
  refine ⟨exec_registerWrite s h, fun j hj => hw.preg_of_ne hj, ?_, ?_, ?_, ?_, ?_, ?_⟩
  · rintro rfl
    exact preg_viewWrite_xltbase x s
  · rintro rfl
    exact preg_viewWrite_errcnt x s
  · rintro rfl
    exact preg_viewWrite_pvlpeer x s
  · rintro c hc rfl
    exact preg_viewWrite_ctxhand x s hc
  · rintro c hc rfl
    exact preg_viewWrite_ctxfest x s hc
  · rintro c hc rfl
    exact preg_viewWrite_ctxlease x s hc

end Sys2Proof.Proofs
end

section
/-! PROOFS. Numbers as bytes, least significant first (00 R5), and bytes of the window (01 R13). -/
namespace Sys2Proof.Proofs
open Sys2Proof Sys2Proof.Machine Sys2Proof.Laws Sys2Proof.Claims

/-! ### Numbers and their bytes -/

@[simp] theorem toBytes_length (n x : Nat) : (toBytes n x).length = n := by
  induction n generalizing x with
  | zero => rfl
  | succ n ih => rw [toBytes, List.length_cons, ih]

theorem ofBytes_toBytes (n x : Nat) : ofBytes (toBytes n x) = x % 256 ^ n := by
  induction n generalizing x with
  | zero => simp [toBytes, ofBytes, Nat.mod_one]
  | succ n ih =>
    have hb : (BitVec.ofNat 8 (x % 256)).toNat = x % 256 := by simp
    rw [toBytes, ofBytes, ih, hb, pow_succ', Nat.mod_mul]

theorem ofBytes_lt (l : List Byte) : ofBytes l < 256 ^ l.length := by
  induction l with
  | nil => simp [ofBytes]
  | cons b l ih =>
    have hb : b.toNat < 256 := b.isLt
    rw [ofBytes, List.length_cons, pow_succ]
    omega

/-- The statements' bytes of a number are the machine's. -/
theorem littleEndian_eq_toBytes (n x : Nat) : Claims.littleEndian n x = toBytes n x := by
  induction n generalizing x with
  | zero => rfl
  | succ n ih =>
    have hlow : BitVec.ofNat 8 (x % 256) = BitVec.ofNat 8 x := BitVec.eq_of_toNat_eq (by simp)
    rw [toBytes, ← ih, Claims.littleEndian, List.range_succ_eq_map, List.map_cons, List.map_map, hlow, pow_zero, Nat.div_one,
      Claims.littleEndian]
    simp [Function.comp_def, Nat.div_div_eq_div_mul, pow_succ']

theorem toBytes_getD {n i : Nat} (x : Nat) (d : Byte) (h : i < n) : (toBytes n x).getD i d = BitVec.ofNat 8 (x / 256 ^ i) := by
  simp [← littleEndian_eq_toBytes, Claims.littleEndian, h]

theorem pow_256 (n : Nat) : 256 ^ n = 2 ^ (8 * n) := by rw [pow_mul]; rfl

/-- A field that its width holds, read as a signed number. -/
theorem sxt_eq_signed {n x : Nat} (h : x < 2 ^ n) : sxt n x = signed n x := by
  rw [sxt, signed, Nat.mod_eq_of_lt h]

/-! ### Runs of bytes in sparse storage -/

theorem mget_putRange {α : Type} [DecidableEq α] (d : α) (l : List α) (m : SMap α) (o j : Nat) :
    mget d (putRange d m o l) j = if o ≤ j ∧ j < o + l.length then l.getD (j - o) d else mget d m j := by
  induction l generalizing m o with
  | nil => rw [putRange, if_neg (by rw [List.length_nil]; omega)]
  | cons b l ih =>
    rw [putRange, ih, mget_mset]
    by_cases hj : j = o
    · subst hj
      rw [if_neg (by omega), if_pos rfl, if_pos (by simp)]
      simp
    · by_cases hin : o + 1 ≤ j ∧ j < o + 1 + l.length
      · obtain ⟨i, rfl⟩ := Nat.exists_eq_add_of_le hin.1
        rw [if_pos hin, if_pos (by rw [List.length_cons]; omega), show o + 1 + i - (o + 1) = i by omega,
          show o + 1 + i - o = i + 1 by omega, List.getD_cons_succ]
      · rw [if_neg hin, if_neg hj, if_neg (by rw [List.length_cons]; omega)]

theorem winByte_putWin (o : Nat) (l : List Byte) (c : Crew) (j : Nat) :
    winByte (putWin o l c) j = if o ≤ j ∧ j < o + l.length then l.getD (j - o) 0#8 else winByte c j :=
  mget_putRange 0#8 l c.win o j

theorem winNat_lt (c : Crew) (o n : Nat) : winNat c o n < 2 ^ (8 * n) := by
  have := ofBytes_lt ((List.range n).map fun i => mget 0#8 c.win (o + i))
  rwa [List.length_map, List.length_range, pow_256] at this

/-- A word of the window after it has been written. -/
theorem winNat_putWin_same (o n x : Nat) (c : Crew) : winNat (putWin o (toBytes n x) c) o n = x % 2 ^ (8 * n) := by
  have hbytes : ((List.range n).map fun i => mget 0#8 (putWin o (toBytes n x) c).win (o + i)) = toBytes n x := by
    rw [← littleEndian_eq_toBytes, Claims.littleEndian]
    refine List.map_congr_left fun i hi => ?_
    have hi := List.mem_range.mp hi
    have hbyte := winByte_putWin o (toBytes n x) c (o + i)
    rwa [if_pos (by rw [toBytes_length]; omega), Nat.add_sub_cancel_left, toBytes_getD x _ hi, ← littleEndian_eq_toBytes] at hbyte
  rw [winNat, hbytes, ofBytes_toBytes, pow_256]

end Sys2Proof.Proofs
end

section
/-! PROOFS. Atomics on words of the window (10 R287, 01 R13). -/
namespace Sys2Proof.Proofs
open Sys2Proof Sys2Proof.Machine Sys2Proof.Laws Sys2Proof.Claims

/-- The machine's operation on words of `8 * n` bits is the statements'. -/
theorem atomicOp_eq_atomicNew {aop n old d cmp : Nat} (hold : old < 2 ^ (8 * n)) (hd : d < 2 ^ (8 * n)) :
    atomicOp aop n old d cmp = atomicNew aop n old d cmp := by
  unfold atomicOp
  simp only [sxt_eq_signed hold, sxt_eq_signed hd, decide_eq_true_eq]
  rfl

/-! ### What single-bit errors met by a scratch access leave unchanged (02 R53) -/

@[simp] theorem correctScr_hm (l : List (Nat × Int × Nat)) (s : State) : (correctScr l s).hm = s.hm := by
  unfold correctScr
  dsimp only
  split
  · rfl
  · rw [countCorr_hm]

@[simp] theorem countCorr_crew (n : Nat) (s : State) : (countCorr n s).crew = s.crew := by rw [countCorr, setPreg_crew]

@[simp] theorem correctScr_win (l : List (Nat × Int × Nat)) (s : State) : (correctScr l s).crew.win = s.crew.win := by
  unfold correctScr
  dsimp only
  split
  · rfl
  · rw [countCorr_crew]

/-! ### The checks of a word in the window -/

theorem scrBad_eq_none {W : Nat} {o : Int} {n : Nat} (h0 : 0 ≤ o) (hW : o + n ≤ W) : scrBad W o n = none := by
  unfold scrBad
  split_ifs <;> first | rfl | omega

theorem winBadAt_eq_none {c : Crew} {o n : Nat} (h : ∀ i < n, (o + i) / 8 ∉ c.winBad) : winBadAt c o n = none := by
  rw [winBadAt, List.find?_eq_none.mpr fun i hi => by simpa using h i (List.mem_range.mp hi), Option.map_none]

/-- An aligned word inside the window, without an uncorrectable error, is performed at the bank. -/
theorem scrAtomic_single {aop n : Nat} {acq : Bool} {L : Nat} {o : Int} {d c : Nat} {s : State} (h0 : 0 ≤ o) (hal : o % (n : Int) = 0)
    (hW : o + n ≤ winSize s.crew) (hbad : ∀ i < n, (o.toNat + i) / 8 ∉ s.crew.winBad) :
    scrAtomic aop n acq [(L, o, d, c)] s = .ok ([(L, winNat s.crew o.toNat n)], bankRead acq (correctScr [(L, o, n)]
      { s with crew := putWin o.toNat (toBytes n (atomicOp aop n (winNat s.crew o.toNat n) d c)) s.crew })) := by
  have hcheck : scrAtCheck (winSize s.crew) n [(L, o)] = none := by simp [scrAtCheck, scrCheck, hal, scrBad_eq_none h0 hW]
  have huncorr : winUncorr s.crew [(L, o, n)] = none := by simp [winUncorr, winBadAt_eq_none hbad]
  simp only [scrAtomic, List.map_cons, List.map_nil, hcheck, huncorr, scrAtRun]
  rfl

/-- Settles O21: the word is performed at the bank; corrected errors touch neither the window's bytes nor memory. -/
theorem scratchAtomicUpdatesItsWord : Obligations.ScratchAtomicUpdatesItsWord := by
  unfold Obligations.ScratchAtomicUpdatesItsWord
  intro aop n acq L o d c s _ hd _ h0 hal hW hbad
  refine ⟨_, scrAtomic_single h0 hal hW hbad, ?_, fun j hj => ?_, correctScr_hm _ _⟩
  · rw [winNat, show (bankRead _ _).crew.win = _ from correctScr_win _ _, ← winNat, winNat_putWin_same,
      atomicOp_eq_atomicNew (winNat_lt _ _ _) hd]
  · rw [winByte, show (bankRead _ _).crew.win = _ from correctScr_win _ _, ← winByte, winByte_putWin, toBytes_length,
      if_neg (by omega)]

end Sys2Proof.Proofs
end

section
/-! PROOFS. Accesses up to residency: what translation leaves unchanged (01 R15 to R25, R31). -/
namespace Sys2Proof.Proofs
open Sys2Proof Sys2Proof.Machine Sys2Proof.Laws Sys2Proof.Claims

/-! ### Results in sequence -/

theorem exists_of_bind_eq_ok {α β : Type} {r : Res α} {f : α → Res β} {b : β} (h : (r >>= f) = .ok b) : ∃ a, r = .ok a ∧ f a = .ok b := by
  cases r with
  | ok a => exact ⟨a, rfl, h⟩
  | error e => cases h

theorem bind_of_eq_ok {α β : Type} {r : Res α} {a : α} (f : α → Res β) (h : r = .ok a) : (r >>= f) = f a := by
  rw [h]
  rfl

/-! ### Translation changes the TLBs alone -/

/-- `u` is `s` but for the TLBs. -/
def TlbsOnly (s u : State) : Prop := ∃ tlb, u = { s with hm := { s.hm with tlb := tlb } }

theorem TlbsOnly.refl (s : State) : TlbsOnly s s := ⟨s.hm.tlb, rfl⟩

theorem TlbsOnly.trans {s t u : State} (h : TlbsOnly s t) (h' : TlbsOnly t u) : TlbsOnly s u := by
  obtain ⟨_, rfl⟩ := h
  obtain ⟨tlb, rfl⟩ := h'
  exact ⟨tlb, rfl⟩

theorem leafFor_tlbsOnly {cluster ctx va : Nat} {s u : State} {r : Except Nat Leaf} (h : leafFor s cluster ctx va = .ok (r, u)) : TlbsOnly s u := by
  unfold leafFor at h
  split at h
  · cases h
    exact .refl s
  · obtain ⟨x, -, hx⟩ := exists_of_bind_eq_ok h
    cases x with
    | error c =>
      cases hx
      exact .refl s
    | ok l =>
      cases hx
      exact ⟨_, rfl⟩

theorem walkSpans_tlbsOnly {cluster ctx : Nat} {l : List (Nat × Nat)} {s u : State} {r : Except (Nat × Nat) (List Span)}
    (h : walkSpans cluster ctx l s = .ok (r, u)) : TlbsOnly s u := by
  induction l generalizing s u r with
  | nil =>
    cases h
    exact .refl s
  | cons g l ih =>
    obtain ⟨⟨x, s1⟩, hleaf, hx⟩ := exists_of_bind_eq_ok h
    cases x with
    | error c =>
      cases hx
      exact .refl s
    | ok leaf =>
      obtain ⟨⟨y, s2⟩, hrest, hy⟩ := exists_of_bind_eq_ok hx
      cases y with
      | error c =>
        cases hy
        exact .refl s
      | ok sp =>
        cases hy
        exact (leafFor_tlbsOnly hleaf).trans (ih hrest)

theorem checkAccess_tlbsOnly {p : Bool} {cluster ctx : Nat} {acc : Acc} {va n : Nat} {s u : State} {r : Except (Nat × Nat × Nat) (List Span)}
    (h : checkAccess p cluster ctx acc va n s = .ok (r, u)) : TlbsOnly s u := by
  unfold checkAccess at h
  split at h
  · cases h
    exact .refl s
  · split_ifs at h
    · cases h
      exact .refl s
    · cases h
      exact .refl s
    · obtain ⟨⟨x, s1⟩, hwalk, hx⟩ := exists_of_bind_eq_ok h
      cases x with
      | error c =>
        cases hx
        exact .refl s
      | ok sp =>
        dsimp only at hx
        split at hx
        · cases hx
          exact .refl s
        · cases hx
          exact walkSpans_tlbsOnly hwalk

theorem checkLanes_tlbsOnly {acc : Acc} {by1 : Bool} {n : Nat} {l : List (Nat × Nat)} {s u : State} {r : List LaneAcc}
    (h : checkLanes acc by1 n l s = .ok (r, u)) : TlbsOnly s u := by
  induction l generalizing s u r with
  | nil =>
    cases h
    exact .refl s
  | cons x l ih =>
    unfold checkLanes at h
    split at h
    · obtain ⟨⟨y, s1⟩, hrest, hy⟩ := exists_of_bind_eq_ok h
      cases hy
      exact ih hrest
    · obtain ⟨⟨y, s1⟩, hcheck, hy⟩ := exists_of_bind_eq_ok h
      obtain ⟨⟨z, s2⟩, hrest, hz⟩ := exists_of_bind_eq_ok hy
      have hframe := (checkAccess_tlbsOnly hcheck).trans (ih hrest)
      cases y <;> cases hz <;> exact hframe

/-- An access that passes all its checks up to residency: its lanes, and a state that translation alone has changed. -/
theorem resolve_eq_ok {acc : Acc} {by1 : Bool} {absCause : Option Nat} {n : Nat} {lanes : List (Nat × Nat)} {s u : State} {r : List LaneAcc}
    (h : resolve acc by1 absCause n lanes s = .ok (r, u)) :
    checkLanes acc by1 n lanes s = .ok (r, u) ∧ laneFault absCause r = none := by
  obtain ⟨⟨x, s1⟩, hlanes, hx⟩ := exists_of_bind_eq_ok h
  dsimp only at hx
  split_ifs at hx
  · split at hx <;> cases hx
  · split at hx
    · cases hx
    · next hf =>
      cases hx
      exact ⟨hlanes, hf⟩

theorem resolve_tlbsOnly {acc : Acc} {by1 : Bool} {absCause : Option Nat} {n : Nat} {lanes : List (Nat × Nat)} {s u : State} {r : List LaneAcc}
    (h : resolve acc by1 absCause n lanes s = .ok (r, u)) : TlbsOnly s u :=
  checkLanes_tlbsOnly (resolve_eq_ok h).1

end Sys2Proof.Proofs
end

section
/-! PROOFS. Fetching the word at the program counter (01 R15, R16, R23, R25, R31, 02 R64, 07 R190). -/
namespace Sys2Proof.Proofs
open Sys2Proof Sys2Proof.Machine Sys2Proof.Laws Sys2Proof.Claims

/-- A word that hits is one of its core's cache, of its context and its line. -/
theorem codeHit_eq_some {va : Nat} {s : State} {x : CodeLine} (h : codeHit va s = some x) :
    x.core = s.crew.core ∧ x.ctx = s.crew.ctx ∧ x.line = va / 64 ∧ va % 64 ≤ 60 := by
  have hx := List.find?_some h
  simpa [and_assoc] using hx

/-- An aligned word of a canonical address wraps round no range (01 R16). -/
theorem rangeCheck_word {va : Nat} (hva : va < 2 ^ 64) (hal : va % 4 = 0) (hc : nb va 63 55 = 0 ∨ nb va 63 55 = 511) :
    rangeCheck va 4 = none := by
  have hcan : canonical va = true := by simpa [canonical] using hc
  have hlast : nb (va + 4 - 1) 63 55 = nb va 63 55 := by
    simp only [nb]
    omega
  have hcan' : canonical (va + 4 - 1) = true := by rwa [canonical, hlast]
  rw [rangeCheck, hcan, hcan', if_neg (by decide), if_neg (by omega), if_neg (by decide)]

/-- An aligned word lies in one granule. -/
theorem granules_word {va : Nat} (hal : va % 4 = 0) : granules va 4 = [(va, 4)] := by
  have hone : (va + 4 - 1) / 65536 - va / 65536 + 1 = 1 := by omega
  have hmax : max va (va / 65536 * 65536) = va := by omega
  have hmin : min (va + 4) ((va / 65536 + 1) * 65536) - va = 4 := by omega
  rw [granules, hone]
  simp [hmax, hmin]

/-- Instruction fetch of an aligned word from an executable page passes its checks (01 R15, R16, R23). -/
theorem checkAccess_exec_word {va : Nat} {s u : State} {l : Leaf} {cluster ctx : Nat} {priv : Bool} (hva : va < 2 ^ 64) (hal : va % 4 = 0)
    (hc : nb va 63 55 = 0 ∨ (nb va 63 55 = 511 ∧ priv = true)) (hleaf : leafFor s cluster ctx va = .ok (.ok l, u)) (hx : l.x = true)
    (hpriv : l.priv = true → priv = true) : checkAccess priv cluster ctx .exec va 4 s = .ok (.ok [spanOf l (va, 4)], u) := by
  have hrange := rangeCheck_word hva hal (hc.imp_right (·.1))
  have hhalf : ¬((!priv) = true ∧ nb va 63 55 = 511) := by
    obtain h | ⟨-, h⟩ := hc <;> simp [h]
  have hwalk : walkSpans cluster ctx [(va, 4)] s = .ok (.ok [spanOf l (va, 4)], u) := by
    simp only [walkSpans]
    rw [bind_of_eq_ok _ hleaf]
    rfl
  have hperm : permCause priv .exec [spanOf l (va, 4)] = none := by
    cases priv <;> simp_all [permCause, spanOf]
  simp only [checkAccess, hrange, granules_word hal, if_neg hhalf, reduceCtorEq, false_and, if_false]
  rw [bind_of_eq_ok _ hwalk]
  simp only [hperm]
  rfl

/-- What a fetch of a word of an executable page finds: the lane of the fetch with its one span. -/
theorem resolve_exec_word {va : Nat} {s u : State} {l : Leaf} (hva : va < 2 ^ 64) (hal : va % 4 = 0)
    (hc : nb va 63 55 = 0 ∨ (nb va 63 55 = 511 ∧ isPriv s = true)) (hleaf : leafFor s (clusterOf s.crew.core) s.crew.ctx va = .ok (.ok l, u))
    (hx : l.x = true) (hpriv : l.priv = true → isPriv s = true) (hres : l.resid ≠ 2) :
    resolve .exec false (some 2) 4 [(0xFF, va)] s = .ok ([{ lane := 0xFF, spans := [spanOf l (va, 4)], fault := none }], u) := by
  have hlanes : checkLanes .exec false 4 [(0xFF, va)] s = .ok ([{ lane := 0xFF, spans := [spanOf l (va, 4)], fault := none }], u) := by
    simp only [checkLanes, Bool.false_eq_true, if_false]
    rw [bind_of_eq_ok _ (checkAccess_exec_word hva hal hc hleaf hx hpriv)]
    rfl
  have hhere : absentAt { lane := 0xFF, spans := [spanOf l (va, 4)], fault := none } = none := by simp [absentAt, spanOf, hres]
  rw [resolve, bind_of_eq_ok _ hlanes]
  simp only [reduceCtorEq, false_and, if_false, laneFault, hhere]
  rfl

/-- A lane of a page of this part or another, not of the host, waits for no READ. -/
theorem hostReady_of_no_parts {r : List LaneAcc} (s : State) (h : ∀ a ∈ r, hostParts a.spans = []) : hostReady r s = .ok s := by
  have hparts : (r.flatMap fun a => hostParts a.spans) = [] := List.flatMap_eq_nil_iff.mpr h
  have hnone : r.find? (fun a => (hostParts a.spans).any fun x => decide (hostStatus (skeinReader s.k) s x = some 5)) = none :=
    List.find?_eq_none.mpr fun a ha => by simp [h a ha]
  rw [hostReady, hnone, hparts]
  rfl

/-- A fetch that misses the cache reads the word at its home and fills the line. -/
theorem fetchHome_eq {va : Nat} {s u : State} {l : Leaf} (hva : va < 2 ^ 64) (hal : va % 4 = 0)
    (hc : nb va 63 55 = 0 ∨ (nb va 63 55 = 511 ∧ isPriv s = true)) (hleaf : leafFor s (clusterOf s.crew.core) s.crew.ctx va = .ok (.ok l, u))
    (hx : l.x = true) (hpriv : l.priv = true → isPriv s = true) (hres : l.resid ≠ 2) (hhost : keyDev (keyOf l va) ≠ some 255)
    (hbad : ∀ i < 4, (keyOf l va + i) / 8 ∉ s.hm.memBad) :
    fetchHome va s = .ok (leWord ((List.range 4).map fun i => memByte s (keyOf l va + i)), fillCode (l.cpol.testBit 1) va (keyOf l va) u) := by
  obtain ⟨tlb, hu⟩ := leafFor_tlbsOnly hleaf
  have hready : hostReady [{ lane := 0xFF, spans := [spanOf l (va, 4)], fault := none }] u = .ok u :=
    hostReady_of_no_parts u (by simp [hostParts, spanOf, hhost])
  have hgood : ((List.range 4).any fun i => u.hm.memBad.contains ((keyOf l va + i) / 8)) = false := by
    simpa [hu] using hbad
  rw [fetchHome, bind_of_eq_ok _ (resolve_exec_word hva hal hc hleaf hx hpriv hres)]
  dsimp only
  rw [bind_of_eq_ok _ hready]
  simp only [List.flatMap_cons, List.flatMap_nil, List.append_nil, List.any_cons, List.any_nil, Bool.or_false, spanOf, hgood]
  rw [hu]
  rfl

/-- Settles O52: a hit reads the cached line, a miss passes its checks and reads the home. -/
theorem fetchReadsProgramCounter : Obligations.FetchReadsProgramCounter := by
  unfold Obligations.FetchReadsProgramCounter
  intro va s
  refine ⟨fun x hx => ?_, fun l u hmiss hva hal hc hleaf hx hpriv hres hhost hbad => ?_⟩
  · obtain ⟨hcore, hctx, hline, hword⟩ := codeHit_eq_some hx
    exact ⟨hcore, hctx, hline, hword, by rw [fetchWord, hx]⟩
  · rw [fetchWord, hmiss]
    exact fetchHome_eq hva hal hc hleaf hx hpriv hres hhost hbad

end Sys2Proof.Proofs
end

section
/-! PROOFS. Arrivals on barrier objects (05 R126 to R128, 10 R304). -/
namespace Sys2Proof.Proofs
open Sys2Proof Sys2Proof.Machine Sys2Proof.Laws Sys2Proof.Claims

/-! ### The four fields of an object -/

theorem nb_field (o i : Nat) : nb o (32 * i + 31) (32 * i) = o / 2 ^ (32 * i) % 2 ^ 32 := by
  rw [nb, show 32 * i + 31 + 1 - 32 * i = 32 by omega]

/-- An object put together from its fields, each in its range. -/
theorem objectFields {e a p t : Nat} (he : e < 2 ^ 32) (ha : a < 2 ^ 32) (hp : p < 2 ^ 32) (ht : t < 2 ^ 32) :
    let x := e + a * 2 ^ 32 + p * 2 ^ 64 + t * 2 ^ 96
    x < 2 ^ 128 ∧ expectOf x = e ∧ arrivedOf x = a ∧ phaseOf x = p ∧ statusOf x = t := by
  simp only [expectOf, arrivedOf, phaseOf, statusOf]
  omega

/-- An arrival without an indexed error that is no closing one, field by field. -/
theorem arriveNat_eq (o n st : Nat) : arriveNat o n st none false =
    let flips : Bool := decide (expectOf o = 0) || decide (expectOf o ≤ arrivedOf o + n)
    expectOf o + (if flips then 0 else (arrivedOf o + n) % 2 ^ 32) * 2 ^ 32 +
      (if flips then ((phaseOf o / 2 + 1) % 2 ^ 31) * 2 + (1 - phaseOf o % 2) else phaseOf o) * 2 ^ 64 +
      (if flips && decide (expectOf o < arrivedOf o + n) then Nat.lor (Nat.lor (statusOf o) st) 0x1000 else Nat.lor (statusOf o) st) * 2 ^ 96 := by
  simp only [arriveNat, nb, expectOf, arrivedOf, phaseOf, statusOf, Bool.not_false, Bool.true_and, Bool.false_or, pow_zero, Nat.div_one]
  rfl

/-- 05 R128 on the fields of an object. -/
theorem arriveNat_fields {o n st : Nat} (hst : st < 2 ^ 32) :
    let x := arriveNat o n st none false
    let all := arrivedOf o + n
    x < 2 ^ 128 ∧ expectOf x = expectOf o ∧
    ((expectOf o = 0 ∨ expectOf o ≤ all) →
      arrivedOf x = 0 ∧ phaseOf x % 2 = 1 - phaseOf o % 2 ∧ phaseOf x / 2 = (phaseOf o / 2 + 1) % 2 ^ 31 ∧
        statusOf x = Nat.lor (Nat.lor (statusOf o) st) (if expectOf o < all then 2 ^ 12 else 0)) ∧
    (expectOf o ≠ 0 → all < expectOf o → arrivedOf x = all ∧ phaseOf x = phaseOf o ∧ statusOf x = Nat.lor (statusOf o) st) := by
  have hexpect : expectOf o < 2 ^ 32 := Nat.mod_lt _ (by decide)
  have hphase : phaseOf o < 2 ^ 32 := Nat.mod_lt _ (by decide)
  have hstatus : Nat.lor (statusOf o) st < 2 ^ 32 := Nat.or_lt_two_pow (Nat.mod_lt _ (by decide)) hst
  have hflip : (phaseOf o / 2 + 1) % 2 ^ 31 * 2 + (1 - phaseOf o % 2) < 2 ^ 32 := by omega
  dsimp only
  rw [arriveNat_eq]
  by_cases hf : expectOf o = 0 ∨ expectOf o ≤ arrivedOf o + n
  · have hb : (decide (expectOf o = 0) || decide (expectOf o ≤ arrivedOf o + n)) = true := by simpa using hf
    have hover : (if expectOf o < arrivedOf o + n then Nat.lor (Nat.lor (statusOf o) st) 0x1000 else Nat.lor (statusOf o) st) =
        Nat.lor (Nat.lor (statusOf o) st) (if expectOf o < arrivedOf o + n then 2 ^ 12 else 0) := by
      split
      · rfl
      · exact (Nat.or_zero _).symm
    have hover_lt : Nat.lor (Nat.lor (statusOf o) st) (if expectOf o < arrivedOf o + n then 2 ^ 12 else 0) < 2 ^ 32 :=
      Nat.or_lt_two_pow hstatus (by split <;> decide)
    simp only [hb, if_true, Bool.true_and, decide_eq_true_eq, hover]
    obtain ⟨hx, he, ha, hp, ht⟩ := objectFields hexpect (by decide : 0 < 2 ^ 32) hflip hover_lt
    refine ⟨hx, he, fun _ => ⟨ha, ?_, ?_, ht⟩, fun h0 hlt => absurd hf (by omega)⟩
    · rw [hp]
      omega
    · rw [hp]
      omega
  · have hb : (decide (expectOf o = 0) || decide (expectOf o ≤ arrivedOf o + n)) = false := by simpa using hf
    have hall : (arrivedOf o + n) % 2 ^ 32 = arrivedOf o + n := Nat.mod_eq_of_lt (by omega)
    simp only [hb, Bool.false_eq_true, if_false, Bool.false_and, hall]
    obtain ⟨hx, he, ha, hp, ht⟩ := objectFields hexpect (show arrivedOf o + n < 2 ^ 32 by omega) hphase hstatus
    exact ⟨hx, he, fun h => absurd h hf, fun _ _ => ⟨ha, hp, ht⟩⟩

/-! ### Objects in the window -/

theorem toBytes_add (m n x : Nat) : toBytes (m + n) x = toBytes m x ++ toBytes n (x / 256 ^ m) := by
  induction m generalizing x with
  | zero => simp [toBytes]
  | succ m ih => rw [Nat.succ_add, toBytes, ih, toBytes, List.cons_append, Nat.div_div_eq_div_mul, pow_succ']

theorem toBytes_zero (n : Nat) : toBytes n 0 = List.replicate n 0#8 := by
  induction n with
  | zero => rfl
  | succ n ih => rw [toBytes, Nat.zero_div, ih, List.replicate_succ]

/-- The image of a new object: EXPECT, and zeros (10 R304). -/
theorem objectImage {x : Nat} (h : x < 2 ^ 32) : toBytes 4 x ++ List.replicate 12 0#8 = toBytes 16 x := by
  rw [show (16 : Nat) = 4 + 12 from rfl, toBytes_add, Nat.div_eq_of_lt (by simpa using h), toBytes_zero]

theorem objectWritten_putWin (a x : Nat) (c : Crew) : ObjectWritten a x c (putWin a (toBytes 16 x) c) := by
  refine ⟨⟨_, rfl⟩, fun o => ?_⟩
  rw [winByte_putWin, toBytes_length]
  split
  · rw [toBytes_getD x _ (by omega)]
  · rfl

theorem checkObj_scratch {s : State} {a : Word64} (h : scratchObject s a.toNat) : checkObj true a s = .ok s := by
  obtain ⟨hal, hin⟩ := h
  rw [checkObj, if_pos rfl, if_neg (not_not.mpr hal), if_neg (by unfold winSize; omega)]

/-- A scratch access corrects and counts single-bit errors and changes nothing else (02 R53). -/
theorem correctScr_corrected (l : List (Nat × Int × Nat)) (s : State) : Corrected s (correctScr l s) := by
  unfold correctScr
  dsimp only
  split
  · exact ⟨⟨s.crew.winSoft, s.preg, rfl⟩, fun _ _ => rfl⟩
  · exact ⟨⟨_, _, rfl⟩, fun j hj => preg_setPreg_of_ne _ _ hj⟩

/-- The correction looks at the window's errors, not at its bytes. -/
theorem correctScr_putWin (l : List (Nat × Int × Nat)) (o : Nat) (b : List Byte) (s : State) :
    correctScr l { s with crew := putWin o b s.crew } = { correctScr l s with crew := { (correctScr l s).crew with win := (putWin o b s.crew).win } } := by
  unfold correctScr
  dsimp only [putWin]
  split <;> rfl

/-! ### The instructions -/

theorem release_ok {scope : Nat} {s : State} (h : releaseDone scope s = true) : release scope s = .ok s := by rw [release, if_pos h]

/-- An instruction that passes its issue checks ends as its meaning does. -/
theorem issue_of_passes {r : Req} {s : State} (f : State → Res State) (hp : Passes r s) : issue r s f = conclude (decide (r.len = 2)) s (f s) :=
  issue_passes f hp.1 hp.2.1 hp.2.2

theorem issue_eq_next {r : Req} {s t : State} {f : State → Res State} (hp : Passes r s) (h : f s = .ok t) : issue r s f = .next t := by
  rw [issue_of_passes f hp, h, conclude_ok]

theorem exec_binit_scratch {a b : Nat} {s : State} (hp : Passes { stores := true } s) (ho : scratchObject s (rdG s.k a).toNat) :
    exec (.binit a b 1) s = .next (retire 1 { s with crew := putWin (rdG s.k a).toNat (toBytes 16 ((rdG s.k b).toNat % 2 ^ 32)) s.crew }) := by
  have harm : exec (.binit a b 1) s = execBinit a b 1 s := rfl
  rw [harm]
  refine issue_eq_next hp ((bind_of_eq_ok _ (checkObj_scratch ho)).trans ?_)
  rw [if_pos rfl, objectImage (Nat.mod_lt _ (by decide))]
  rfl

theorem exec_binit_memory {a b : Nat} {s u v : State} (hp : Passes { stores := true } s) (ho : checkObj false (rdG s.k a) s = .ok u)
    (hst : storeLanes 16 [(0xFF, (rdG s.k a).toNat)] (fun _ => Claims.littleEndian 4 ((rdG s.k b).toNat % 2 ^ 32) ++ List.replicate 12 0#8) u = .ok v) :
    exec (.binit a b 0) s = .next (retire 1 v) := by
  have harm : exec (.binit a b 0) s = execBinit a b 0 s := rfl
  rw [littleEndian_eq_toBytes] at hst
  rw [harm]
  refine issue_eq_next hp ((bind_of_eq_ok _ ho).trans ?_)
  rw [if_neg (by decide), bind_of_eq_ok _ hst]
  rfl

/-- The window after an arrival on the object at `a`. -/
def arrivedWindow (a n : Nat) (c : Crew) : Crew := putWin a (toBytes 16 (arriveNat (winNat c a 16) n 0 none false)) c

theorem exec_barrive_scratch {a b : Nat} {s : State} (hp : Passes { stores := true } s) (ho : scratchObject s (rdG s.k a).toNat)
    (hrel : releaseDone 1 s = true) (hbad : ∀ i < 16, ((rdG s.k a).toNat + i) / 8 ∉ s.crew.winBad) :
    exec (.barrive a b 1) s = .next (retire 1 (correctScr [(0xFF, ((rdG s.k a).toNat : Int), 16)]
      { s with crew := arrivedWindow (rdG s.k a).toNat ((rdG s.k b).toNat % 2 ^ 32) s.crew })) := by
  have harm : exec (.barrive a b 1) s = execBarrive a b 1 s := rfl
  have huncorr : winUncorr s.crew [(0xFF, ((rdG s.k a).toNat : Int), 16)] = none := by simp [winUncorr, winBadAt_eq_none hbad]
  rw [harm]
  refine issue_eq_next hp ?_
  dsimp only
  rw [if_pos rfl, bind_of_eq_ok _ (checkObj_scratch ho), huncorr]
  dsimp only
  rw [bind_of_eq_ok _ (release_ok hrel)]
  rfl

/-- barrive on an object in memory after its check and its release fence: it waits for a page in hold, or arrives. -/
theorem exec_barrive_memory {a b : Nat} {s u : State} {x : LaneAcc} (hp : Passes { stores := true } s)
    (hres : resolve .atomic false (if flightStage s = 2 then none else some 3) 16 [(0xFF, (rdG s.k a).toNat)] s = .ok ([x], u))
    (hbad : badWord s x = none) (habs : absentAt x = none) (hrel : releaseDone (objScope (atKey x)) u = true) :
    exec (.barrive a b 0) s = conclude false s (if heldPage u (atKey x) then .error (.wait u 0 0)
      else setOut [((rdG s.k a).toNat, atKey x)] u >>= fun _ => .ok (retire 1 (arriveOwn (atKey x) ((rdG s.k b).toNat % 2 ^ 32) u))) := by
  have harm : exec (.barrive a b 0) s = execBarrive a b 0 s := rfl
  rw [harm, execBarrive, issue_of_passes _ hp]
  dsimp only
  rw [if_neg (by decide), bind_of_eq_ok _ hres]
  simp only [List.findSome?_cons, List.findSome?_nil, hbad, Option.map_none]
  rw [bind_of_eq_ok _ (release_ok hrel)]
  simp only [List.any_cons, List.any_nil, habs, Option.isSome_none, Bool.or_self, Bool.false_eq_true, if_false]
  rfl

theorem setOut_ok {va key : Nat} {s : State} (h : keyDev key = none ∨ flightStage s ≠ 0) : setOut [(va, key)] s = .ok s := by
  rw [setOut, if_pos]
  exact h.imp_left fun hk => by simp [farWords, hk]

/-- Settles O24: an arrival field by field, and binit and barrive in the window and in memory. -/
theorem objectArrivalResults : Obligations.ObjectArrivalResults := by
  unfold Obligations.ObjectArrivalResults
  refine ⟨fun o n st _ hst _ => arriveNat_fields hst, fun a b s hp => ⟨fun ho => ⟨?_, fun hrel hbad => ?_⟩, fun u v ho hst => ?_, ?_⟩⟩
  · exact ⟨_, objectWritten_putWin _ _ _, exec_binit_scratch hp ho⟩
  · refine ⟨_, _, correctScr_corrected [(0xFF, ((rdG s.k a).toNat : Int), 16)] s, objectWritten_putWin _ _ _, ?_⟩
    rw [exec_barrive_scratch hp ho hrel hbad, arrivedWindow, correctScr_putWin]
    rfl
  · exact exec_binit_memory hp ho hst
  · intro x u hres hbad habs hrel
    have hexec := exec_barrive_memory (b := b) hp hres hbad habs hrel
    refine ⟨fun hheld => ?_, fun hheld hfar => ?_⟩
    · rw [hexec, if_pos hheld, conclude_wait]
    · rw [hexec, if_neg (by simp [hheld]), bind_of_eq_ok _ (setOut_ok hfar), conclude_ok]
      rfl

end Sys2Proof.Proofs
end

section
/-! PROOFS. The spans of a lane's access: where they begin and how many bytes they hold (01 R16, R25, R31). -/
namespace Sys2Proof.Proofs
open Sys2Proof Sys2Proof.Machine Sys2Proof.Laws Sys2Proof.Claims

/-! ### An access cut at the multiples of a block size -/

/-- Where part `i` of an access at `va` begins, and its length, for blocks of `B` bytes. -/
def partStart (B va i : Nat) : Nat := max va ((va / B + i) * B)
def partLen (B va n i : Nat) : Nat := min (va + n) ((va / B + i + 1) * B) - partStart B va i

/-- The number of blocks that an access touches. -/
def partCount (B va n : Nat) : Nat := (va + n - 1) / B - va / B + 1

theorem partStart_zero (B va : Nat) : partStart B va 0 = va := by
  rw [partStart, Nat.add_zero]
  exact max_eq_left (Nat.div_mul_le_self va B)

/-- The first `m` parts reach to the end of the access or of their last block. -/
theorem sum_partLen_upto {B va n : Nat} (hB : 0 < B) (hn : 0 < n) {m : Nat} (hm : m ≤ partCount B va n) :
    ((List.range m).map (partLen B va n)).sum = min (va + n) (max va ((va / B + m) * B)) - va := by
  induction m with
  | zero =>
    have := Nat.div_mul_le_self va B
    simp only [List.range_zero, List.map_nil, List.sum_nil, Nat.add_zero]
    omega
  | succ m ih =>
    have hle : (va / B + m) * B ≤ va + n - 1 := by
      have hblock : va / B + m ≤ (va + n - 1) / B := by
        have := Nat.div_le_div_right (c := B) (show va ≤ va + n - 1 by omega)
        rw [partCount] at hm
        omega
      exact (Nat.mul_le_mul_right B hblock).trans (Nat.div_mul_le_self _ _)
    have hpast : va < (va / B + m + 1) * B := by
      have hlast := Nat.lt_div_mul_add hB (a := va)
      calc va < va / B * B + B := hlast
        _ = (va / B + 1) * B := by ring
        _ ≤ (va / B + m + 1) * B := Nat.mul_le_mul_right B (by omega)
    have hstep : (va / B + m + 1) * B = (va / B + m) * B + B := by ring
    rw [List.range_succ, List.map_append, List.sum_append, ih (by omega), List.map_singleton, List.sum_singleton, partLen, partStart,
      ← Nat.add_assoc]
    omega

/-- The parts of an access hold all its bytes. -/
theorem sum_partLen {B va n : Nat} (hB : 0 < B) (hn : 0 < n) :
    ((List.range (partCount B va n)).map (partLen B va n)).sum = n := by
  have hend : va + n ≤ (va / B + partCount B va n) * B := by
    have hlast := Nat.lt_div_mul_add hB (a := va + n - 1)
    have hcount : (va + n - 1) / B + 1 ≤ va / B + partCount B va n := by
      rw [partCount]
      omega
    have hmul := Nat.mul_le_mul_right B hcount
    have : ((va + n - 1) / B + 1) * B = (va + n - 1) / B * B + B := by ring
    omega
  rw [sum_partLen_upto hB hn le_rfl]
  omega

/-! ### Spans -/

/-- The spans begin at `va` and hold `n` bytes together. -/
def SpansOf (va n : Nat) (l : List Span) : Prop := (∀ z, (l.headD z).va = va) ∧ (0 < n → (l.map (·.len)).sum = n)

/-- Spans that stand, one for one, for the parts of an access. -/
theorem spansOf_of_parts {B va n : Nat} {l : List Span} (hB : 0 < B)
    (h : l.map (fun sp => (sp.va, sp.len)) = (List.range (partCount B va n)).map fun i => (partStart B va i, partLen B va n i)) : SpansOf va n l := by
  refine ⟨fun z => ?_, fun hn => ?_⟩
  · rw [partCount, List.range_succ_eq_map, List.map_cons, partStart_zero] at h
    obtain ⟨sp, l', rfl, hsp, -⟩ := List.map_eq_cons_iff.mp h
    exact congrArg Prod.fst hsp
  · have hlen := congrArg (List.map Prod.snd) h
    rw [List.map_map, List.map_map] at hlen
    exact (congrArg List.sum hlen).trans (sum_partLen hB hn)

theorem granules_eq (va n : Nat) : granules va n = (List.range (partCount 65536 va n)).map fun i => (partStart 65536 va i, partLen 65536 va n i) := rfl

theorem walkSpans_parts {cluster ctx : Nat} {l : List (Nat × Nat)} {s u : State} {sp : List Span}
    (h : walkSpans cluster ctx l s = .ok (.ok sp, u)) : sp.map (fun x => (x.va, x.len)) = l := by
  induction l generalizing s u sp with
  | nil =>
    cases h
    rfl
  | cons g l ih =>
    obtain ⟨⟨x, s1⟩, -, hx⟩ := exists_of_bind_eq_ok h
    cases x with
    | error c => cases hx
    | ok leaf =>
      obtain ⟨⟨y, s2⟩, hrest, hy⟩ := exists_of_bind_eq_ok hx
      cases y with
      | error c => cases hy
      | ok rest =>
        cases hy
        rw [List.map_cons, ih hrest]
        rfl

theorem checkAccess_spansOf {p : Bool} {cluster ctx : Nat} {acc : Acc} {va n : Nat} {s u : State} {sp : List Span}
    (h : checkAccess p cluster ctx acc va n s = .ok (.ok sp, u)) : SpansOf va n sp := by
  unfold checkAccess at h
  split at h
  · cases h
  · split_ifs at h
    · cases h
    · cases h
    · obtain ⟨⟨x, s1⟩, hwalk, hx⟩ := exists_of_bind_eq_ok h
      cases x with
      | error c => cases hx
      | ok l =>
        dsimp only at hx
        split at hx
        · cases hx
        · cases hx
          exact spansOf_of_parts (by decide) ((walkSpans_parts hwalk).trans (granules_eq va n))

/-- A list built from the right, an entry for each index, with what each entry shows. -/
theorem foldr_option_map {α β : Type} {f : Nat → Option (List α) → Option (List α)} {g : α → β} {w : Nat → β}
    (hf : ∀ i acc l, f i acc = some l → ∃ x l', acc = some l' ∧ l = x :: l' ∧ g x = w i) (js : List Nat) {l : List α}
    (h : js.foldr f (some []) = some l) : l.map g = js.map w := by
  induction js generalizing l with
  | nil =>
    cases h
    rfl
  | cons i js ih =>
    obtain ⟨x, l', hl', rfl, hx⟩ := hf i _ l h
    rw [List.map_cons, List.map_cons, hx, ih hl']

theorem l1Spans_spansOf {s : State} {va n : Nat} {sp : List Span} (h : l1Spans s va n = some sp) : SpansOf va n sp := by
  refine spansOf_of_parts (B := 16) (by decide) (foldr_option_map (fun i acc l hl => ?_) _ h)
  split at hl
  · next l' x _ => exact ⟨_, l', rfl, (Option.some.inj hl).symm, rfl⟩
  · cases hl

/-! ### Lanes -/

/-- A lane's piece belongs to its access: the lane's number, and, without a fault, spans that are the access's. -/
def LaneOf (n : Nat) (a : LaneAcc) (x : Nat × Nat) : Prop := a.lane = x.1 ∧ (a.fault = none → SpansOf x.2 n a.spans)

theorem checkLanes_laneOf {acc : Acc} {by1 : Bool} {n : Nat} {lanes : List (Nat × Nat)} {s u : State} {r : List LaneAcc}
    (h : checkLanes acc by1 n lanes s = .ok (r, u)) : List.Forall₂ (LaneOf n) r lanes := by
  induction lanes generalizing s u r with
  | nil =>
    cases h
    exact .nil
  | cons x lanes ih =>
    unfold checkLanes at h
    split at h
    · next sp hsp =>
      obtain ⟨⟨y, s1⟩, hrest, hy⟩ := exists_of_bind_eq_ok h
      cases hy
      refine .cons ⟨rfl, fun _ => ?_⟩ (ih hrest)
      split_ifs at hsp
      split at hsp
      · exact l1Spans_spansOf hsp
      · cases hsp
    · obtain ⟨⟨y, s1⟩, hcheck, hy⟩ := exists_of_bind_eq_ok h
      obtain ⟨⟨z, s2⟩, hrest, hz⟩ := exists_of_bind_eq_ok hy
      cases y with
      | error f =>
        cases hz
        exact .cons ⟨rfl, fun hf => by cases hf⟩ (ih hrest)
      | ok sp =>
        cases hz
        exact .cons ⟨rfl, fun _ => checkAccess_spansOf hcheck⟩ (ih hrest)

/-- No lane of an access that passes its checks has a fault. -/
theorem fault_eq_none_of_laneFault {absCause : Option Nat} {r : List LaneAcc} (h : laneFault absCause r = none) : ∀ a ∈ r, a.fault = none := by
  induction r with
  | nil => simp
  | cons a r ih =>
    unfold laneFault at h
    split at h
    · cases h
    · cases h
    · next hnone _ => exact List.forall_mem_cons.mpr ⟨hnone, ih h⟩

end Sys2Proof.Proofs
end

section
/-! PROOFS. What a load changes besides its skein: translations, copies, leases, corrected errors (04 R108, R117, 02 R70, R73). -/
namespace Sys2Proof.Proofs
open Sys2Proof Sys2Proof.Machine Sys2Proof.Laws Sys2Proof.Claims

/-- `u` is `s` but for what is translated, copied, leased and corrected, and for ERRCNT. -/
def CachesOnly (s u : State) : Prop :=
  (∃ tlb l1 lineE lineL l2 soft pr,
    u = { s with hm := { s.hm with tlb := tlb, l1 := l1, lineE := lineE, lineL := lineL, l2 := l2, soft := soft }, preg := pr }) ∧
    ∀ j, j ≠ 0x21 → preg u j = preg s j

theorem CachesOnly.refl (s : State) : CachesOnly s s := ⟨⟨_, _, _, _, _, _, _, rfl⟩, fun _ _ => rfl⟩

theorem CachesOnly.trans {s t u : State} (h : CachesOnly s t) (h' : CachesOnly t u) : CachesOnly s u := by
  obtain ⟨⟨_, _, _, _, _, _, _, ht⟩, hp⟩ := h
  obtain ⟨⟨_, _, _, _, _, _, _, rfl⟩, hp'⟩ := h'
  exact ⟨⟨_, _, _, _, _, _, _, by rw [ht]⟩, fun j hj => (hp' j hj).trans (hp j hj)⟩

theorem TlbsOnly.cachesOnly {s u : State} (h : TlbsOnly s u) : CachesOnly s u := by
  obtain ⟨_, rfl⟩ := h
  exact ⟨⟨_, _, _, _, _, _, _, rfl⟩, fun _ _ => rfl⟩

theorem CachesOnly.k_eq {s u : State} (h : CachesOnly s u) : u.k = s.k := by
  obtain ⟨⟨_, _, _, _, _, _, _, rfl⟩, -⟩ := h
  rfl

theorem CachesOnly.free_eq {s u : State} (h : CachesOnly s u) : u.free = s.free := by
  obtain ⟨⟨_, _, _, _, _, _, _, rfl⟩, -⟩ := h
  rfl

/-- A fold of operations on a list that each change no more. -/
theorem cachesOnly_foldl {α : Type} {f : State → α → State} (hf : ∀ t x, CachesOnly t (f t x)) (l : List α) (s : State) :
    CachesOnly s (l.foldl f s) :=
  List.foldlRecOn l f (.refl s) fun t ht x _ => ht.trans (hf t x)

theorem cachesOnly_setPreg_errcnt (v : Word64) (s : State) : CachesOnly s (setPreg 0x21 v s) :=
  ⟨⟨_, _, _, _, _, _, _, rfl⟩, fun _ hj => preg_setPreg_of_ne _ _ hj⟩

theorem countUncorr_cachesOnly (n : Nat) (s : State) : CachesOnly s (countUncorr n s) := cachesOnly_setPreg_errcnt _ s

theorem countCorr_cachesOnly (n : Nat) (s : State) : CachesOnly s (countCorr n s) := cachesOnly_setPreg_errcnt _ s

theorem correctLine_cachesOnly (line : Nat) (s : State) : CachesOnly s (correctLine line s) := by
  unfold correctLine
  dsimp only
  split
  · exact .refl s
  · exact CachesOnly.trans ⟨⟨_, _, _, _, _, _, _, rfl⟩, fun _ _ => rfl⟩ (countCorr_cachesOnly _ _)

theorem l2Access_cachesOnly (first : Bool) (line : Nat) (s : State) : CachesOnly s (l2Access first line s) := by
  unfold l2Access
  split
  · exact .refl s
  · dsimp only
    split
    · exact correctLine_cachesOnly line s
    · exact (correctLine_cachesOnly line s).trans (.trans ⟨⟨_, _, _, _, _, _, _, rfl⟩, fun _ _ => rfl⟩ (countUncorr_cachesOnly _ _))

theorem grant_cachesOnly (fused : Bool) (core ctx va16 key16 : Nat) (s : State) : CachesOnly s (grant fused core ctx va16 key16 s) := by
  unfold grant
  dsimp only
  split
  · exact .refl s
  · exact ⟨⟨_, _, _, _, _, _, _, rfl⟩, fun _ _ => rfl⟩

theorem touchSectors_cachesOnly (pol : Nat) (sp : Span) (s : State) : CachesOnly s (touchSectors pol sp s) := by
  unfold touchSectors
  split
  · exact .refl s
  · refine cachesOnly_foldl (fun t i => ?_) _ s
    split
    · exact l2Access_cachesOnly _ _ t
    · split
      · exact .refl t
      · exact (l2Access_cachesOnly _ _ t).trans (grant_cachesOnly _ _ _ _ _ _)

/-! ### Loads -/

/-- The READs of an access whose host pages are all answered with OK are over (17 R432). -/
theorem hostReady_of_answered {r : List LaneAcc} {s : State}
    (h : ∀ a ∈ r, ∀ x ∈ hostParts a.spans, hostStatus (skeinReader s.k) s x = some 0) : hostReady r s = .ok s := by
  have hfail : r.find? (fun a => (hostParts a.spans).any fun x => decide (hostStatus (skeinReader s.k) s x = some 5)) = none :=
    List.find?_eq_none.mpr fun a ha => by
      simp only [List.any_eq_true, decide_eq_true_eq, not_exists, not_and]
      intro x hx
      simp [h a ha x hx]
  have hall : (r.flatMap fun a => hostParts a.spans).all (fun x => decide (hostStatus (skeinReader s.k) s x = some 0)) = true := by
    simp only [List.all_eq_true, List.mem_flatMap, decide_eq_true_eq]
    rintro x ⟨a, ha, hx⟩
    exact h a ha x hx
  rw [hostReady, hfail]
  dsimp only
  rw [if_pos hall]

theorem badTrap_eq_none {r : List LaneAcc} {s : State} (h : ∀ a ∈ r, badWord s a = none) :
    r.findSome? (fun a => (badWord s a).map fun va => trapAt 17 1 a.lane va) = none :=
  List.findSome?_eq_none_iff.mpr fun a ha => by rw [h a ha, Option.map_none]

/-- Where a load may be answered, of the view of the machine (04 R109, R117, R121). -/
def loadView (acq : Bool) (pol : Nat) (cl : Bool) : View := if !acq && !nbit pol 0 then .l1 else if acq && cl then .slice else .home

/-- The skein after a load whose latest read time is `t`. -/
def noteLoad (acq : Bool) (lanes : List (Nat × Nat)) (t : Nat) (k : Skein) : Skein :=
  if lanes.isEmpty then k else { k with lastRead := max k.lastRead t, floor := if acq then max k.floor t else k.floor }

/-- What one lane of a load touches of the caches. -/
def touchLane (pol : Nat) (s : State) (a : LaneAcc) : State :=
  if (absentAt a).isSome then s else a.spans.foldl (fun s sp => touchSectors pol sp s) s

theorem touchLane_cachesOnly (pol : Nat) (s : State) (a : LaneAcc) : CachesOnly s (touchLane pol s a) := by
  unfold touchLane
  split
  · exact .refl s
  · exact cachesOnly_foldl (fun t sp => touchSectors_cachesOnly pol sp t) _ s

/-- A load that passes its checks returns each lane's bytes as its skein sees them now; besides its skein it changes caches, leases and
corrected errors alone. -/
theorem loadLanes_eq_ok {acq nf cl : Bool} {pol n : Nat} {lanes : List (Nat × Nat)} {s u : State} {r : List LaneAcc}
    (hres : resolve .read (!acq && !nbit pol 0) (if nf then none else some 1) n lanes s = .ok (r, u)) (hbad : ∀ a ∈ r, badWord s a = none)
    (hhost : ∀ a ∈ r, ∀ x ∈ hostParts a.spans, hostStatus (skeinReader s.k) s x = some 0) :
    ∃ w, CachesOnly s w ∧ loadLanes acq nf pol n lanes s cl =
      .ok (r.map (laneData (loadView acq pol cl) n s), { w with k := noteLoad acq lanes (s.gtime + loadDelay n lanes r s) s.k, free := s.free + 1 }) := by
  have hu := resolve_tlbsOnly hres
  have htouch := cachesOnly_foldl (touchLane_cachesOnly (if !acq && !nbit pol 0 then pol else Nat.lor pol 1)) r u
  refine ⟨_, hu.cachesOnly.trans htouch, ?_⟩
  have hrun : loadLanes acq nf pol n lanes s cl = .ok (r.map (laneData (loadView acq pol cl) n u),
      { r.foldl (touchLane (if !acq && !nbit pol 0 then pol else Nat.lor pol 1)) u with
        k := noteLoad acq lanes (u.gtime + loadDelay n lanes r u) (r.foldl (touchLane (if !acq && !nbit pol 0 then pol else Nat.lor pol 1)) u).k,
        free := (r.foldl (touchLane (if !acq && !nbit pol 0 then pol else Nat.lor pol 1)) u).free + 1 }) := by
    have hready : hostReady r u = .ok u := by
      obtain ⟨tlb, rfl⟩ := hu
      exact hostReady_of_answered hhost
    rw [loadLanes, bind_of_eq_ok _ hres]
    dsimp only
    rw [bind_of_eq_ok _ hready, badTrap_eq_none hbad]
    rfl
  rw [hrun, htouch.k_eq, htouch.free_eq]
  obtain ⟨tlb, rfl⟩ := hu
  rfl

end Sys2Proof.Proofs
end

section
/-! PROOFS. Lane and uniform loads (10 R284, R285, 01 R32, 04 R117). -/
namespace Sys2Proof.Proofs
open Sys2Proof Sys2Proof.Machine Sys2Proof.Laws Sys2Proof.Claims

/-! ### Register writes as the statements give them -/

theorem lanesWritten_wrV (act : Word32) (d : Nat) (f : Nat → Word32) (k : Skein) :
    LanesWritten act (fun L => ren k L d) f k.v (wrV act d f k).v := by
  intro n L hL
  rw [wrV_v, getV_putV _ _ _ _ _ _ hL]

theorem pairsWritten_wrV2 (act : Word32) (d : Nat) (f : Nat → Word64) (k : Skein) :
    PairsWritten act (fun L => ren k L d) f k.v (wrV2 act d f k).v := by
  intro n L hL
  have hlow : (f L).extractLsb' 0 32 = nat32 ((f L).toNat % 2 ^ 32) := BitVec.eq_of_toNat_eq (by simp [nat32])
  have hhigh : (f L).extractLsb' 32 32 = nat32 ((f L).toNat / 2 ^ 32) := BitVec.eq_of_toNat_eq (by simp [nat32, Nat.shiftRight_eq_div_pow])
  simp only [wrV2, getV_putV _ _ _ _ _ _ hL, hlow, hhigh]
  by_cases hlo : n = ren k L d
  · simp [hlo]
  · simp [hlo]

theorem uniformWritten_wrG (d : Nat) (x : Word64) (k k' : Skein) (h : k'.g = (wrG d x k).g) : UniformWritten d x k k' := by
  intro n
  have hread : rdG k' n = rdG (wrG d x k) n := by rw [rdG, rdG, h]
  rw [hread, rdG_wrG]
  by_cases hn : n = d
  · subst hn
    rfl
  · simp [hn]

/-- p7 after the marked lanes have lost their bits; no other predicate changes (01 R32). -/
theorem laneOn_rdP_clearP7 (m : Word32) (k : Skein) (n L : Nat) (hL : L < 32) :
    laneOn (rdP (clearP7 m k) n) L = (laneOn (rdP k n) L && !(decide (n = 7) && laneOn m L)) := by
  rw [clearP7, rdP_wrP]
  by_cases hn : n = 7
  · simp [hn, laneOn_and, laneOn_not _ _ hL]
  · simp [hn]

/-! ### The bytes of a lane -/

theorem ofBytes_zeros (n : Nat) : ofBytes (List.replicate n 0#8) = 0 := by
  induction n with
  | zero => rfl
  | succ n ih => rw [List.replicate_succ, ofBytes, ih]; rfl

/-- A lane's piece and its access are found together. -/
theorem find_laneOf {n : Nat} {r : List LaneAcc} {lanes : List (Nat × Nat)} (h : List.Forall₂ (LaneOf n) r lanes) (L : Nat) :
    (r.find? (fun a => decide (a.lane = L)) = none ∧ lanes.find? (fun x => decide (x.1 = L)) = none) ∨
      ∃ a x, r.find? (fun a => decide (a.lane = L)) = some a ∧ lanes.find? (fun x => decide (x.1 = L)) = some x ∧ a ∈ r ∧ LaneOf n a x := by
  induction h with
  | nil => exact .inl ⟨rfl, rfl⟩
  | @cons a x r lanes hax _ ih =>
    by_cases hL : a.lane = L
    · have hx : x.1 = L := hax.1 ▸ hL
      exact .inr ⟨a, x, by simp [hL], by simp [hx], List.mem_cons_self, hax⟩
    · have hx : x.1 ≠ L := hax.1 ▸ hL
      simp only [List.find?_cons, hL, hx, decide_false, List.mem_cons]
      exact ih.imp_right fun ⟨a, x, ha, hx, hmem, hax⟩ => ⟨a, x, ha, hx, .inr hmem, hax⟩

theorem absent_laneData (v : View) (n : Nat) (s : State) (a : LaneAcc) :
    (laneData v n s a).lane = a.lane ∧ (laneData v n s a).absent = (absentAt a).isSome := by
  cases habs : (absentAt a).isSome <;> simp [laneData, habs]

theorem laneBytes_map_laneData (v : View) (n : Nat) (s : State) (r : List LaneAcc) (L : Nat) :
    laneBytes (r.map (laneData v n s)) L = ((r.find? fun a => decide (a.lane = L)).map fun a => (laneData v n s a).bytes).getD [] := by
  have hlane : ((fun x : Loaded => decide (x.lane = L)) ∘ laneData v n s) = fun a => decide (a.lane = L) := by
    funext a
    rw [Function.comp_apply, (absent_laneData v n s a).1]
  rw [laneBytes, List.find?_map, hlane, Option.map_map]
  rfl

/-- The bytes of a lane that meets no ABSENT page, span by span, at their read times. -/
theorem bytes_laneData_present {v : View} {n va L : Nat} {s : State} {a : LaneAcc} (habs : (absentAt a).isSome = false) (hva : ∀ z, (a.spans.headD z).va = va)
    (hL : a.lane = L) : (laneData v n s a).bytes = a.spans.flatMap fun sp => (List.range sp.len).map fun i =>
      viewByte s (sp.va + i) (sp.key + i) (spanCopy v s sp i) (if a.hit then 0 else readDelay s L va n (sp.va + i)) := by
  have hpresent : ∀ sp ∈ a.spans, sp.absent = false := by
    simpa [absentAt] using habs
  rw [laneData]
  simp only [habs, Bool.false_eq_true, if_false, hva, hL, List.flatMap]
  congr 1
  refine List.map_congr_left fun sp hsp => ?_
  rw [spanBytes, hpresent sp hsp, if_neg Bool.false_ne_true]

theorem bytes_laneData_absent {v : View} {n : Nat} {s : State} {a : LaneAcc} (habs : (absentAt a).isSome = true) :
    (laneData v n s a).bytes = List.replicate n 0#8 := by
  rw [laneData]
  simp only [habs, if_true]

/-- A lane's bytes are as many as its load is wide. -/
theorem length_bytes_laneData {v : View} {n : Nat} {s : State} {a : LaneAcc} {x : Nat × Nat} (h : LaneOf n a x) (hf : a.fault = none) (hn : 0 < n) :
    (laneData v n s a).bytes.length = n := by
  obtain ⟨hlane, hspans⟩ := h
  obtain ⟨hva, hlen⟩ := hspans hf
  cases habs : (absentAt a).isSome with
  | true => rw [bytes_laneData_absent habs, List.length_replicate]
  | false =>
    rw [bytes_laneData_present habs hva hlane, List.length_flatMap]
    simpa using hlen hn

/-- What the machine loads for a lane is what the statements say it reads. -/
theorem loaded_eq {row : LoadRow} {s : State} {r : List LaneAcc} (h : List.Forall₂ (LaneOf row.n) r row.acc) (hf : ∀ a ∈ r, a.fault = none) (L : Nat) :
    loaded row s r L = ofBytes (laneBytes (r.map (laneData (answeredBy row.pfx) row.n s)) L) := by
  rw [laneBytes_map_laneData, loaded]
  obtain ⟨ha, hx⟩ | ⟨a, x, ha, hx, hmem, hax⟩ := find_laneOf h L
  · rw [ha, hx]
    rfl
  · have hL : a.lane = L := by simpa using List.find?_some ha
    obtain ⟨hva, -⟩ := hax.2 (hf a hmem)
    rw [ha, hx, Option.map_some, Option.getD_some]
    cases habs : (absentAt a).isSome with
    | true => simp only [habs, if_true, bytes_laneData_absent habs, ofBytes_zeros]
    | false =>
      simp only [habs, Bool.false_eq_true, if_false]
      rw [bytes_laneData_present habs hva hL]

theorem loaded_lt {row : LoadRow} {s : State} {r : List LaneAcc} (h : List.Forall₂ (LaneOf row.n) r row.acc) (hf : ∀ a ∈ r, a.fault = none)
    (hn : 0 < row.n) (L : Nat) : loaded row s r L < 2 ^ (8 * row.n) := by
  rw [loaded_eq h hf, laneBytes_map_laneData]
  obtain ⟨ha, -⟩ | ⟨a, x, ha, -, hmem, hax⟩ := find_laneOf h L
  · rw [ha]
    exact Nat.two_pow_pos _
  · have hlt := ofBytes_lt (laneData (answeredBy row.pfx) row.n s a).bytes
    rw [length_bytes_laneData hax (hf a hmem) hn, pow_256] at hlt
    rwa [ha]

/-- Marked lanes are those that the statements call marked (01 R32). -/
theorem laneOn_markedLanes (v : View) (n : Nat) (s : State) (r : List LaneAcc) {L : Nat} (hL : L < 32) :
    laneOn (markedLanes (r.map (laneData v n s))) L = marked r L := by
  rw [markedLanes, laneOn_maskOf _ _ hL, marked, List.any_map]
  congr 1
  funext a
  obtain ⟨hlane, habs⟩ := absent_laneData v n s a
  rw [Function.comp_apply, hlane, habs]

/-! ### The instructions -/

theorem words_eq_pfxLen {α : Type} (x : Option α) : words x = pfxLen x := by cases x <;> rfl

theorem relFirst_ok {rel : Bool} {scope : Nat} {s : State} (h : released rel scope s) : relFirst rel scope s = .ok s := by
  cases rel with
  | false => rfl
  | true => exact release_ok (h rfl)

/-- A load whose accesses pass, in a state that meets the statements' conditions. -/
theorem loadLanes_of_readable {row : LoadRow} {s : State} {r : List LaneAcc} (h : Readable row s r) :
    ∃ w, CachesOnly s w ∧ loadLanes (acqOf row.pfx) (nfOf row.pfx) (polOf row.pfx) row.n row.acc s (clusterAcq row.pfx) =
      .ok (r.map (laneData (answeredBy row.pfx) row.n s),
        { w with k := noteLoad (acqOf row.pfx) row.acc (s.gtime + loadDelay row.n row.acc r s) s.k, free := s.free + 1 }) := by
  obtain ⟨⟨u, hres⟩, hbad, hhost⟩ := h
  have hview : loadView (acqOf row.pfx) (polOf row.pfx) (clusterAcq row.pfx) = answeredBy row.pfx := by
    simp [loadView, answeredBy, plainLoad, nbit, clusterAcq]
  rw [← hview]
  exact loadLanes_eq_ok hres hbad hhost

theorem lanes_of_readable {row : LoadRow} {s : State} {r : List LaneAcc} (h : Readable row s r) :
    List.Forall₂ (LaneOf row.n) r row.acc ∧ ∀ a ∈ r, a.fault = none := by
  obtain ⟨⟨u, hres⟩, -⟩ := h
  obtain ⟨hlanes, hfault⟩ := resolve_eq_ok hres
  exact ⟨checkLanes_laneOf hlanes, fault_eq_none_of_laneFault hfault⟩

/-- The frame of a load: its skein apart, it changes what `CachesOnly` lets it. -/
theorem loadFrame_of_cachesOnly {row : LoadRow} {s w : State} {r : List LaneAcc} {k : Skein} (h : CachesOnly s w)
    (hk : let k0 := noteLoad (acqOf row.pfx) row.acc (s.gtime + loadDelay row.n row.acc r s) s.k
      k.lastRead = k0.lastRead ∧ k.floor = k0.floor) : LoadFrame row s r k { w with k := k, free := s.free + 1 } := by
  obtain ⟨⟨_, _, _, _, _, _, _, rfl⟩, hpreg⟩ := h
  obtain ⟨hread, hfloor⟩ := hk
  refine ⟨rfl, hpreg, rfl, ?_, ?_⟩
  · rw [hread, noteLoad]
    cases row.acc <;> rfl
  · rw [hfloor, noteLoad]
    cases row.acc <;> simp

/-- The latest read time and the acquire floor are all that a load notes of itself. -/
theorem noteLoad_eq (acq : Bool) (lanes : List (Nat × Nat)) (time : Nat) (k : Skein) :
    noteLoad acq lanes time k = { k with lastRead := (noteLoad acq lanes time k).lastRead, floor := (noteLoad acq lanes time k).floor } := by
  unfold noteLoad
  split <;> rfl

/-- The skein with the values loaded for the lanes of `act`: in single registers, or in pairs where the load is 8 bytes wide (10 R284). -/
def putLoaded (n : Nat) (act : Word32) (d : Nat) (val : Nat → Nat) (k : Skein) : Skein :=
  if n = 8 then wrV2 act d (fun L => w64 (val L)) k else wrV act d (fun L => w32 (val L)) k

theorem putLoaded_lanes {n : Nat} (hn : n ≠ 8) (act : Word32) (d : Nat) (val : Nat → Nat) (k : Skein) :
    LanesWritten act (fun L => ren k L d) (fun L => nat32 (val L)) k.v (putLoaded n act d val k).v := by
  rw [putLoaded, if_neg hn]
  exact lanesWritten_wrV act d _ k

theorem putLoaded_pairs (act : Word32) (d : Nat) (val : Nat → Nat) (k : Skein) :
    PairsWritten act (fun L => ren k L d) (fun L => nat64 (val L)) k.v (putLoaded 8 act d val k).v := by
  rw [putLoaded, if_pos rfl]
  exact pairsWritten_wrV2 act d _ k

/-- A lane load whose accesses pass, by its width and scale (10 R284). -/
theorem laneLoad_results {x : Option MemPfx} {g d a b n scale : Nat} {s : State} {r : List LaneAcc} {row : LoadRow}
    (hrow : row = ⟨x, n, laneAccesses x s.k g a b scale, { len := words x, vs := [(d, if n = 8 then 2 else 1), (a, 1)] }⟩)
    (hp : Passes row.req s) (hrel : released (relOf row.pfx) (scopeOf row.pfx) s) (hr : Readable row s r) :
    ∃ v p lr fl t, let k := { s.k with v := v, p := p, lastRead := lr, floor := fl }
      laneLoad x g d a b n scale s = .next (retire row.req.len t) ∧ LoadFrame row s r k t ∧
      (row.n ≠ 8 → LanesWritten (active s.k g) (fun L => ren s.k L d) (fun L => nat32 (loaded row s r L)) s.k.v v) ∧
      (row.n = 8 → PairsWritten (active s.k g) (fun L => ren s.k L d) (fun L => nat64 (loaded row s r L)) s.k.v v) ∧
      ∀ n L, L < 32 → laneOn (rdP k n) L = (laneOn (rdP s.k n) L && !(decide (n = 7) && marked r L)) := by
  obtain ⟨hlanes, hfault⟩ := lanes_of_readable hr
  obtain ⟨w, hw, hload⟩ := loadLanes_of_readable hr
  have hval : (fun L => ofBytes (laneBytes (r.map (laneData (answeredBy row.pfx) row.n s)) L)) = loaded row s r :=
    funext fun L => (loaded_eq hlanes hfault L).symm
  have hmark := fun L (hL : L < 32) => laneOn_markedLanes (answeredBy row.pfx) row.n s r hL
  generalize hout : r.map (laneData (answeredBy row.pfx) row.n s) = out at hload hval hmark
  generalize hnote : noteLoad (acqOf row.pfx) row.acc (s.gtime + loadDelay row.n row.acc r s) s.k = k0 at hload
  have hk0 : k0 = { s.k with lastRead := k0.lastRead, floor := k0.floor } := hnote ▸ noteLoad_eq _ _ _ _
  have hexec : laneLoad x g d a b n scale s = .next (retire row.req.len
      { w with k := clearP7 (markedLanes out) (putLoaded n (active s.k g) d (loaded row s r) k0), free := s.free + 1 }) := by
    rw [← hval]
    subst hrow
    rw [words_eq_pfxLen] at hp ⊢
    refine issue_eq_next hp ((bind_of_eq_ok _ (relFirst_ok hrel)).trans ((bind_of_eq_ok _ hload).trans ?_))
    rfl
  have hk : clearP7 (markedLanes out) (putLoaded n (active s.k g) d (loaded row s r) k0) =
      { s.k with v := (putLoaded n (active s.k g) d (loaded row s r) s.k).v, p := (clearP7 (markedLanes out) s.k).p,
                 lastRead := k0.lastRead, floor := k0.floor } := by
    rw [hk0]
    unfold putLoaded
    split <;> rfl
  rw [hk] at hexec
  have hn : row.n = n := hrow ▸ rfl
  refine ⟨_, _, _, _, _, hexec, loadFrame_of_cachesOnly hw (by rw [hnote]; exact ⟨rfl, rfl⟩), fun h8 => ?_, fun h8 => ?_, fun n L hL => ?_⟩
  · exact putLoaded_lanes (hn ▸ h8) _ _ _ _
  · obtain rfl : n = 8 := hn ▸ h8
    exact putLoaded_pairs _ _ _ _
  · rw [← hmark L hL]
    exact laneOn_rdP_clearP7 _ s.k n L hL

/-- p7 after a uniform load: an ABSENT page clears it for the entry (10 R285). -/
theorem laneOn_rdP_unless {c : Bool} {m : Word32} {k : Skein} {n L : Nat} (hL : L < 32) :
    laneOn (rdP (if c then clearP7 m k else k) n) L = (laneOn (rdP k n) L && !(decide (n = 7) && laneOn m L && c)) := by
  cases c
  · simp
  · simp [laneOn_rdP_clearP7 _ _ _ _ hL]

/-- The number in `n` loaded bytes as gld writes it: signed, or zero-extended (10 R285). -/
def gldValue (e n v : Nat) : Word64 := if e = 1 then Claims.int64 (signed (8 * n) v) else nat64 v

theorem gldValue_eq {e n v : Nat} (h : v < 2 ^ (8 * n)) : gldValue e n v = if e = 1 then BitVec.ofInt 64 (sxt (8 * n) v) else w64 v := by
  rw [sxt_eq_signed h]
  rfl

/-- A uniform access met an ABSENT page when its only lane did. -/
theorem any_absent_uniform {n va : Nat} {r : List LaneAcc} (v : View) (s : State) (h : List.Forall₂ (LaneOf n) r [(0xFF, va)]) :
    (r.map (laneData v n s)).any (·.absent) = marked r 0xFF := by
  cases h with
  | cons hy hnil =>
    cases hnil
    simp [marked, hy.1, (absent_laneData _ _ _ _).2]

/-- gld whose access passes (10 R285). -/
theorem gld_results {x : Option MemPfx} {d a b z e : Nat} {s : State} {r : List LaneAcc} {row : LoadRow}
    (hrow : row = ⟨x, 2 ^ z, [(0xFF, uniformAddr x s.k a b)], { len := words x }⟩)
    (hp : Passes row.req s) (hrel : released (relOf x) (scopeOf x) s) (hr : Readable row s r) :
    ∃ g p lr fl t, let k := { s.k with g := g, p := p, lastRead := lr, floor := fl }
      execGld x d a b z e s = .next (retire row.req.len t) ∧ LoadFrame row s r k t ∧
      UniformWritten d (if e = 1 then Claims.int64 (signed (8 * row.n) (loaded row s r 0xFF)) else nat64 (loaded row s r 0xFF)) s.k k ∧
      ∀ n L, L < 32 → laneOn (rdP k n) L = (laneOn (rdP s.k n) L && !(decide (n = 7) && laneOn s.k.e.mask L && marked r 0xFF)) := by
  obtain ⟨hlanes, hfault⟩ := lanes_of_readable hr
  obtain ⟨w, hw, hload⟩ := loadLanes_of_readable hr
  have hval := (loaded_eq (s := s) hlanes hfault 0xFF).symm
  have hlt := loaded_lt (s := s) hlanes hfault (by rw [hrow]; exact Nat.two_pow_pos z) 0xFF
  have hacc : row.acc = [(0xFF, uniformAddr x s.k a b)] := by rw [hrow]
  have hmark := any_absent_uniform (answeredBy row.pfx) s (hacc ▸ hlanes)
  generalize hout : r.map (laneData (answeredBy row.pfx) row.n s) = out at hload hval hmark
  generalize hnote : noteLoad (acqOf row.pfx) row.acc (s.gtime + loadDelay row.n row.acc r s) s.k = k0 at hload
  have hk0 : k0 = { s.k with lastRead := k0.lastRead, floor := k0.floor } := hnote ▸ noteLoad_eq _ _ _ _
  have hexec : execGld x d a b z e s = .next (retire row.req.len
      { w with k := wrG d (gldValue e row.n (loaded row s r 0xFF)) (if marked r 0xFF then clearP7 k0.e.mask k0 else k0), free := s.free + 1 }) := by
    rw [gldValue_eq hlt, ← hval, ← hmark]
    subst hrow
    rw [words_eq_pfxLen] at hp ⊢
    refine issue_eq_next hp ((bind_of_eq_ok _ (relFirst_ok hrel)).trans ((bind_of_eq_ok _ hload).trans ?_))
    rfl
  have hk (y : Word64) : wrG d y (if marked r 0xFF then clearP7 k0.e.mask k0 else k0) =
      { s.k with g := (wrG d y s.k).g, p := (if marked r 0xFF then clearP7 s.k.e.mask s.k else s.k).p, lastRead := k0.lastRead, floor := k0.floor } := by
    rw [hk0]
    unfold wrG
    split <;> split <;> rfl
  rw [hk] at hexec
  refine ⟨_, _, _, _, _, hexec, loadFrame_of_cachesOnly hw (by rw [hnote]; exact ⟨rfl, rfl⟩), uniformWritten_wrG d _ _ _ rfl, fun n L hL => ?_⟩
  exact laneOn_rdP_unless hL

/-- Settles O18: the four lane loads are one operation at four widths, and gld is its uniform form. -/
theorem loadResults : Obligations.LoadResults := by
  unfold Obligations.LoadResults
  refine ⟨fun i g d row s r _ hrow hi hp hrel hr => ?_, fun x d a b z e row s r _ hrow hp hrel hr => ?_⟩
  · obtain ⟨x, a, b, rfl⟩ | ⟨x, a, b, rfl⟩ | ⟨x, a, b, z, rfl⟩ | ⟨x, a, b, z, rfl⟩ := hi
    · exact laneLoad_results (n := 1) (scale := 1) (Option.some.inj hrow).symm hp hrel hr
    · exact laneLoad_results (n := 2) (scale := 1) (Option.some.inj hrow).symm hp hrel hr
    · exact laneLoad_results (n := 4) (Option.some.inj hrow).symm hp hrel hr
    · exact laneLoad_results (n := 8) (Option.some.inj hrow).symm hp hrel hr
  · exact gld_results (Option.some.inj hrow).symm hp hrel hr

end Sys2Proof.Proofs
end

section
/-! PROOFS. Counts and fences (08 R244, R245, 04 R115, R116, 16 R415). -/
namespace Sys2Proof.Proofs
open Sys2Proof Sys2Proof.Machine Sys2Proof.Laws Sys2Proof.Claims

theorem horizon_eq_horizonOf {scope : Nat} (k : Skein) (h : scope ≤ 4) : horizon k scope = horizonOf k scope := by
  interval_cases scope <;> rfl

/-- A release fence has nothing to wait for exactly when all is past in its scope and the crew has nothing parked (04 R115, 01 R37). -/
theorem releaseDone_iff {scope : Nat} {s : State} (h : scope ≤ 4) (hp : crewParked s = false) : releaseDone scope s = true ↔ allPast scope s := by
  simp only [releaseDone, allPast, storesDone, hp, horizon_eq_horizonOf s.k h, Bool.or_eq_true, Bool.and_eq_true, decide_eq_true_eq, List.all_eq_true,
    Bool.not_false, and_true, and_assoc, ne_eq, imp_iff_not_or]

/-- A release fence that has nothing to wait for leaves nothing under way, whatever its crew has parked. -/
theorem allPast_of_releaseDone {scope : Nat} {s : State} (h : scope ≤ 4) (hd : releaseDone scope s = true) : allPast scope s := by
  by_cases hp : crewParked s = true
  · exact .inl (by simpa [releaseDone, hp] using hd)
  · exact (releaseDone_iff h (by simpa using hp)).mp hd

theorem fence_waits {rel acq : Bool} {scope : Nat} {s : State} (hp : Passes {} s) (h : (rel = true ∧ releaseDone scope s = false) ∨ crewParked s = true) :
    fence rel acq scope s = .next (beginWait 0 0 s) := by
  rw [fence, issue_of_passes _ hp, if_pos (by simpa using h), conclude_wait]

theorem fence_ends {rel acq : Bool} {scope : Nat} {s : State} (hp : Passes {} s) (h : rel = true → releaseDone scope s = true) (hc : crewParked s = false) :
    fence rel acq scope s = .next (fenceEnd (if acq then acquire s else s)) := by
  rw [fence, issue_of_passes _ hp, if_neg (by simpa [hc] using h), conclude_ok]

/-- A fence with no fault to report, or in a handler, goes on. -/
theorem fenceEnd_retires {s : State} (h : s.crew.defStores = [] ∨ s.k.handler = true) : fenceEnd s = retire 1 s := by
  unfold fenceEnd
  split
  · next hd =>
    obtain h | h := h
    · rw [h] at hd
      cases hd
    · rw [if_pos h]
  · rfl

theorem fenceEnd_reports {d : DefStore} {l : List DefStore} {s : State} (h : s.crew.defStores = d :: l) (hh : s.k.handler = false) :
    fenceEnd s = reports d l s := by
  rw [fenceEnd, h]
  dsimp only
  rw [if_neg (by simp [hh])]
  rfl

theorem exec_waitc (l z c t : Nat) {s : State} (hp : Passes {} s) :
    exec (.waitc l z c t) s = if storeCount s ≤ z ∧ copyCount s ≤ c ∧ tileCount s ≤ t then .next (retire 1 s) else .next (beginWait 0 0 s) := by
  have harm : exec (.waitc l z c t) s = execWaitc l z c t s := rfl
  rw [harm, execWaitc, issue_of_passes _ hp]
  simp only [Nat.zero_le, true_and]
  split <;> rfl

/-- What fence.rel, fence.acq and fence.ar do, from what they wait for and how they end. -/
theorem fences_end {scope : Nat} {s : State} (hp : Passes {} s) (hs : scope ≤ 4) (hc : crewParked s = false) :
    exec (.fenceAcq scope) s = .next (fenceEnd (acquired s)) ∧
      (allPast scope s → exec (.fenceRel scope) s = .next (fenceEnd s) ∧ exec (.fenceAr scope) s = .next (fenceEnd (acquired s))) := by
  refine ⟨fence_ends (rel := false) (acq := true) (scope := 0) hp (by simp) hc, fun hpast => ?_⟩
  have hd := (releaseDone_iff hs hc).mpr hpast
  exact ⟨fence_ends (rel := true) (acq := false) hp (fun _ => hd) hc, fence_ends (rel := true) (acq := true) hp (fun _ => hd) hc⟩

/-- Settles O15: each fence waits by `fence_waits` or ends by `fence_ends`, and its end reports the oldest fault or goes on. -/
theorem countsAndFences : Obligations.CountsAndFences := by
  unfold Obligations.CountsAndFences
  refine ⟨fun s hp => ⟨fun l z c t _ => ?_, fun scope hs hc hq => ?_, fun scope hs hpast => ?_, fun hc scope => ?_⟩, fun scope d l s hp hs hc hd hh => ?_⟩
  · exact ⟨fun h => by rw [exec_waitc l z c t hp, if_pos h], fun h => by rw [exec_waitc l z c t hp, if_neg h]⟩
  · obtain ⟨hacq, hrel⟩ := fences_end hp hs hc
    rw [fenceEnd_retires hq, fenceEnd_retires (s := acquired s) hq] at hrel
    rw [fenceEnd_retires (s := acquired s) hq] at hacq
    exact ⟨hacq, hrel⟩
  · have hd : releaseDone scope s = false := Bool.eq_false_iff.mpr fun h => hpast (allPast_of_releaseDone hs h)
    exact ⟨fence_waits (acq := false) hp (.inl ⟨rfl, hd⟩), fence_waits (acq := true) hp (.inl ⟨rfl, hd⟩)⟩
  · exact ⟨fence_waits (rel := true) (acq := false) hp (.inr hc), fence_waits (rel := false) (acq := true) (scope := 0) hp (.inr hc),
      fence_waits (rel := true) (acq := true) hp (.inr hc)⟩
  · have hend := fences_end hp hs hc
    rwa [fenceEnd_reports hd hh, fenceEnd_reports (s := acquired s) hd hh] at hend

end Sys2Proof.Proofs
end

section
/-! PROOFS. Page requests (10 R289, 01 R38). -/
namespace Sys2Proof.Proofs
open Sys2Proof Sys2Proof.Machine Sys2Proof.Laws Sys2Proof.Claims

/-- Addresses that are canonical, and in the lower half where the context is unprivileged, pass pgreq's check (01 R15). -/
theorem pgCheck_eq_none {priv : Bool} {l : List (Nat × Nat)} (h : ∀ p ∈ l, canonical p.2 = true ∧ (priv = false → nb p.2 63 55 = 0)) :
    pgCheck priv l = none := by
  induction l with
  | nil => rfl
  | cons p l ih =>
    obtain ⟨hcan, hlow⟩ := h p List.mem_cons_self
    have hhalf : (!priv && decide (nb p.2 63 55 = 511)) = false := by
      cases priv
      · simp [hlow rfl]
      · rfl
    rw [pgCheck, hcan, hhalf, if_neg (by decide), if_neg (by decide)]
    exact ih fun q hq => h q (List.mem_cons_of_mem p hq)

/-- The codes that the skein keeps from its wait in this pgreq. -/
def keptCodes (k : Skein) : List (Nat × Nat) := match k.wait with | some w => if w.pc = k.e.pc ∧ w.kind = 9 then w.codes else [] | none => []

/-- pgreq past its address check: it goes on with the lanes' codes, or waits for a home. -/
theorem exec_pgreq {x : Option MemPfx} {g d a b : Nat} {r codes : List (Nat × Nat)} {s u : State}
    (hp : Passes { len := words x, vs := [(d, 1), (a, 1)] } s)
    (haddr : ∀ p ∈ laneAccesses x s.k g a b 1, canonical p.2 = true ∧ (isPriv s = false → nb p.2 63 55 = 0))
    (hcodes : pgLanes (keptCodes s.k) (laneAccesses x s.k g a b 1) s = .ok (r, codes, u)) :
    exec (.pgreq x g d a b) s = if codes.any (fun c => decide (c.2 = 8)) then .next (beginWait 9 1 (pgWait codes u)) else
      .next (retire (words x) { u with k := wrV (active s.k g) d (fun L => w32 (((r.find? fun o => decide (o.1 = L)).map (·.2)).getD 0)) u.k }) := by
  have harm : exec (.pgreq x g d a b) s = execPgreq x g d a b s := rfl
  have hcheck : pgCheck (isPriv s) (laneAddrs s.k (active s.k g) a b 1 (offOf x)) = none := pgCheck_eq_none haddr
  rw [words_eq_pfxLen] at hp ⊢
  rw [harm, execPgreq, issue_of_passes _ hp]
  dsimp only
  rw [hcheck]
  refine (congrArg _ (bind_of_eq_ok _ hcodes)).trans ?_
  dsimp only
  split <;> rfl

/-- Settles O37: the lanes' codes are written, or the skein waits with those it has. -/
theorem pageRequestCompletes : Obligations.PageRequestCompletes := by
  unfold Obligations.PageRequestCompletes
  intro x g d a b r codes s u _ hp haddr hcodes
  have hexec := exec_pgreq hp haddr hcodes
  refine ⟨fun hall => ?_, fun hwait => ?_⟩
  · have hnone : ¬ codes.any (fun c => decide (c.2 = 8)) = true := by
      simpa only [List.any_eq_true, decide_eq_true_eq, not_exists, not_and] using hall
    rw [if_neg hnone] at hexec
    refine ⟨_, hexec, fun n L hL => ?_⟩
    rw [getV_putV _ _ _ _ _ _ hL]
    dsimp only
    cases r.find? fun o => decide (o.1 = L) <;> rfl
  · rw [hexec, if_pos (by simpa using hwait)]

end Sys2Proof.Proofs
end

section
/-! PROOFS. Register writes that start a command (01 R28, R29, R44, 15 R397, 16 R426, 17 R434, R438). -/
namespace Sys2Proof.Proofs
open Sys2Proof Sys2Proof.Machine Sys2Proof.Laws Sys2Proof.Claims

/-! ### XLTINV -/

theorem exec_xltinv {x : Word64} (s : State) (hgo : x.getLsbD 0 = true) :
    (nb x.toNat 7 6 = 0 → exec (.xltinvPage x) s = .next (writeXltinv x s)) ∧
    (nb x.toNat 7 6 = 1 → exec (.xltinvContext x) s = .next (writeXltinv x s)) ∧
    (nb x.toNat 7 6 = 2 → exec (.xltinvAll x) s = .next (writeXltinv x s)) := by
  have hstart (kind : Nat) (h : nb x.toNat 7 6 = kind) : xltinvEvent kind x s = .next (writeXltinv x s) := by
    rw [xltinvEvent, if_pos ⟨h, hgo⟩]
  exact ⟨hstart 0, hstart 1, hstart 2⟩

/-- The command leaves GO clear, no command in progress, and nothing that it names in any cache (01 R28, R29). -/
theorem finishInv_leaves (v : Nat) (s : State) :
    let t := finishInv v s
    t.xl.inv = none ∧ (preg t 1).getLsbD 0 = false ∧ (∀ e ∈ t.hm.tlb, invHits v e.ctx e.base e.size = false) ∧
      (∀ e ∈ t.hm.l1, invHits v e.ctx (16 * e.va16) 16 = false) ∧ (∀ e ∈ t.hm.code, invHits v e.ctx (64 * e.line) 64 = false) ∧
      ∀ e ∈ t.hm.bricks, invHits v e.ctx e.va 1024 = false := by
  have hkept {α : Type} (f : α → Bool) (l : List α) : ∀ e ∈ l.filter (fun e => !f e), f e = false := fun e he => by
    simpa using (List.mem_filter.mp he).2
  refine ⟨rfl, ?_, hkept _ _, hkept _ _, hkept _ _, hkept _ _⟩
  have hgo : ∃ n u, preg (finishInv v s) 1 = preg (setPreg 1 (w64 (n / 2 * 2)) u) 1 := ⟨_, _, rfl⟩
  obtain ⟨n, u, hn⟩ := hgo
  rw [hn, preg_setPreg_same, BitVec.getLsbD, w64, BitVec.toNat_ofNat, Nat.testBit_zero]
  simp

theorem exec_xltinvComplete {v : Word64} {s : State} (hv : s.xl.inv = some v)
    (hwait : ∀ st ∈ s.hm.inflight, storeWaits s st = true → invUnder v.toNat s st = false) :
    exec .xltinvComplete s = .next (finishInv v.toNat s) := by
  have harm : exec .xltinvComplete s = execXltinvComplete s := rfl
  have hnone : s.hm.inflight.any (fun st => storeWaits s st && invUnder v.toNat s st) = false := by
    simpa using hwait
  rw [harm, execXltinvComplete, hv]
  dsimp only
  rw [hnone, if_neg Bool.false_ne_true]

/-! ### Frames, queues, joining and killing -/

/-- A frame goes to a stack in memory; one that names no memory stops the machine (log entry 77). -/
theorem exec_frmgive (x : Word64) (s : State) :
    (frmOk s 0 = true → exec (.frmgive64 x) s = .next (giveFrame 0 x s)) ∧ (frmOk s 0 = false → exec (.frmgive64 x) s = .fault .noSuchMemory) ∧
    (frmOk s 1 = true → exec (.frmgive2m x) s = .next (giveFrame 1 x s)) ∧ (frmOk s 1 = false → exec (.frmgive2m x) s = .fault .noSuchMemory) := by
  have h64 : exec (.frmgive64 x) s = execFrmgive64 x s := rfl
  have h2m : exec (.frmgive2m x) s = execFrmgive2m x s := rfl
  rw [h64, h2m, execFrmgive64, execFrmgive2m]
  exact ⟨fun h => if_pos h, fun h => if_neg (by simp [h]), fun h => if_pos h, fun h => if_neg (by simp [h])⟩

/-- A command of QCTL is carried out where the queue's record is in memory, and CLOSE without it (log entries 44, 77). -/
theorem qctlEvent_next {cmd : Nat} {x : Word64} {s : State} (hcmd : nb x.toNat 17 16 = cmd) (hok : cmd = 2 ∨ queueOk s (nb x.toNat 13 0) = true) :
    qctlEvent cmd x s = .next (writeQctl x s) := by
  rw [qctlEvent, if_neg (not_not.mpr hcmd), if_neg]
  rintro ⟨hne, hbad⟩
  obtain h | h := hok
  · exact hne h
  · rw [h] at hbad
    exact absurd hbad (by decide)

theorem qctlEvent_fault {cmd : Nat} {x : Word64} {s : State} (hcmd : nb x.toNat 17 16 = cmd) (hne : cmd ≠ 2) (hbad : queueOk s (nb x.toNat 13 0) = false) :
    qctlEvent cmd x s = .fault .noSuchMemory := by
  rw [qctlEvent, if_neg (not_not.mpr hcmd), if_pos ⟨hne, by rw [hbad]; rfl⟩]

theorem exec_joinComplete {s : State} (hbusy : (preg s 0x1A).getLsbD 2 = true) (hsynced : (preg s 0x1A).getLsbD 5 = true) (hacks : s.fab.joinWait = []) :
    exec .joinComplete s = .next (setFabBit 4 true (setFabBit 2 false s)) := by
  have harm : exec .joinComplete s = execJoinComplete s := rfl
  rw [harm, execJoinComplete, if_pos ⟨hbusy, hsynced, hacks⟩]

/-- Settles O40: each event's guard is the statement's condition; what an invalidation leaves is `finishInv_leaves`. -/
theorem commandEventsComplete : Obligations.CommandEventsComplete := by
  unfold Obligations.CommandEventsComplete
  intro x s
  obtain ⟨hgive64, hstop64, hgive2m, hstop2m⟩ := exec_frmgive x s
  refine ⟨exec_xltinv s, fun v hv hwait => ⟨_, exec_xltinvComplete hv hwait, rfl, finishInv_leaves v.toNat s⟩, hgive64, hstop64, hgive2m, hstop2m,
    fun hclose => qctlEvent_next hclose (.inl rfl), fun hok => ⟨fun h => qctlEvent_next h (.inr hok), fun h => qctlEvent_next h (.inr hok)⟩,
    fun hbad => ⟨fun h => qctlEvent_fault h (by decide) hbad, fun h => qctlEvent_fault h (by decide) hbad⟩,
    fun hjoin => if_pos hjoin, fun hleave => if_pos hleave, exec_joinComplete, fun c hkill => if_pos hkill⟩

end Sys2Proof.Proofs
end

section
/-! PROOFS. Events at the homes (01 R34 to R42, 02 R73, 04 R105 to R108, R118, 05 R138, 17 R432). -/
namespace Sys2Proof.Proofs
open Sys2Proof Sys2Proof.Machine Sys2Proof.Laws Sys2Proof.Claims

/-! ### Stores, atomics and reads -/

/-- A store that is the first of its skein to its line goes on: out to the host, or into its home (04 R107). -/
theorem exec_homeStore {n : Nat} {s : State} {st : Store} (hst : s.hm.inflight.find? (fun y => decide (y.sn = n)) = some st)
    (hfirst : ∀ y ∈ s.hm.inflight, y.uid = st.uid → y.line = st.line → n ≤ y.sn) (hheld : heldPage s (64 * st.line) = false) :
    exec (.homeStore n) s = if st.remote = some 255 then (if st.sent.isNone then .next (sendHostStore st s) else idle s) else .next (arriveHome st s) := by
  have harm : exec (.homeStore n) s = execHomeStore n s := rfl
  have hearlier : s.hm.inflight.any (fun x => decide (x.uid = st.uid) && decide (x.line = st.line) && decide (x.sn < n)) = false := by
    simpa [and_assoc] using hfirst
  rw [harm, execHomeStore, hst]
  dsimp only
  rw [hearlier, hheld, if_neg (by decide), deliver, hst]

theorem arriveHome_eq {n : Nat} {s : State} {st : Store} (hst : s.hm.inflight.find? (fun y => decide (y.sn = n)) = some st) :
    arriveHome st s = raiseDue st (completion s st.line)
      (homeAccept st { s with hm := { s.hm with inflight := s.hm.inflight.filter fun y => decide (y.sn ≠ n) } }) := by
  have hsn : st.sn = n := by simpa using List.find?_some hst
  rw [arriveHome, hsn]
  rfl

theorem exec_homeAtomic {n : Nat} {op : AtomOp} {s : State} (haop : op.aop ≤ 12) (hwide : op.w64 = true → op.aop < 10)
    (hal : n % (if op.w64 then 8 else 4) = 0) (hphys : n + (if op.w64 then 8 else 4) ≤ 2 ^ 38) (hheld : heldPage s n = false) :
    exec (.homeAtomic n op) s = .next (homeAtomicAt n op s).2 := by
  have harm : exec (.homeAtomic n op) s = execHomeAtomic n op s := rfl
  have hop : atomOpOk op = true := by
    cases hw : op.w64
    · simp [atomOpOk, haop, hw]
    · simp [atomOpOk, haop, hw, hwide hw]
  have hok : physOk n (if op.w64 then 8 else 4) = true := decide_eq_true hphys
  rw [harm, execHomeAtomic, if_neg (by simp [hop, hal, hok, hheld])]

/-- A home read of a page that answers loads and leaves the L1 its copies (04 R108). -/
theorem exec_homeRead {n ctx : Nat} {va : Word64} {l : Leaf} {s u : State} (hleaf : leafFor s (clusterOf n) ctx va.toNat = .ok (.ok l, u))
    (hres : l.resid ≠ 2) (hrd : l.rd = true) (hpol : l.cpol % 2 = 0) :
    exec (.homeRead n ctx va) s =
      if n < 2048 then .next (grant (fusedOn s n) (sliceCore (fusedOn s n) n va.toNat) ctx (va.toNat / 16) (keyOf l va.toNat / 16)
        (l2Access (l.cpol.testBit 1) (keyOf l va.toNat / 16 / 4) u))
      else if l.resid ≠ 0 then idle s
      else .next (grantFar ctx (keyOf l va.toNat / 16) (l2Access (l.cpol.testBit 1) (keyOf l va.toNat / 16 / 4) s)) := by
  have harm : exec (.homeRead n ctx va) s = execHomeRead n ctx va s := rfl
  rw [harm, execHomeRead, hleaf]
  dsimp only
  rw [if_neg (by simp [hres, hrd, nbit, hpol])]
  rfl

/-! ### Parked stores and page requests -/

theorem exec_parkedStorePerform {n : Nat} {s : State} {p : Parked} (hp : s.hm.parked.find? (fun q => decide (q.sn = n)) = some p) :
    (∀ l, leafAt s p.ctx p.page = some l → l.resid ≠ 2 → exec (.parkedStorePerform n) s = .next (orphanFaults (performPage p.ctx p.page s))) ∧
    (leafAt s p.ctx p.page = none → reqFor s p.ctx p.page = none →
      exec (.parkedStorePerform n) s = .next (orphanFaults (failParked 3 (fun q => decide (q.ctx = p.ctx) && decide (q.page = p.page)) s))) := by
  have harm : exec (.parkedStorePerform n) s = execParkedStorePerform n s := rfl
  rw [harm, execParkedStorePerform, hp]
  refine ⟨fun l hl hres => ?_, fun hl hreq => ?_⟩
  · simp only [hl, if_neg hres]
  · simp only [hl, hreq, Option.isSome_none, Bool.false_eq_true, if_false]

theorem exec_parkedStoreTimeout {n : Nat} {s : State} {p : Parked} (hp : s.hm.parked.find? (fun q => decide (q.sn = n)) = some p)
    (hexp : rtexpOf s p.ctx ≠ 0) (hover : p.since + 2 ^ rtexpOf s p.ctx < s.gtime) :
    exec (.parkedStoreTimeout n) s = .next (dropIdleReq p.ctx p.page (orphanFaults
      (failParked 4 (fun q => decide (q.sn = n) || (decide (q.ins = p.ins) && decide (q.page = p.page) && decide (q.ctx = p.ctx))) s))) := by
  have harm : exec (.parkedStoreTimeout n) s = execParkedStoreTimeout n s := rfl
  rw [harm, execParkedStoreTimeout, hp]
  exact if_pos ⟨hexp, hover⟩

theorem exec_pageRequestTimeout {n : Nat} {s : State} {w : PageWait} (hw : s.xl.waits.find? (fun w => decide (w.id = n)) = some w)
    (hexp : rtexpOf s w.ctx ≠ 0) (hover : w.since + 2 ^ rtexpOf s w.ctx ≤ s.gtime) :
    exec (.pageRequestTimeout n) s = .next (dropIdleReq w.ctx w.page { s with xl := { s.xl with
      waits := s.xl.waits.filter fun v => decide (v.id ≠ n), failing := s.xl.failing ++ [{ op := w.op, page := w.page, size := w.size, cause := 4 }] } }) := by
  have harm : exec (.pageRequestTimeout n) s = execPageRequestTimeout n s := rfl
  rw [harm, execPageRequestTimeout, hw]
  exact if_pos ⟨hexp, hover⟩

/-! ### Moves -/

/-- A move of a page that is still where it began goes through its next stage, where no store to a page in hold is still to take effect. -/
theorem exec_migrationCommit {n f : Nat} {s : State} {m : Migration} {l : Leaf} {ce : CtxEnt}
    (hm : s.xl.migs.find? (fun m => decide (m.id = n) && !m.committed) = some m) (hf : m.frame = some f) (hl : leafAt s m.ctx m.page = some l)
    (hce : ctxEntry s m.ctx = .ok (some ce)) (hres : l.resid = 0) (hold : l.addr = m.old)
    (hquiet : m.held = true → ∀ st ∈ s.hm.timed, 64 * st.line < l.addr ∨ l.addr + pageBytes l.size ≤ 64 * st.line) :
    exec (.migrationCommit n) s = .next (moveStage m f l ce.mwexp s) := by
  have harm : exec (.migrationCommit n) s = execMigrationCommit n s := rfl
  have hbusy : (m.held && s.hm.timed.any fun st => decide (l.addr ≤ 64 * st.line) && decide (64 * st.line < l.addr + pageBytes l.size)) = false := by
    cases hh : m.held with
    | false => rfl
    | true =>
      simp only [Bool.true_and, List.any_eq_false, Bool.and_eq_true, decide_eq_true_eq, not_and, not_lt]
      intro st hst hge
      obtain hlt | hge' := hquiet hh st hst
      · omega
      · exact hge'
  rw [harm, execMigrationCommit, hm]
  dsimp only
  rw [hf, hl, hce]
  dsimp only
  rw [hbusy, if_neg (by simp [hres, hold])]

/-- The stages of a move (01 R39). -/
theorem moveStage_eq (m : Migration) (f : Nat) (l : Leaf) (mwexp : Nat) (s : State) :
    (m.held = false → m.ver = none →
      moveStage m f l mwexp s = setMig { m with attempt := m.attempt + 1, ver := some (verNow s m), held := decide (4 ≤ m.attempt) } s) ∧
    (m.held = false → m.ver ≠ none → moveStage m f l mwexp s = setMig { m with held := true } s) ∧
    (m.held = true → (5 ≤ m.attempt ∨ m.ver = some (verNow s m)) → moveStage m f l mwexp s = commitMove m f l mwexp s) ∧
    (m.held = true → m.attempt < 5 → m.ver ≠ some (verNow s m) → moveStage m f l mwexp s = setMig { m with held := false, ver := none } s) := by
  rw [moveStage]
  refine ⟨fun hh hv => ?_, fun hh hv => ?_, fun hh hdone => ?_, fun hh hlt hv => ?_⟩
  · rw [if_neg (by simp [hh]), if_neg (by simp [hv])]
  · rw [if_neg (by simp [hh]), if_pos (Option.isSome_iff_ne_none.mpr hv)]
  · rw [if_pos hh, if_pos hdone]
  · rw [if_pos hh, if_neg (not_or.mpr ⟨by omega, hv⟩)]

/-- The frame of a committed move returns once every member has acknowledged and its leases are over (01 R42). -/
theorem exec_frameFree {n : Nat} {s : State} {m : Migration} (hm : s.xl.migs.find? (fun m => decide (m.id = n) && m.committed) = some m)
    (hacks : ∀ d ∈ members s, d ∈ m.acks) (hlease : m.lease + 25 < s.gtime) (hroom : frmCount s m.size < 4096) :
    exec (.frameFree n) s = if frmOk s m.size then .next (retryAsked (serveFrames m.size (pushFrame m.size m.old
      { s with xl := { s.xl with migs := s.xl.migs.filter fun q => decide (q.id ≠ n) } }))) else .fault .noSuchMemory := by
  have harm : exec (.frameFree n) s = execFrameFree n s := rfl
  rw [harm, execFrameFree, hm]
  exact if_pos ⟨by simpa using hacks, hlease, hroom⟩

/-- Settles O41: each event under its conditions by the lemma that says what it does. -/
theorem homeEventsComplete : Obligations.HomeEventsComplete := by
  unfold Obligations.HomeEventsComplete
  intro n s
  refine ⟨fun st hst hfirst hheld => ⟨fun hhere => ?_, fun hhost hsent => ?_⟩, fun op haop hwide hal hphys hheld => exec_homeAtomic haop hwide hal hphys hheld,
    fun ctx va l u hleaf hres hrd hpol => ⟨fun hn => ?_, fun hn hlocal => ?_⟩, rfl, fun p hp => ?_, fun w hw hexp hover => exec_pageRequestTimeout hw hexp hover,
    fun m f l ce hm hf hl hce hres hold => ?_, fun m hm hacks hlease hroom => ⟨fun hok => ?_, fun hbad => ?_⟩⟩
  · rw [exec_homeStore hst hfirst hheld, if_neg hhere, arriveHome_eq hst]
  · rw [exec_homeStore hst hfirst hheld, if_pos hhost, hsent]
    rfl
  · rw [exec_homeRead hleaf hres hrd hpol, if_pos hn]
  · rw [exec_homeRead hleaf hres hrd hpol, if_neg (by omega), if_neg (not_not.mpr hlocal)]
  · obtain ⟨hperform, hfail⟩ := exec_parkedStorePerform hp
    exact ⟨hperform, hfail, exec_parkedStoreTimeout hp⟩
  · have hexec := exec_migrationCommit hm hf hl hce hres hold
    obtain ⟨hbegin, hhold, hcommit, hrelease⟩ := moveStage_eq m f l ce.mwexp s
    refine ⟨fun hh hv => ?_, fun hh hv => ?_, fun hh hquiet => ⟨fun hdone => ?_, fun hlt hv => ?_⟩⟩
    · rw [hexec (by simp [hh]), hbegin hh hv]
    · rw [hexec (by simp [hh]), hhold hh hv]
    · rw [hexec fun _ => hquiet, hcommit hh hdone]
    · rw [hexec fun _ => hquiet, hrelease hh hlt hv]
  · rw [exec_frameFree hm hacks hlease hroom, if_pos hok]
  · rw [exec_frameFree hm hacks hlease hroom, if_neg (by simp [hbad])]

end Sys2Proof.Proofs
end

section
/-! PROOFS. A READ that is leased to another part (17 R429, 04 R104, R108, 01 R41). -/
namespace Sys2Proof.Proofs
open Sys2Proof Sys2Proof.Machine Sys2Proof.Laws Sys2Proof.Claims

/-- A part with device 1 in its peer table and in the set, in global time 0, whose context 0 maps the first GiB of its memory. -/
def lender : State :=
  let s := setPreg 0x19 0x900000#64 (physWrite (0x900000 + 32 * 1 + 17) [1#8] (State.reset.withFetchWord 32 0))
  { s with fab := { s.fab with present := [1] } }

/-- The first message of device 1, a READ of the byte at 0x1000 in context 0. -/
def farRead : PvlMsg :=
  { magic := 0x5650, version := 1, type := 2, setid := 0, src := 1, dst := 0, ctx := 0, status := 0, seq := 0, addr := 0x1000#64, len := 1, payload := [] }

/-- The latest lease ends that an outcome's state records (01 R41). -/
def leaseEnds : Out → SMap Nat
  | .next t => t.hm.lineL
  | _ => []

/-! ### The counterexample's hypotheses and its outcome -/

theorem turn_farRead : Turn 2 farRead lender := by
  simp only [Turn, admitted, isKept, settled]
  decide +kernel

/-- The byte lies at home here, readable, without error, and needs nothing of the host. -/
theorem farRead_readable :
    let u := awaitNext farRead lender
    msgAccess u farRead.ctx farRead.addr.toNat farRead.len true false = 0 ∧ hostRefusal farRead u = none ∧ notHome farRead u = none ∧
      ∀ i < farRead.len, keyAt u farRead.ctx (farRead.addr.toNat + i) = some (0x1000 + i) ∧ (0x1000 + i) / 8 ∉ lender.hm.memBad := by
  decide +kernel

/-- The home grants device 1 a lease of CTXLEASE ticks on line 64, and records its end. -/
theorem leaseEnds_farRead : leaseEnds (exec (.read farRead) lender) = [(64, 256)] := by
  decide +kernel

/-- With no message kept, nothing follows the message that is performed. -/
theorem performed_of_inbox_eq_nil {s t : State} (hs : s.fab.inbox = []) (ht : t.fab.inbox = []) : performed s t = .next t := by
  rw [performed, hs, List.length_nil, serveInbox, askInbox, ht]
  rfl

/-- Refutes O47: by its clause for READ the answer to another part changes, of the homes, the effective lease ends (`lineE`, 04 R108) alone. The
machine also records the lease's own end (`lineL`), which 01 R41 needs when the page moves: a READ of one byte by device 1 leaves the end 256 on
line 64, which had none. -/
theorem not_managementMessages : ¬ Obligations.ManagementMessages := by
  unfold Obligations.ManagementMessages
  intro ⟨hmessages, _⟩
  obtain ⟨haccess, hrefusal, hhome, hkeys⟩ := farRead_readable
  obtain ⟨-, hread, -⟩ := hmessages farRead lender
  obtain ⟨hlease, -⟩ := hread (fun i => 0x1000 + i) (by decide) (by decide) haccess hrefusal hkeys
  obtain ⟨e, he⟩ := hlease turn_farRead hhome
  rw [performed_of_inbox_eq_nil (by rfl) (by rfl)] at he
  have hends : leaseEnds (exec (.read farRead) lender) = [] := (congrArg leaseEnds he).trans rfl
  rw [leaseEnds_farRead] at hends
  exact List.cons_ne_nil _ _ hends

end Sys2Proof.Proofs
end

section
/-! PROOFS. Memory after reset (log entry 2). -/
namespace Sys2Proof.Proofs
open Sys2Proof Sys2Proof.Machine

/-- Settles O59: memory after reset lists nothing, and the empty list is canonical. -/
theorem resetMemoryIsCanonical : Obligations.ResetMemoryIsCanonical := by
  unfold Obligations.ResetMemoryIsCanonical
  have hmem : State.reset.hm.mem = [] := rfl
  rw [hmem]
  rfl

end Sys2Proof.Proofs
end

section
/-! PROOFS. Scratch accesses of lanes: their offsets, their granules, the registers they write (02 R50 to R54, 10 R288). -/
namespace Sys2Proof.Proofs
open Sys2Proof Sys2Proof.Machine Sys2Proof.Laws Sys2Proof.Claims

/-! ### Runs of registers -/

/-- A write of runs of registers changes V alone. -/
theorem wrWide_frame (act : Word32) (d w : Nat) (f : Nat → List Byte) (k : Skein) : wrWide act d w f k = { k with v := (wrWide act d w f k).v } := by
  unfold wrWide
  exact List.foldlRecOn _ _ (motive := fun k' : Skein => k' = { k with v := k'.v }) rfl fun k' hk' j _ => by rw [hk']

/-- Each lane's run of registers holds its bytes, four to a register. -/
theorem runsWritten_wrWide (act : Word32) (d w : Nat) (f : Nat → List Byte) (k : Skein) :
    RunsWritten act (fun L => ren k L d) w (fun L j => w32 (leAt (f L) (4 * j) 4)) k.v (wrWide act d w f k).v := by
  intro n L hL
  induction w with
  | zero => rw [if_neg (by omega)]; rfl
  | succ w ih =>
    have hlast : (wrWide act d (w + 1) f k).v =
        putV act (fun L => ren k L d + w) (fun L => w32 (leAt (f L) (4 * w) 4)) (wrWide act d w f k).v := by
      rw [wrWide, List.range_succ, List.foldl_append]
      rfl
    rw [hlast, getV_putV _ _ _ _ _ _ hL, ih]
    by_cases hn : n = ren k L d + w
    · subst hn
      cases laneOn act L <;> simp
    · simp only [hn, and_false, if_false]
      exact if_congr (and_congr_right fun _ => and_congr_right fun _ => by omega) rfl rfl

theorem runsWritten_congr {act : Word32} {d : Nat → Nat} {w : Nat} {f g : Nat → Nat → Word32} {v v' : SMap Word32} (h : RunsWritten act d w f v v')
    (hfg : ∀ L < 32, laneOn act L = true → ∀ j < w, f L j = g L j) : RunsWritten act d w g v v' := by
  intro n L hL
  rw [h n L hL]
  split
  · next hn => exact hfg L hL hn.1 _ (by omega)
  · rfl

/-- A word of the window among the bytes of an access. -/
theorem leAt_winBytes (c : Crew) (o : Nat) {n j : Nat} (h : 4 * j + 4 ≤ n) : w32 (leAt (winBytes c o n) (4 * j) 4) = windowWord c (o + 4 * j) := by
  have hbytes : ((winBytes c o n).drop (4 * j)).take 4 = [winByte c (o + 4 * j), winByte c (o + 4 * j + 1), winByte c (o + 4 * j + 2), winByte c (o + 4 * j + 3)] := by
    refine List.ext_getElem ?_ fun i h1 h2 => ?_
    · simp [winBytes]; omega
    · simp only [List.length_cons, List.length_nil] at h2
      simp only [winBytes, List.getElem_take, List.getElem_drop, List.getElem_map, List.getElem_range]
      interval_cases i <;> simp [Nat.add_assoc]
  rw [leAt, hbytes]
  rfl

/-! ### The accesses -/

/-- The machine's width of a scratch access is the statements'. -/
theorem scrW_eq (x : Option MemPfx) : scrW x = scratchWidth x := rfl

/-- The machine's list of accesses is the statements', each with its length. -/
theorem scrAddrs_eq (x : Option MemPfx) (k : Skein) (g a b : Nat) (len : Nat → Nat) :
    scrAddrs k (active k g) a b (offOf x) len = (scratchAccesses x k g a b).map fun y => (y.1, y.2, len y.1) := by
  rw [scrAddrs, scratchAccesses, List.map_map]
  refine List.map_congr_left fun L _ => ?_
  simp [laneSum, S]

theorem scrLanes_eq (x : Option MemPfx) (k : Skein) (g a b : Nat) :
    scrLanes x k (active k g) a b = (scratchAccesses x k g a b).map fun y => (y.1, y.2, 4 * scratchWidth x) := scrAddrs_eq x k g a b _

/-- Among pairs made of the elements of a list, the first one with an element's name is that element's. -/
theorem find?_map_pair {β : Type} (f : Nat → β) {l : List Nat} {L : Nat} (h : L ∈ l) :
    (l.map fun L => (L, f L)).find? (fun x => decide (x.1 = L)) = some (L, f L) := by
  induction l with
  | nil => cases h
  | cons i l ih =>
    by_cases hi : i = L
    · simp [hi]
    · simp only [List.map_cons, List.find?_cons, hi, decide_false]
      exact ih ((List.mem_cons.mp h).resolve_left (Ne.symm hi))

/-- The offset of an active lane. -/
theorem offsetOf_scrLanes (x : Option MemPfx) (k : Skein) (g a b : Nat) {L : Nat} (hL : L < 32) (hon : laneOn (active k g) L = true) :
    offsetOf (scrLanes x k (active k g) a b) L = (((rdG k b).toNat : Int) + S k a L + offOf x).toNat := by
  have hmem : L ∈ lanesOf (active k g) := (mem_lanesOf _ _).mpr ⟨hL, hon⟩
  rw [offsetOf, scrLanes, scrAddrs, find?_map_pair _ hmem]
  simp [laneSum, S]

theorem scrCheck_eq_none {W : Nat} {l : List (Nat × Int × Nat)} (h : ∀ y ∈ l, y.2.2 ≠ 0 → 0 ≤ y.2.1 ∧ y.2.1 + y.2.2 ≤ (W : Int)) : scrCheck W l = none := by
  induction l with
  | nil => rfl
  | cons y l ih =>
    have hbad : scrBad W y.2.1 y.2.2 = none := by
      by_cases hn : y.2.2 = 0
      · rw [scrBad, if_pos hn]
      · obtain ⟨h0, hW⟩ := h y List.mem_cons_self hn
        exact scrBad_eq_none h0 hW
    rw [scrCheck, hbad]
    exact ih fun z hz => h z (List.mem_cons_of_mem y hz)

theorem winUncorr_eq_none {c : Crew} {l : List (Nat × Int × Nat)} (h : ∀ y ∈ l, ∀ i < y.2.2, (y.2.1.toNat + i) / 8 ∉ c.winBad) : winUncorr c l = none := by
  induction l with
  | nil => rfl
  | cons y l ih =>
    rw [winUncorr, winBadAt_eq_none (h y List.mem_cons_self)]
    exact ih fun z hz => h z (List.mem_cons_of_mem y hz)

/-! ### Granules (02 R54) -/

theorem mem_granulesOf {o n G : Nat} : G ∈ granulesOf o n ↔ n ≠ 0 ∧ o / 16 ≤ G ∧ G ≤ (o + n - 1) / 16 := by
  unfold granulesOf
  split
  · next hn => simp [hn]
  · next hn =>
    have := Nat.div_le_div_right (c := 16) (show o ≤ o + n - 1 by omega)
    simp only [List.mem_map, List.mem_range, ne_eq, hn, not_false_eq_true, true_and]
    constructor
    · rintro ⟨i, hi, rfl⟩
      omega
    · rintro ⟨hlo, hhi⟩
      exact ⟨G - o / 16, by omega, by omega⟩

theorem mem_insNat {x G : Nat} {l : List Nat} : G ∈ insNat x l ↔ G = x ∨ G ∈ l := by
  induction l with
  | nil => simp [insNat]
  | cons y l ih =>
    unfold insNat
    split_ifs with hlt heq
    · simp
    · simp [heq]
    · rw [List.mem_cons, ih, List.mem_cons]
      tauto

theorem mem_foldl_insNat {G : Nat} (gs l : List Nat) : G ∈ gs.foldl (fun a g => insNat g a) l ↔ G ∈ l ∨ G ∈ gs := by
  induction gs generalizing l with
  | nil => simp
  | cons g gs ih =>
    rw [List.foldl_cons, ih, mem_insNat, List.mem_cons]
    tauto

theorem mem_unionGrans {G : Nat} (l : List (Nat × Int × Nat)) : G ∈ unionGrans l ↔ ∃ y ∈ l, G ∈ granulesOf y.2.1.toNat y.2.2 := by
  have hfold (acc : List Nat) : G ∈ l.foldl (fun acc x => (granulesOf x.2.1.toNat x.2.2).foldl (fun a g => insNat g a) acc) acc ↔
      G ∈ acc ∨ ∃ y ∈ l, G ∈ granulesOf y.2.1.toNat y.2.2 := by
    induction l generalizing acc with
    | nil => simp
    | cons y l ih =>
      rw [List.foldl_cons, ih, mem_foldl_insNat]
      simp [or_assoc]
  rw [unionGrans, hfold]
  simp

/-- The granules of the accesses of a scratch load or store. -/
theorem mem_unionGrans_scrLanes {x : Option MemPfx} {k : Skein} {g a b G : Nat} :
    G ∈ unionGrans (scrLanes x k (active k g) a b) ↔ touches (scratchAccesses x k g a b) (4 * scratchWidth x) G := by
  have hpos : 4 * scratchWidth x ≠ 0 := Nat.mul_ne_zero (by decide) (Nat.two_pow_pos _).ne'
  simp only [mem_unionGrans, scrLanes_eq, List.mem_map, touches, exists_exists_and_eq_and, mem_granulesOf, hpos, ne_eq, not_false_eq_true,
    true_and]

theorem mem_setFull {G : Nat} (gs : List Nat) (c : Crew) : G ∈ (setFull gs c).fe ↔ G ∈ c.fe ∨ G ∈ gs := mem_foldl_insNat gs c.fe

theorem mem_setEmpty {G : Nat} (gs : List Nat) (c : Crew) : G ∈ (setEmpty gs c).fe ↔ G ∈ c.fe ∧ G ∉ gs := by simp [setEmpty]

/-! ### The checks of an access of lanes -/

section
variable {x : Option MemPfx} {k : Skein} {g a b : Nat} {s : State}

/-- Lanes inside the window pass its check (01 R13). -/
theorem scrCheck_scrLanes (h : inWindow (scratchAccesses x k g a b) (4 * scratchWidth x) s) :
    scrCheck (winSize s.crew) (scrLanes x k (active k g) a b) = none := by
  refine scrCheck_eq_none fun y hy _ => ?_
  rw [scrLanes_eq] at hy
  obtain ⟨z, hz, rfl⟩ := List.mem_map.mp hy
  exact h z hz

/-- Lanes that meet no uncorrectable error pass its check (02 R53). -/
theorem winUncorr_scrLanes (h : sound (scratchAccesses x k g a b) (4 * scratchWidth x) s) : winUncorr s.crew (scrLanes x k (active k g) a b) = none := by
  refine winUncorr_eq_none fun y hy => ?_
  rw [scrLanes_eq] at hy
  obtain ⟨z, hz, rfl⟩ := List.mem_map.mp hy
  exact h z hz

end

end Sys2Proof.Proofs
end

section
/-! PROOFS. Scratch loads and consuming loads (02 R51, R54, R55, 10 R288). -/
namespace Sys2Proof.Proofs
open Sys2Proof Sys2Proof.Machine Sys2Proof.Laws Sys2Proof.Claims

/-- The state after a read of lanes at the bank: single-bit errors are corrected, the read time is noted. -/
def bankReadLanes (acq : Bool) (l : List (Nat × Int × Nat)) (s : State) : State := if l.isEmpty then s else bankRead acq (correctScr l s)

theorem corrected_refl (s : State) : Corrected s s := ⟨⟨_, _, rfl⟩, fun _ _ => rfl⟩

theorem bankReadLanes_corrected (acq : Bool) (l : List (Nat × Int × Nat)) (s : State) :
    ∃ c lr fl, Corrected s c ∧ bankReadLanes acq l s = { c with k := { s.k with lastRead := lr, floor := fl } } := by
  unfold bankReadLanes
  split
  · exact ⟨s, _, _, corrected_refl s, rfl⟩
  · have hk : (correctScr l s).k = s.k := by
      obtain ⟨⟨ws, pr, hc⟩, -⟩ := correctScr_corrected l s
      rw [hc]
    exact ⟨correctScr l s, (bankRead acq (correctScr l s)).k.lastRead, (bankRead acq (correctScr l s)).k.floor, correctScr_corrected l s, by rw [← hk]; rfl⟩

/-- The bytes that a scratch access of lane `L` reads. -/
def scratchBytes (x : Option MemPfx) (g a b : Nat) (s : State) (L : Nat) : List Byte :=
  winBytes s.crew (offsetOf (scrLanes x s.k (active s.k g) a b) L) (4 * scrW x)

/-- What a scratch load leaves before it goes on: the words of the window in its registers (10 R288). -/
def scratchLoaded (x : Option MemPfx) (g d a b : Nat) (s : State) : State :=
  let u := bankReadLanes (acqOf x) (scrLanes x s.k (active s.k g) a b) s
  { u with k := wrWide (active s.k g) d (scrW x) (scratchBytes x g a b s) u.k }

/-- A scratch load changes its registers and its read times, and corrects single-bit errors. -/
theorem scratchLoaded_results (x : Option MemPfx) (g d a b : Nat) (s : State) :
    ∃ c v lr fl, Corrected s c ∧ scratchLoaded x g d a b s = { c with k := { s.k with v := v, lastRead := lr, floor := fl } } ∧
      RunsWritten (active s.k g) (fun L => ren s.k L d) (scratchWidth x)
        (fun L j => windowWord s.crew ((((rdG s.k b).toNat : Int) + S s.k a L + offOf x).toNat + 4 * j)) s.k.v v := by
  obtain ⟨c, lr, fl, hc, hread⟩ := bankReadLanes_corrected (acqOf x) (scrLanes x s.k (active s.k g) a b) s
  have hload : scratchLoaded x g d a b s =
      { c with k := wrWide (active s.k g) d (scrW x) (scratchBytes x g a b s) { s.k with lastRead := lr, floor := fl } } := by
    rw [scratchLoaded, hread]
  rw [wrWide_frame] at hload
  have hruns := runsWritten_wrWide (active s.k g) d (scrW x) (scratchBytes x g a b s) { s.k with lastRead := lr, floor := fl }
  refine ⟨c, _, lr, fl, hc, hload, runsWritten_congr hruns fun L hL hon j hj => ?_⟩
  rw [scratchBytes, offsetOf_scrLanes x s.k g a b hL hon, leAt_winBytes]
  rw [scrW_eq]
  omega

/-- sld whose lanes lie in the window and meet no uncorrectable error. -/
theorem exec_sld {x : Option MemPfx} {g d a b : Nat} {s : State} (hp : Passes { len := words x, vs := [(d, scratchWidth x), (a, 1)] } s)
    (hrel : released (relOf x) (scopeOf x) s) (hin : inWindow (scratchAccesses x s.k g a b) (4 * scratchWidth x) s)
    (hsound : sound (scratchAccesses x s.k g a b) (4 * scratchWidth x) s) :
    exec (.sld x g d a b) s = .next (retire (words x) (scratchLoaded x g d a b s)) := by
  have harm : exec (.sld x g d a b) s = execSld x g d a b s := rfl
  rw [words_eq_pfxLen] at hp ⊢
  rw [harm, execSld]
  refine issue_eq_next hp ((bind_of_eq_ok _ (relFirst_ok hrel)).trans ?_)
  dsimp only
  rw [scrCheck_scrLanes hin, winUncorr_scrLanes hsound]
  rfl

/-! ### Consuming loads -/

/-- All the granules that a consuming load touches are full. -/
theorem all_full_iff {x : Option MemPfx} {g a b : Nat} {s : State} :
    (unionGrans (scrLanes x s.k (active s.k g) a b)).all (isFull s.crew) = true ↔
      ∀ G, touches (scratchAccesses x s.k g a b) (4 * scratchWidth x) G → isFull s.crew G = true := by
  simp only [List.all_eq_true, mem_unionGrans_scrLanes]

/-- A skein that does not wait lets no other one go first (02 R55). -/
theorem earlierWaiter_of_wait_none {s : State} (gr : List Nat) (h : s.k.wait = none) : earlierWaiter s gr = false := by
  rw [earlierWaiter, h]

/-- A consuming load with a granule not full, or behind another skein, waits on its granules (02 R55). -/
theorem consume_waits {clr : Bool} {x : MemPfx} {g d a b : Nat} {s : State} (hp : Passes { len := 2, vs := [(d, scratchWidth (some x)), (a, 1)] } s)
    (hrel : released x.rel x.scope s) (hin : inWindow (scratchAccesses (some x) s.k g a b) (4 * scratchWidth (some x)) s)
    (hwait : (unionGrans (scrLanes (some x) s.k (active s.k g) a b)).all (isFull s.crew) = false) :
    consume clr x g d a b s = .next (beginWait 2 0 (beginWaitOn 2 0 (unionGrans (scrLanes (some x) s.k (active s.k g) a b)) s)) := by
  refine (issue_of_passes _ hp).trans ((congrArg _ (bind_of_eq_ok _ (relFirst_ok hrel))).trans ?_)
  dsimp only
  rw [scrCheck_scrLanes hin, hwait]
  rfl

/-- A consuming load whose turn it is loads as sld does, and with `clr` empties its granules (02 R55). -/
theorem consume_loads {clr : Bool} {x : MemPfx} {g d a b : Nat} {s : State} (hp : Passes { len := 2, vs := [(d, scratchWidth (some x)), (a, 1)] } s)
    (hrel : released x.rel x.scope s) (hin : inWindow (scratchAccesses (some x) s.k g a b) (4 * scratchWidth (some x)) s)
    (hsound : sound (scratchAccesses (some x) s.k g a b) (4 * scratchWidth (some x)) s)
    (hfull : ∀ G, touches (scratchAccesses (some x) s.k g a b) (4 * scratchWidth (some x)) G → isFull s.crew G = true)
    (hfirst : earlierWaiter s (unionGrans (scrLanes (some x) s.k (active s.k g) a b)) = false) :
    Consumes clr x g d a b s (consume clr x g d a b s) := by
  obtain ⟨c, v, lr, fl, hc, hload, hruns⟩ := scratchLoaded_results (some x) g d a b s
  have hexec : consume clr x g d a b s = .next (retire 2 { scratchLoaded (some x) g d a b s with
      crew := if clr then setEmpty (unionGrans (scrLanes (some x) s.k (active s.k g) a b)) (scratchLoaded (some x) g d a b s).crew
        else (scratchLoaded (some x) g d a b s).crew }) := by
    refine issue_eq_next hp ((bind_of_eq_ok _ (relFirst_ok hrel)).trans ?_)
    dsimp only
    rw [scrCheck_scrLanes hin, all_full_iff.mpr hfull, hfirst, winUncorr_scrLanes hsound]
    rfl
  rw [hload] at hexec
  have hfe : c.crew.fe = s.crew.fe := by
    obtain ⟨⟨ws, pr, rfl⟩, -⟩ := hc
    rfl
  refine ⟨c, v, lr, fl, if clr then (setEmpty (unionGrans (scrLanes (some x) s.k (active s.k g) a b)) c.crew).fe else c.crew.fe, hc, ?_, hruns, fun G => ?_⟩
  · rw [hexec]
    cases clr <;> rfl
  · cases clr
    · simp [hfe]
    · simp only [if_true, mem_setEmpty, hfe, mem_unionGrans_scrLanes, true_and]

/-! ### The statement -/

/-- A wait changes of its skein nothing but the record of the wait (06 R171). -/
theorem beginWaitOn_eq (kind stage : Nat) (gr : List Nat) (s : State) :
    ∃ w, beginWaitOn kind stage gr s = { s with k := { s.k with wait := some w }, seqNo := s.seqNo + 1 } ∧ w.kind = kind ∧ w.pc = s.k.e.pc := by
  refine ⟨_, rfl, ?_⟩
  split
  · split
    · next o _ ho => exact ⟨ho.2, ho.1⟩
    · exact ⟨rfl, rfl⟩
  · exact ⟨rfl, rfl⟩

/-- The wait of a consuming load is all that it changes of its skein. -/
theorem consumeWait_eq (gr : List Nat) (s : State) : ∃ k u, beginWait 2 0 (beginWaitOn 2 0 gr s) = { s with k := k, seqNo := u } ∧
    k = { s.k with wait := k.wait } ∧ ∃ wt, k.wait = some wt ∧ wt.kind = 2 ∧ wt.pc = s.k.e.pc := by
  obtain ⟨w1, h1, -⟩ := beginWaitOn_eq 2 0 gr s
  obtain ⟨w2, h2, hkind, hpc⟩ := beginWaitOn_eq 2 0 [] (beginWaitOn 2 0 gr s)
  rw [h1] at h2 hpc
  exact ⟨{ s.k with wait := some w2 }, s.seqNo + 1 + 1, by rw [beginWait, h1, h2], rfl, w2, rfl, hkind, hpc⟩

/-- Settles O22: a scratch load is `scratchLoaded` once its checks pass; a consuming one goes ahead or waits by `consume_loads` and `consume_waits`. -/
theorem scratchLoadResults : Obligations.ScratchLoadResults := by
  unfold Obligations.ScratchLoadResults
  refine ⟨fun x g d a b s _ hp hrel hin hsound => ?_, fun x g d a b s _ hp hrel hin => ⟨fun hfull hnowait hsound => ?_, fun hempty => ?_⟩⟩
  · obtain ⟨c, v, lr, fl, hc, hload, hruns⟩ := scratchLoaded_results x g d a b s
    exact ⟨c, v, lr, fl, hc, by rw [exec_sld hp hrel hin hsound, hload], hruns⟩
  · have hfirst := earlierWaiter_of_wait_none (unionGrans (scrLanes (some x) s.k (active s.k g) a b)) hnowait
    exact ⟨consume_loads hp hrel hin hsound hfull hfirst, consume_loads hp hrel hin hsound hfull hfirst⟩
  · have hwait : (unionGrans (scrLanes (some x) s.k (active s.k g) a b)).all (isFull s.crew) = false := by
      obtain ⟨G, htouch, hG⟩ := hempty
      exact Bool.eq_false_iff.mpr fun hall => by simp [all_full_iff.mp hall G htouch] at hG
    obtain ⟨k, u, hnext, hframe, hwt⟩ := consumeWait_eq (unionGrans (scrLanes (some x) s.k (active s.k g) a b)) s
    exact ⟨k, u, (consume_waits hp hrel hin hwait).trans (by rw [hnext]), (consume_waits hp hrel hin hwait).trans (by rw [hnext]), hframe, hwt⟩

end Sys2Proof.Proofs
end

section
/-! PROOFS. Scratch stores (02 R51, R54, 10 R288). -/
namespace Sys2Proof.Proofs
open Sys2Proof Sys2Proof.Machine Sys2Proof.Laws Sys2Proof.Claims

/-! ### The bytes of a run of registers -/

theorem length_rdWide (k : Skein) (v w L : Nat) : (rdWide k v w L).length = 4 * w := by
  simp [rdWide, List.length_flatten, List.map_map, Function.comp_def, Nat.mul_comm]

/-- Byte `j` of a lane's run of registers. -/
theorem rdWide_getD {k : Skein} {v w L j : Nat} (h : j < 4 * w) :
    (rdWide k v w L).getD j 0#8 = BitVec.ofNat 8 ((getV k.v (ren k L v + j / 4) L).toNat / 256 ^ (j % 4)) := by
  induction w with
  | zero => omega
  | succ w ih =>
    have hsplit : rdWide k v (w + 1) L = rdWide k v w L ++ toBytes 4 (getV k.v (ren k L v + w) L).toNat := by
      simp [rdWide, List.range_succ]
    rw [hsplit]
    by_cases hj : j < 4 * w
    · rw [List.getD_append _ _ _ _ (by rwa [length_rdWide]), ih hj]
    · rw [List.getD_append_right _ _ _ _ (by rw [length_rdWide]; omega), length_rdWide, toBytes_getD _ _ (by omega), show j / 4 = w by omega,
        show j - 4 * w = j % 4 by omega]

/-! ### The window after the stores of lanes in ascending order -/

/-- The window after the accesses have stored their bytes. -/
def putLanes (data : Nat → List Byte) (l : List (Nat × Int × Nat)) (c : Crew) : Crew := l.foldl (fun c y => putWin y.2.1.toNat (data y.1) c) c

/-- The stores change the bytes of the window alone. -/
theorem putLanes_frame (data : Nat → List Byte) (l : List (Nat × Int × Nat)) (c : Crew) : putLanes data l c = { c with win := (putLanes data l c).win } :=
  List.foldlRecOn l _ (motive := fun c' : Crew => c' = { c with win := c'.win }) rfl fun c' hc' y _ => by rw [hc']; rfl

/-- A byte that no later store covers keeps what the stores before have left. -/
theorem winByte_putLanes_outside {data : Nat → List Byte} {l : List (Nat × Int × Nat)} {n o : Nat} (c : Crew) (hn : ∀ L, (data L).length = n)
    (h : ∀ y ∈ l, o < y.2.1.toNat ∨ y.2.1.toNat + n ≤ o) : winByte (putLanes data l c) o = winByte c o := by
  induction l generalizing c with
  | nil => rfl
  | cons y l ih =>
    rw [putLanes, List.foldl_cons, ← putLanes, ih _ fun z hz => h z (List.mem_cons_of_mem y hz), winByte_putWin, if_neg]
    have := h y List.mem_cons_self
    rw [hn]
    omega

/-- A byte of an access that no later lane covers is the access's own. -/
theorem winByte_putLanes_own {data : Nat → List Byte} {l : List (Nat × Int × Nat)} {n j : Nat} {y : Nat × Int × Nat} (c : Crew) (hn : ∀ L, (data L).length = n)
    (hsort : l.Pairwise fun y z => y.1 < z.1) (hy : y ∈ l) (hj : j < n)
    (h : ∀ z ∈ l, y.1 < z.1 → y.2.1.toNat + j < z.2.1.toNat ∨ z.2.1.toNat + n ≤ y.2.1.toNat + j) :
    winByte (putLanes data l c) (y.2.1.toNat + j) = (data y.1).getD j 0#8 := by
  induction l generalizing c with
  | nil => cases hy
  | cons z l ih =>
    obtain ⟨hlater, hsort⟩ := List.pairwise_cons.mp hsort
    rw [putLanes, List.foldl_cons, ← putLanes]
    obtain rfl | hy := List.mem_cons.mp hy
    · rw [winByte_putLanes_outside _ hn fun z hz => h z (List.mem_cons_of_mem _ hz) (hlater z hz), winByte_putWin, if_pos (by rw [hn]; omega),
        Nat.add_sub_cancel_left]
    · exact ih _ hsort hy fun z hz => h z (List.mem_cons_of_mem _ hz)

/-- The accesses of a scratch load or store stand in ascending order of lanes. -/
theorem pairwise_scratchAccesses (x : Option MemPfx) (k : Skein) (g a b : Nat) : (scratchAccesses x k g a b).Pairwise fun y z => y.1 < z.1 :=
  List.pairwise_map.mpr (List.pairwise_lt_range.filter _)

/-! ### The instructions -/

/-- What sst writes: the bytes of each lane's registers at its offset. -/
def sstWindow (x : Option MemPfx) (g v a b : Nat) (s : State) : Crew :=
  putLanes (rdWide s.k v (scratchWidth x)) (scrLanes x s.k (active s.k g) a b) s.crew

/-- sst whose lanes lie in the window. -/
theorem exec_sst {x : Option MemPfx} {g v a b : Nat} {s : State} (hp : Passes { len := words x, vs := [(v, scratchWidth x), (a, 1)], stores := true } s)
    (hrel : released (relOf x) (scopeOf x) s) (hin : inWindow (scratchAccesses x s.k g a b) (4 * scratchWidth x) s) :
    exec (.sst x g v a b) s = .next (retire (words x) { s with
      crew := if nfOf x then setFull (unionGrans (scrLanes x s.k (active s.k g) a b)) (sstWindow x g v a b s) else sstWindow x g v a b s }) := by
  have harm : exec (.sst x g v a b) s = execSst x g v a b s := rfl
  rw [words_eq_pfxLen] at hp ⊢
  rw [harm, execSst]
  refine issue_eq_next hp ((bind_of_eq_ok _ (relFirst_ok hrel)).trans ?_)
  dsimp only
  rw [scrCheck_scrLanes hin]
  rfl

/-- The accesses of sclr: as many bytes of each lane as its register says. -/
def clearLanes (x : Option MemPfx) (g v a b : Nat) (k : Skein) : List (Nat × Int × Nat) := (scratchAccesses x k g a b).map fun y => (y.1, y.2, U k v y.1)

theorem scrAddrs_clear (x : Option MemPfx) (g v a b : Nat) (k : Skein) :
    (scrAddrs k (active k g) a b (offOf x) fun L => (rdV k v L).toNat) = clearLanes x g v a b k := scrAddrs_eq x k g a b _

/-- sclr whose lanes lie in the window. -/
theorem exec_sclr {x : Option MemPfx} {g v a b : Nat} {s : State} (hp : Passes { len := words x, vs := [(v, 1), (a, 1)], stores := true } s)
    (hrel : released (relOf x) (scopeOf x) s)
    (hin : ∀ y ∈ scratchAccesses x s.k g a b, U s.k v y.1 ≠ 0 → 0 ≤ y.2 ∧ y.2 + U s.k v y.1 ≤ (4096 * nb s.crew.lrec.alloc 6 0 : Nat)) :
    exec (.sclr x g v a b) s = .next (retire (words x) { s with crew := setEmpty (unionGrans (clearLanes x g v a b s.k)) s.crew }) := by
  have harm : exec (.sclr x g v a b) s = execSclr x g v a b s := rfl
  have hcheck : scrCheck (winSize s.crew) (clearLanes x g v a b s.k) = none := by
    refine scrCheck_eq_none fun y hy hn => ?_
    obtain ⟨z, hz, rfl⟩ := List.mem_map.mp hy
    exact hin z hz hn
  rw [words_eq_pfxLen] at hp ⊢
  rw [harm, execSclr]
  refine issue_eq_next hp ((bind_of_eq_ok _ (relFirst_ok hrel)).trans ?_)
  dsimp only
  rw [scrAddrs_clear, hcheck]
  rfl

/-- Settles O23: the window after sst is `sstWindow`, whose bytes `winByte_putLanes_own` and `winByte_putLanes_outside` give. -/
theorem scratchStoreResults : Obligations.ScratchStoreResults := by
  unfold Obligations.ScratchStoreResults
  intro x g v a b s _
  have hlen := length_rdWide s.k v (scratchWidth x)
  refine ⟨fun hp hrel hin => ?_, fun hp hrel hin => ⟨(setEmpty (unionGrans (clearLanes x g v a b s.k)) s.crew).fe, exec_sclr hp hrel hin, fun G => ?_⟩⟩
  · refine ⟨(sstWindow x g v a b s).win, if nfOf x then (setFull (unionGrans (scrLanes x s.k (active s.k g) a b)) s.crew).fe else s.crew.fe, ?_, fun o ho => ?_,
      fun L o j hmem hj hlater => ?_, fun G => ?_⟩
    · rw [exec_sst hp hrel hin, sstWindow, putLanes_frame]
      split <;> rfl
    · refine winByte_putLanes_outside s.crew hlen fun y hy => ?_
      rw [scrLanes_eq] at hy
      obtain ⟨z, hz, rfl⟩ := List.mem_map.mp hy
      exact ho z hz
    · rw [← rdWide_getD hj]
      refine winByte_putLanes_own (y := (L, o, 4 * scratchWidth x)) s.crew hlen ?_ ?_ hj fun y hy hlt => ?_
      · rw [scrLanes_eq]
        exact List.pairwise_map.mpr (pairwise_scratchAccesses x s.k g a b)
      · rw [scrLanes_eq]
        exact List.mem_map.mpr ⟨(L, o), hmem, rfl⟩
      · rw [scrLanes_eq] at hy
        obtain ⟨z, hz, rfl⟩ := List.mem_map.mp hy
        exact hlater z hz hlt
    · cases hset : nfOf x
      · simp
      · simp only [if_true, mem_setFull, mem_unionGrans_scrLanes, true_and]
  · refine (mem_setEmpty (unionGrans (clearLanes x g v a b s.k)) s.crew).trans ?_
    rw [mem_unionGrans]
    simp only [clearLanes, List.mem_map, exists_exists_and_eq_and, mem_granulesOf, not_exists, not_and, not_le, ne_eq]
    refine and_congr_right fun _ => forall₂_congr fun y _ => forall_congr' fun hn => ?_
    omega

end Sys2Proof.Proofs
end

section
/-! PROOFS. Sampling of images and brick pools (10 R290, 02 R66, R67). -/
namespace Sys2Proof.Proofs
open Sys2Proof Sys2Proof.Machine Sys2Proof.Laws Sys2Proof.Claims

/-! ### What a load changes of its skein -/

/-- `k'` is `k` but for the times of its reads. -/
def ReadTimesOnly (k k' : Skein) : Prop := ∃ lr fl, k' = { k with lastRead := lr, floor := fl }

theorem ReadTimesOnly.refl (k : Skein) : ReadTimesOnly k k := ⟨k.lastRead, k.floor, rfl⟩

theorem ReadTimesOnly.active_eq {k k' : Skein} (h : ReadTimesOnly k k') (g : Nat) : active k' g = active k g := by
  obtain ⟨_, _, rfl⟩ := h
  rfl

theorem ReadTimesOnly.ren_eq {k k' : Skein} (h : ReadTimesOnly k k') : ren k' = ren k := by
  obtain ⟨_, _, rfl⟩ := h
  rfl

theorem ReadTimesOnly.v_eq {k k' : Skein} (h : ReadTimesOnly k k') : k'.v = k.v := by
  obtain ⟨_, _, rfl⟩ := h
  rfl

theorem ReadTimesOnly.coordinates_eq {k k' : Skein} (h : ReadTimesOnly k k') (a n : Nat) : coordinates k' a n = coordinates k a n := by
  obtain ⟨_, _, rfl⟩ := h
  rfl

theorem hostReady_eq_ok {r : List LaneAcc} {s u : State} (h : hostReady r s = .ok u) : u = s := by
  rw [hostReady] at h
  split at h
  · cases h
  · split at h <;> cases h
    rfl

theorem loadLanes_readTimesOnly {acq nf cl : Bool} {pol n : Nat} {lanes : List (Nat × Nat)} {s u : State} {r : List Loaded}
    (h : loadLanes acq nf pol n lanes s cl = .ok (r, u)) : ReadTimesOnly s.k u.k := by
  obtain ⟨⟨accs, s1⟩, hres, h1⟩ := exists_of_bind_eq_ok h
  obtain ⟨s2, hhost, h2⟩ := exists_of_bind_eq_ok h1
  obtain rfl := hostReady_eq_ok hhost
  dsimp only at h2
  split at h2
  · cases h2
  · have htouch := cachesOnly_foldl (touchLane_cachesOnly (if !acq && !nbit pol 0 then pol else Nat.lor pol 1)) accs s2
    have hk := (htouch.k_eq).trans (resolve_tlbsOnly hres).cachesOnly.k_eq
    have hu : ∃ t, u.k = noteLoad acq lanes t (accs.foldl (touchLane (if !acq && !nbit pol 0 then pol else Nat.lor pol 1)) s2).k := by
      cases h2
      exact ⟨_, rfl⟩
    obtain ⟨t, ht⟩ := hu
    rw [ht, hk]
    exact ⟨_, _, noteLoad_eq acq lanes t s.k⟩

theorem loadMany_readTimesOnly {n : Nat} {l : List (Nat × Nat)} {s u : State} {vals : List Nat} (h : loadMany n l s = .ok (vals, u)) : ReadTimesOnly s.k u.k := by
  obtain ⟨⟨r, s1⟩, hload, h1⟩ := exists_of_bind_eq_ok h
  cases h1
  exact loadLanes_readTimesOnly hload

theorem fetchRecord_readTimesOnly {n align addr : Nat} {bad : List Byte → Option Nat} {s u : State} {rec : List Byte}
    (h : fetchRecord n align bad addr s = .ok (rec, u)) : ReadTimesOnly s.k u.k := by
  unfold fetchRecord at h
  split_ifs at h
  dsimp only at h
  split at h
  · cases h
    exact .refl _
  · obtain ⟨⟨r, s1⟩, hload, h1⟩ := exists_of_bind_eq_ok h
    have hk := loadLanes_readTimesOnly hload
    dsimp only at h1
    split at h1 <;> cases h1
    exact hk

theorem fetchShape_readTimesOnly {addr : Nat} {s u : State} {x : Shape} (h : fetchShape addr s = .ok (x, u)) : ReadTimesOnly s.k u.k := by
  obtain ⟨⟨r, s1⟩, hfetch, h1⟩ := exists_of_bind_eq_ok h
  cases h1
  exact fetchRecord_readTimesOnly hfetch

/-! ### Samples lane by lane -/

theorem length_corners (n : Nat) : (corners n).length = 2 ^ n := by
  induction n with
  | zero => rfl
  | succ n ih => rw [corners, List.length_append, List.length_map, List.length_map, ih, pow_succ, Nat.mul_two]

theorem length_runs {α : Type} (n m : Nat) (l : List α) : (runs n m l).length = m := by
  induction m generalizing l with
  | zero => rfl
  | succ m ih => rw [runs, List.length_cons, ih]

theorem runs_getElem {α : Type} {n m i : Nat} (l : List α) (h : i < (runs n m l).length) : (runs n m l)[i] = (l.drop (n * i)).take n := by
  induction m generalizing l i with
  | zero => cases h
  | succ m ih =>
    cases i with
    | zero => rfl
    | succ i =>
      simp only [runs, List.getElem_cons_succ]
      rw [ih, List.drop_drop, Nat.mul_succ, Nat.add_comm]

/-- Each element with its run, by its place in the list. -/
theorem zip_runs {α : Type} (ls : List Nat) (cell : Nat → α) (n : Nat) (vals : List Nat) :
    (ls.map fun L => (L, cell L)).zip (runs n ls.length vals) =
      (List.range ls.length).map fun i => ((ls.getD i 0, cell (ls.getD i 0)), (vals.drop (n * i)).take n) := by
  refine List.ext_getElem (by simp [length_runs]) fun i h1 h2 => ?_
  have hi : i < ls.length := by simpa using h2
  simp [runs_getElem, hi]

theorem zip_take_of_length_le {α β : Type} {l : List α} {n : Nat} (xs : List β) (h : l.length ≤ n) : l.zip (xs.take n) = l.zip xs := by
  refine List.ext_getElem (by simp; omega) fun i h1 h2 => ?_
  simp

/-! ### Images -/

/-- The FP32 code of a sample: the interpolation of the values at the corners of its cell (10 R290). -/
def sampleCode (x : Shape) (cell : List Fx × List (List Bool × Nat)) (vals : List Nat) : Nat :=
  let smp := (cell.2.zip vals).map fun p => (p.1.1, fdec (codeFmt x.fmt) p.2)
  if smp.all (fun p => finiteFx p.2) then roundPos (interp cell.1 smp none) else nanCode fp32

/-- A cell takes as many values as it has corners. -/
theorem sampleCode_take (x : Shape) (us : List Fx) (vals : List Nat) :
    sampleCode x (imageCell x us) (vals.take (2 ^ x.rank)) = sampleCode x (imageCell x us) vals := by
  have hlen : (imageCell x us).2.length ≤ 2 ^ x.rank := by
    rw [imageCell, List.length_map, length_corners]
  rw [sampleCode, sampleCode, zip_take_of_length_le _ hlen]

/-- The code that smp writes to lane `L`: that of its cell, or the NaN code. -/
def laneSample (x : Shape) (us : Nat → List Fx) (ls : List Nat) (vals : List Nat) (L : Nat) : Nat :=
  (((List.range ls.length).find? fun i => decide (ls.getD i 0 = L)).map fun i => sampleCode x (imageCell x (us L)) (vals.drop (2 ^ x.rank * i))).getD (nanCode fp32)

theorem nanCode_fp32 : nanCode fp32 = 0x7FC00000 := by decide

/-- The code as the statements give it. -/
theorem w32_sampleCode (x : Shape) (cell : List Fx × List (List Bool × Nat)) (vals : List Nat) :
    let corner := (cell.2.zip vals).map fun p => (p.1.1, fdec (codeFmt x.fmt) p.2)
    w32 (sampleCode x cell vals) = if corner.all (fun p => finiteFx p.2) then nat32 (roundPos (interp cell.1 corner none)) else 0x7FC00000#32 := by
  intro corner
  rw [sampleCode, nanCode_fp32]
  exact apply_ite w32 _ _ _

/-- The machine's list of the samples of lanes with numbers for coordinates. -/
def imageSamples (x : Shape) (us : Nat → List Fx) (ls : List Nat) (vals : List Nat) : List (Nat × Nat) :=
  ((ls.map fun L => (L, imageCell x (us L))).zip (runs (2 ^ x.rank) (ls.map fun L => (L, imageCell x (us L))).length vals)).map
    fun c => (c.1.1, sampleCode x c.1.2 c.2)

theorem find_imageSamples (x : Shape) (us : Nat → List Fx) (ls : List Nat) (vals : List Nat) (L : Nat) :
    (((imageSamples x us ls vals).find? fun r => decide (r.1 = L)).map (·.2)).getD (nanCode fp32) = laneSample x us ls vals L := by
  rw [imageSamples, List.length_map, zip_runs, List.map_map, List.find?_map, laneSample, Option.map_map]
  congr 1
  refine Option.map_congr fun i hi => ?_
  have hL : ls.getD i 0 = L := by simpa using List.find?_some hi
  rw [Function.comp_apply, Function.comp_apply, hL, sampleCode_take]

/-- smp of a readable image whose samples are loaded. -/
theorem exec_smp {g d a b : Nat} {x : Shape} {vals : List Nat} {s u w : State} (hp : Passes (smpReq d a s) s)
    (hfetch : fetchShape (rdG s.k b).toNat s = .ok (x, u)) (hbad : imageBad x = none) (hrun : runTrap a x.rank u.k = none)
    (hload : loadMany (x.bits / 8) (((sampledLanes u.k g a x.rank).map fun L =>
      (imageCell x (coordinates u.k a x.rank L)).2.map fun p => (L, p.2)).flatten) u = .ok (vals, w)) :
    exec (.smp g d a b) s = .next (retire 1 { w with
      k := wrV (active u.k g) d (fun L => w32 (laneSample x (coordinates u.k a x.rank) (sampledLanes u.k g a x.rank) vals L)) w.k }) := by
  have harm : exec (.smp g d a b) s = execSmp g d a b s := rfl
  have hcells : ((sampledLanes u.k g a x.rank).map fun L => (L, imageCell x (coordinates u.k a x.rank L))).map (fun c => c.2.2.map fun p => (c.1, p.2)) =
      (sampledLanes u.k g a x.rank).map fun L => (imageCell x (coordinates u.k a x.rank L)).2.map fun p => (L, p.2) := List.map_map
  simp only [← find_imageSamples]
  rw [harm, execSmp]
  refine issue_eq_next hp ((bind_of_eq_ok _ hfetch).trans ?_)
  dsimp only
  rw [hbad]
  dsimp only
  rw [hrun]
  rw [← hcells] at hload
  refine (bind_of_eq_ok _ hload).trans ?_
  dsimp only [imageSamples, sampleCode]
  rfl

/-! ### Brick pools -/

/-- One lane more of a run without traps and waits adds its values. -/
theorem poolStep_eq_ok {pool L : Nat} {p : Brick} {us : Nat → List Fx} {x : List Nat} {v : List (Nat × List Nat)} {s u : State}
    (h : poolLane pool p L (us L) s = .ok (x, u)) : poolStep pool p us ({ vals := v }, s) L = .ok ({ vals := v ++ [(L, x)] }, u) := by
  rw [poolStep, h]

/-- A run with values before it: the same lanes fetched, the same traps and waits. -/
def PoolRun.after (v : List (Nat × List Nat)) (r : PoolRun) : PoolRun := { r with vals := v ++ r.vals }

theorem poolStep_after {pool L : Nat} {p : Brick} {us : Nat → List Fx} (v : List (Nat × List Nat)) {r r' : PoolRun} {s u : State}
    (h : poolStep pool p us (r, s) L = .ok (r', u)) : poolStep pool p us (PoolRun.after v r, s) L = .ok (PoolRun.after v r', u) := by
  unfold poolStep at h ⊢
  dsimp only [PoolRun.after] at h ⊢
  split at h
  · cases h
    rw [List.append_assoc]
  · cases h
    rfl
  · cases h
    rfl
  · cases h

theorem foldlM_poolStep_after {pool : Nat} {p : Brick} {us : Nat → List Fx} (v : List (Nat × List Nat)) {l : List Nat} {r r' : PoolRun} {s u : State}
    (h : l.foldlM (poolStep pool p us) (r, s) = .ok (r', u)) : l.foldlM (poolStep pool p us) (PoolRun.after v r, s) = .ok (PoolRun.after v r', u) := by
  induction l generalizing r s with
  | nil =>
    cases h
    rfl
  | cons L l ih =>
    rw [List.foldlM_cons] at h ⊢
    obtain ⟨⟨r1, s1⟩, hstep, hrest⟩ := exists_of_bind_eq_ok h
    rw [bind_of_eq_ok _ (poolStep_after v hstep)]
    exact ih hrest

/-- The lanes of a fetch come one after the other, each in the state that the lanes before have left. -/
theorem poolLanes_cons {pool L : Nat} {p : Brick} {us : Nat → List Fx} {l x : List Nat} {r : List (Nat × List Nat)} {s u z : State}
    (hlane : poolLane pool p L (us L) s = .ok (x, u)) (hrest : poolLanes pool p us l u = .ok (r, z)) : poolLanes pool p us (L :: l) s = .ok ((L, x) :: r, z) := by
  obtain ⟨⟨run, t⟩, hfold, hend⟩ := exists_of_bind_eq_ok hrest
  have hstep : poolStep pool p us ({}, s) L = .ok (PoolRun.after [(L, x)] {}, u) := poolStep_eq_ok hlane
  have hfold' : (L :: l).foldlM (poolStep pool p us) ({}, s) = .ok (PoolRun.after [(L, x)] run, t) := by
    rw [List.foldlM_cons, bind_of_eq_ok _ hstep]
    exact foldlM_poolStep_after _ hfold
  rw [poolLanes, bind_of_eq_ok _ hfold']
  dsimp only [PoolRun.after] at hend ⊢
  split at hend
  · cases hend
  · next hnone =>
    rw [hnone]
    split at hend <;> cases hend
    next hwaits => rw [if_neg hwaits]; rfl

/-- One lane of a fetch: NaNs, an empty cell, or the interpolation of its samples (02 R67). -/
theorem poolLane_cases (pool : Nat) (p : Brick) (L n : Nat) (us : List Fx) (vals : List Nat) (s u z : State) :
    let c := brickCell p us
    (us.any fxIsNan = true → poolLane pool p L us s = .ok (List.replicate 4 0x7FC00000, s)) ∧
    (us.any fxIsNan = false → loadMany 4 [(L, brickEntry p c.1 % 2 ^ 64)] s = .ok ([n], u) →
      (n = 0xFFFFFFFF → poolLane pool p L us s = .ok ([p.empty, 0, 0, 0], u)) ∧
      (n ≠ 0xFFFFFFFF → brickLoad pool c.1 ((p.bricks + 1024 * n) % 2 ^ 64) L ((corners 3).map fun q => brickSample p n c.2.1 q % 2 ^ 64) u = .ok (vals, z) →
        poolLane pool p L us s = .ok (brickResult c.2.2 ((corners 3).zip (vals.map (fdec fp16))), z))) := by
  intro c
  refine ⟨fun hnan => by rw [poolLane, if_pos hnan]; rfl, fun hnum hidx => ?_⟩
  rw [poolLane, if_neg (by simp [hnum]), bind_of_eq_ok _ hidx]
  refine ⟨fun hempty => if_pos hempty, fun hbrick hload => (if_neg hbrick).trans ?_⟩
  exact bind_of_eq_ok _ hload

/-- Four bytes of a list of words. -/
theorem leAt_flatten_toBytes (l : List Nat) (j : Nat) : w32 (leAt ((l.map fun v => toBytes 4 v).flatten) (4 * j) 4) = nat32 (l.getD j 0) := by
  induction l generalizing j with
  | nil => simp [leAt, ofBytes, w32, nat32]
  | cons v l ih =>
    cases j with
    | zero =>
      rw [leAt, List.map_cons, List.flatten_cons, Nat.mul_zero, List.drop_zero, List.take_left' (toBytes_length 4 v), ofBytes_toBytes]
      exact BitVec.eq_of_toNat_eq (by simp [w32, nat32])
    | succ j =>
      rw [List.getD_cons_succ, ← ih, leAt, leAt, List.map_cons, List.flatten_cons, List.drop_append, toBytes_length,
        List.drop_eq_nil_of_le (by rw [toBytes_length]; omega), List.nil_append, show 4 * (j + 1) - 4 = 4 * j by omega]

/-- The bytes that smp.pool writes to the registers of lane `L`. -/
def fetchedBytes (res : List (Nat × List Nat)) (L : Nat) : List Byte := ((((res.find? fun x => decide (x.1 = L)).map (·.2)).getD []).map fun v => toBytes 4 v).flatten

/-- smp.pool of a readable record whose lanes are fetched. -/
theorem exec_smpPool {g d a b : Nat} {rec : List Byte} {res : List (Nat × List Nat)} {s u z : State} (hp : Passes (poolReq d a s) s)
    (hfetch : fetchRecord 32 32 brickBad (rdG s.k b).toNat s = .ok (rec, u))
    (hlanes : poolLanes (rdG s.k b).toNat (brickOf rec) (coordinates u.k a 3) (lanesOf (active u.k g)) u = .ok (res, z)) :
    exec (.smpPool g d a b) s = .next (retire 1 { z with k := wrWide (active u.k g) d 4 (fetchedBytes res) z.k }) := by
  have harm : exec (.smpPool g d a b) s = execSmpPool g d a b s := rfl
  rw [harm, execSmpPool]
  refine issue_eq_next hp ((bind_of_eq_ok _ hfetch).trans ((bind_of_eq_ok _ hlanes).trans ?_))
  dsimp only [fetchedBytes]
  rfl

/-- Settles O36: `exec_smp` and `exec_smpPool`, with the lanes of a fetch by `poolLanes_cons` and `poolLane_cases`. -/
theorem sampleResults : Obligations.SampleResults := by
  unfold Obligations.SampleResults
  refine ⟨fun g d a b x vals s u w hp hfetch hbad hrun => ?_, fun g d a b rec res s u z hp hfetch hlanes => ?_,
    fun pool p us L l x r s u z => poolLanes_cons, poolLane_cases⟩
  · have hu := fetchShape_readTimesOnly hfetch
    have hsampled : sampledLanes s.k g a x.rank = sampledLanes u.k g a x.rank := by rw [sampledLanes, sampledLanes, hu.active_eq, hu.coordinates_eq]
    rw [← hu.coordinates_eq, ← hu.active_eq, ← hu.ren_eq, ← hu.v_eq, hsampled]
    intro ls cell hload sample corner
    have hw := loadMany_readTimesOnly hload
    refine ⟨_, exec_smp hp hfetch hbad hrun hload, fun n L hL => ?_⟩
    rw [getV_putV _ _ _ _ _ _ hL, hw.ren_eq, hw.v_eq]
    congr 1
    dsimp only
    rw [laneSample]
    cases (List.range ls.length).find? fun i => decide (ls.getD i 0 = L) with
    | none => rw [Option.map_none, Option.getD_none, nanCode_fp32]; rfl
    | some i => exact w32_sampleCode x (cell L) (sample i)
  · have hu := fetchRecord_readTimesOnly hfetch
    rw [← hu.active_eq] at hlanes ⊢
    have hexec := exec_smpPool hp hfetch hlanes
    rw [wrWide_frame] at hexec
    refine ⟨_, hexec, runsWritten_congr (runsWritten_wrWide _ d 4 _ z.k) fun L _ _ j _ => ?_⟩
    rw [fetchedBytes, leAt_flatten_toBytes]
    cases res.find? fun x => decide (x.1 = L) <;> rfl

end Sys2Proof.Proofs
end

section
/-! PROOFS. Ends of waits: consuming loads, level barriers, timeouts, deferred traps (02 R55, R58, 06 R161, R163, 16 R412, R413). -/
namespace Sys2Proof.Proofs
open Sys2Proof Sys2Proof.Machine Sys2Proof.Laws Sys2Proof.Claims

/-! ### Going on after a wait -/

theorem mayResume_iff {s : State} : mayResume s = true ↔ mayGo s := by
  simp [mayResume, mayGo, or_assoc]

theorem holdOver_iff {s : State} : holdOver s s.k = true ↔ unheld s := by
  simp [holdOver, unheld]

/-- The waiting instruction is issued again as what its words decode to. -/
theorem reissue_eq {f : Instr → State → Option Out} {i : Instr} {s u : State} (hres : resumes s) (hfetch : (fetchInstr s).2 = .ok (i, u)) :
    reissue f s = (f i u).getD (idle s) := by
  obtain ⟨hgo, hhalt, hhold⟩ := hres
  rw [reissue, mayResume_iff.mpr hgo, hhalt, holdOver_iff.mpr hhold, hfetch]
  rfl

/-! ### Consuming loads (02 R55) -/

/-- No skein that began to wait earlier goes first when each one that overlaps still lacks a granule. -/
theorem earlierWaiter_eq_false {x : Option MemPfx} {g a b : Nat} {s : State}
    (h : ∀ p ∈ s.peers, ∀ v m, p.wait = some v → v.kind = 2 → s.k.wait = some m → v.order < m.order →
      (∃ G ∈ v.grans, touches (scratchAccesses x s.k g a b) (4 * scratchWidth x) G) → ∃ G ∈ v.grans, isFull s.crew G = false) :
    earlierWaiter s (unionGrans (scrLanes x s.k (active s.k g) a b)) = false := by
  unfold earlierWaiter
  split
  · next m hm =>
    rw [Bool.and_eq_false_imp]
    intro _
    rw [List.any_eq_false]
    intro p hp
    cases hv : p.wait with
    | none => simp
    | some v =>
      simp only [Bool.and_eq_true, decide_eq_true_eq, List.any_eq_true, List.contains_iff_mem, mem_unionGrans_scrLanes, List.all_eq_true, not_and, not_forall]
      rintro ⟨⟨hkind, horder⟩, htouch⟩
      obtain ⟨G, hG, hempty⟩ := h p hp v m hv hkind hm horder htouch
      exact ⟨G, hG, by simp [hempty]⟩
  · rfl

/-- A consuming load that may go ahead has its effect. -/
theorem consume_of_mayConsume {clr : Bool} {x : MemPfx} {g d a b : Nat} {s : State} (h : mayConsume x g d a b s) :
    Consumes clr x g d a b s (consume clr x g d a b s) := by
  obtain ⟨hp, hrel, hin, hsound, hfull, hfirst⟩ := h
  exact consume_loads hp hrel hin hsound hfull (earlierWaiter_eq_false hfirst)

/-- The waiting consuming load whose granules are full is issued again. -/
theorem exec_consumingLoadProceed {r : Ref} {s t : State} {w : WaitRec} (hfocus : focusOn r s = some t) (hw : t.k.wait = some w) (hkind : w.kind = 2)
    (hfull : ∀ G ∈ w.grans, isFull t.crew G = true) (hres : resumes t) {x : MemPfx} {g d a b : Nat} {u : State} :
    ((fetchInstr t).2 = .ok (.sldFe x g d a b, u) → exec (.consumingLoadProceed r) s = consume false x g d a b u) ∧
    ((fetchInstr t).2 = .ok (.sldFeClr x g d a b, u) → exec (.consumingLoadProceed r) s = consume true x g d a b u) := by
  have harm : exec (.consumingLoadProceed r) s = execConsumingLoadProceed r s := rfl
  rw [harm, execConsumingLoadProceed, hfocus]
  dsimp only
  rw [hw]
  dsimp only
  rw [if_pos ⟨hkind, List.all_eq_true.mpr hfull⟩]
  exact ⟨fun hfetch => reissue_eq hres hfetch, fun hfetch => reissue_eq hres hfetch⟩

/-! ### Level barriers (06 R161) -/

/-- Standing at a level barrier changes the crew's record of it alone. -/
theorem standAt_level {l : Nat} (b : Nat) (s : State) (hl : 3 ≤ l) : ∃ x, standAt l b s = { s with crew := setLevelArr x s.crew } := by
  rw [standAt, if_neg (by omega)]
  dsimp only
  split <;> exact ⟨_, rfl⟩

theorem observe_level {l : Nat} (b : Nat) (s : State) (hl : 3 ≤ l) : observe l b s = observed l b s := by
  have hfloor : (if l = 2 then (mget {} s.crew.bars b : CrewBar).relTime else s.gtime) = s.gtime := if_neg (by omega)
  rw [observe, hfloor]
  rfl

theorem mergeTraps_eq_nil {l : Nat} {s : State} (h : noMergeTrap l s) : (if 3 ≤ l ∧ isMergeLevel s.crew l then conflictAt l s else []) = [] := by
  obtain h | h := h
  · rw [if_neg (by simp [h])]
  · rw [h, ite_self]

theorem noMergeTrap_standAt {l : Nat} (b : Nat) {s : State} (hl : 3 ≤ l) (h : noMergeTrap l s) : noMergeTrap l (standAt l b s) := by
  obtain ⟨x, hx⟩ := standAt_level b s hl
  rw [hx]
  exact h

/-- A level barrier without a merge's trap is passed by observing it and going on. -/
theorem passBar_level {l : Nat} (b : Nat) {s : State} (hl : 3 ≤ l) (h : noMergeTrap l s) : passBar l b s = retire 1 (observed l b s) := by
  have hoff (t : State) : standOff l b t = t := by rw [standOff, if_neg (by omega)]
  rw [passBar, mergeTraps_eq_nil h]
  dsimp only
  rw [hoff, observe_level b s hl]

theorem observeFirst_level {l : Nat} (b : Nat) {s : State} (hl : 3 ≤ l) (h : noMergeTrap l s) : observeFirst l b s = (observed l b s, false) := by
  rw [observeFirst, mergeTraps_eq_nil h, observe_level b s hl, List.map_nil, List.append_nil]
  rfl

section
variable {form l b : Nat} {s : State} {a : BarArrival} (hdecl : barUndeclared l b s = false) (hcheck : check { noMeld := true } s = none)
  (hwhole : ¬ s.k.e.mask ≠ liveMask s.k) (ha : myArrival s.k l b = some a)
include hdecl hcheck hwhole ha

/-- The wait form, and the full form at its own arrival, go past a barrier whose phase is over (08 R243). -/
theorem barForm_passes (hform : form = 2 ∨ (form = 0 ∧ a.at_ = some s.k.e.pc)) (hover : phaseOver a (standAt l b s) = true) :
    barForm form l b s = .next (passBar l b (standAt l b s)) := by
  have hone : form ≠ 1 := by omega
  have hgo : (decide (form = 2) || (decide (form = 0) && decide (a.at_ = some s.k.e.pc))) = true := by simpa using hform
  simp only [barForm, hdecl, hcheck, hwhole, ha, hone, hgo, hover, Bool.false_eq_true, if_false, if_true]
  rfl

/-- The full form at a later place observes the phase, arrives and waits. -/
theorem barForm_arrives {m : BarArrival} (hl : 3 ≤ l) (hmerge : noMergeTrap l s) (hat : a.at_ ≠ some s.k.e.pc) (hover : phaseOver a (standAt l b s) = true)
    (hdone : releaseDone (barScope s.crew l) (observed l b (standAt l b s)) = true)
    (hm : myArrival (arriveAt l b (some s.k.e.pc) (observed l b (standAt l b s))).k l b = some m)
    (hstay : phaseOver m (arriveAt l b (some s.k.e.pc) (observed l b (standAt l b s))) = false) :
    barForm 0 l b s = .next (beginWait 1 0 (beginWaitOn 1 0 [l, b] (arriveAt l b (some s.k.e.pc) (observed l b (standAt l b s))))) := by
  have hobs := observeFirst_level b hl (noMergeTrap_standAt b hl hmerge)
  simp only [barForm, hdecl, hcheck, hwhole, ha, hat, hover, hobs, hdone, hm, hstay, Bool.false_eq_true, if_false, if_true, Nat.zero_ne_one,
    OfNat.zero_ne_ofNat, decide_false, decide_true, Bool.and_false, Bool.or_false, Bool.not_true]
  rfl

/-- The arrive form observes the phase, arrives and goes on. -/
theorem barForm_arriveForm (hl : 3 ≤ l) (hmerge : noMergeTrap l s) (hover : phaseOver a s = true)
    (hdone : releaseDone (barScope s.crew l) (observed l b s) = true) : barForm 1 l b s = .next (retire 1 (arriveAt l b none (observed l b s))) := by
  have hobs := observeFirst_level b hl hmerge
  simp only [barForm, hdecl, hcheck, hwhole, ha, hover, hobs, hdone, Bool.false_eq_true, if_false, if_true, OfNat.one_ne_ofNat, one_ne_zero,
    decide_false, Bool.false_and, Bool.or_false, Bool.not_true]
  rfl

end

/-- A level barrier's waiting instruction is issued again. -/
theorem exec_levelBarrierRelease {r : Ref} {s t : State} {w : WaitRec} (hfocus : focusOn r s = some t) (hw : t.k.wait = some w) (hkind : w.kind = 1)
    (hstage : w.stage ≠ 2) (hres : resumes t) {l b : Nat} {u : State} (hl : 3 ≤ l) :
    ((fetchInstr t).2 = .ok (.bar l b, u) → exec (.levelBarrierRelease r) s = barForm 0 l b u) ∧
    ((fetchInstr t).2 = .ok (.barArrive l b, u) → exec (.levelBarrierRelease r) s = barForm 1 l b u) ∧
    ((fetchInstr t).2 = .ok (.barWait l b, u) → exec (.levelBarrierRelease r) s = barForm 2 l b u) := by
  have harm : exec (.levelBarrierRelease r) s = execLevelBarrierRelease r s := rfl
  rw [harm, execLevelBarrierRelease, hfocus]
  dsimp only
  rw [hw]
  dsimp only
  rw [if_pos ⟨hkind, hstage⟩]
  refine ⟨fun hfetch => ?_, fun hfetch => ?_, fun hfetch => ?_⟩
  all_goals
    rw [reissue_eq hres hfetch]
    dsimp only
    rw [if_pos hl]
    rfl

section
variable {r : Ref} {s t u : State} {w : WaitRec} {l b : Nat} {a : BarArrival}

/-- The conditions of a level barrier's release besides the phase: the skein in `t` waits at it, and in `u` its instruction passes its checks. -/
structure AtLevelBarrier (r : Ref) (s t u : State) (w : WaitRec) (l b : Nat) (a : BarArrival) : Prop where
  focus : focusOn r s = some t
  wait : t.k.wait = some w
  kind : w.kind = 1
  stage : w.stage ≠ 2
  resumes : resumes t
  level : 3 ≤ l
  declared : barUndeclared l b u = false
  checked : check plainControl u = none
  whole : wholeSkein u
  arrival : myArrival u.k l b = some a

/-- The wait form, and the full form that stands there, go past the barrier. -/
theorem exec_levelBarrierRelease_passes (h : AtLevelBarrier r s t u w l b a) (hover : phaseOver a (standAt l b u) = true)
    (hfetch : (fetchInstr t).2 = .ok (.barWait l b, u) ∨ ((fetchInstr t).2 = .ok (.bar l b, u) ∧ a.at_ = some u.k.e.pc)) :
    exec (.levelBarrierRelease r) s = .next (passBar l b (standAt l b u)) := by
  obtain ⟨hbar, -, hwait⟩ := exec_levelBarrierRelease h.focus h.wait h.kind h.stage h.resumes (b := b) (u := u) h.level
  obtain hfetch | ⟨hfetch, hat⟩ := hfetch
  · exact (hwait hfetch).trans (barForm_passes h.declared h.checked (not_not.mpr h.whole) h.arrival (.inl rfl) hover)
  · exact (hbar hfetch).trans (barForm_passes h.declared h.checked (not_not.mpr h.whole) h.arrival (.inr ⟨rfl, hat⟩) hover)

/-- The full form away from its earlier arrival arrives anew and waits. -/
theorem exec_levelBarrierRelease_arrives {m : BarArrival} (h : AtLevelBarrier r s t u w l b a) (hover : phaseOver a (standAt l b u) = true)
    (hfetch : (fetchInstr t).2 = .ok (.bar l b, u)) (hat : a.at_ ≠ some u.k.e.pc) (hmerge : noMergeTrap l u)
    (hdone : releaseDone (barScope u.crew l) (observed l b (standAt l b u)) = true)
    (hm : myArrival (arriveAt l b (some u.k.e.pc) (observed l b (standAt l b u))).k l b = some m)
    (hstay : phaseOver m (arriveAt l b (some u.k.e.pc) (observed l b (standAt l b u))) = false) :
    exec (.levelBarrierRelease r) s = .next (beginWait 1 0 (beginWaitOn 1 0 [l, b] (arriveAt l b (some u.k.e.pc) (observed l b (standAt l b u))))) := by
  obtain ⟨hbar, -, -⟩ := exec_levelBarrierRelease h.focus h.wait h.kind h.stage h.resumes (b := b) (u := u) h.level
  exact (hbar hfetch).trans (barForm_arrives h.declared h.checked (not_not.mpr h.whole) h.arrival h.level hmerge hat hover hdone hm hstay)

/-- The arrive form arrives anew and goes on. -/
theorem exec_levelBarrierRelease_arriveForm (h : AtLevelBarrier r s t u w l b a) (hover : phaseOver a u = true) (hmerge : noMergeTrap l u)
    (hdone : releaseDone (barScope u.crew l) (observed l b u) = true) (hfetch : (fetchInstr t).2 = .ok (.barArrive l b, u)) :
    exec (.levelBarrierRelease r) s = .next (retire 1 (arriveAt l b none (observed l b u))) := by
  obtain ⟨-, harrive, -⟩ := exec_levelBarrierRelease h.focus h.wait h.kind h.stage h.resumes (b := b) (u := u) h.level
  exact (harrive hfetch).trans (barForm_arriveForm h.declared h.checked (not_not.mpr h.whole) h.arrival h.level hmerge hover hdone)

end

/-! ### Timeouts -/

theorem waitTrap_of_waitOver {kind : Nat} {f : WaitRec → TrapInfo} {pair : Bool} {r : Ref} {s t : State} {w : WaitRec} (hfocus : focusOn r s = some t)
    (h : waitOver kind t w) : waitTrap kind f pair r s = .next (takeTrap pair (f w) t) := by
  obtain ⟨hgo, hw, hkind, hexp, hover⟩ := h
  have htime : timedOut kind t = some w := by
    rw [timedOut, hw]
    exact if_pos ⟨hkind, hexp, hover⟩
  rw [waitTrap, hfocus]
  dsimp only
  rw [htime]
  exact if_pos (mayResume_iff.mpr hgo)

theorem exec_gangLatchTimeout {r : Ref} {s t : State} {w : WaitRec} (hfocus : focusOn r s = some t) (h : waitOver 4 t w) :
    exec (.gangLatchTimeout r) s = .next (takeTrap false { code := 0x0C, cause := 4, addr := w.pc } (leaveLatches t.k.uid t)) := by
  have harm : exec (.gangLatchTimeout r) s = execGangLatchTimeout r s := rfl
  obtain ⟨hgo, hw, hkind, hexp, hover⟩ := h
  have hready : t.k.pending.isEmpty = true ∨ t.k.handler = true := by
    obtain hgo | hgo | hway := hgo
    · exact .inl (by simp [hgo])
    · exact .inr hgo
    · rw [onTheWay, hw] at hway
      simp [hkind] at hway
  rw [harm, execGangLatchTimeout, hfocus]
  dsimp only
  rw [hw]
  exact if_pos ⟨hkind, hexp, hover, hready⟩

theorem exec_barrierStallTimeout {r : Ref} {s t : State} {l n : Nat} {a : Word64} (hfocus : focusOn r s = some t) (h : stalled t = some (l, n, a)) :
    exec (.barrierStallTimeout r) s = .next (raiseStall l n a t) := by
  have harm : exec (.barrierStallTimeout r) s = execBarrierStallTimeout r s := rfl
  rw [harm, execBarrierStallTimeout, hfocus]
  dsimp only
  rw [h]

/-! ### Deferred traps (16 R413) -/

theorem takeLowest_mem {l r : List TrapInfo} {p : TrapInfo} (h : takeLowest l = some (p, r)) : p ∈ l := by
  induction l generalizing p r with
  | nil => cases h
  | cons t l ih =>
    unfold takeLowest at h
    split at h
    · cases h
      exact List.mem_cons_self
    · next u r' hu =>
      split at h <;> cases h
      · exact List.mem_cons_of_mem _ (ih hu)
      · exact List.mem_cons_self

/-- The first of the traps with the lowest code is the one that is taken. -/
theorem takeLowest_append {l1 l2 : List TrapInfo} {p : TrapInfo} (h1 : ∀ q ∈ l1, p.code < q.code) (h2 : ∀ q ∈ l2, p.code ≤ q.code) :
    takeLowest (l1 ++ p :: l2) = some (p, l1 ++ l2) := by
  induction l1 with
  | nil =>
    rw [List.nil_append, takeLowest]
    cases hl2 : takeLowest l2 with
    | none =>
      cases l2 with
      | nil => rfl
      | cons q l2 =>
        unfold takeLowest at hl2
        split at hl2
        · cases hl2
        · split at hl2 <;> cases hl2
    | some x =>
      obtain ⟨u, r⟩ := x
      have := h2 u (takeLowest_mem hl2)
      exact if_neg (by omega)
  | cons t l1 ih =>
    have hlow : p.code < t.code := h1 t List.mem_cons_self
    rw [List.cons_append, takeLowest, ih fun q hq => h1 q (List.mem_cons_of_mem t hq)]
    exact if_pos hlow

theorem exec_deferredTrapTake {r : Ref} {s t : State} {l1 l2 : List TrapInfo} {p : TrapInfo} {k : Skein} (hfocus : focusOn r s = some t)
    (hpend : t.k.pending = l1 ++ p :: l2) (h1 : ∀ q ∈ l1, p.code < q.code) (h2 : ∀ q ∈ l2, p.code ≤ q.code) (hhand : t.k.handler = false)
    (hheld : unheld t) (hway : onTheWay t.k = false) (hk : choose true t.k = some k) :
    exec (.deferredTrapTake r) s = .next (takeTrap false p (leaveLatches k.uid { t with k := { k with pending := l1 ++ l2 } })) := by
  have harm : exec (.deferredTrapTake r) s = execDeferredTrapTake r s := rfl
  have htake : takeDeferred t = some (takeTrap false p (leaveLatches k.uid { t with k := { k with pending := l1 ++ l2 } })) := by
    rw [takeDeferred, hhand, holdOver_iff.mpr hheld, hway, if_neg (by decide), hpend, takeLowest_append h1 h2]
    dsimp only
    rw [hk]
  rw [harm, execDeferredTrapTake, hfocus]
  dsimp only
  rw [htake]

end Sys2Proof.Proofs
end

section
/-! PROOFS. Ends and launches of baskets, skeins, crews and launches (05 R149, 06 R181 to R185, 16 R419). -/
namespace Sys2Proof.Proofs
open Sys2Proof Sys2Proof.Machine Sys2Proof.Laws Sys2Proof.Claims

section
variable {core slot n : Nat} {s : State}

/-! ### Baskets, crews, skeins, tracker entries -/

theorem exec_basketTimerExpiry {c : CrewRec} (hc : crewAt core slot s = some c) (hfill : (basketAt c.crew n).st = .filling)
    (hover : (basketAt c.crew n).timer ≤ s.clocks) :
    exec (.basketTimerExpiry core slot n) s = .next (modCrew c.crew.uid (setBasket n { basketAt c.crew n with st := .ready }) s) := by
  have harm : exec (.basketTimerExpiry core slot n) s = execBasketTimerExpiry core slot n s := rfl
  rw [harm, execBasketTimerExpiry, hc]
  exact if_pos ⟨hfill, hover⟩

theorem exec_basketLaunch {c : CrewRec} {i : Nat} {x : Nat × Nat} (hc : crewAt core slot s = some c) (hready : oldestReady c.crew = some i)
    (hsid : basketSid c = some x) :
    let key := (basketAt c.crew i).key
    let recs := (basketRecs c.crew key).take 32
    exec (.basketLaunch core slot) s = .next (addSkein c.crew.uid (basketSkein s c key recs x)
      (modCrew c.crew.uid (fun d => forceFull (afterLaunch (ctxBtimer s d.ctx) s.clocks i recs d)) { s with ids := s.ids + 1 })) := by
  have harm : exec (.basketLaunch core slot) s = execBasketLaunch core slot s := rfl
  rw [harm, execBasketLaunch, hc]
  dsimp only
  rw [hready, hsid]

theorem exec_crewEnd {c : CrewRec} (hc : crewAt core slot s = some c) (hover : crewOver c s = true) :
    exec (.crewEnd core slot) s = if !c.crew.defStores.isEmpty then .next (kill c.crew.ctx 0xFE s) else .next (endCrew c s) := by
  have harm : exec (.crewEnd core slot) s = execCrewEnd core slot s := rfl
  rw [harm, execCrewEnd, hc]
  dsimp only
  rw [hover, if_neg (by decide)]

theorem exec_skeinEnd {r : Ref} {t : State} (hfocus : focusOn r s = some t) (hlive : liveMask t.k = 0#32) (hdone : storesDone 3 t = true) :
    exec (.skeinEnd r) s = .next (removeSkein t) := by
  have harm : exec (.skeinEnd r) s = execSkeinEnd r s := rfl
  rw [harm, execSkeinEnd, hfocus]
  exact if_pos ⟨hlive, hdone⟩

theorem exec_retirementEntryFree {t : Tracker} (ht : s.sch.tracker.find? (fun t => decide (t.n = n)) = some t)
    (hstores : ∀ y ∈ s.hm.inflight, y.uid ≠ t.uid) (hops : ∀ o ∈ s.en.ops, o.uid = t.uid → isTileOp o.kind = true) :
    exec (.retirementEntryFree n) s = .next { s with sch := { s.sch with tracker := s.sch.tracker.filter fun y => decide (y.n ≠ n) } } := by
  have harm : exec (.retirementEntryFree n) s = execRetirementEntryFree n s := rfl
  have hfree : (s.hm.inflight.all (fun x => decide (x.uid ≠ t.uid)) && s.en.ops.all (fun o => !(decide (o.uid = t.uid) && !isTileOp o.kind))) = true := by
    simpa [imp_iff_not_or] using And.intro hstores hops
  rw [harm, execRetirementEntryFree, ht]
  dsimp only
  rw [hfree, if_pos rfl]
  rfl

/-! ### Merges and the watchdog -/

/-- A merge whose stores are past is released; one that every task has reached is made (05 R149). -/
theorem exec_merge {l : Launch} (v : Nat) (hl : findLaunch s n = some l) (hdet : l.lrec.flags.testBit 0 = true) :
    (∀ a, l.merged.find? (fun a => decide (a.1 = v) && decide (a.2.1 ≠ 0)) = some a → mergePast l v a.2.1 s = true →
      exec (.merge n v) s = .next (mergeRelease l v a.2.2 s)) ∧
    (l.merged.find? (fun a => decide (a.1 = v) && decide (a.2.1 ≠ 0)) = none → mergeReady l v = true → exec (.merge n v) s = .next (mergeApply l v s)) := by
  have harm : exec (.merge n v) s = execMerge n v s := rfl
  have hnot : ¬ (!nbit l.lrec.flags 0) = true := by rw [nbit, hdet]; decide
  rw [harm, execMerge, hl]
  dsimp only
  rw [if_neg hnot]
  refine ⟨fun a ha hpast => ?_, fun ha hready => ?_⟩
  · rw [ha]
    exact if_pos hpast
  · rw [ha]
    exact if_pos hready

theorem exec_watchdogTrap {l : Launch} (hl : findLaunch s n = some l) (hexp : wdExp s l.ctx ≠ 0) (hfirst : l.wdTrapped = false)
    (hover : l.start + 2 ^ wdExp s l.ctx < s.gtime) : exec (.watchdogTrap n) s = .next (raiseWatch l s) := by
  have harm : exec (.watchdogTrap n) s = execWatchdogTrap n s := rfl
  rw [harm, execWatchdogTrap, hl]
  exact if_pos ⟨hexp, by rw [hfirst]; rfl, hover⟩

theorem exec_watchdogKill {l : Launch} (hl : findLaunch s n = some l) (hexp : wdExp s l.ctx ≠ 0)
    (hover : l.start + 2 ^ (wdExp s l.ctx + 1) < s.gtime) : exec (.watchdogKill n) s = .next (kill l.ctx 0xFC s) := by
  have harm : exec (.watchdogKill n) s = execWatchdogKill n s := rfl
  rw [harm, execWatchdogKill, hl]
  exact if_pos ⟨hexp, hover⟩

end

end Sys2Proof.Proofs
end

section
/-! PROOFS. Pre-emption and restoring of crews (06 R159, R164, 15 R404, R405, 16 R421 to R425). -/
namespace Sys2Proof.Proofs
open Sys2Proof Sys2Proof.Machine Sys2Proof.Laws Sys2Proof.Claims

/-! ### What the manager's own writes leave unchanged -/

/-- `u` has the crews of `s`, resident and saved. -/
def SameCrews (s u : State) : Prop := u.k = s.k ∧ u.peers = s.peers ∧ u.crew = s.crew ∧ u.others = s.others ∧ u.sch.saved = s.sch.saved

theorem SameCrews.refl (s : State) : SameCrews s s := ⟨rfl, rfl, rfl, rfl, rfl⟩

theorem SameCrews.trans {s t u : State} (h : SameCrews s t) (h' : SameCrews t u) : SameCrews s u := by
  obtain ⟨hk, hpeers, hcrew, hothers, hsaved⟩ := h
  obtain ⟨hk', hpeers', hcrew', hothers', hsaved'⟩ := h'
  exact ⟨hk'.trans hk, hpeers'.trans hpeers, hcrew'.trans hcrew, hothers'.trans hothers, hsaved'.trans hsaved⟩

theorem SameCrews.allCrews_eq {s u : State} (h : SameCrews s u) : allCrews u = allCrews s := by
  obtain ⟨hk, hpeers, hcrew, hothers, -⟩ := h
  simp only [allCrews, focusRec, hk, hpeers, hcrew, hothers]

theorem SameCrews.saved_eq {s u : State} (h : SameCrews s u) : u.sch.saved = s.sch.saved := h.2.2.2.2

theorem CachesOnly.sameCrews {s u : State} (h : CachesOnly s u) : SameCrews s u := by
  obtain ⟨⟨_, _, _, _, _, _, _, rfl⟩, -⟩ := h
  exact .refl s

theorem sameCrews_modHm (f : Homes → Homes) (s : State) : SameCrews s (modHm f s) := ⟨rfl, rfl, rfl, rfl, rfl⟩

/-- A fold of operations that each keep the crews. -/
theorem sameCrews_foldl {α : Type} {f : State → α → State} (hf : ∀ t x, SameCrews t (f t x)) (l : List α) (s : State) : SameCrews s (l.foldl f s) :=
  List.foldlRecOn l f (.refl s) fun t ht x _ => ht.trans (hf t x)

theorem countWrites_sameCrews (line : Nat) (s : State) : SameCrews s (countWrites line s) := by
  refine sameCrews_foldl (fun t m => ?_) _ s
  split
  · exact sameCrews_modHm _ t
  · exact .refl t

/-- A store of no skein and no crew, accepted by its home. -/
theorem homeAccept_sameCrews {st : Store} (s : State) (huid : st.uid = 0) (hcuid : st.cuid = 0) : SameCrews s (homeAccept st s) := by
  rw [homeAccept, if_pos hcuid, if_pos huid]
  refine SameCrews.trans (SameCrews.trans ?_ (countWrites_sameCrews _ _)) (l2Access_cachesOnly _ _ _).sameCrews
  exact ⟨rfl, rfl, rfl, rfl, rfl⟩

theorem sendStore_sameCrews {st : Store} (s : State) (huid : st.uid = 0) (hcuid : st.cuid = 0) : SameCrews s (sendStore st s) := by
  unfold sendStore
  split
  · exact sameCrews_modHm _ s
  · exact homeAccept_sameCrews s huid hcuid

theorem mgrWrite_sameCrews (pa : Nat) (l : List Byte) (s : State) : SameCrews s (mgrWrite pa l s) := by
  unfold mgrWrite
  split
  · exact sameCrews_foldl (fun t line => .trans ⟨rfl, rfl, rfl, rfl, rfl⟩ (sendStore_sameCrews { t with seqNo := t.seqNo + 1 } rfl rfl)) _ s
  · exact .refl s

theorem setDeficit_sameCrews (n : Nat) (x : Int) (s : State) : SameCrews s (setDeficit n x s) :=
  .trans ⟨rfl, rfl, rfl, rfl, rfl⟩ (mgrWrite_sameCrews _ _ _)

theorem setCharged_sameCrews (n x : Nat) (s : State) : SameCrews s (setCharged n x s) :=
  .trans ⟨rfl, rfl, rfl, rfl, rfl⟩ (mgrWrite_sameCrews _ _ _)

theorem chargeCrew_sameCrews (c : CrewRec) (s : State) : SameCrews s (chargeCrew c s) := by
  unfold chargeCrew
  split
  · exact .refl s
  · exact (setDeficit_sameCrews _ _ s).trans (setCharged_sameCrews _ _ _)

theorem settleDeficit_sameCrews (n : Nat) (s : State) : SameCrews s (settleDeficit n s) := by
  unfold settleDeficit
  split
  · exact .refl s
  · dsimp only
    split
    · exact .refl s
    · exact setDeficit_sameCrews _ _ s

theorem leaveCore_sameCrews (c : Crew) (s : State) : SameCrews s (leaveCore c s) := by
  unfold leaveCore
  split
  · exact (sameCrews_modHm _ s).trans (sameCrews_modHm _ _)
  · exact sameCrews_modHm _ s

/-! ### A crew leaves its core -/

/-- The resident crews are among those that are put in place. -/
theorem exists_of_mem_withCrews {l : List CrewRec} {s : State} {y : CrewRec} (h : y ∈ allCrews (withCrews l s)) : ∃ z ∈ l, z.crew = y.crew := by
  cases l with
  | nil => exact absurd h List.not_mem_nil
  | cons c l =>
    obtain hfocus | hothers := List.mem_append.mp h
    · split at hfocus
      · exact ⟨c, List.mem_cons_self, (congrArg CrewRec.crew (List.mem_singleton.mp hfocus)).symm⟩
      · cases hfocus
    · exact ⟨y, List.mem_cons_of_mem c hothers, rfl⟩

theorem withCrews_sch (l : List CrewRec) (s : State) : (withCrews l s).sch = s.sch := by cases l <;> rfl

/-- A crew that has left its core is resident no longer. -/
theorem uid_ne_of_mem_removeCrew {c : Crew} {s : State} {y : CrewRec} (h : y ∈ allCrews (removeCrew c s)) : y.crew.uid ≠ c.uid := by
  rw [removeCrew, (leaveCore_sameCrews _ _).allCrews_eq] at h
  obtain ⟨z, hz, hcrew⟩ := exists_of_mem_withCrews h
  rw [← hcrew]
  simpa using (List.mem_filter.mp hz).2

theorem removeCrew_saved (c : Crew) (s : State) : (removeCrew c s).sch.saved = s.sch.saved := by
  rw [removeCrew, (leaveCore_sameCrews _ _).saved_eq, withCrews_sch]

theorem leaveLatches_sch (uid : Nat) (s : State) : (leaveLatches uid s).sch = s.sch :=
  List.foldlRecOn (clusterMates uid s) _ (motive := fun t : State => t.sch = s.sch) rfl fun _ ht _ _ => ht

/-- The record of a crew that is saved in slot `i` with the group `g`. -/
def savedRecord (g i : Nat) (c : CrewRec) (s : State) : Saved :=
  { crewRec := { crew := packCrew s.clocks c.crew, skeins := c.skeins.map packSkein }, slot := i, group := g, waits := crewWaits c s }

/-- A crew with a free save slot is saved whole and leaves its core (16 R421, R422). -/
theorem saveOne_results {g i : Nat} {c : CrewRec} {s : State} (h : freeSave s c.crew.ctx [] = some i) :
    (∀ y ∈ allCrews (saveOne g c s), y.crew.uid ≠ c.crew.uid) ∧ (saveOne g c s).sch.saved = s.sch.saved ++ [savedRecord g i c s] := by
  unfold saveOne
  rw [h]
  dsimp only
  rw [(settleDeficit_sameCrews _ _).allCrews_eq, (settleDeficit_sameCrews _ _).saved_eq, removeCrew_saved]
  refine ⟨fun y => uid_ne_of_mem_removeCrew, ?_⟩
  have himage (l : List (Nat × List Byte)) (base : Nat) : (l.foldl (fun s p => physWrite (base + p.1) p.2 s) s).sch = s.sch :=
    List.foldlRecOn l _ (motive := fun t : State => t.sch = s.sch) rfl fun _ ht _ _ => ht
  have hlatches (l : List Skein) (t : State) : (l.foldl (fun s k => leaveLatches k.uid s) t).sch = t.sch :=
    List.foldlRecOn l _ (motive := fun u : State => u.sch = t.sch) rfl fun u hu k _ => (leaveLatches_sch k.uid u).trans hu
  exact congrArg (· ++ [savedRecord g i c s]) ((chargeCrew_sameCrews c _).saved_eq.trans (by rw [hlatches, himage]))

/-- Crews that may leave do, one after the other. -/
theorem leaves_of_mayLeave {c : Crew} {s : State} {o : Out} (h : mayLeave c s) (ho : ∀ t, preempt c s = some t → o = .next t) : Leaves c s o := by
  obtain ⟨hdrained, hslots⟩ := h
  have hpre : preempt c s = some ((companions c s).foldl (fun u x => saveOne u.ids x u) { s with ids := s.ids + 1 }) := by
    rw [preempt, List.all_eq_true.mpr hdrained, hslots]
    rfl
  refine ⟨ho _ hpre, fun x hx => ?_⟩
  have hslot : ∃ i, freeSave s x.crew.ctx [] = some i := by
    rw [hx, slotsFor] at hslots
    split at hslots
    · next i hi => exact ⟨i, hi⟩
    · cases hslots
  obtain ⟨i, hi⟩ := hslot
  obtain ⟨hgone, hsaved⟩ := saveOne_results (g := s.ids + 1) (c := x) (s := { s with ids := s.ids + 1 }) hi
  rw [hx]
  exact ⟨hgone, _, hsaved, rfl, rfl, rfl, rfl, rfl, rfl, rfl, rfl⟩

section
variable {core slot n : Nat} {s : State}

theorem exec_preemptCrew {c : CrewRec} (hc : crewAt core slot s = some c) {t : State} (ht : preempt c.crew s = some t) :
    exec (.preemptCrew core slot) s = .next t := by
  have harm : exec (.preemptCrew core slot) s = execPreemptCrew core slot s := rfl
  rw [harm, execPreemptCrew, hc]
  dsimp only
  rw [ht]

theorem exec_preemptWaitingCrew {c : CrewRec} (hc : crewAt core slot s = some c) (hwaits : crewWaits c s ≠ [])
    (hqueue : ∃ q ∈ s.sch.queues, prioOf s c.crew.queue < q.prio ∧ blocked s q.n = true) {t : State} (ht : preempt c.crew s = some t) :
    exec (.preemptWaitingCrew core slot) s = .next t := by
  have harm : exec (.preemptWaitingCrew core slot) s = execPreemptWaitingCrew core slot s := rfl
  have hgo : (!(crewWaits c s).isEmpty && s.sch.queues.any (fun q => decide (prioOf s c.crew.queue < q.prio) && blocked s q.n)) = true := by
    simpa using ⟨hwaits, hqueue⟩
  rw [harm, execPreemptWaitingCrew, hc]
  dsimp only
  rw [hgo, if_pos rfl, ht]

/-- A queue whose unit has fitted nowhere for 100 µs has the first victim with save slots pre-empted (15 R405). -/
theorem exec_priorityPreemption {q : Queue} {t : Nat} {f : Nat × Nat} {c : CrewRec} (hq : findQueue s n = some q) (hflag : q.flags.testBit 1 = true)
    (hstuck : q.stuck = some (t, f)) (hfront : frontId s n = some f) (hlong : t + 100000 ≤ s.gtime) (hblocked : blocked s n = true)
    (hvictim : (victims s q.prio).find? (fun c => slotsFor s (companions c.crew s) []) = some c) {u : State} (hu : preempt c.crew s = some u) :
    exec (.priorityPreemption n) s = .next u := by
  have harm : exec (.priorityPreemption n) s = execPriorityPreemption n s := rfl
  have hn : q.n = n := by simpa using List.find?_some hq
  have hgo : (nbit q.flags 1 && longStuck s q) = true := by
    obtain ⟨a, b⟩ := f
    rw [nbit, hflag, longStuck, hstuck, hn, hfront, hblocked]
    simpa using hlong
  rw [harm, execPriorityPreemption, hq]
  dsimp only
  rw [hgo, if_pos rfl, hvictim]
  dsimp only
  rw [hu]

/-! ### A saved unit comes back -/

/-- What the search for the least-loaded place has found among the candidates so far. -/
def BestOf (load : Nat → Nat) (f : Nat → Option State) (l : List Nat) : Option (Nat × State) → Prop
  | none => ∀ q ∈ l, f q = none
  | some (m, t) => ∃ p ∈ l, f p = some t ∧ load p = m ∧ ∀ q ∈ l, (f q).isSome = true → load p < load q ∨ (load p = load q ∧ p ≤ q)

/-- One step of the search: a candidate joins. -/
def bestStep (load : Nat → Nat) (f : Nat → Option State) (m : Option (Nat × State)) (x : Nat) : Option (Nat × State) :=
  if (match m with | some b => decide (b.1 ≤ load x) | none => false) then m else match f x with | some t => some (load x, t) | none => m

theorem bestOf_step {load : Nat → Nat} {f : Nat → Option State} {l : List Nat} {m : Option (Nat × State)} {x : Nat} (hx : ∀ q ∈ l, q < x)
    (h : BestOf load f l m) : BestOf load f (l ++ [x]) (bestStep load f m x) := by
  have hsplit {P : Nat → Prop} (hl : ∀ q ∈ l, P q) (hPx : P x) : ∀ q ∈ l ++ [x], P q := fun q hq =>
    (List.mem_append.mp hq).elim (hl q) fun hq => List.mem_singleton.mp hq ▸ hPx
  have hself : x ∈ l ++ [x] := List.mem_append_right l List.mem_cons_self
  cases m with
  | none =>
    cases hfx : f x with
    | none =>
      rw [show bestStep load f none x = none by simp [bestStep, hfx]]
      exact hsplit h hfx
    | some u =>
      rw [show bestStep load f none x = some (load x, u) by simp [bestStep, hfx]]
      exact ⟨x, hself, hfx, rfl, hsplit (fun q hq hs => by simp [h q hq] at hs) fun _ => .inr ⟨rfl, le_rfl⟩⟩
  | some b =>
    obtain ⟨m, t⟩ := b
    obtain ⟨p, hp, hft, hload, hbest⟩ := h
    have hpx := hx p hp
    by_cases hle : m ≤ load x
    · rw [show bestStep load f (some (m, t)) x = some (m, t) by simp [bestStep, hle]]
      exact ⟨p, List.mem_append_left _ hp, hft, hload, hsplit hbest fun _ => by omega⟩
    · cases hfx : f x with
      | none =>
        rw [show bestStep load f (some (m, t)) x = some (m, t) by simp [bestStep, hfx]]
        exact ⟨p, List.mem_append_left _ hp, hft, hload, hsplit hbest fun hs => by simp [hfx] at hs⟩
      | some u =>
        rw [show bestStep load f (some (m, t)) x = some (load x, u) by simp [bestStep, hle, hfx]]
        exact ⟨x, hself, hfx, rfl, hsplit (fun q hq hs => .inl (by have := hbest q hq hs; omega)) fun _ => .inr ⟨rfl, le_rfl⟩⟩

theorem bestOf_range (load : Nat → Nat) (f : Nat → Option State) (n : Nat) : BestOf load f (List.range n) ((List.range n).foldl (bestStep load f) none) := by
  induction n with
  | zero => exact fun q hq => absurd hq List.not_mem_nil
  | succ n ih =>
    rw [List.range_succ, List.foldl_append]
    exact bestOf_step (fun q hq => List.mem_range.mp hq) ih

/-- The search among the first `n` places finds the least-loaded one with room, the lowest number among equals (15 R404). -/
theorem leastLoaded_range {load : Nat → Nat} {f : Nat → Option State} {n : Nat} (h : ∃ p < n, (f p).isSome = true) :
    ∃ t, leastLoaded load f (List.range n) = some t ∧ LeastLoaded f load n t := by
  have hfold : leastLoaded load f (List.range n) = ((List.range n).foldl (bestStep load f) none).map (·.2) := rfl
  have hbest := bestOf_range load f n
  rw [hfold]
  cases hfound : (List.range n).foldl (bestStep load f) none with
  | none =>
    rw [hfound] at hbest
    obtain ⟨p, hp, hs⟩ := h
    rw [hbest p (List.mem_range.mpr hp)] at hs
    cases hs
  | some b =>
    rw [hfound] at hbest
    obtain ⟨p, hp, hft, -, hmin⟩ := hbest
    exact ⟨b.2, rfl, p, List.mem_range.mp hp, hft, fun q hq => hmin q (List.mem_range.mpr hq)⟩

/-- The machine's load of a candidate is the statements'. -/
theorem placeLeast_eq (add : Nat → Nat → State → Option State) (lr : LaunchRec) (s : State) :
    placeLeast add lr s = leastLoaded (loadOf lr s) (fun p => atPlace add lr p s) (List.range (places lr)) := by
  have hload : (if (domainTasks lr 3).isSome then clusterLoad s else coreLoad s) = loadOf lr s := by
    funext p
    rw [loadOf]
    split <;> rfl
  rw [placeLeast, hload]

/-- A saved unit with a wait that is over comes back to the least-loaded place with room, or its context is killed (16 R425). -/
theorem exec_restoreCrew {r : Saved} {l : List Saved} (hgroup : groupOf n s = r :: l) (hwait : restorable (r :: l) s = true) :
    let lr := r.crewRec.crew.lrec
    let at_ := fun p => atPlace (comesBack (r :: l) lr) lr p s
    ((∀ x ∈ r :: l, saveBad s x = false) → (∃ p < places lr, (at_ p).isSome = true) →
      ∃ t, exec (.restoreCrew n) s = .next t ∧ LeastLoaded at_ (loadOf lr s) (places lr) t) ∧
    ∀ x, (r :: l).find? (saveBad s) = some x → exec (.restoreCrew n) s = .next (slotKill x s) := by
  intro lr at_
  have harm : exec (.restoreCrew n) s = execRestoreCrew n s := rfl
  refine ⟨fun hgood hroom => ?_, fun x hx => ?_⟩
  · have hnone : (r :: l).find? (saveBad s) = none := List.find?_eq_none.mpr fun x hx => by simp [hgood x hx]
    have hplace : restoreGroup n s = placeLeast (comesBack (r :: l) lr) lr s := by
      rw [restoreGroup, hgroup]
      dsimp only
      rw [hwait, if_neg (by decide), hnone]
      rfl
    obtain ⟨t, hfound, hleast⟩ := leastLoaded_range (load := loadOf lr s) hroom
    rw [placeLeast_eq] at hplace
    exact ⟨t, by rw [harm, execRestoreCrew, hplace.trans hfound], hleast⟩
  · have hkill : restoreGroup n s = some (slotKill x s) := by
      rw [restoreGroup, hgroup]
      dsimp only
      rw [hwait, if_neg (by decide), hx]
    rw [harm, execRestoreCrew, hkill]

end

/-! ### The statement -/

/-- Settles O43: each event under its conditions by the lemma that says what it does. -/
theorem waitAndCrewEventsComplete : Obligations.WaitAndCrewEventsComplete := by
  unfold Obligations.WaitAndCrewEventsComplete
  refine ⟨fun r s t hfocus => ⟨?_, ?_, fun w => ?_, fun l n a h => exec_barrierStallTimeout hfocus h,
    fun l1 p l2 k hpend h1 h2 hhand hheld hway hk => exec_deferredTrapTake hfocus hpend h1 h2 hhand hheld hway hk⟩,
    fun core slot n s => ⟨fun c hc => ⟨exec_basketTimerExpiry hc, fun i x => exec_basketLaunch hc, fun hover => ?_, fun hleave => ?_⟩,
      fun r t => exec_skeinEnd, fun t => exec_retirementEntryFree, fun l hl => ⟨fun hdet v => exec_merge v hl hdet, fun hexp => ?_⟩,
      fun q t f c hq hflag hstuck hfront hlong hblocked hvictim hleave => ?_, fun r l => exec_restoreCrew⟩⟩
  · intro w x g d a b u hw hkind hfull hres _ hmay
    obtain ⟨hkeep, hclear⟩ := exec_consumingLoadProceed hfocus hw hkind hfull hres (x := x) (g := g) (d := d) (a := a) (b := b) (u := u)
    exact ⟨fun hfetch => hkeep hfetch ▸ consume_of_mayConsume hmay, fun hfetch => hclear hfetch ▸ consume_of_mayConsume hmay⟩
  · intro w l b a u hw hkind hstage hres hl hdecl hcheck hwhole ha
    have hat : AtLevelBarrier r s t u w l b a := ⟨hfocus, hw, hkind, hstage, hres, hl, hdecl, hcheck, hwhole, ha⟩
    refine ⟨fun hover hmerge hfetch => ?_, fun hover _ hfetch => exec_levelBarrierRelease_passes hat hover hfetch,
      fun m hover hfetch hpc hmerge hdone hm hstay => exec_levelBarrierRelease_arrives hat hover hfetch hpc hmerge hdone hm hstay,
      exec_levelBarrierRelease_arriveForm hat⟩
    rw [exec_levelBarrierRelease_passes hat hover hfetch, passBar_level b hl (noMergeTrap_standAt b hl hmerge)]
  · exact ⟨waitTrap_of_waitOver hfocus, waitTrap_of_waitOver hfocus, exec_gangLatchTimeout hfocus, waitTrap_of_waitOver hfocus⟩
  · rw [exec_crewEnd hc hover]
    exact ⟨fun hnone => if_neg (by simp [hnone]), fun hsome => if_pos (by simpa using hsome)⟩
  · exact ⟨leaves_of_mayLeave hleave fun t => exec_preemptCrew hc,
      fun hwaits hqueue => leaves_of_mayLeave hleave fun t => exec_preemptWaitingCrew hc hwaits hqueue⟩
  · exact ⟨exec_watchdogTrap hl hexp, exec_watchdogKill hl hexp⟩
  · exact leaves_of_mayLeave hleave fun u => exec_priorityPreemption hq hflag hstuck hfront hlong hblocked hvictim

end Sys2Proof.Proofs
end

section
/-! PROOFS. The canonical form of memory (log entry 2) under the instructions of a skein: lanes, control, barriers, loads and stores. -/
namespace Sys2Proof.Proofs
open Sys2Proof Sys2Proof.Machine Sys2Proof.Laws

/-! ### Answers that hold a state -/

/-- The state beside a value is canonical. -/
abbrev SndCanon {α : Type} (x : α × State) : Prop := Canon x.2

/-- The state of an answer that may hold none is canonical. -/
def OptCanon (o : Option State) : Prop := ∀ t, o = some t → Canon t

theorem optCanon_none : OptCanon none := fun _ e => absurd e (Option.some_ne_none _).symm

theorem optCanon_some {t : State} (h : Canon t) : OptCanon (some t) := fun _ e => Option.some.inj e ▸ h

theorem optCanon_map {o : Option State} {f : State → State} (ho : OptCanon o) (hf : ∀ t, Canon t → Canon (f t)) : OptCanon (o.map f) := by
  intro t ht
  obtain ⟨u, hu, rfl⟩ := Option.map_eq_some_iff.mp ht
  exact hf u (ho u hu)

/-- A fold whose steps may fail keeps the canonical form when each step does. -/
theorem optCanon_foldlM {α : Type} {act : State → α → Option State} (keeps : ∀ t x, Canon t → OptCanon (act t x)) (l : List α) {s : State}
    (h : Canon s) : OptCanon (l.foldlM act s) := by
  induction l generalizing s with
  | nil => exact optCanon_some h
  | cons x l ih =>
    intro t ht
    obtain ⟨u, hu, htail⟩ := Option.bind_eq_some_iff.mp ht
    exact ih (keeps s x h u hu) t htail

/-- Nothing happens, or the state that an answer holds comes next. -/
theorem optNext_canon {o : Option State} {s : State} (h : Canon s) (ho : OptCanon o) :
    OutCanon (match (generalizing := false) o with | some t => .next t | none => idle s) := by
  cases o with
  | none => exact h
  | some t => exact ho t rfl

/-- A fold with results beside the state keeps the canonical form when each step does. -/
theorem foldFst_canon {α β : Type} {act : State × β → α → State × β} (keeps : ∀ x y, Canon x.1 → Canon (act x y).1) (l : List α) {x : State × β}
    (h : Canon x.1) : Canon (l.foldl act x).1 :=
  List.foldlRecOn (motive := fun x : State × β => Canon x.1) l act h fun x hx y _ => keeps x y hx

theorem resCanon_ite {α : Type} {P : α → Prop} {c : Prop} [Decidable c] {a b : Res α} (ha : ResCanon P a) (hb : ResCanon P b) :
    ResCanon P (if c then a else b) := by split <;> assumption

theorem canon_ite {c : Prop} [Decidable c] {a b : State} (ha : Canon a) (hb : Canon b) : Canon (if c then a else b) := by split <;> assumption

theorem outCanon_ite {c : Prop} [Decidable c] {a b : Out} (ha : OutCanon a) (hb : OutCanon b) : OutCanon (if c then a else b) := by
  split <;> assumption

theorem optCanon_ite {c : Prop} [Decidable c] {a b : Option State} (ha : OptCanon a) (hb : OptCanon b) : OptCanon (if c then a else b) := by
  split <;> assumption

/-! ### Updates that leave the homes alone -/

theorem setPreg_canon (i : Nat) (x : Word64) {s : State} (h : Canon s) : Canon (setPreg i x s) := h
theorem modSch_canon (f : Sched → Sched) {s : State} (h : Canon s) : Canon (modSch f s) := h
theorem modQueue_canon (n : Nat) (f : Queue → Queue) {s : State} (h : Canon s) : Canon (modQueue n f s) := h
theorem modXl_canon (f : Xlate → Xlate) {s : State} (h : Canon s) : Canon (modXl f s) := h
theorem modEn_canon (f : Engines → Engines) {s : State} (h : Canon s) : Canon (modEn f s) := h
theorem modFab_canon (f : Fabric → Fabric) {s : State} (h : Canon s) : Canon (modFab f s) := h
theorem modSkein_canon (u : Nat) (f : Skein → Skein) {s : State} (h : Canon s) : Canon (modSkein u f s) := h
theorem modCrew_canon (u : Nat) (f : Crew → Crew) {s : State} (h : Canon s) : Canon (modCrew u f s) := h
theorem modCrewAll_canon (u : Nat) (f : Crew → Crew) {s : State} (h : Canon s) : Canon (modCrewAll u f s) := h
theorem setOp_canon (o : Op) {s : State} (h : Canon s) : Canon (setOp o s) := h
theorem dropOp_canon (n : Nat) {s : State} (h : Canon s) : Canon (dropOp n s) := h
theorem childEnded_canon (n : Nat) {s : State} (h : Canon s) : Canon (childEnded n s) := h
theorem emit_canon (o : Output) {s : State} (h : Canon s) : Canon (emit o s) := h
theorem setSkein_canon (k : Skein) {s : State} (h : Canon s) : Canon { s with k := k } := h
theorem setIds_canon (n : Nat) {s : State} (h : Canon s) : Canon { s with ids := n } := h
theorem setMgt_canon (m : Mgmt) {s : State} (h : Canon s) : Canon { s with mgt := m } := h
theorem setFab_canon (f : Fabric) {s : State} (h : Canon s) : Canon { s with fab := f } := h
theorem retire_canon (n : Nat) {s : State} (h : Canon s) : Canon (retire n s) := h
theorem dropWaiter_canon (n : Nat) {s : State} (h : Canon s) : Canon (dropWaiter n s) := h
theorem withCrews_canon (l : List CrewRec) {s : State} (h : Canon s) : Canon (withCrews l s) := by rwa [Canon, withCrews_hm]
theorem countUncorr_canon (n : Nat) {s : State} (h : Canon s) : Canon (countUncorr n s) := by rwa [Canon, countUncorr_hm]
theorem countCorr_canon (n : Nat) {s : State} (h : Canon s) : Canon (countCorr n s) := by rwa [Canon, countCorr_hm]
theorem correctScr_canon (l : List (Nat × Int × Nat)) {s : State} (h : Canon s) : Canon (correctScr l s) := by rwa [Canon, correctScr_hm]
theorem sendMsg_canon (a b c : Nat) (x : Word64) (l : List Byte) {s : State} (h : Canon s) : Canon (sendMsg a b c x l s) := by rwa [Canon, sendMsg_hm]
theorem askHost_canon (r : Reader) (n : Nat) (x : Nat × Nat × Nat) {s : State} (h : Canon s) : Canon (askHost r n s x) := by rwa [Canon, askHost_hm]
theorem dropHostReads_canon (n : Nat) {s : State} (h : Canon s) : Canon (dropHostReads n s) := h
theorem forgetPages_canon (n : Nat) {s : State} (h : Canon s) : Canon (forgetPages n s) := h
theorem setReq_canon (r : PageReq) {s : State} (h : Canon s) : Canon (setReq r s) := h
theorem respond_canon (m : PvlMsg) (c : Nat) (l : List Byte) {s : State} (h : Canon s) : Canon (respond m c l s) := h
theorem putStream_canon (x : Stream) {s : State} (h : Canon s) : Canon (putStream x s) := h
theorem setFabBit_canon (i : Nat) (b : Bool) {s : State} (h : Canon s) : Canon (setFabBit i b s) := by rwa [Canon, setFabBit_hm]

/-! ### Meanings of the lanes and the uniform registers -/

theorem laneOp_canon {r : Req} {g d : Nat} {f : Skein → Nat → Word32} {s : State} (h : Canon s) : OutCanon (laneOp r g d f s) := simple_canon h rfl
theorem unifOp_canon {d : Nat} {f : Skein → Word64} {s : State} (h : Canon s) : OutCanon (unifOp d f s) := simple_canon h rfl
theorem predOp_canon {r : Req} {g p : Nat} {f : Skein → Word32} {s : State} (h : Canon s) : OutCanon (predOp r g p f s) := simple_canon h rfl
theorem floatOp_canon {r : Req} {g d : Nat} {sr : State → Bool} {f : State → Nat → Nat × Nat} {s : State} (h : Canon s) : OutCanon (floatOp r g d sr f s) :=
  simple_canon h rfl
theorem itvOp_canon {r : Req} {g d : Nat} {f : Skein → Nat → Word64 × Nat} {s : State} (h : Canon s) : OutCanon (itvOp r g d f s) := simple_canon h rfl
theorem reduceOp_canon {g d a o t : Nat} {src : Word32 → Nat → List Nat} {s : State} (h : Canon s) : OutCanon (reduceOp g d a o t src s) :=
  simple_canon h rfl

@[simp] theorem noteRead_hm (n : Nat) (s : State) : (noteRead n s).hm = s.hm := by unfold noteRead; split <;> rfl

theorem execMovsVector_canon {g d a : Nat} {s : State} (h : Canon s) : OutCanon (execMovsVector g d a s) := simple_canon h (noteRead_hm a s)

theorem execMovs_canon {d n : Nat} {s : State} (h : Canon s) : OutCanon (execMovs d n s) := by
  unfold execMovs
  split
  · exact conclude_canon _ h trivial
  · refine issue_canon h ?_
    show Canon (noteRead n s)
    rwa [Canon, noteRead_hm]

/-! ### Control -/

theorem execRet_canon {a : Nat} {s : State} (h : Canon s) : OutCanon (execRet a s) := issue_canon h (resCanon_ite h trivial)

theorem execJmpg_canon {d a : Nat} {s : State} (h : Canon s) : OutCanon (execJmpg d a s) := issue_canon h (resCanon_ite h trivial)

/-- An arrival on a level's object that its check completes keeps the canonical form. -/
theorem levelCheck_canon (l : Nat) {s : State} (h : Canon s) : Canon (levelCheck l s) := by
  unfold levelCheck
  dsimp only
  split
  · split
    · exact h
    · exact arriveVa_canon _ _ _ _ _ _ h
  · exact h

theorem skeinOver_canon {s : State} (h : Canon s) : Canon (skeinOver s) := by
  unfold skeinOver
  split
  · exact fold_canon (fun _ l ht => levelCheck_canon l ht) _ (checkBars s) h
  · exact h

theorem endLanes_canon (x : Word32) (pc : Word64) {s : State} (h : Canon s) : Canon (endLanes x pc s) :=
  skeinOver_canon (s := settle true _ (freeLaneRecs x s)) h

theorem execTail_canon {g : Nat} {s : State} (h : Canon s) : OutCanon (execTail g s) := by
  have hend := endLanes_canon (active s.k g) (s.k.e.pc + 4#64) h
  exact issue_canon h (resCanon_ite hend (resCanon_ite h hend))

theorem execMeld_canon {p : Nat} {s : State} (h : Canon s) : OutCanon (execMeld p s) :=
  conclude_canon _ h (resCanon_ite trivial (resCanon_ite trivial h))

theorem execMend_canon {s : State} (h : Canon s) : OutCanon (execMend s) :=
  conclude_canon _ h (resCanon_ite trivial (resCanon_ite trivial h))

theorem execMmap_canon {p i v : Nat} {s : State} (h : Canon s) : OutCanon (execMmap p i v s) :=
  conclude_canon _ h (resCanon_ite trivial (resCanon_ite trivial (resCanon_ite trivial h)))

theorem execWopen_canon {s : State} (h : Canon s) : OutCanon (execWopen s) := issue_canon h (resCanon_ite trivial h)

theorem execWclose_canon {s : State} (h : Canon s) : OutCanon (execWclose s) := by
  refine issue_canon h ?_
  dsimp only
  split
  · trivial
  · exact h

theorem writeRecs_hm {l : List SpawnRec} {s t : State} (hw : writeRecs l s = some t) : t.hm = s.hm := by
  unfold writeRecs at hw
  split at hw
  · cases hw; rfl
  · split at hw
    · cases hw; rfl
    · cases hw

theorem spawnLanes_canon (kind n : Nat) (entry : Word64) (x : Word32) (pc : Word64) {s : State} (h : Canon s) :
    ResCanon Canon (spawnLanes kind n entry x pc s) := by
  unfold spawnLanes
  split
  · rename_i hw
    exact endLanes_canon _ _ (by rwa [Canon, writeRecs_hm hw])
  · exact canon_ite h h

theorem execSpawn_canon {g n o : Nat} {s : State} (h : Canon s) : OutCanon (execSpawn g n o s) := by
  refine issue_canon h ?_
  split
  · trivial
  · exact spawnLanes_canon _ _ _ _ _ h

theorem execBrx_canon {g n o : Nat} {s : State} (h : Canon s) : OutCanon (execBrx g n o s) := by
  refine issue_canon h ?_
  split
  · trivial
  · exact resCanon_ite h (resCanon_ite h (resCanon_ite (spawnLanes_canon _ _ _ _ _ h) (spawnLanes_canon _ _ _ _ _ h)))

/-! ### Barriers and fences -/

@[simp] theorem standAt_hm (l b : Nat) (s : State) : (standAt l b s).hm = s.hm := by
  unfold standAt
  dsimp only
  split
  · rfl
  · split <;> rfl

@[simp] theorem standOff_hm (l b : Nat) (s : State) : (standOff l b s).hm = s.hm := by
  unfold standOff
  split <;> rfl

@[simp] theorem observe_hm (l b : Nat) (s : State) : (observe l b s).hm = s.hm := rfl

theorem arriveAt_canon (l b : Nat) (a : Option Word64) {s : State} (h : Canon s) : Canon (arriveAt l b a s) := by
  unfold arriveAt
  split
  · exact h
  · exact levelCheck_canon _ h

theorem passBar_canon (l b : Nat) {s : State} (h : Canon s) : Canon (passBar l b s) := by
  have h1 : Canon (standOff l b (observe l b s)) := by simpa [Canon] using h
  unfold passBar
  dsimp only
  split
  · exact h1
  · split
    · exact h1
    · exact takeTrap_canon _ _ h1

theorem barForm_canon {form l b : Nat} {s : State} (h : Canon s) : OutCanon (barForm form l b s) := by
  refine conclude_canon _ h ?_
  have h0 : Canon (if form = 1 then s else standAt l b s) := by split <;> simpa [Canon] using h
  generalize (if form = 1 then s else standAt l b s) = s0 at h0
  split
  · trivial
  · split
    · trivial
    · refine resCanon_ite h0 (resCanon_ite ?_ ?_)
      · split
        · show Canon (standOff l b (acquire s0))
          simpa [Canon] using h0
        · exact resCanon_ite (passBar_canon _ _ h0) h0
      · have hfirst : ∀ x, (match myArrival s.k l b with
            | none => some (s0, false)
            | some a => if phaseOver a s0 then some (observeFirst l b s0) else none) = some x → Canon x.1 := by
          intro x hx
          split at hx
          · cases hx; exact h0
          · split at hx
            · cases hx; exact h0
            · cases hx
        split
        · exact h0
        · rename_i hx; exact hfirst _ hx
        · rename_i s1 hx
          have h1 : Canon s1 := hfirst _ hx
          have h2 := arriveAt_canon l b (some s.k.e.pc) h1
          refine resCanon_ite h1 (resCanon_ite (arriveAt_canon _ _ _ h1) ?_)
          dsimp only
          split
          · exact h2
          · exact resCanon_ite (passBar_canon _ _ h2) h2

theorem execWaitc_canon {l z c t : Nat} {s : State} (h : Canon s) : OutCanon (execWaitc l z c t s) := issue_canon h (resCanon_ite h h)

theorem fenceEnd_canon {s : State} (h : Canon s) : Canon (fenceEnd s) := by
  unfold fenceEnd
  split
  · split
    · exact h
    · exact takeTrap_canon _ _ h
  · exact h

theorem fence_canon {rel acq : Bool} {scope : Nat} {s : State} (h : Canon s) : OutCanon (fence rel acq scope s) :=
  issue_canon h (resCanon_ite h (fenceEnd_canon (canon_ite h h)))

theorem raiseAfter_canon {code c : Nat} {s : State} (h : Canon s) : OutCanon (raiseAfter code c s) := issue_canon h (takeTrap_canon _ _ h)

@[simp] theorem forgetStand_hm (s : State) : (forgetStand s).hm = s.hm := by
  unfold forgetStand
  split
  · split
    · split <;> rfl
    · rfl
  · rfl

theorem execEret_canon {s : State} (h : Canon s) : OutCanon (execEret s) := by
  unfold execEret
  split
  · exact conclude_canon _ h trivial
  · exact issue_canon h (leaveHandler_canon (by rwa [Canon, forgetStand_hm]))

/-! ### Loads, stores and atomics of the lanes (10 R284 to R288) -/

theorem release_canon (scope : Nat) {s : State} (h : Canon s) : ResCanon Canon (release scope s) := by
  unfold release
  split <;> exact h

theorem relFirst_canon (rel : Bool) (scope : Nat) {s : State} (h : Canon s) : ResCanon Canon (relFirst rel scope s) := by
  unfold relFirst
  split
  · exact release_canon _ h
  · exact h

theorem laneLoad_canon {x : Option MemPfx} {g d a b n scale : Nat} {s : State} (h : Canon s) : OutCanon (laneLoad x g d a b n scale s) :=
  issue_canon h <| resCanon_bind (relFirst_canon _ _ h) fun _ h1 => resCanon_bind (loadLanes_canon _ _ _ _ _ _ h1) fun _ h2 => h2

theorem laneStore_canon {x : Option MemPfx} {g v a b n scale : Nat} {s : State} (h : Canon s) : OutCanon (laneStore x g v a b n scale s) :=
  issue_canon h <| resCanon_bind (relFirst_canon _ _ h) fun _ h1 => resCanon_bind (storeLanes_canon _ _ _ _ h1) fun _ h2 => h2

theorem execGld_canon {x : Option MemPfx} {d a b z e : Nat} {s : State} (h : Canon s) : OutCanon (execGld x d a b z e s) :=
  issue_canon h <| resCanon_bind (relFirst_canon _ _ h) fun _ h1 => resCanon_bind (loadLanes_canon _ _ _ _ _ _ h1) fun _ h2 => h2

theorem execGst_canon {x : Option MemPfx} {d a b z : Nat} {s : State} (h : Canon s) : OutCanon (execGst x d a b z s) :=
  issue_canon h <| resCanon_bind (relFirst_canon _ _ h) fun _ h1 => resCanon_bind (storeLanes_canon _ _ _ _ h1) fun _ h2 => h2

/-- The checks of the window raise traps and never wait. -/
theorem winUncorr_trap {c : Crew} {l : List (Nat × Int × Nat)} {e : Stop} (h : winUncorr c l = some e) : ∃ t, e = .trap t := by
  induction l with
  | nil => cases h
  | cons x l ih =>
    rw [winUncorr] at h
    split at h
    · cases h; exact ⟨_, rfl⟩
    · exact ih h

theorem scrCheck_trap {W : Nat} {l : List (Nat × Int × Nat)} {e : Stop} (h : scrCheck W l = some e) : ∃ t, e = .trap t := by
  induction l with
  | nil => cases h
  | cons x l ih =>
    rw [scrCheck] at h
    split at h
    · cases h; exact ⟨_, rfl⟩
    · exact ih h

theorem scrAtCheck_trap {W n : Nat} {l : List (Nat × Int)} {e : Stop} (h : scrAtCheck W n l = some e) : ∃ t, e = .trap t := by
  induction l with
  | nil => cases h
  | cons x l ih =>
    rw [scrAtCheck] at h
    split at h
    · cases h; exact ⟨_, rfl⟩
    · split at h
      · rename_i ht
        cases h
        exact scrCheck_trap ht
      · exact ih h

theorem scrAtomic_canon (aop n : Nat) (acq : Bool) (l : List (Nat × Int × Nat × Nat)) {s : State} (h : Canon s) :
    ResCanon SndCanon (scrAtomic aop n acq l s) := by
  unfold scrAtomic
  split
  · rename_i ht; exact resCanon_error_trap (scrAtCheck_trap ht)
  · split
    · rename_i ht; exact resCanon_error_trap (winUncorr_trap ht)
    · show Canon (if _ then _ else _)
      split
      · exact h
      · show Canon (correctScr _ _)
        rwa [Canon, correctScr_hm]

theorem execVatom_canon {x : AtomPfx} {g d a b z : Nat} {s : State} (h : Canon s) : OutCanon (execVatom x g d a b z s) := by
  unfold execVatom
  dsimp only
  refine issue_canon h ?_
  refine resCanon_bind (relFirst_canon _ _ h) fun s1 h1 => ?_
  split
  · exact resCanon_bind (scrAtomic_canon _ _ _ _ h1) fun _ h2 => h2
  · exact resCanon_bind (atomicLanes_canon _ _ _ _ _ h1) fun _ h2 => h2

theorem execGatom_canon {x : Option MemPfx} {d a b o w z : Nat} {s : State} (h : Canon s) : OutCanon (execGatom x d a b o w z s) := by
  unfold execGatom
  dsimp only
  refine issue_canon h ?_
  refine resCanon_bind (relFirst_canon _ _ h) fun s1 h1 => ?_
  split
  · exact resCanon_bind (scrAtomic_canon _ _ _ _ h1) fun _ h2 => by rwa [resCanon_pure, Canon, retire_hm]
  · exact resCanon_bind (atomicLanes_canon _ _ _ _ _ h1) fun _ h2 => by rwa [resCanon_pure, Canon, retire_hm]

/-- What a scratch load leaves of memory, whether its lanes are none or some. -/
theorem bankRead_canon (b acq : Bool) (l : List (Nat × Int × Nat)) {s : State} (h : Canon s) :
    Canon (if b then s else bankRead acq (correctScr l s)) :=
  canon_ite h (setSkein_canon _ (correctScr_canon l h))

theorem execSld_canon {x : Option MemPfx} {g d a b : Nat} {s : State} (h : Canon s) : OutCanon (execSld x g d a b s) := by
  refine issue_canon h ?_
  refine resCanon_bind (relFirst_canon _ _ h) fun s1 h1 => ?_
  dsimp only
  split
  · rename_i ht; exact resCanon_error_trap (scrCheck_trap ht)
  · split
    · rename_i ht; exact resCanon_error_trap (winUncorr_trap ht)
    · exact bankRead_canon _ _ _ h1

theorem consume_canon {clr : Bool} {x : MemPfx} {g d a b : Nat} {s : State} (h : Canon s) : OutCanon (consume clr x g d a b s) := by
  refine issue_canon h ?_
  refine resCanon_bind (relFirst_canon _ _ h) fun s1 h1 => ?_
  dsimp only
  split
  · rename_i ht; exact resCanon_error_trap (scrCheck_trap ht)
  · split
    · exact h1
    · split
      · rename_i ht; exact resCanon_error_trap (winUncorr_trap ht)
      · exact bankRead_canon _ _ _ h1

theorem execSst_canon {x : Option MemPfx} {g v a b : Nat} {s : State} (h : Canon s) : OutCanon (execSst x g v a b s) := by
  refine issue_canon h ?_
  refine resCanon_bind (relFirst_canon _ _ h) fun s1 h1 => ?_
  dsimp only
  split
  · rename_i ht; exact resCanon_error_trap (scrCheck_trap ht)
  · exact h1

theorem execSclr_canon {x : Option MemPfx} {g v a b : Nat} {s : State} (h : Canon s) : OutCanon (execSclr x g v a b s) := by
  refine issue_canon h ?_
  refine resCanon_bind (relFirst_canon _ _ h) fun s1 h1 => ?_
  dsimp only
  split
  · rename_i ht; exact resCanon_error_trap (scrCheck_trap ht)
  · exact h1

/-! ### Page requests of the lanes (10 R289) -/

theorem pgCheck_trap {priv : Bool} {l : List (Nat × Nat)} {e : Stop} (h : pgCheck priv l = some e) : ∃ t, e = .trap t := by
  induction l with
  | nil => cases h
  | cons x l ih =>
    rw [pgCheck] at h
    split at h
    · cases h; exact ⟨_, rfl⟩
    · split at h
      · cases h; exact ⟨_, rfl⟩
      · exact ih h

theorem pgPage_canon (page va : Nat) (codes : List (Nat × Nat)) {s : State} (h : Canon s) : ResCanon SndCanon (pgPage page va codes s) := by
  unfold pgPage
  dsimp only
  split
  · split <;> exact h
  · exact h
  · exact pageRequest_canon _ _ _ _ h

theorem pgLanes_canon (l codes : List (Nat × Nat)) {s : State} (h : Canon s) :
    ResCanon (fun x : List (Nat × Nat) × List (Nat × Nat) × State => Canon x.2.2) (pgLanes codes l s) := by
  induction l generalizing codes s with
  | nil => exact h
  | cons x l ih => exact resCanon_bind (pgPage_canon _ _ _ h) fun _ h1 => resCanon_bind (ih _ h1) fun _ h2 => h2

theorem execPgreq_canon {x : Option MemPfx} {g d a b : Nat} {s : State} (h : Canon s) : OutCanon (execPgreq x g d a b s) := by
  refine issue_canon h ?_
  dsimp only
  split
  · rename_i ht; exact resCanon_error_trap (pgCheck_trap ht)
  · exact resCanon_bind (pgLanes_canon _ _ h) fun x hx => resCanon_ite hx hx

/-! ### Barrier objects and dependency objects (10 R304, R306) -/

theorem checkObj_canon (scr : Bool) (a : Word64) {s : State} (h : Canon s) : ResCanon Canon (checkObj scr a s) := by
  unfold checkObj
  split
  · split
    · trivial
    · split
      · trivial
      · exact h
  · exact resCanon_bind (resolve_canon _ _ _ _ _ h) fun _ h1 => h1

theorem objHome_canon (a : Word64) {s : State} (h : Canon s) : ResCanon SndCanon (objHome a s) :=
  resCanon_bind (resolve_canon _ _ _ _ _ h) fun _ h1 => h1

theorem execBinit_canon {a b o : Nat} {s : State} (h : Canon s) : OutCanon (execBinit a b o s) := by
  exact issue_canon h <| resCanon_bind (checkObj_canon _ _ h) fun s1 h1 =>
    resCanon_ite h1 <| resCanon_bind (storeLanes_canon _ _ _ _ h1) fun _ h2 => h2

theorem arriveOwn_canon (key n : Nat) {s : State} (h : Canon s) : Canon (arriveOwn key n s) := by
  have h1 := rmwObject_canon s.k.uid s.crew.uid s.crew.core s.crew.ctx key (fun x => arriveNat x n 0 none false) (deliverLine_canon s.k.uid (lineOf key) h)
  unfold arriveOwn
  exact h1

theorem badWord_trap {l : List LaneAcc} {s : State} {e : Stop}
    (h : l.findSome? (fun a => (badWord s a).map fun va => trapAt 17 1 0xFF va) = some e) : ∃ t, e = .trap t := by
  obtain ⟨a, -, ha⟩ := List.exists_of_findSome?_eq_some h
  obtain ⟨va, -, rfl⟩ := Option.map_eq_some_iff.mp ha
  exact ⟨_, rfl⟩

theorem execBarrive_canon {a b o : Nat} {s : State} (h : Canon s) : OutCanon (execBarrive a b o s) := by
  refine issue_canon h ?_
  dsimp only
  split
  · refine resCanon_bind (checkObj_canon _ _ h) fun s1 h1 => ?_
    split
    · rename_i ht; exact resCanon_error_trap (winUncorr_trap ht)
    · refine resCanon_bind (release_canon _ h1) fun s2 h2 => ?_
      rwa [resCanon_pure, Canon, retire_hm, correctScr_hm]
  · refine resCanon_bind (resolve_canon _ _ _ _ _ h) fun x h1 => ?_
    split
    · rename_i ht; exact resCanon_error_trap (badWord_trap ht)
    · refine resCanon_bind (release_canon _ h1) fun s2 h2 => ?_
      exact resCanon_ite h2 (resCanon_ite h2 (resCanon_bind (setOut_canon _ h2) fun _ _ => arriveOwn_canon _ _ h2))

theorem readPhase_canon (scr : Bool) (obj : Word64) {s : State} (h : Canon s) : ResCanon SndCanon (readPhase scr obj s) := by
  unfold readPhase
  split
  · refine resCanon_bind (checkObj_canon _ _ h) fun s1 h1 => ?_
    split
    · rename_i ht; exact resCanon_error_trap (winUncorr_trap ht)
    · show Canon (correctScr _ _)
      rwa [Canon, correctScr_hm]
  · exact resCanon_bind (objHome_canon _ h) fun _ h1 => resCanon_bind (loadLanes_canon _ _ _ _ _ _ h1) fun _ h2 => h2

theorem execBwait_canon {a b o : Nat} {s : State} (h : Canon s) : OutCanon (execBwait a b o s) :=
  issue_canon h <| resCanon_bind (readPhase_canon _ _ h) fun _ h1 => resCanon_ite h1 h1

theorem execBtest_canon {d a b o : Nat} {s : State} (h : Canon s) : OutCanon (execBtest d a b o s) :=
  issue_canon h <| resCanon_bind (readPhase_canon _ _ h) fun _ h1 => h1

theorem execShfence_canon {a : Nat} {s : State} (h : Canon s) : OutCanon (execShfence a s) :=
  issue_canon h <| resCanon_bind (release_canon _ h) fun _ h1 => h1

/-! ### Launches of a skein (10 R297) -/

/-- The bytes of a unit's store to a virtual address keep the canonical form. -/
theorem storeVa_canon (op ctx va : Nat) (l : List Byte) {s : State} (h : Canon s) : Canon (storeVa op ctx va l s) := sendCells_canon _ _ _ _ h

theorem setTail_canon (n x : Nat) {s : State} (h : Canon s) : Canon (setTail n x s) := mgrWrite_canon _ _ h

theorem appendRecord_canon (q : Queue) (r : List Byte) (p : Option Nat) (key : List Nat) {s : State} (h : Canon s) : Canon (appendRecord q r p key s) := by
  have h1 : Canon (storeVa (s.ids + 1) q.ctx (q.ring.toNat + 256 * (q.tail % q.size)) r { s with ids := s.ids + 1 }) := storeVa_canon _ _ _ _ h
  unfold appendRecord
  dsimp only
  split
  · exact modSch_canon _ (modQueue_canon _ _ (setTail_canon _ _ h1))
  · exact modCrewAll_canon _ _ (modQueue_canon _ _ (modSch_canon _ (modQueue_canon _ _ (setTail_canon _ _ h1))))

theorem launchOp_canon {waits : Bool} {a b c : Nat} {s : State} (h : Canon s) : OutCanon (launchOp waits a b c s) := by
  refine issue_canon h (resCanon_bind (release_canon _ h) fun s1 h1 => resCanon_ite trivial ?_)
  refine resCanon_bind (loadLanes_canon _ _ _ _ _ _ h1) fun x h2 => ?_
  have hdone (st : Nat) {t : State} (ht : Canon t) : Canon (retire 1 { t with k := wrG a (w64 st) t.k }) := ht
  dsimp only
  split
  · exact dropWaiter_canon _ (hdone 2 h2)
  · refine resCanon_ite (dropWaiter_canon _ (hdone 2 h2)) (resCanon_ite (resCanon_ite (modSch_canon _ h2) (hdone 1 h2)) ?_)
    split
    · split
      · exact modSch_canon _ h2
      · exact h2
    · exact dropWaiter_canon _ (hdone 0 (appendRecord_canon _ _ _ _ h2))

theorem execLwait_canon {s : State} (h : Canon s) : OutCanon (execLwait s) := issue_canon h (resCanon_ite h h)

end Sys2Proof.Proofs
end

section
/-! PROOFS. The canonical form of memory (log entry 2) under the records and bricks of fetches and under operations: how they start, what
they write and how they end. -/
namespace Sys2Proof.Proofs
open Sys2Proof Sys2Proof.Machine Sys2Proof.Laws

/-! ### Checks that raise traps and never wait -/

/-- A check answers no state. -/
abbrev NoState {α : Type} : α → Prop := fun _ => True

theorem chkWin_canon (W o n : Nat) : ResCanon NoState (chkWin W o n) := by
  unfold chkWin
  split <;> trivial

theorem chkGlob_canon (va n : Nat) (s : State) : ResCanon NoState (chkGlob va n s) := by
  unfold chkGlob
  refine resCanon_ite trivial ?_
  split
  · trivial
  · exact resCanon_ite trivial trivial

theorem chkRange_canon (scr : Bool) (a n : Nat) (s : State) : ResCanon NoState (chkRange scr a n s) :=
  resCanon_ite (chkWin_canon _ _ _) (chkGlob_canon _ _ _)

theorem chkMerge_canon (c : Crew) (va n : Nat) : ResCanon NoState (chkMerge c va n) := by
  unfold chkMerge
  split <;> trivial

theorem chkMerges_canon (c : Crew) (l : List (Nat × Nat)) : ResCanon NoState (chkMerges c l) := by
  induction l with
  | nil => trivial
  | cons r l ih => exact resCanon_bind (chkMerge_canon _ _ _) fun _ _ => ih

theorem chkWins_canon (W : Nat) (l : List (Nat × Nat)) : ResCanon NoState (chkWins W l) := by
  induction l with
  | nil => trivial
  | cons r l ih => exact resCanon_bind (chkWin_canon _ _ _) fun _ _ => ih

theorem chkRows_canon (base p : Nat) (s : State) (l : List Nat) : ResCanon NoState (chkRows base p s l) := by
  induction l with
  | nil => trivial
  | cons i l ih => exact resCanon_ite ih (resCanon_bind (chkGlob_canon _ _ _) fun _ _ => ih)

theorem chkArrays_canon (x : Shape) (s : State) : ResCanon NoState (chkArrays x s) :=
  resCanon_bind (chkGlob_canon _ _ _) fun _ _ => resCanon_ite (chkGlob_canon _ _ _) trivial

theorem chkArray_canon (a n : Nat) (s : State) : ResCanon NoState (chkArray a n s) := resCanon_ite trivial (chkGlob_canon _ _ _)

theorem shapeErr_canon (a : Nat) (b : Option Nat) : ResCanon NoState (shapeErr a b) := by
  unfold shapeErr
  split <;> trivial

theorem winAtIssue_canon (o n : Nat) (s : State) : ResCanon NoState (winAtIssue o n s) := resCanon_bind (chkWin_canon _ _ _) fun _ _ => trivial

theorem served_canon (m : Nat) (s : State) : ResCanon NoState (served m s) := by
  unfold served
  exact resCanon_ite (P := NoState) trivial trivial

theorem stkOf_canon (g m : Nat) (s : State) : ResCanon NoState (stkOf g m s) :=
  resCanon_bind (served_canon _ _) fun _ _ => resCanon_ite (P := NoState) trivial trivial

/-! ### Records that a unit reads (10 R290, 07 R217) -/

theorem loadOne_canon (n va : Nat) {s : State} (h : Canon s) : ResCanon SndCanon (loadOne n va s) :=
  resCanon_bind (loadLanes_canon _ _ _ _ _ _ h) fun _ h1 => h1

theorem loadMany_canon (n : Nat) (l : List (Nat × Nat)) {s : State} (h : Canon s) : ResCanon SndCanon (loadMany n l s) :=
  resCanon_bind (loadLanes_canon _ _ _ _ _ _ h) fun _ h1 => h1

theorem execSfload_canon {a n : Nat} {s : State} (h : Canon s) : OutCanon (execSfload a n s) := by
  refine issue_canon h (resCanon_ite trivial (resCanon_bind (loadOne_canon _ _ h) fun x h1 => ?_))
  have hslot (y : List Byte × State) (h2 : Canon y.2) : ResCanon Canon (match slotBad y.1 with
      | some o => .error (shapeTrap (rdG s.k a).toNat o)
      | none => pure (retire 1 { y.2 with en := { y.2.en with slots := mset [] y.2.en.slots n y.1 } })) := by
    split
    · trivial
    · exact h2
  exact resCanon_ite (resCanon_bind (loadOne_canon _ _ h1) hslot) (hslot _ h1)

theorem fetchRecord_canon (n align : Nat) (bad : List Byte → Option Nat) (addr : Nat) {s : State} (h : Canon s) :
    ResCanon SndCanon (fetchRecord n align bad addr s) := by
  unfold fetchRecord
  refine resCanon_ite trivial ?_
  extract_lets mine
  split
  · exact h
  · refine resCanon_bind (loadLanes_canon _ _ _ _ _ _ h) fun x h1 => ?_
    dsimp only
    split
    · trivial
    · exact h1

theorem fetchShape_canon (addr : Nat) {s : State} (h : Canon s) : ResCanon SndCanon (fetchShape addr s) :=
  resCanon_bind (fetchRecord_canon _ _ _ _ h) fun _ h1 => h1

theorem execSmp_canon {g d a b : Nat} {s : State} (h : Canon s) : OutCanon (execSmp g d a b s) := by
  refine issue_canon h (resCanon_bind (fetchShape_canon _ h) fun x h1 => ?_)
  dsimp only
  split
  · trivial
  · split
    · trivial
    · exact resCanon_bind (loadMany_canon _ _ h1) fun _ h2 => h2

/-! ### Bricks (10 R290, 02 R66) -/

theorem fillBrick_canon (core ctx pool : Nat) (b : List Nat) (va key room pol : Nat) {s : State} (h : Canon s) :
    Canon (fillBrick core ctx pool b va key room pol s) := by
  unfold fillBrick
  refine canon_ite h ?_
  have hlines (f : Nat → Nat) (x : Bool) (l : List Nat) : Canon (l.foldl (fun s l => l2Access x (f l) s) s) :=
    fold_canon (fun _ _ ht => l2Access_canon _ _ _ ht) l s h
  have hleases (dl : Nat) (l : List (Nat × Nat)) {t : State} (ht : Canon t) : Canon (l.foldl (fun s x => recordLease x.1 x.2 dl s) t) :=
    fold_canon (fun _ _ hu => recordLease_canon _ _ _ hu) l t ht
  exact canon_ite (hleases _ _ (hlines _ _ _)) (modHm_canon (fun _ => rfl) (hleases _ _ (hlines _ _ _)))

theorem brickLoad_canon (pool : Nat) (b : List Nat) (va L : Nat) (l : List Nat) {s : State} (h : Canon s) : ResCanon SndCanon (brickLoad pool b va L l s) := by
  unfold brickLoad
  split
  · dsimp only
    refine resCanon_ite h ?_
    split
    · trivial
    · exact modHm_canon (fun _ => rfl) h
  · refine resCanon_bind (loadLanes_canon _ _ _ _ _ _ h) fun x h1 => ?_
    show Canon _
    dsimp only
    split
    · exact canon_ite h1 (fillBrick_canon _ _ _ _ _ _ _ _ h1)
    · exact h1

theorem poolLane_canon (pool : Nat) (p : Brick) (L : Nat) (us : List Fx) {s : State} (h : Canon s) : ResCanon SndCanon (poolLane pool p L us s) :=
  resCanon_ite h <| resCanon_bind (loadMany_canon _ _ h) fun _ h1 => resCanon_ite h1 <| resCanon_bind (brickLoad_canon _ _ _ _ _ h1) fun _ h2 => h2

theorem poolStep_canon (pool : Nat) (p : Brick) (us : Nat → List Fx) (x : PoolRun × State) (L : Nat) (h : Canon x.2) :
    ResCanon SndCanon (poolStep pool p us x L) := by
  have hlane := poolLane_canon pool p L (us L) h
  unfold poolStep
  split <;> rename_i hr
  · exact (hr ▸ hlane :)
  · exact h
  · exact (hr ▸ hlane :)
  · trivial

theorem poolRun_canon (pool : Nat) (p : Brick) (us : Nat → List Fx) (l : List Nat) (x : PoolRun × State) (h : Canon x.2) :
    ResCanon SndCanon (l.foldlM (poolStep pool p us) x) := by
  induction l generalizing x with
  | nil => exact h
  | cons L l ih => exact resCanon_bind (poolStep_canon pool p us x L h) fun y hy => ih y hy

theorem poolLanes_canon (pool : Nat) (p : Brick) (us : Nat → List Fx) (l : List Nat) {s : State} (h : Canon s) :
    ResCanon SndCanon (poolLanes pool p us l s) := by
  refine resCanon_bind (poolRun_canon pool p us l ({}, s) h) fun x hx => ?_
  dsimp only
  split
  · trivial
  · exact resCanon_ite hx hx

theorem execSmpPool_canon {g d a b : Nat} {s : State} (h : Canon s) : OutCanon (execSmpPool g d a b s) :=
  issue_canon h <| resCanon_bind (fetchRecord_canon _ _ _ _ h) fun _ h1 => resCanon_bind (poolLanes_canon _ _ _ _ h1) fun _ h2 => h2

/-! ### How operations start (05 R136) -/

theorem startOp_canon (o : Op) {s : State} (h : Canon s) : ResCanon Canon (startOp o s) := resCanon_ite h h

/-- A copy starts as its form's capture says, if that keeps the canonical form. -/
theorem cpyIssue_canon {mode : Nat} {ok : CpyIn → Bool} {f : CpyIn → State → Res (Capture × State)} {a b c o : Nat} {s : State} (h : Canon s)
    (hf : ∀ i {t : State}, Canon t → ResCanon SndCanon (f i t)) : OutCanon (cpyIssue mode ok f a b c o s) :=
  issue_canon h <| resCanon_ite trivial <| resCanon_bind (checkObj_canon _ _ h) fun _ h1 => resCanon_bind (hf _ h1) fun _ h2 => startOp_canon _ h2

theorem linIssue_canon (i : CpyIn) {s : State} (h : Canon s) : ResCanon SndCanon (linIssue i s) :=
  resCanon_bind (chkRange_canon _ _ _ _) fun _ _ => resCanon_bind (chkRange_canon _ _ _ _) fun _ _ => resCanon_ite trivial <|
    resCanon_ite h (resCanon_bind (chkMerge_canon _ _ _) fun _ _ => h)

theorem boxIssue_canon (addr : Nat) (i : CpyIn) (blk sig deq : Bool) {s : State} (h : Canon s) :
    ResCanon (fun x : List Byte × List Byte × Nat × State => Canon x.2.2.2) (boxIssue addr i blk sig deq s) :=
  resCanon_bind (winAtIssue_canon _ _ _) fun _ _ => resCanon_bind (fetchRecord_canon _ _ _ _ (correctScr_canon _ h)) fun _ h1 =>
    resCanon_ite trivial <| resCanon_ite trivial <| resCanon_ite trivial h1

theorem shapeIssue_canon (i : CpyIn) {s : State} (h : Canon s) : ResCanon SndCanon (shapeIssue i s) := by
  refine resCanon_bind (boxIssue_canon _ _ _ _ _ h) fun x h1 => ?_
  dsimp only
  split
  · exact resCanon_bind (chkArrays_canon _ _) fun _ _ => resCanon_bind (chkWin_canon _ _ _) fun _ _ => resCanon_bind (chkMerges_canon _ _) fun _ _ => h1
  · exact resCanon_bind (chkWin_canon _ _ _) fun _ _ => resCanon_bind (chkArrays_canon _ _) fun _ _ => h1

theorem deqIssue_canon (i : CpyIn) {s : State} (h : Canon s) : ResCanon SndCanon (deqIssue i s) :=
  resCanon_bind (boxIssue_canon _ _ _ _ _ h) fun _ h1 => resCanon_bind (chkWin_canon _ _ _) fun _ _ => resCanon_bind (chkArrays_canon _ _) fun _ _ => h1

theorem sigIssue_canon (i : CpyIn) {s : State} (h : Canon s) : ResCanon SndCanon (sigIssue i s) :=
  resCanon_bind (boxIssue_canon _ _ _ _ _ h) fun _ h1 => resCanon_bind (chkArrays_canon _ _) fun _ _ => resCanon_bind (chkGlob_canon _ _ _) fun _ _ =>
    resCanon_bind (chkWin_canon _ _ _) fun _ _ => resCanon_bind (chkMerges_canon _ _) fun _ _ => h1

theorem gsIssue_canon (scatter : Bool) (i : CpyIn) {s : State} (h : Canon s) : ResCanon SndCanon (gsIssue scatter i s) := by
  refine resCanon_bind (winAtIssue_canon _ _ _) fun x _ => ?_
  dsimp only
  split
  · exact resCanon_bind (chkRows_canon _ _ _ _) fun _ _ => resCanon_bind (chkWin_canon _ _ _) fun _ _ => resCanon_bind (chkMerges_canon _ _) fun _ _ =>
      correctScr_canon _ h
  · exact resCanon_bind (chkWin_canon _ _ _) fun _ _ => resCanon_bind (chkRows_canon _ _ _ _) fun _ _ => correctScr_canon _ h

theorem clusterForm_canon {run : State → Out} {c : Nat} {s : State} (h : Canon s) (hrun : OutCanon (run s)) : OutCanon (clusterForm run c s) :=
  outCanon_ite (conclude_canon _ h trivial) hrun

theorem chkTargets_canon (i n : Nat) (l : List CrewRec) (u : Unit) :
    ResCanon NoState (l.foldlM (fun _ t => chkWin (winSize t.crew) i n) u) := by
  induction l generalizing u with
  | nil => trivial
  | cons t l ih => exact resCanon_bind (chkWin_canon _ _ _) fun _ _ => ih _

theorem mcastIssue_canon (i : CpyIn) {s : State} (h : Canon s) : ResCanon SndCanon (mcastIssue i s) := by
  unfold mcastIssue
  dsimp only
  split
  · trivial
  · exact resCanon_ite trivial <| resCanon_bind (chkTargets_canon _ _ _ _) fun _ _ => resCanon_bind (chkGlob_canon _ _ _) fun _ _ => h

theorem raddIssue_canon (i : CpyIn) {s : State} (h : Canon s) : ResCanon SndCanon (raddIssue i s) := by
  unfold raddIssue
  dsimp only
  split
  · trivial
  · exact resCanon_ite trivial <| resCanon_bind (chkWin_canon _ _ _) fun _ _ => resCanon_bind (chkWin_canon _ _ _) fun _ _ => h

theorem decIssue_canon (i : CpyIn) {s : State} (h : Canon s) : ResCanon SndCanon (decIssue i s) :=
  resCanon_bind (winAtIssue_canon _ _ _) fun _ _ => resCanon_bind (chkWin_canon _ _ _) fun _ _ => resCanon_bind (chkGlob_canon _ _ _) fun _ _ =>
    correctScr_canon _ h

theorem packIssue_canon (i : CpyIn) {s : State} (h : Canon s) : ResCanon SndCanon (packIssue i s) :=
  resCanon_bind (chkRange_canon _ _ _ _) fun _ _ => resCanon_bind (chkWin_canon _ _ _) fun _ _ =>
    resCanon_ite (resCanon_ite trivial (correctScr_canon _ h)) <|
      resCanon_bind (chkMerge_canon _ _ _) fun _ _ => resCanon_ite trivial (correctScr_canon _ h)

theorem unpackIssue_canon (i : CpyIn) {s : State} (h : Canon s) : ResCanon SndCanon (unpackIssue i s) :=
  resCanon_bind (chkWin_canon _ _ _) fun _ _ => resCanon_bind (chkRange_canon _ _ _ _) fun _ _ => h

end Sys2Proof.Proofs
end

section
/-! PROOFS. The canonical form of memory (log entry 2) under tile, row, grid, field, traversal and raster operations. -/
namespace Sys2Proof.Proofs
open Sys2Proof Sys2Proof.Machine Sys2Proof.Laws

/-! ### How an operation ends, and the unit that serves it (05 R137, 15 R410) -/

theorem countErrors_canon (st : Nat) {s : State} (h : Canon s) : Canon (countErrors st s) := countUncorr_canon _ h

theorem triggerEntry_canon (ctx t op : Nat) (x : Nat × MboxEnt × Nat) {s : State} (h : Canon s) : Canon (triggerEntry ctx t op s x) :=
  canon_ite (mgrWrite_canon _ _ h) (modSch_canon _ h)

theorem trigger_canon (ctx : Nat) (l : List (Nat × Nat)) (t op : Nat) {s : State} (h : Canon s) : Canon (trigger ctx l t s op) :=
  fold_canon (fun _ x ht => triggerEntry_canon _ _ _ x ht) _ _ h

theorem finishOp_canon (o : Op) {s : State} (h : Canon s) : Canon (finishOp o s) := by
  unfold finishOp
  split
  · exact opRequest_canon _ _ _ h
  · have h1 := forgetPages_canon o.id (dropHostReads_canon o.id (dropOp_canon o.id (arriveOp_canon o h)))
    dsimp only
    split
    · exact canon_ite h1 (trigger_canon _ _ _ _ h1)
    · exact h1

theorem takeUp_canon (o : Op) {s : State} (h : Canon s) : Canon (takeUp o s) := by
  unfold takeUp
  split
  · exact setOp_canon _ h
  · exact setOp_canon _ (modEn_canon _ h)

theorem serveUnit_canon {f : Op → State → State} {o : Op} {s : State} (h : Canon s) (hf : ∀ o {t : State}, Canon t → Canon (f o t)) :
    OutCanon (serveUnit f o s) :=
  outCanon_ite (hf _ h) (outCanon_ite (hf _ (takeUp_canon _ h)) h)

/-- Pages that an operation waits for are asked for, one by one. -/
theorem opRequests_canon (o : Op) (l : List Need) (b : Bool) {s : State} (h : Canon s) : Canon (l.foldl (fun s n => opRequest o n s b) s) :=
  fold_canon (fun _ n ht => opRequest_canon o n b ht) l s h

theorem touchNeeds_canon (o : Op) (l : List Need) {s : State} (h : Canon s) : Canon (l.foldl (touchNeed o) s) :=
  fold_canon (fun _ n ht => touchNeed_canon o n ht) l s h

/-! ### Tiles and accumulators (11 R308 to R325) -/

theorem tileObj_canon (scr : Bool) (x : Word64) {s : State} (h : Canon s) : ResCanon SndCanon (tileObj scr x s) :=
  resCanon_ite h <| resCanon_bind (checkObj_canon _ _ h) fun _ h1 => h1

theorem execTmap_canon {t g : Nat} {s : State} (h : Canon s) : OutCanon (execTmap t g s) := by
  refine issue_canon h (resCanon_ite trivial ?_)
  split
  · trivial
  · exact h

theorem captureProd_canon (kind : OpKind) (z scr : Bool) (a t u g : Nat) {s : State} (h : Canon s) : ResCanon SndCanon (captureProd kind z scr a t u g s) :=
  resCanon_ite trivial <| resCanon_bind (tileObj_canon _ _ h) fun _ h1 => h1

theorem releaseSkeins_canon (gang : Bool) (l : List Nat) {s : State} (h : Canon s) : Canon (releaseSkeins gang l s) :=
  fold_canon (fun _ _ ht => modSkein_canon _ _ ht) l s h

theorem enqueueOp_canon (o : Op) {s : State} (h : Canon s) : Canon (enqueueOp o s) := modEn_canon _ (setIds_canon _ h)

theorem leaveLatches_canon (uid : Nat) {s : State} (h : Canon s) : Canon (leaveLatches uid s) :=
  fold_canon (fun _ _ ht => modSkein_canon _ _ ht) _ _ (modEn_canon _ h)

theorem enterLatch_canon (o : Op) {s : State} (h : Canon s) : Canon (enterLatch o s) := canon_ite (modEn_canon _ h) (modEn_canon _ h)

theorem latchFull_canon {s : State} (h : Canon s) {x : Op × State} (hx : latchFull s = some x) : Canon x.2 := by
  unfold latchFull at hx
  dsimp only at hx
  split at hx
  · cases hx
  · split at hx
    · obtain ⟨e, -, rfl⟩ := Option.map_eq_some_iff.mp hx
      exact modEn_canon _ h
    · cases hx

theorem fireCluster_canon (l : ClusterLatch) {s : State} (h : Canon s) : Canon (fireCluster l s) :=
  fold_canon (fun _ _ ht => modCrew_canon _ _ (releaseSkeins_canon _ _ (enqueueOp_canon _ ht))) _ _ (modEn_canon _ h)

theorem goOp_canon (gang : Bool) (o : Op) {s : State} (h : Canon s) : ResCanon Canon (goOp gang o s) := by
  refine resCanon_ite ?_ (releaseSkeins_canon _ _ (enqueueOp_canon _ h))
  unfold goCluster
  split
  · trivial
  · exact resCanon_ite (fireCluster_canon _ (modEn_canon _ h)) (modEn_canon _ h)

theorem gangIssue_canon {kind : OpKind} {f : State → Res (Op × State)} {s : State} (h : Canon s) (hf : ResCanon SndCanon (f s)) :
    ResCanon Canon (gangIssue kind f s) := by
  refine resCanon_ite h (resCanon_ite h (resCanon_bind hf fun x h1 => ?_))
  refine resCanon_ite h1 (resCanon_ite (goOp_canon _ _ h1) ?_)
  have h2 := enterLatch_canon x.1 h1
  dsimp only
  split
  · rename_i hx
    exact goOp_canon _ _ (latchFull_canon h2 hx)
  · exact h2

theorem execMma_canon {a t u g o : Nat} {s : State} (h : Canon s) : OutCanon (execMma a t u g o s) :=
  issue_canon h (gangIssue_canon h (captureProd_canon _ _ _ _ _ _ _ h))

theorem execMmas_canon {a t u g z o : Nat} {s : State} (h : Canon s) : OutCanon (execMmas a t u g z o s) :=
  issue_canon h (gangIssue_canon h (captureProd_canon _ _ _ _ _ _ _ h))

theorem execCmma_canon {a t u g : Nat} {s : State} (h : Canon s) : OutCanon (execCmma a t u g s) := by
  unfold execCmma
  split
  · exact conclude_canon _ h trivial
  · exact issue_canon h (gangIssue_canon h (captureProd_canon _ _ _ _ _ _ _ h))

theorem installHandle_canon (a g : Nat) {s : State} (h : Canon s) : ResCanon SndCanon (installHandle a g s) :=
  resCanon_ite (resCanon_ite h trivial) (resCanon_ite h trivial)

theorem execAccz_canon {a g : Nat} {s : State} (h : Canon s) : OutCanon (execAccz a g s) :=
  issue_canon h <| resCanon_ite h <| resCanon_bind (installHandle_canon _ _ h) fun _ h1 => startOp_canon _ h1

theorem execAccin_canon {a t g : Nat} {s : State} (h : Canon s) : OutCanon (execAccin a t g s) :=
  issue_canon h <| resCanon_ite h <| resCanon_bind (installHandle_canon _ _ h) fun _ h1 => resCanon_ite trivial (startOp_canon _ h1)

theorem execAccmov_canon {a b : Nat} {s : State} (h : Canon s) : OutCanon (execAccmov a b s) :=
  issue_canon h (resCanon_ite trivial (startOp_canon _ h))

theorem fetchEpi_canon (addr cols : Nat) {s : State} (h : Canon s) : ResCanon SndCanon (fetchEpi addr cols s) := by
  refine resCanon_ite h (resCanon_ite trivial (resCanon_bind (loadOne_canon _ _ h) fun x h1 => ?_))
  have hscale : ResCanon SndCanon (if leAt x.1 8 8 = 0 then pure (x.1, x.2) else do chkGlob (leAt x.1 8 8) (4 * cols) x.2; pure (x.1, x.2)) :=
    resCanon_ite h1 (resCanon_bind (chkGlob_canon _ _ _) fun _ _ => h1)
  dsimp only
  split
  · trivial
  · exact resCanon_ite hscale (resCanon_bind (chkGlob_canon _ _ _) fun _ _ => hscale)

theorem execAccout_canon {a t g o : Nat} {s : State} (h : Canon s) : OutCanon (execAccout a t g o s) :=
  issue_canon h <| resCanon_ite trivial <| resCanon_bind (fetchEpi_canon _ _ h) fun _ h1 => resCanon_bind (tileObj_canon _ _ h1) fun _ h2 => startOp_canon _ h2

theorem seqDone_canon (o : Op) (st : Nat) (i : Option (Bool × Nat)) {s : State} (h : Canon s) : Canon (seqDone o st i s) :=
  setOp_canon _ (countErrors_canon _ h)

theorem performProd_canon (o : Op) {s : State} (h : Canon s) : Canon (performProd o s) := by
  unfold performProd
  split
  · exact dropOp_canon _ h
  · exact seqDone_canon _ _ _ (modCrew_canon _ _ (modEn_canon _ h))

theorem correctMap_canon (u : Nat) (m : TMap) {s : State} (h : Canon s) : Canon (correctMap u m s) :=
  fold_canon (fun _ _ h1 => fold_canon (fun _ _ h2 => fold_canon (fun _ _ h3 => correctWin_canon _ _ _ h3) _ _ h2) _ _ h1) _ _ h

theorem correctOp_canon (o : Op) {s : State} (h : Canon s) : Canon (correctOp o s) := by
  have h1 : Canon (if (allCrews s).any (fun c => !c.crew.winSoft.isEmpty) then (operandMaps o s).foldl (fun s x => correctMap x.1 x.2 s) s else s) :=
    canon_ite (fold_canon (fun _ _ ht => correctMap_canon _ _ ht) _ _ h) h
  unfold correctOp
  dsimp only
  split
  · exact h1
  · exact canon_ite h1 (countCorr_canon _ (modCrewAll_canon _ _ h1))

theorem performSeq_canon (o : Op) {s : State} (h : Canon s) : Canon (performSeq o s) := by
  have h1 := correctOp_canon o h
  unfold performSeq
  dsimp only
  split
  · exact dropOp_canon _ h1
  · split
    · exact seqDone_canon _ _ _ (canon_ite h1 (modCrew_canon _ _ h1))
    · exact seqDone_canon _ _ _ (modCrew_canon _ _ h1)
    · exact seqDone_canon _ _ _ (modCrew_canon _ _ h1)
    · exact performPlan_canon _ _ h1
    · exact performProd_canon _ h1

theorem execSequencerOpStart_canon {core : Nat} {s : State} (h : Canon s) : OutCanon (execSequencerOpStart core s) := by
  unfold execSequencerOpStart
  split
  · exact h
  · exact performSeq_canon _ h

/-! ### Rows, grids and field code (11 R327, 12 R340, 13 R370) -/

theorem trow_canon {mode a b c o : Nat} {s : State} (h : Canon s) : OutCanon (trow mode a b c o s) :=
  issue_canon h <| resCanon_ite trivial <| resCanon_bind (chkWins_canon _ _) fun _ _ => resCanon_bind (tileObj_canon _ _ h) fun _ h1 => startOp_canon _ h1

theorem performTrow_canon (mode : Nat) (o : Op) {s : State} (h : Canon s) : Canon (performTrow mode o s) := by
  unfold performTrow
  split
  · exact dropOp_canon _ h
  · exact setOp_canon _ (countErrors_canon _ (modCrew_canon _ _ h))

theorem fetchGrid_canon (addr : Nat) (n : Option Nat) (v : Bool) {s : State} (h : Canon s) : ResCanon SndCanon (fetchGrid addr n v s) := by
  refine resCanon_bind (loadOne_canon _ _ h) fun x h1 => ?_
  dsimp only
  split
  · trivial
  · exact h1

theorem engObj_canon (opt scr : Bool) (x : Word64) {s : State} (h : Canon s) : ResCanon SndCanon (engObj opt scr x s) :=
  resCanon_ite (tileObj_canon _ _ h) (resCanon_bind (checkObj_canon _ _ h) fun _ h1 => h1)

theorem execNbin_canon {a b c o : Nat} {s : State} (h : Canon s) : OutCanon (execNbin a b c o s) :=
  issue_canon h <| resCanon_ite trivial <| resCanon_bind (engObj_canon _ _ _ h) fun _ h1 => resCanon_bind (fetchGrid_canon _ _ _ h1) fun _ h2 =>
    resCanon_bind (chkArray_canon _ _ _) fun _ _ => resCanon_bind (chkMerges_canon _ _) fun _ _ => startOp_canon _ h2

theorem execNpairs_canon {a b c o : Nat} {s : State} (h : Canon s) : OutCanon (execNpairs a b c o s) := by
  refine issue_canon h (resCanon_ite trivial (resCanon_bind (engObj_canon _ _ _ h) fun x h1 => resCanon_bind (fetchGrid_canon _ _ _ h1) fun y h2 =>
    resCanon_bind (chkArray_canon _ _ _) fun _ _ => resCanon_bind (chkWin_canon _ _ _) fun _ _ => ?_))
  exact resCanon_ite trivial (resCanon_bind (chkMerge_canon _ _ _) fun _ _ => startOp_canon _ h2)

theorem arriveCount_canon (o : Op) (n st : Nat) (c : Bool) {s : State} (h : Canon s) : Canon (arriveCount o n st c s) := by
  unfold arriveCount
  split
  · exact arriveScr_canon _ _ _ _ _ _ h
  · exact arriveVa_canon _ _ _ _ _ _ h
  · exact h

theorem startPairs_canon (o : Op) {s : State} (h : Canon s) : Canon (startPairs o s) := by
  unfold startPairs
  dsimp only
  split
  · exact setOp_canon _ (countErrors_canon _ (touchNeeds_canon _ _ h))
  · exact opRequests_canon _ _ _ h

theorem writePair_canon (o : Op) (c : Crew) (r : List Byte) {s : State} (h : Canon s) : Canon (writePair o c r s) :=
  canon_ite h (setOp_canon _ (modCrew_canon _ _ h))

theorem execPairRecordEmit_canon {id : Nat} {s : State} (h : Canon s) : OutCanon (execPairRecordEmit id s) := by
  unfold execPairRecordEmit
  split
  · exact h
  · refine outCanon_ite h (outCanon_ite (serveUnit_canon h fun o _ ht => startPairs_canon o ht) (outCanon_ite (outCanon_ite h ?_) ?_))
    · split
      · exact opRequest_canon _ _ _ h
      · exact setOp_canon _ (arriveCount_canon _ _ _ _ h)
    · split
      · exact writePair_canon _ _ _ h
      · exact h

theorem addHome_canon (o : Op) (key n x : Nat) {s : State} (h : Canon s) : Canon (addHome o key n x s) := homeAccept_canon _ (setSeq_canon _ h)

theorem addAt_canon (o : Op) (va n x : Nat) {s : State} (h : Canon s) : Canon (addAt o va n x s).1 := by
  unfold addAt
  split
  · exact addHome_canon _ _ _ _ h
  · exact h

theorem addCounters_canon (o : Op) {s : State} (h : Canon s) : Canon (addCounters o s).1 := by
  unfold addCounters
  exact foldFst_canon (fun _ c hx => addAt_canon o c.1 c.2.1 c.2.2 hx) _ h

theorem objectAfter_canon (o : Op) (t : Nat) {s : State} (h : Canon s) : Canon (objectAfter o t s) := by
  unfold objectAfter
  split
  · split
    · exact modHm_canon (fun _ => rfl) h
    · exact h
  · exact h

theorem closePairs_canon (o : Op) {s : State} (h : Canon s) : Canon (closePairs o s) := by
  have h1 (st : Nat) := countErrors_canon st (addCounters_canon o h)
  unfold closePairs
  dsimp only
  split
  · exact setOp_canon _ (h1 _)
  · exact dropOp_canon _ (arriveCount_canon _ _ _ _ (objectAfter_canon _ _ (h1 _)))

theorem execNpairsClosingArrival_canon {id : Nat} {s : State} (h : Canon s) : OutCanon (execNpairsClosingArrival id s) := by
  unfold execNpairsClosingArrival
  split
  · exact h
  · refine outCanon_ite h (outCanon_ite (outCanon_ite h (dropOp_canon _ (arriveCount_canon _ _ _ _ h))) ?_)
    split
    · exact opRequest_canon _ _ _ h
    · exact closePairs_canon _ h

theorem execNstat_canon {d a b : Nat} {s : State} (h : Canon s) : OutCanon (execNstat d a b s) :=
  issue_canon h <| resCanon_ite trivial <| resCanon_bind (loadLanes_canon _ _ _ _ _ _ h) fun _ h1 => by rwa [resCanon_pure, Canon, retire_hm]

theorem winRead_canon (off n : Nat) {s : State} (h : Canon s) : ResCanon SndCanon (winRead off n s) := by
  refine resCanon_bind (chkWin_canon _ _ _) fun _ _ => ?_
  split
  · trivial
  · exact correctScr_canon _ h

theorem progLoad_canon (va n : Nat) {s : State} (h : Canon s) : ResCanon SndCanon (progLoad va n s) :=
  resCanon_bind (resolve_canon _ _ _ _ _ h) fun _ h1 => loadOne_canon _ _ h1

theorem readProg_canon (scr : Bool) (addr : Nat) {s : State} (h : Canon s) : ResCanon SndCanon (readProg scr addr s) := by
  refine resCanon_ite trivial (resCanon_ite ?_ ?_)
  · exact resCanon_bind (winRead_canon _ _ h) fun _ h1 => resCanon_bind (shapeErr_canon _ _) fun _ _ => resCanon_bind (winRead_canon _ _ h1) fun _ h2 =>
      resCanon_bind (shapeErr_canon _ _) fun _ _ => h2
  · exact resCanon_bind (progLoad_canon _ _ h) fun _ h1 => resCanon_bind (shapeErr_canon _ _) fun _ _ => resCanon_bind (progLoad_canon _ _ h1) fun _ h2 =>
      resCanon_bind (shapeErr_canon _ _) fun _ _ => h2

theorem readNodes_canon (p : Prog) (l : List FOp) {s : State} (h : Canon s) : ResCanon SndCanon (readNodes p l s) := by
  induction l generalizing s with
  | nil => exact h
  | cons x l ih =>
    refine resCanon_ite ?_ (resCanon_ite ?_ (ih h))
    · exact resCanon_bind (fetchRecord_canon _ _ _ _ h) fun _ h1 => resCanon_bind (ih h1) fun _ h2 => h2
    · exact resCanon_bind (fetchGrid_canon _ _ _ h) fun _ h1 => resCanon_bind (ih h1) fun _ h2 => h2

theorem capture_canon (scr : Bool) (addr : Nat) {s : State} (h : Canon s) : ResCanon SndCanon (capture scr addr s) :=
  resCanon_bind (readProg_canon _ _ h) fun _ h1 => resCanon_bind (readNodes_canon _ _ h1) fun _ h2 => h2

theorem execFprep_canon {d g q o : Nat} {s : State} (h : Canon s) : OutCanon (execFprep d g q o s) :=
  issue_canon h <| resCanon_ite trivial <| resCanon_bind (chkWin_canon _ _ _) fun _ _ => resCanon_bind (winRead_canon _ _ h) fun _ h1 =>
    resCanon_ite trivial <| resCanon_bind (engObj_canon _ _ _ h1) fun _ h2 => resCanon_bind (capture_canon _ _ h2) fun _ h3 => startOp_canon _ h3

/-! ### Marches (12 R350 to R352) -/

theorem march_canon {iv : Bool} {k p q o : Nat} {s : State} (h : Canon s) : OutCanon (march iv k p q o s) :=
  issue_canon h <| resCanon_ite trivial <| resCanon_ite trivial <| resCanon_bind (engObj_canon _ _ _ h) fun _ h1 =>
    resCanon_bind (capture_canon _ _ h1) fun _ h2 => startOp_canon _ h2

theorem captureAll_canon (l : List SpawnRec) {s : State} (h : Canon s) :
    ResCanon (fun x : List (List Byte) × List Nat × State => Canon x.2.2) (captureAll l s) := by
  induction l generalizing s with
  | nil => exact h
  | cons r l ih => exact resCanon_bind (capture_canon _ _ h) fun _ h1 => resCanon_bind (ih h1) fun _ h2 => h2

theorem execMresume_canon {k p q o : Nat} {s : State} (h : Canon s) : OutCanon (execMresume k p q o s) :=
  issue_canon h <| resCanon_ite trivial <| resCanon_ite trivial <| resCanon_bind (engObj_canon _ _ _ h) fun _ h1 =>
    resCanon_ite trivial <| resCanon_bind (captureAll_canon _ h1) fun _ h2 => startOp_canon _ h2

theorem putResults_canon (o : Op) (L : Nat) (l : List Nat) {s : State} (h : Canon s) : Canon (putResults o L l s) := modSkein_canon _ _ h

theorem marchLane_canon (o : Op) (c : Crew) (L : Nat) {s : State} (h : Canon s) : Canon (marchLane o c L s) := by
  unfold marchLane
  dsimp only
  split
  · exact opRequests_canon _ _ _ h
  · exact h
  · refine canon_ite (canon_ite h (canon_ite (modCrew_canon _ _ h) ?_)) ?_
    · exact setOp_canon _ (putResults_canon _ _ _ (modCrew_canon _ _ (touchNeeds_canon _ _ h)))
    · exact setOp_canon _ (putResults_canon _ _ _ (touchNeeds_canon _ _ h))

theorem performMarch_canon (o : Op) {s : State} (h : Canon s) : Canon (performMarch o s) := by
  unfold performMarch
  split
  · exact h
  · split
    · exact marchLane_canon _ _ _ h
    · exact setOp_canon _ (countErrors_canon _ h)

/-! ### Boxes, triangles, stacks, depth and draws (14 R381 to R388) -/

/-- A read of the lanes in ascending order keeps the canonical form when its two forms do. -/
theorem lowestFirst_canon {α β : Type} {P : α → Prop} {Q : β → Prop} {f : List Nat → State → Res α} {g : List Nat → State → Res β} (l : List Nat) {s : State}
    (hf : ResCanon P (f l s)) (hg : ∀ l, ResCanon Q (g l s)) : ResCanon P (lowestFirst f g l s) := by
  unfold lowestFirst
  split
  · rename_i t ht
    split
    · rename_i e he
      have hge := hg (l.filter fun L => decide (L < t.lane))
      rw [he] at hge
      cases e with
      | wait => exact hge
      | trap => trivial
      | bad => trivial
    · trivial
  · exact hf

theorem slotsFirst_canon {α : Type} {P : α → Prop} {slot : Nat → Nat} {f : List Nat → State → Res α} (l : List Nat) {s : State}
    (hf : ∀ l, ResCanon P (f l s)) : ResCanon P (slotsFirst slot f l s) := by
  have hg (l : List Nat) : ResCanon P (match scrCheck (winSize s.crew) (slotRanges slot l) with
      | some t => .error t
      | none => f l s) := by
    split
    · rename_i ht; exact resCanon_error_trap (scrCheck_trap ht)
    · exact hf l
  unfold slotsFirst
  exact lowestFirst_canon l (hg l) hg

theorem nodesOf_canon (n align : Nat) (lanes : List (Nat × Nat)) (l : List Nat) {s : State} (h : Canon s) : ResCanon SndCanon (nodesOf n align lanes l s) := by
  unfold nodesOf
  dsimp only
  split
  · trivial
  · exact loadLanes_canon _ _ _ _ _ _ h

theorem loadNodes_canon (n align : Nat) (lanes : List (Nat × Nat)) {s : State} (h : Canon s) : ResCanon SndCanon (loadNodes n align lanes s) :=
  lowestFirst_canon _ (nodesOf_canon _ _ _ _ h) fun l => nodesOf_canon _ _ _ l h

theorem putBlk_canon (k i : Nat) (m : Word32) (f : Nat → List Nat) {s : State} (h : Canon s) : Canon (putBlk k i m f s) := setSkein_canon _ h

theorem execBoxt_canon {k m : Nat} {s : State} (h : Canon s) : OutCanon (execBoxt k m s) :=
  issue_canon h <| resCanon_bind (served_canon _ _) fun _ _ => resCanon_bind (loadNodes_canon _ _ _ h) fun _ h1 => retire_canon _ (putBlk_canon _ _ _ _ h1)

theorem execTrit_canon {k m : Nat} {s : State} (h : Canon s) : OutCanon (execTrit k m s) :=
  issue_canon h <| resCanon_bind (served_canon _ _) fun _ _ => resCanon_bind (loadNodes_canon _ _ _ h) fun _ h1 => retire_canon _ (putBlk_canon _ _ _ _ h1)

theorem readSlots_canon (l : List (Nat × Int × Nat)) {s : State} (h : Canon s) : ResCanon Canon (readSlots l s) := by
  unfold readSlots
  split
  · rename_i ht; exact resCanon_error_trap (winUncorr_trap ht)
  · exact correctScr_canon _ h

theorem execStkpush_canon {k g m : Nat} {s : State} (h : Canon s) : OutCanon (execStkpush k g m s) :=
  issue_canon h <| resCanon_bind (stkOf_canon _ _ _) fun _ _ => resCanon_bind (slotsFirst_canon _ fun _ => storeLanes_canon _ _ _ _ h) fun _ h1 =>
    resCanon_bind (readSlots_canon _ h1) fun _ h2 => retire_canon _ (putBlk_canon _ _ _ _ h2)

theorem execStkpop_canon {k g m : Nat} {s : State} (h : Canon s) : OutCanon (execStkpop k g m s) :=
  issue_canon h <| resCanon_bind (stkOf_canon _ _ _) fun _ _ => resCanon_bind (slotsFirst_canon _ fun _ => loadLanes_canon _ _ _ _ _ _ h) fun _ h1 =>
    resCanon_bind (readSlots_canon _ h1) fun _ h2 => retire_canon _ (putBlk_canon _ _ _ _ h2)

theorem execDepthw_canon {k t m : Nat} {s : State} (h : Canon s) : OutCanon (execDepthw k t m s) := by
  refine issue_canon h (resCanon_bind (served_canon _ _) fun _ _ => resCanon_ite trivial (resCanon_bind (chkWin_canon _ _ _) fun _ _ => ?_))
  dsimp only
  split
  · rename_i ht; exact resCanon_error_trap (winUncorr_trap ht)
  · exact retire_canon _ (putBlk_canon _ _ _ _ (correctScr_canon _ h))

theorem execDraw_canon {r t g o : Nat} {s : State} (h : Canon s) : OutCanon (execDraw r t g o s) :=
  issue_canon h <| resCanon_bind (engObj_canon _ _ _ h) fun _ h1 => resCanon_ite trivial <| resCanon_bind (loadOne_canon _ _ h1) fun _ h2 =>
    resCanon_bind (shapeErr_canon _ _) fun _ _ => resCanon_ite trivial <| resCanon_bind (chkWin_canon _ _ _) fun _ _ => resCanon_ite trivial <|
      resCanon_bind (chkGlob_canon _ _ _) fun _ _ => startOp_canon _ h2

theorem drawSetup_canon (o : Op) (r : DrawRec) {s : State} (h : Canon s) : Canon (drawSetup o r s) := by
  unfold drawSetup
  dsimp only
  split
  · have h1 (l : List Need) := touchNeeds_canon o l h
    exact canon_ite (setOp_canon _ (h1 _)) (setOp_canon _ (h1 _))
  · exact opRequests_canon _ _ _ h

theorem drawFragment_canon (o : Op) (c : Crew) (r : DrawRec) {s : State} (h : Canon s) : Canon (drawFragment o c r s) := by
  unfold drawFragment
  dsimp only
  split
  · exact setOp_canon _ h
  · split
    · exact setOp_canon _ h
    · refine canon_ite (setOp_canon _ (correctWin_canon _ _ _ h)) (canon_ite h (canon_ite (modCrew_canon _ _ h) ?_))
      exact setOp_canon _ (correctWin_canon _ _ _ (modCrew_canon _ _ h))

theorem performDraw_canon (o : Op) {s : State} (h : Canon s) : Canon (performDraw o s) := by
  unfold performDraw
  dsimp only
  split
  · exact h
  · exact canon_ite (setOp_canon _ (countErrors_canon _ h)) (canon_ite (drawFragment_canon _ _ _ h) (drawSetup_canon _ _ h))

/-! ### The work of an operation (05 R136) -/

theorem performOp_canon (o : Op) {s : State} (h : Canon s) : Canon (performOp o s) := by
  unfold performOp
  split
  · exact canon_ite (performPlan_canon _ _ h) (performLater_canon _ h)
  · exact performTrow_canon _ _ h
  · exact performMarch_canon _ h
  · exact performMarch_canon _ h
  · exact performPlan_canon _ _ h
  · exact performPlan_canon _ _ h
  · exact performDraw_canon _ h
  · exact h

theorem driveOp_canon {o : Op} {s : State} (h : Canon s) : OutCanon (driveOp o s) :=
  outCanon_ite h (outCanon_ite (outCanon_ite (finishOp_canon _ h) h) (serveUnit_canon h fun o _ ht => performOp_canon o ht))

theorem execArrival_canon {id : Nat} {s : State} (h : Canon s) : OutCanon (execArrival id s) := by
  unfold execArrival
  split
  · exact h
  · exact outCanon_ite h (driveOp_canon h)

theorem execAsyncOperationEnd_canon {id : Nat} {s : State} (h : Canon s) : OutCanon (execAsyncOperationEnd id s) := by
  unfold execAsyncOperationEnd
  split
  · exact h
  · exact outCanon_ite (driveOp_canon h) h

end Sys2Proof.Proofs
end

section
/-! PROOFS. The canonical form of memory (log entry 2) under fetches, the events of skeins, pages, homes and queues. -/
namespace Sys2Proof.Proofs
open Sys2Proof Sys2Proof.Machine Sys2Proof.Laws

/-! ### Fetches (01 R190) -/

theorem fillCode_canon (b : Bool) (va key : Nat) {s : State} (h : Canon s) : Canon (fillCode b va key s) :=
  canon_ite (l2Access_canon _ _ _ h) (modHm_canon (fun _ => rfl) (l2Access_canon _ _ _ h))

theorem fetchHome_canon (va : Nat) {s : State} (h : Canon s) : ResCanon SndCanon (fetchHome va s) := by
  refine resCanon_bind (resolve_canon _ _ _ _ _ h) fun x h1 => resCanon_bind (hostReady_canon _ h1) fun t h2 => resCanon_ite trivial ?_
  dsimp only
  split
  · exact fillCode_canon _ _ _ h2
  · exact h2

theorem fetchWord_canon (va : Nat) {s : State} (h : Canon s) : ResCanon SndCanon (fetchWord va s) := by
  unfold fetchWord
  split
  · exact h
  · exact fetchHome_canon _ h

theorem decodeAt_canon (w v : Nat) {s : State} (h : Canon s) : ResCanon SndCanon (decodeAt w v s) := by
  unfold decodeAt
  split
  · exact h
  · trivial

/-- What stops a meaning holds the same state whatever the meaning would answer. -/
theorem resCanon_error_of {α β : Type} {P : α → Prop} {Q : β → Prop} {e : Stop} (h : ResCanon P (.error e)) : ResCanon Q (.error e) := by
  cases e with
  | wait => exact h
  | trap => trivial
  | bad => trivial

theorem fetchInstr_canon {s : State} (h : Canon s) : ResCanon SndCanon (fetchInstr s).2 := by
  have hfirst := fetchWord_canon s.k.e.pc.toNat h
  unfold fetchInstr
  split <;> rename_i hr <;> rw [hr] at hfirst
  · exact resCanon_error_of hfirst
  · split
    · have hsecond := fetchWord_canon ((s.k.e.pc.toNat + 4) % 2 ^ 64) hfirst
      split <;> rename_i hr <;> rw [hr] at hsecond
      · exact resCanon_error_of hsecond
      · exact decodeAt_canon _ _ hsecond
    · exact decodeAt_canon _ _ hfirst

/-! ### Events of a skein -/

theorem focusCrew_canon {core slot : Nat} {s : State} (h : Canon s) : OptCanon (focusCrew core slot s) := by
  unfold focusCrew
  split
  · exact optCanon_some (withCrews_canon _ h)
  · exact optCanon_none

theorem focusOn_canon {r : Ref} {s : State} (h : Canon s) : OptCanon (focusOn r s) := by
  have hcrew := focusCrew_canon (core := r.core) (slot := r.slot) h
  unfold focusOn
  split
  · exact optCanon_none
  · rename_i hs
    split
    · have h1 := hcrew _ hs
      exact optCanon_some h1
    · exact optCanon_none

/-- An event of a skein that names one keeps the canonical form when it does with the skein in focus. -/
theorem focused_canon {r : Ref} {s : State} {f : State → Out} (h : Canon s) (hf : ∀ t, Canon t → OutCanon (f t)) :
    OutCanon (match focusOn r s with | none => idle s | some t => f t) := by
  have hfocus := focusOn_canon (r := r) h
  split
  · exact h
  · rename_i ht
    exact hf _ (hfocus _ ht)

theorem reissue_canon {f : Instr → State → Option Out} {s : State} (h : Canon s) (hf : ∀ i {t : State} o, Canon t → f i t = some o → OutCanon o) :
    OutCanon (reissue f s) := by
  have hfetch := fetchInstr_canon h
  refine outCanon_ite h ?_
  split <;> rename_i hr
  · rw [hr] at hfetch
    cases ho : f _ _ with
    | none => exact h
    | some o => exact hf _ o hfetch ho
  · exact h

theorem execConsumingLoadProceed_canon {r : Ref} {s : State} (h : Canon s) : OutCanon (execConsumingLoadProceed r s) := by
  refine focused_canon h fun t ht => ?_
  split
  · exact h
  · refine outCanon_ite (reissue_canon ht fun i u o hu ho => ?_) h
    split at ho
    · cases ho; exact consume_canon hu
    · cases ho; exact consume_canon hu
    · cases ho

theorem execLevelBarrierRelease_canon {r : Ref} {s : State} (h : Canon s) : OutCanon (execLevelBarrierRelease r s) := by
  refine focused_canon h fun t ht => ?_
  split
  · exact h
  · refine outCanon_ite (reissue_canon ht fun i u o hu ho => ?_) h
    split at ho
    all_goals first
      | cases ho
      | (split at ho
         · cases ho; exact barForm_canon hu
         · cases ho)

theorem waitTrap_canon {kind : Nat} {f : WaitRec → TrapInfo} {p : Bool} {r : Ref} {s : State} (h : Canon s) : OutCanon (waitTrap kind f p r s) := by
  refine focused_canon h fun t ht => ?_
  split
  · exact outCanon_ite (takeTrap_canon _ _ ht) h
  · exact h

theorem execGangLatchTimeout_canon {r : Ref} {s : State} (h : Canon s) : OutCanon (execGangLatchTimeout r s) := by
  refine focused_canon h fun t ht => ?_
  split
  · exact h
  · exact outCanon_ite (takeTrap_canon _ _ (leaveLatches_canon _ ht)) h

theorem execBarrierStallTimeout_canon {r : Ref} {s : State} (h : Canon s) : OutCanon (execBarrierStallTimeout r s) := by
  refine focused_canon h fun t ht => ?_
  split
  · exact ht
  · exact h

theorem takeDeferred_canon {s : State} (h : Canon s) : OptCanon (takeDeferred s) := by
  unfold takeDeferred
  refine optCanon_ite optCanon_none ?_
  split
  · exact optCanon_none
  · split
    · exact optCanon_none
    · exact optCanon_some (takeTrap_canon _ _ (leaveLatches_canon _ (setSkein_canon _ h)))

theorem execDeferredTrapTake_canon {r : Ref} {s : State} (h : Canon s) : OutCanon (execDeferredTrapTake r s) :=
  focused_canon h fun _ ht => by
    have htake := takeDeferred_canon ht
    split
    · rename_i hu; exact htake _ hu
    · exact h

theorem execSkeinEnd_canon {r : Ref} {s : State} (h : Canon s) : OutCanon (execSkeinEnd r s) := focused_canon h fun _ ht => outCanon_ite ht h

/-! ### Translation (01 R29 to R44) -/

theorem writeXltinv_canon (x : Word64) {s : State} (h : Canon s) : Canon (writeXltinv x s) :=
  canon_ite (canon_ite (setPreg_canon _ _ h) (modXl_canon _ (setPreg_canon _ _ h))) (setPreg_canon _ _ h)

theorem finishInv_canon (v : Nat) {s : State} (h : Canon s) : Canon (finishInv v s) :=
  modXl_canon _ (setPreg_canon _ _ (setPreg_canon _ _ (modHm_canon (fun _ => rfl) (fold_canon (fun _ _ ht => deliver_canon _ ht) _ _ h))))

theorem xltinvEvent_canon {kind : Nat} {x : Word64} {s : State} (h : Canon s) : OutCanon (xltinvEvent kind x s) := outCanon_ite (writeXltinv_canon _ h) h

theorem execXltinvComplete_canon {s : State} (h : Canon s) : OutCanon (execXltinvComplete s) := by
  unfold execXltinvComplete
  split
  · exact h
  · exact outCanon_ite h (finishInv_canon _ h)

theorem grantFrame_canon (r : PageReq) (f : Nat) {s : State} (h : Canon s) : Canon (grantFrame r f s) := by
  refine canon_ite ?_ (sendMsg_canon _ _ _ _ _ (setReq_canon _ h))
  split
  · exact canon_ite (dropReq_canon _ (createPage_canon _ _ _ _ h)) (dropReq_canon _ (pushFrame_canon _ _ h))
  · exact dropReq_canon _ (pushFrame_canon _ _ h)

theorem serveFrames_canon (n : Nat) {s : State} (h : Canon s) : Canon (serveFrames n s) := by
  unfold serveFrames
  split
  · exact h
  · split
    · exact h
    · rename_i hp
      exact grantFrame_canon _ _ (popFrame_canon h hp)

theorem takeFrame_canon (r : PageReq) {s : State} (h : Canon s) : Canon (takeFrame r s) := by
  unfold takeFrame
  split
  · exact dropReq_canon _ h
  · refine canon_ite (grantFrame_canon _ _ h) ?_
    split
    · rename_i hp
      exact grantFrame_canon _ _ (popFrame_canon h hp)
    · exact setReq_canon _ (setPreg_canon _ _ h)

theorem answerAsker_canon (r : PageReq) (c : Nat) {s : State} (h : Canon s) : Canon (answerAsker r c s) := by rwa [Canon, answerAsker_hm]

theorem answerReq_canon (ctx va code home addr : Nat) {s : State} (h : Canon s) : Canon (answerReq ctx va code home addr s) := by
  unfold answerReq
  split
  · exact h
  · have hmove (r : PageReq) := changeHome_canon ctx va home addr (setReq_canon r h)
    refine canon_ite (takeFrame_canon _ (setReq_canon _ (answerAsker_canon _ _ h))) (canon_ite (endRequest_canon _ _ (pointRemote_canon _ _ _ _ h)) ?_)
    exact canon_ite (canon_ite (sendMsg_canon _ _ _ _ _ (hmove _)) (endRequest_canon _ _ (hmove _))) (endRequest_canon _ _ h)

theorem moveStage_canon (m : Migration) (f : Nat) (l : Leaf) (w : Nat) {s : State} (h : Canon s) : Canon (moveStage m f l w s) :=
  canon_ite (canon_ite (commitMove_canon _ _ _ _ h) h) (canon_ite h h)

theorem execMigrationCommit_canon {id : Nat} {s : State} (h : Canon s) : OutCanon (execMigrationCommit id s) := by
  unfold execMigrationCommit
  split
  · exact h
  · split
    · exact outCanon_ite h (moveStage_canon _ _ _ _ h)
    · exact h

theorem execFrameFree_canon {id : Nat} {s : State} (h : Canon s) : OutCanon (execFrameFree id s) := by
  unfold execFrameFree
  split
  · exact h
  · rename_i m _
    refine outCanon_ite ?_ h
    generalize frmOk s m.size = b
    exact outCanon_ite (retryAsked_canon (serveFrames_canon _ (pushFrame_canon _ _ (modXl_canon _ h)))) trivial

theorem giveFrame_canon (n : Nat) (x : Word64) {s : State} (h : Canon s) : Canon (giveFrame n x s) := by
  unfold giveFrame
  dsimp only
  split
  · exact h
  · exact retryAsked_canon (serveFrames_canon _ (pushFrame_canon _ _ h))

theorem execParkedStorePerform_canon {n : Nat} {s : State} (h : Canon s) : OutCanon (execParkedStorePerform n s) := by
  unfold execParkedStorePerform
  split
  · exact h
  · split
    · exact outCanon_ite h (orphanFaults_canon (failParked_canon _ _ h))
    · exact outCanon_ite h (orphanFaults_canon (performPage_canon _ _ h))

theorem dropIdleReq_canon (ctx page : Nat) {s : State} (h : Canon s) : Canon (dropIdleReq ctx page s) := canon_ite h (modXl_canon _ h)

theorem execParkedStoreTimeout_canon {n : Nat} {s : State} (h : Canon s) : OutCanon (execParkedStoreTimeout n s) := by
  unfold execParkedStoreTimeout
  split
  · exact h
  · exact outCanon_ite (dropIdleReq_canon _ _ (orphanFaults_canon (failParked_canon _ _ h))) h

theorem execPageRequestTimeout_canon {n : Nat} {s : State} (h : Canon s) : OutCanon (execPageRequestTimeout n s) := by
  unfold execPageRequestTimeout
  split
  · exact h
  · exact outCanon_ite (dropIdleReq_canon _ _ (modXl_canon _ h)) h

/-! ### Homes (04 R105, R118) -/

theorem sendHostStore_canon (st : Store) {s : State} (h : Canon s) : Canon (sendHostStore st s) :=
  modHm_canon (fun _ => rfl) (fold_canon (fun _ _ ht => sendMsg_canon _ _ _ _ _ ht) _ _ h)

theorem execHomeStore_canon {n : Nat} {s : State} (h : Canon s) : OutCanon (execHomeStore n s) := by
  unfold execHomeStore
  split
  · exact h
  · exact outCanon_ite h (outCanon_ite (outCanon_ite (sendHostStore_canon _ h) h) (deliver_canon _ h))

theorem homeAtomicAt_canon (key : Nat) (op : AtomOp) {s : State} (h : Canon s) : Canon (homeAtomicAt key op s).2 := homeAccept_canon _ (setSeq_canon _ h)

theorem execHomeAtomic_canon {a : Nat} {op : AtomOp} {s : State} (h : Canon s) : OutCanon (execHomeAtomic a op s) :=
  outCanon_ite h (homeAtomicAt_canon _ _ h)

theorem execHomeRead_canon {core ctx : Nat} {va : Word64} {s : State} (h : Canon s) : OutCanon (execHomeRead core ctx va s) := by
  have hleaf := leafFor_canon (clusterOf core) ctx va.toNat h
  unfold execHomeRead
  split
  · rename_i hr
    rw [hr] at hleaf
    refine outCanon_ite h (outCanon_ite (grant_canon _ _ _ _ _ (l2Access_canon _ _ _ hleaf)) (outCanon_ite h ?_))
    exact grantFar_canon _ _ (l2Access_canon _ _ _ h)
  · exact h

theorem execMemoryScrub_canon {line : Nat} {s : State} (h : Canon s) : OutCanon (execMemoryScrub line s) := countUncorr_canon _ (correctLine_canon _ h)

/-! ### Queues and mailboxes (15 R397 to R408) -/

theorem qctlErr_canon {s : State} (h : Canon s) : Canon (qctlErr s) := setPreg_canon _ _ h

theorem closeQueue_canon (n : Nat) {s : State} (h : Canon s) : Canon (closeQueue n s) := h

theorem qOpen_canon (n : Nat) {s : State} (h : Canon s) : Canon (qOpen n s) := by
  unfold qOpen
  split
  · exact qctlErr_canon h
  · exact modSch_canon _ h

theorem qReset_canon (n : Nat) {s : State} (h : Canon s) : Canon (qReset n s) := by
  unfold qReset
  split
  · rename_i q _
    have h1 : Canon ((untaken q).foldl (fun s p => childEnded p.1 s) s) := fold_canon (fun _ _ ht => childEnded_canon _ ht) _ _ h
    dsimp only
    exact canon_ite (qctlErr_canon h) (mgrWrite_canon _ _ (mgrWrite_canon _ _ (modSch_canon _ (modQueue_canon _ _ h1))))
  · exact mgrWrite_canon _ _ (mgrWrite_canon _ _ h)

theorem writeQctl_canon (x : Word64) {s : State} (h : Canon s) : Canon (writeQctl x s) := by
  unfold writeQctl
  dsimp only
  split
  · exact qOpen_canon _ (setPreg_canon _ _ h)
  · exact closeQueue_canon _ (setPreg_canon _ _ h)
  · exact qReset_canon _ (setPreg_canon _ _ h)
  · exact setPreg_canon _ _ h

theorem qctlEvent_canon {cmd : Nat} {x : Word64} {s : State} (h : Canon s) : OutCanon (qctlEvent cmd x s) :=
  outCanon_ite h (outCanon_ite trivial (writeQctl_canon _ h))

theorem mboxMissed_canon (ctx i : Nat) {s : State} (h : Canon s) : Canon (mboxMissed ctx i s) := mgrWrite_canon _ _ h
theorem mboxPend_canon (ctx i : Nat) (b : Bool) {s : State} (h : Canon s) : Canon (mboxPend ctx i b s) := mgrWrite_canon _ _ h
theorem dropTrig_canon (m : MboxTrig) {s : State} (h : Canon s) : Canon (dropTrig m s) := modSch_canon _ h

theorem mboxAppend_canon (m : MboxTrig) {s : State} (h : Canon s) : Canon (mboxAppend m s) := by
  unfold mboxAppend
  dsimp only
  split
  · exact appendRecord_canon _ _ _ _ (dropHostReads_canon _ h)
  · exact mboxMissed_canon _ _ (dropHostReads_canon _ h)

theorem askHosts_canon (r : Reader) (n : Nat) (l : List (Nat × Nat × Nat)) {s : State} (h : Canon s) : Canon (l.foldl (askHost r n) s) :=
  fold_canon (fun _ x ht => askHost_canon r n x ht) l s h

theorem withRecord_canon {m : MboxTrig} {s : State} {f : State → State} (h : Canon s) (hf : Canon (f s)) : OutCanon (withRecord m s f) := by
  unfold withRecord
  split
  · exact outCanon_ite h hf
  · exact askHosts_canon _ _ _ h

theorem execMailboxPendingAppend_canon {ctx n : Nat} {s : State} (h : Canon s) : OutCanon (execMailboxPendingAppend ctx n s) := by
  unfold execMailboxPendingAppend
  dsimp only
  split
  · refine outCanon_ite (withRecord_canon h (mboxAppend_canon _ (mboxPend_canon _ _ _ (dropTrig_canon _ h)))) ?_
    split
    · exact mboxMissed_canon _ _ (dropTrig_canon _ h)
    · exact h
  · exact outCanon_ite (mboxPend_canon _ _ _ (modSch_canon _ (dropTrig_canon _ h))) (withRecord_canon h (mboxAppend_canon _ (dropTrig_canon _ h)))
  · exact h

end Sys2Proof.Proofs
end

section
/-! PROOFS. The canonical form of memory (log entry 2) under the placement, pre-emption, launch and end of crews. -/
namespace Sys2Proof.Proofs
open Sys2Proof Sys2Proof.Machine Sys2Proof.Laws

/-! ### Placement (15 R401 to R404) -/

theorem fitL1_canon (core : Nat) {s : State} (h : Canon s) : Canon (fitL1 core s) := modHm_canon (fun _ => rfl) h

theorem enterFused_canon (c : Crew) (core : Nat) {s : State} (h : Canon s) : Canon (enterFused c core s) :=
  canon_ite (modHm_canon (fun _ => rfl) h) h

theorem addCrew_canon (l : Launch) (t core : Nat) {s : State} (h : Canon s) : OptCanon (addCrew l t core s) :=
  optCanon_ite (optCanon_some (fitL1_canon _ (setIds_canon _ (withCrews_canon _ (modSch_canon _ (enterFused_canon _ _ h)))))) optCanon_none

theorem leastLoaded_canon {load : Nat → Nat} {f : Nat → Option State} (hf : ∀ x, OptCanon (f x)) (l : List Nat) : OptCanon (leastLoaded load f l) := by
  have hbest : ∀ b ∈ l.foldl (fun (m : Option (Nat × State)) x =>
      if (match m with | some b => decide (b.1 ≤ load x) | none => false) then m
      else match f x with
        | some t => some (load x, t)
        | none => m) none, Canon b.2 := by
    refine List.foldlRecOn (motive := fun m : Option (Nat × State) => ∀ b ∈ m, Canon b.2) l _ (by simp) fun m hm x _ => ?_
    split_ifs
    · exact hm
    · split
      · rename_i t ht
        intro b hb
        cases hb
        exact hf x t ht
      · exact hm
  intro t ht
  obtain ⟨b, hb, rfl⟩ := Option.map_eq_some_iff.mp ht
  exact hbest b hb

/-- What adds one crew of a unit keeps the canonical form. -/
def Adds (add : Nat → Nat → State → Option State) : Prop := ∀ (i core : Nat) (t : State), Canon t → OptCanon (add i core t)

section
variable {add : Nat → Nat → State → Option State} (hadd : Adds add)
include hadd

theorem onOneCore_canon (g : List Nat) (core : Nat) {s : State} (h : Canon s) : OptCanon (onOneCore add g core s) :=
  optCanon_foldlM (fun t i ht => hadd i core t ht) g h

theorem onCluster_canon (r : LaunchRec) (cl : Nat) {s : State} (h : Canon s) : OptCanon (onCluster add r cl s) :=
  optCanon_ite (optCanon_foldlM (fun t i ht => hadd i _ t ht) _ h)
    (optCanon_foldlM (fun _ g ht => leastLoaded_canon (fun c => onOneCore_canon hadd g c ht) _) _ h)

theorem atPlace_canon (r : LaunchRec) (x : Nat) {s : State} (h : Canon s) : OptCanon (atPlace add r x s) :=
  optCanon_ite (onCluster_canon hadd _ _ h) (onOneCore_canon hadd _ _ h)

theorem placeLeast_canon (r : LaunchRec) {s : State} (h : Canon s) : OptCanon (placeLeast add r s) :=
  leastLoaded_canon (fun _ => atPlace_canon hadd _ _ h) _

theorem probe_canon (r : LaunchRec) (u n j : Nat) {s : State} (h : Canon s) : OptCanon (probe add r u s n j) := by
  induction n generalizing j with
  | zero => exact optCanon_none
  | succ n ih =>
    have hplace := atPlace_canon hadd r (candidate r u j) h
    unfold probe
    split
    · rename_i ht; exact optCanon_some (hplace _ ht)
    · exact ih _

end

theorem placeNext_canon (l : Launch) {s : State} (h : Canon s) : OptCanon (placeNext l s) := by
  have hadd : Adds (fun i core s => addCrew l (l.nextUnit * unitTasks l.lrec + i) core s) := fun _ _ _ ht => addCrew_canon _ _ _ ht
  unfold placeNext
  exact optCanon_ite optCanon_none (optCanon_map (optCanon_ite (probe_canon hadd _ _ _ _ h) (placeLeast_canon hadd _ h)) fun _ ht => modSch_canon _ ht)

/-! ### Pre-emption and restoring (16 R420 to R425) -/

theorem removeCrew_canon (c : Crew) {s : State} (h : Canon s) : Canon (removeCrew c s) := leaveCore_canon _ (withCrews_canon _ h)

theorem saveOne_canon (g : Nat) (c : CrewRec) {s : State} (h : Canon s) : Canon (saveOne g c s) := by
  unfold saveOne
  split
  · exact h
  · refine settleDeficit_canon _ (removeCrew_canon _ (modSch_canon _ (chargeCrew_canon _ ?_)))
    exact fold_canon (fun _ _ ht => leaveLatches_canon _ ht) _ _ (fold_canon (fun _ _ ht => physWrite_canon _ _ ht) _ _ h)

theorem preempt_canon (c : Crew) {s : State} (h : Canon s) : OptCanon (preempt c s) :=
  optCanon_ite (optCanon_some (fold_canon (fun _ _ ht => saveOne_canon _ _ ht) _ _ (setIds_canon _ h))) optCanon_none

theorem execPreemptCrew_canon {core slot : Nat} {s : State} (h : Canon s) : OutCanon (execPreemptCrew core slot s) := by
  unfold execPreemptCrew
  split
  · exact optNext_canon h (preempt_canon _ h)
  · exact h

theorem addSaved_canon (r : Saved) (core : Nat) {s : State} (h : Canon s) : OptCanon (addSaved r core s) :=
  optCanon_ite (optCanon_some (fitL1_canon _ (leaveCore_canon _ (modSch_canon _ (modEn_canon _ (withCrews_canon _ (enterFused_canon _ _ h))))))) optCanon_none

theorem slotKill_canon (r : Saved) {s : State} (h : Canon s) : Canon (slotKill r s) := kill_canon _ _ (countUncorr_canon _ (setMgt_canon _ h))

theorem restoreGroup_canon (g : Nat) {s : State} (h : Canon s) : OptCanon (restoreGroup g s) := by
  unfold restoreGroup
  split
  · exact optCanon_none
  · refine optCanon_ite optCanon_none ?_
    split
    · exact optCanon_some (slotKill_canon _ h)
    · refine placeLeast_canon (fun i core t ht => ?_) _ h
      split
      · exact addSaved_canon _ _ ht
      · exact optCanon_some ht

theorem execRestoreCrew_canon {n : Nat} {s : State} (h : Canon s) : OutCanon (execRestoreCrew n s) := optNext_canon h (restoreGroup_canon _ h)

/-! ### Launch records (15 R399, R400) -/

theorem setHead_canon (n x : Nat) {s : State} (h : Canon s) : Canon (setHead n x s) := mgrWrite_canon _ _ (modQueue_canon _ _ h)
theorem setRefused_canon (n x : Nat) {s : State} (h : Canon s) : Canon (setRefused n x s) := mgrWrite_canon _ _ (modQueue_canon _ _ h)
theorem setErr_canon (n c i : Nat) {s : State} (h : Canon s) : Canon (setErr n c i s) := mgrWrite_canon _ _ (mgrWrite_canon _ _ (modQueue_canon _ _ h))

theorem refusedDone_canon (ctx : Nat) (raw : Option (List Byte)) {s : State} (h : Canon s) : Canon (refusedDone ctx raw s) := by
  unfold refusedDone
  split
  · exact h
  · exact canon_ite (arriveVa_canon _ _ _ _ _ _ h) h

theorem refuse_canon (q : Queue) (hd code : Nat) (raw : Option (List Byte)) (p : Option Nat) {s : State} (h : Canon s) : Canon (refuse q hd code raw p s) := by
  have h3 : Canon (refusedDone q.ctx raw (if q.errCode = 0 then setErr q.n code hd (setRefused q.n ((q.refused + 1) % 2 ^ 32) s)
      else setRefused q.n ((q.refused + 1) % 2 ^ 32) s)) :=
    refusedDone_canon _ _ (canon_ite (setErr_canon _ _ _ (setRefused_canon _ _ h)) (setRefused_canon _ _ h))
  unfold refuse
  refine settleDeficit_canon _ ?_
  split
  · exact childEnded_canon _ h3
  · exact h3

theorem writeLevels_canon (op ctx : Nat) (r : LaunchRec) {s : State} (h : Canon s) : Canon (writeLevels op ctx r s).1 := by
  unfold writeLevels
  refine foldFst_canon (fun x l hx => ?_) _ h
  dsimp only
  split
  · exact hx
  · exact storeVa_canon _ _ _ _ hx

theorem accept_canon (q : Queue) (hd : Nat) (b : List Byte) (p : Option Nat) {s : State} (h : Canon s) : Canon (accept q hd b p s) := by
  have hlevels := writeLevels_canon (s.ids + 1) q.ctx (launchOf b) h
  unfold accept
  dsimp only
  rwa [Canon, modHm_hm, modQueue_hm, modSch_hm]

theorem takeFrom_canon (q : Queue) {s : State} (h : Canon s) : Canon (takeFrom q s) := by
  have hhead := setHead_canon q.n (q.head + 1) h
  unfold takeFrom
  dsimp only
  refine dropHostReads_canon _ ?_
  split
  · exact accept_canon _ _ _ _ (modQueue_canon _ _ (modSch_canon _ hhead))
  · exact refuse_canon _ _ _ _ _ (modQueue_canon _ _ (modSch_canon _ hhead))

theorem execTakeRecord_canon {n : Nat} {s : State} (h : Canon s) : OutCanon (execTakeRecord n s) := by
  unfold execTakeRecord
  split
  · exact h
  · exact outCanon_ite (takeFrom_canon _ h) (outCanon_ite (askHosts_canon _ _ _ h) h)

/-! ### Queues in turn (15 R401, R405) -/

theorem placeFront_canon (n : Nat) {s : State} (h : Canon s) : OptCanon (placeFront n s) := by
  unfold placeFront
  split
  · exact optCanon_none
  · exact restoreGroup_canon _ h
  · exact placeNext_canon _ h

theorem addQuanta_canon (w r : Nat) (l : List Nat) {s : State} (h : Canon s) : Canon (addQuanta w r l s) := by
  induction l generalizing s with
  | nil => exact h
  | cons n l ih =>
    have htimes (k : Nat) : Canon (if k = 0 then s else setDeficit n (satInt64 (deficit s n + k * quantumOf s n)) s) := canon_ite h (setDeficit_canon _ _ h)
    unfold addQuanta
    dsimp only
    split
    · exact fold_canon (fun _ _ ht => canon_ite ht (setDeficit_canon _ _ ht)) _ _ (htimes r)
    · exact ih (htimes (r + 1))

theorem placeLevel_canon (level : Nat) {s : State} (h : Canon s) : OptCanon (placeLevel level s) := by
  unfold placeLevel
  dsimp only
  split
  · exact optCanon_none
  · exact optCanon_map (placeFront_canon _ (addQuanta_canon _ _ _ h)) fun _ ht => settleDeficit_canon _ (modSch_canon _ ht)

theorem execPlaceUnit_canon {s : State} (h : Canon s) : OutCanon (execPlaceUnit s) := by
  refine outCanon_ite h (optNext_canon h fun t ht => ?_)
  obtain ⟨p, -, hp⟩ := List.exists_of_findSome?_eq_some ht
  exact placeLevel_canon p h t hp

theorem execPriorityPreemption_canon {n : Nat} {s : State} (h : Canon s) : OutCanon (execPriorityPreemption n s) := by
  unfold execPriorityPreemption
  split
  · exact h
  · refine outCanon_ite ?_ h
    split
    · exact optNext_canon h (preempt_canon _ h)
    · exact h

theorem execPreemptWaitingCrew_canon {core slot : Nat} {s : State} (h : Canon s) : OutCanon (execPreemptWaitingCrew core slot s) := by
  unfold execPreemptWaitingCrew
  split
  · exact h
  · exact outCanon_ite (optNext_canon h (preempt_canon _ h)) h

/-! ### Baskets and the ends of skeins, crews and launches (06 R163 to R168) -/

theorem execBasketTimerExpiry_canon {core slot n : Nat} {s : State} (h : Canon s) : OutCanon (execBasketTimerExpiry core slot n s) := by
  unfold execBasketTimerExpiry
  split
  · exact h
  · exact outCanon_ite (modCrew_canon _ _ h) h

theorem execBasketLaunch_canon {core slot : Nat} {s : State} (h : Canon s) : OutCanon (execBasketLaunch core slot s) := by
  unfold execBasketLaunch
  split
  · exact h
  · split
    · exact withCrews_canon _ (modCrew_canon _ _ (setIds_canon _ h))
    · exact h

theorem execRetirementEntryFree_canon {n : Nat} {s : State} (h : Canon s) : OutCanon (execRetirementEntryFree n s) := by
  unfold execRetirementEntryFree
  split
  · exact h
  · exact outCanon_ite (modSch_canon _ h) h

theorem modLaunch_canon (u : Nat) (f : Launch → Launch) {s : State} (h : Canon s) : Canon (modLaunch u f s) := modSch_canon _ h

theorem endLaunch_canon (l : Launch) {s : State} (h : Canon s) : Canon (endLaunch l s) := by
  unfold endLaunch
  refine settleDeficit_canon _ (modSch_canon _ ?_)
  split
  · exact childEnded_canon _ h
  · exact h

theorem endCrew_canon (c : CrewRec) {s : State} (h : Canon s) : Canon (endCrew c s) := by
  have hleft (f : Launch → Launch) := settleDeficit_canon c.crew.queue (modLaunch_canon c.crew.launch f (removeCrew_canon c.crew (chargeCrew_canon c h)))
  unfold endCrew
  dsimp only
  split
  · exact canon_ite (endLaunch_canon _ (hleft _)) (hleft _)
  · exact hleft _

theorem execCrewEnd_canon {core slot : Nat} {s : State} (h : Canon s) : OutCanon (execCrewEnd core slot s) := by
  unfold execCrewEnd
  split
  · exact h
  · exact outCanon_ite h (outCanon_ite (kill_canon _ _ h) (endCrew_canon _ h))

/-! ### Merges and the watchdog (06 R154, 16 R426) -/

theorem clearPatches_canon (l : Launch) {s : State} (h : Canon s) : Canon (clearPatches l s) := h

theorem storeMerged_canon (o : Op) (m : SMap Byte) {s : State} (h : Canon s) : Canon (storeMerged o m s).1 :=
  fold_canon (fun _ _ ht => engLine_canon _ _ _ _ _ ht) _ _ h

theorem mergeApply_canon (l : Launch) (level : Nat) {s : State} (h : Canon s) : Canon (mergeApply l level s) := by
  unfold mergeApply
  dsimp only
  split
  · exact modLaunch_canon _ _ (forgetPages_canon _ (clearPatches_canon _ (storeMerged_canon _ _ h)))
  · exact opRequests_canon _ _ _ h

theorem mergeRelease_canon (l : Launch) (level : Nat) (ts : List TrapInfo) {s : State} (h : Canon s) : Canon (mergeRelease l level ts s) := by
  refine canon_ite ?_ (fold_canon (fun _ _ ht => arriveVa_canon _ _ _ _ _ _ ht) _ _ (modLaunch_canon _ _ h))
  split
  · exact kill_canon _ _ h
  · exact endLaunch_canon _ h

theorem execMerge_canon {launch level : Nat} {s : State} (h : Canon s) : OutCanon (execMerge launch level s) := by
  unfold execMerge
  split
  · exact h
  · refine outCanon_ite h ?_
    split
    · exact outCanon_ite (mergeRelease_canon _ _ _ h) h
    · exact outCanon_ite (mergeApply_canon _ _ h) h

theorem raiseWatch_canon (l : Launch) {s : State} (h : Canon s) : Canon (raiseWatch l s) := modLaunch_canon _ _ (modSch_canon _ (withCrews_canon _ h))

theorem execWatchdogTrap_canon {launch : Nat} {s : State} (h : Canon s) : OutCanon (execWatchdogTrap launch s) := by
  unfold execWatchdogTrap
  split
  · exact h
  · exact outCanon_ite (raiseWatch_canon _ h) h

theorem execWatchdogKill_canon {launch : Nat} {s : State} (h : Canon s) : OutCanon (execWatchdogKill launch s) := by
  unfold execWatchdogKill
  split
  · exact h
  · exact outCanon_ite (kill_canon _ _ h) h

theorem execKill_canon {ctx : Nat} {s : State} (h : Canon s) : OutCanon (execKill ctx s) := outCanon_ite (kill_canon _ _ h) h

end Sys2Proof.Proofs
end

section
/-! PROOFS. The canonical form of memory (log entry 2) under the fabric, the privileged view, streams, management, messages and time. -/
namespace Sys2Proof.Proofs
open Sys2Proof Sys2Proof.Machine Sys2Proof.Laws

/-! ### Stores and pages that are lost (17 R437, R438) -/

theorem absentLeaves_canon (p : Nat → Bool) {s : State} (h : Canon s) : Canon (absentLeaves p s) := by
  rw [absentLeaves]
  generalize List.range 256 = l
  exact fold_canon (fun _ _ ht => fold_canon (fun _ _ hu => canon_ite (putLeaf_canon _ _ _ hu) hu) _ _ ht) _ _ h

theorem reportStore_canon (a b : Nat) (d : DefStore) {s : State} (h : Canon s) : Canon (reportStore a b d s) := by rwa [Canon, reportStore_hm]

theorem failRecord_canon (st : Store) {s : State} (h : Canon s) : Canon (failRecord st s) := kill_canon _ _ (setMgt_canon _ h)

theorem failStore_canon (c : Nat) (st : Store) {s : State} (h : Canon s) : Canon (failStore c st s) :=
  canon_ite h (canon_ite (failRecord_canon _ h) (reportStore_canon _ _ _ h))

theorem failInflight_canon (p : Nat → Bool) {s : State} (h : Canon s) : Canon (failInflight p s) :=
  fold_canon (fun _ _ ht => failStore_canon _ _ ht) _ _ (modHm_canon (fun _ => rfl) h)

theorem failAtomics_canon (p : Nat → Bool) {s : State} (h : Canon s) : Canon (failAtomics p s) :=
  fold_canon (fun _ _ ht => reportStore_canon _ _ _ ht) _ _ (withCrews_canon _ h)

theorem dropHomes_canon (p : Nat → Bool) {s : State} (h : Canon s) : Canon (dropHomes p s) := by
  have hlost := failParked_canon 2 (parkedOn s p) (failAtomics_canon p (failInflight_canon p h))
  rw [dropHomes]
  refine orphanFaults_canon ?_
  refine absentLeaves_canon _ ?_
  refine modXl_canon _ ?_
  exact fold_canon (fun _ _ ht => endRequest_canon _ _ ht) _ _ hlost

theorem departDevice_canon (d : Nat) {s : State} (h : Canon s) : Canon (departDevice d s) := by
  rw [departDevice]
  exact dropHomes_canon _ (setPreg_canon _ _ (setFab_canon _ h))

theorem stopStreams_canon {s : State} (h : Canon s) : Canon (stopStreams s) := h

theorem leaveSet_canon {s : State} (h : Canon s) : Canon (leaveSet s) :=
  setFabBit_canon _ _ (setFabBit_canon _ _ (stopStreams_canon (setFab_canon _ (dropHomes_canon _ h))))

theorem tellLeave_canon {s : State} (h : Canon s) : Canon (tellLeave s) := fold_canon (fun _ _ ht => sendMsg_canon _ _ _ _ _ ht) _ _ h

theorem beginJoin_canon {s : State} (h : Canon s) : Canon (beginJoin s) :=
  canon_ite (setFabBit_canon _ _ h) (setFabBit_canon _ _ (fold_canon (fun _ _ ht => sendMsg_canon _ _ _ _ _ ht) _ _ (setFab_canon _ h)))

theorem writeFabctl_canon (x : Word64) {s : State} (h : Canon s) : Canon (writeFabctl x s) := by
  have h1 : Canon (if nbit x.toNat 3 then setFabBit 3 false s else s) := canon_ite (setFabBit_canon _ _ h) h
  unfold writeFabctl
  dsimp only
  split
  · exact canon_ite h1 (beginJoin_canon h1)
  · exact leaveSet_canon (canon_ite (tellLeave_canon h1) h1)
  · exact h1

theorem execJoin_canon {x : Word64} {s : State} (h : Canon s) : OutCanon (execJoin x s) := outCanon_ite (writeFabctl_canon _ h) h
theorem execFabctlLeave_canon {x : Word64} {s : State} (h : Canon s) : OutCanon (execFabctlLeave x s) := outCanon_ite (writeFabctl_canon _ h) h
theorem execJoinComplete_canon {s : State} (h : Canon s) : OutCanon (execJoinComplete s) :=
  outCanon_ite (setFabBit_canon _ _ (setFabBit_canon _ _ h)) h

theorem execPeerTimeout_canon {d : Nat} {s : State} (h : Canon s) : OutCanon (execPeerTimeout d s) :=
  outCanon_ite (departDevice_canon _ (fold_canon (fun _ _ ht => sendMsg_canon _ _ _ _ _ ht) _ _ h)) h

theorem loseSync_canon {s : State} (h : Canon s) : Canon (loseSync s) := by
  have h1 := setFabBit_canon 5 false h
  exact canon_ite (leaveSet_canon (tellLeave_canon h1)) (canon_ite (setFabBit_canon _ _ (setFabBit_canon _ _ (setFab_canon _ h1))) h1)

theorem execSyncTimeout_canon {s : State} (h : Canon s) : OutCanon (execSyncTimeout s) := outCanon_ite (loseSync_canon h) h

/-! ### The privileged view (18 R450) -/

theorem writeCtxReg_canon (i f v : Nat) {s : State} (h : Canon s) : Canon (writeCtxReg i f v s) := by
  obtain he | ⟨x, he⟩ := writeCtxReg_storesAtMost i f v s <;> rw [he]
  · exact h
  · exact setPreg_canon _ _ h

theorem viewWrite_canon (i : Nat) (x : Word64) {s : State} (h : Canon s) : Canon (viewWrite i x s) := by
  unfold viewWrite
  refine canon_ite (writeCtxReg_canon _ _ _ h) (canon_ite (setPreg_canon _ _ h) (canon_ite (writeXltinv_canon _ h) ?_))
  refine canon_ite (setPreg_canon _ _ h) (canon_ite (giveFrame_canon _ _ h) (canon_ite (giveFrame_canon _ _ h) ?_))
  refine canon_ite (canon_ite h (setPreg_canon _ _ h)) (canon_ite (writeQctl_canon _ h) (canon_ite (setPreg_canon _ _ h) ?_))
  exact canon_ite (setPreg_canon _ _ h) (canon_ite (writeFabctl_canon _ h) (canon_ite (setPreg_canon _ _ h) h))

theorem execRegisterWrite_canon {i : Nat} {x : Word64} {s : State} (h : Canon s) : OutCanon (execRegisterWrite i x s) :=
  outCanon_ite h (viewWrite_canon _ _ h)

theorem execGang_canon {a : Nat} {s : State} (h : Canon s) : OutCanon (execGang a s) := by
  unfold execGang
  split
  · exact conclude_canon _ h trivial
  · exact issue_canon h h

theorem specialWrite_canon (n : Nat) (x : Word64) {s : State} (h : Canon s) : Canon (specialWrite n x s) := by
  unfold specialWrite
  split
  · exact h
  · exact setSkein_canon _ h
  · exact viewWrite_canon _ _ h
  · exact setSkein_canon _ h
  · exact h

theorem execMovsw_canon {a n : Nat} {s : State} (h : Canon s) : OutCanon (execMovsw a n s) := by
  unfold execMovsw
  split
  · exact conclude_canon _ h trivial
  · refine issue_canon h ?_
    split
    · exact resCanon_ite (viewWrite_canon _ _ (retire_canon _ h)) trivial
    · exact retire_canon _ (specialWrite_canon _ _ h)

/-! ### Streams (13 R360 to R366) -/

theorem sendFrame_canon (n : Nat) (d : Due) (f : Nat) (b : Bool) {s : State} (h : Canon s) : Canon (sendFrame n d f b s) := by
  unfold sendFrame
  exact canon_ite h (emit_canon _ h)

theorem frameEvent_canon (d : Due) (f : Nat) {s : State} (h : Canon s) : Canon (frameEvent d f s) := by
  unfold frameEvent
  exact canon_ite h (trigger_canon _ _ _ _ (storeVa_canon _ _ _ _ (setIds_canon _ h)))

theorem startFrame_canon (x : Stream) (d : Due) {s : State} (h : Canon s) : Canon (startFrame x d s) := by
  unfold startFrame
  dsimp only
  split
  · exact putStream_canon _ h
  · exact canon_ite (sendFrame_canon _ _ _ _ (putStream_canon _ h)) (frameEvent_canon _ _ (sendFrame_canon _ _ _ _ (putStream_canon _ h)))

theorem serveStart_canon (x : Stream) {s : State} (h : Canon s) : OptCanon (serveStart x s) := by
  refine optCanon_ite (optCanon_some (putStream_canon _ h)) fun t ht => ?_
  obtain ⟨d, -, rfl⟩ := Option.map_eq_some_iff.mp ht
  exact startFrame_canon _ _ h

theorem endSlot_canon (x : Stream) (f : FrameSlot) {s : State} (h : Canon s) : Canon (endSlot x f s) := arriveVa_canon _ _ _ _ _ _ (putStream_canon _ h)

theorem execFrameStart_canon {n : Nat} {s : State} (h : Canon s) : OutCanon (execFrameStart n s) := optNext_canon h (serveStart_canon _ h)

theorem execFrameSlotEnd_canon {n : Nat} {s : State} (h : Canon s) : OutCanon (execFrameSlotEnd n s) := by
  unfold execFrameSlotEnd
  dsimp only
  split
  · exact endSlot_canon _ _ h
  · exact h

theorem streamStep_canon {s : State} (h : Canon s) : OptCanon (streamStep s) := by
  intro t ht
  obtain hslot | ⟨-, hstart⟩ := (Option.orElse_eq_some _ _ _).mp ht
  · obtain ⟨x, -, hx⟩ := List.exists_of_findSome?_eq_some hslot
    obtain ⟨f, -, rfl⟩ := Option.map_eq_some_iff.mp hx
    exact endSlot_canon _ _ h
  · obtain ⟨x, -, hx⟩ := List.exists_of_findSome?_eq_some hstart
    exact serveStart_canon x h t hx

/-! ### Time that passes (04 R102, R105) -/

/-- The stores whose completion time has come take effect cell by cell. -/
theorem moveTime_canon (t : Nat) {s : State} (h : Canon s) : Canon (moveTime t s) :=
  settleHomes_wf t (sampleStreams t s).hm h

theorem passTo_canon (n now : Nat) {s : State} (h : Canon s) : Canon (passTo n now s) := by
  induction n generalizing s with
  | zero => exact moveTime_canon _ h
  | succ n ih =>
    have hstream := streamStep_canon h
    unfold passTo
    split
    · rename_i hs; exact ih (hstream _ hs)
    · split
      · exact canon_ite (ih (moveTime_canon _ h)) (moveTime_canon _ h)
      · exact moveTime_canon _ h

theorem syncMsg_canon (o : Int) {s : State} (h : Canon s) : Canon (syncMsg o s) := by
  unfold syncMsg
  dsimp only
  have h2 (c : Prop) [Decidable c] (n now : Nat) (f g : Fabric) : Canon (if c then passTo n now { s with fab := f } else { s with fab := g }) :=
    canon_ite (passTo_canon _ _ (setFab_canon _ h)) (setFab_canon _ h)
  exact canon_ite (setFabBit_canon _ _ (h2 _ _ _ _ _)) (canon_ite (loseSync_canon (h2 _ _ _ _ _)) (h2 _ _ _ _ _))

theorem execPtpMessage_canon {b : PtpMsg} {s : State} (h : Canon s) : OutCanon (execPtpMessage b s) := by
  cases b with
  | sync o => exact syncMsg_canon o h
  | other => exact h

/-! ### Power-up, clocks and heat (18 R444, R452) -/

theorem enterSafe_canon {s : State} (h : Canon s) : Canon (enterSafe s) := setPreg_canon _ _ (setMgt_canon _ h)

theorem stepFails_canon (k : Nat) (u : Option (Nat × Nat)) {s : State} (h : Canon s) : Canon (stepFails k u s) := enterSafe_canon (setMgt_canon _ h)

theorem bringStep_canon (b : BringUp) {s : State} (h : Canon s) : Canon (bringStep b s) := by
  unfold bringStep
  dsimp only
  split
  · exact canon_ite (setPreg_canon _ _ (setMgt_canon _ h)) (stepFails_canon _ _ (setMgt_canon _ h))
  · split
    · exact setPreg_canon _ _ (setMgt_canon _ (setMgt_canon _ h))
    · exact stepFails_canon _ _ (setMgt_canon _ h)
  · exact canon_ite (stepFails_canon _ _ (setMgt_canon _ h)) (setPreg_canon _ _ (setMgt_canon _ h))
  · exact canon_ite (stepFails_canon _ _ (setMgt_canon _ h)) (setPreg_canon _ _ (setPreg_canon _ _ (setMgt_canon _ h)))

theorem execPowerOn_canon {b : BringUp} {s : State} (h : Canon s) : OutCanon (execPowerOn b s) := outCanon_ite h (bringStep_canon _ h)

theorem execClockThrottle_canon {p t : Nat} {s : State} (h : Canon s) : OutCanon (execClockThrottle p t s) :=
  outCanon_ite (setPreg_canon _ _ h) (setPreg_canon _ _ (setPreg_canon _ _ h))

theorem execOvertempShutdown_canon {t : Nat} {s : State} (h : Canon s) : OutCanon (execOvertempShutdown t s) :=
  outCanon_ite h (outCanon_ite (setPreg_canon _ _ h) (enterSafe_canon (stopStreams_canon (fold_canon (fun _ _ ht => kill_canon _ _ ht) _ _
    (setPreg_canon _ _ h)))))

/-! ### Management commands (18 R446) -/

theorem acceptStream_canon (c : List Byte) {s : State} (h : Canon s) : Canon (acceptStream c s) := by
  unfold acceptStream
  dsimp only
  split_ifs
  · split
    · exact putStream_canon _ h
    · exact h
  · exact putStream_canon _ h
  · exact putStream_canon _ h

theorem doManifest_state (src ctx va : Nat) (f : List Byte → List Byte) (s : State) : (doManifest src ctx va f s).2.2 = s := by
  unfold doManifest
  split
  · rfl
  · split <;> rfl

theorem doResume_canon (ctx crew : Nat) {s : State} (h : Canon s) : Canon (doResume ctx crew s).2.2 := by
  unfold doResume
  split
  · exact modCrew_canon _ _ h
  · exact h

theorem runCmd_canon (src : Nat) (c : MgmtCmd) {s : State} (h : Canon s) : Canon (runCmd src c s).2.2 := by
  cases c with
  | status | selftest | diag | regread | attest => exact h
  | regwrite i x =>
    simp only [runCmd]
    split
    · exact viewWrite_canon _ _ h
    · exact h
  | manifest ctx va => rwa [runCmd, doManifest_state]
  | compare ctx va st => rwa [runCmd, doManifest_state]
  | resume ctx crew => exact doResume_canon _ _ h
  | fatalrec ctx =>
    simp only [runCmd]
    split <;> exact h
  | stream cfg =>
    simp only [runCmd]
    split
    · exact h
    · split
      · exact h
      · exact acceptStream_canon _ h
  | streamq n =>
    simp only [runCmd]
    split <;> exact h

theorem manage_canon (src : Nat) (c : MgmtCmd) {s : State} (h : Canon s) : Canon (manage src c s).2.2 := by
  unfold manage
  split
  · exact h
  · split
    · exact h
    · exact runCmd_canon _ _ h

theorem deferCmd_canon (src : Nat) (c : MgmtCmd) (m : Option PvlMsg) {s : State} (h : Canon s) : OptCanon (deferCmd src c m s) := by
  unfold deferCmd
  split
  · exact optCanon_none
  · split
    · exact optCanon_none
    · exact optCanon_some (askHosts_canon _ _ _ (setMgt_canon _ h))

theorem manageEvent_canon {src : Nat} {c : MgmtCmd} {s : State} (h : Canon s) : OutCanon (manageEvent src c s) := by
  have hdefer := deferCmd_canon src c none h
  unfold manageEvent
  split
  · rename_i hs; exact hdefer _ hs
  · exact emit_canon _ (manage_canon _ _ h)

/-! ### Messages (17 R427 to R437) -/

theorem answerWrite_canon (m : PvlMsg) (c t : Nat) {s : State} (h : Canon s) : Canon (answerWrite m c t s) :=
  canon_ite (respond_canon _ _ _ h) (respond_canon _ _ _ (modFab_canon _ h))

theorem msgWrite_canon (b : Bool) (m : PvlMsg) {s : State} (h : Canon s) : Canon (msgWrite b m s) := by
  have hstore := storeVa_canon (s.ids + 1) m.ctx m.addr.toNat m.payload (setIds_canon (s.ids + 1) h)
  unfold msgWrite
  dsimp only
  cases b with
  | true => exact canon_ite (modFab_canon _ (trigger_canon _ _ _ _ hstore)) (answerWrite_canon _ _ _ (trigger_canon _ _ _ _ hstore))
  | false => exact canon_ite (modFab_canon _ hstore) (answerWrite_canon _ _ _ hstore)

theorem serveOwed_canon {s : State} (h : Canon s) : Canon (serveOwed s) := fold_canon (fun _ _ ht => answerWrite_canon _ _ _ ht) _ _ (modFab_canon _ h)

theorem doRead_canon (lease : Bool) (m : PvlMsg) {s : State} (h : Canon s) : Canon (doRead lease m s) := by
  refine canon_ite (respond_canon _ _ _ h) ?_
  split
  · exact respond_canon _ _ _ h
  · exact dropHostReads_canon _ (respond_canon _ _ _ h)
  · refine dropHostReads_canon _ (canon_ite (respond_canon _ _ _ (countUncorr_canon _ h)) (respond_canon _ _ _ (canon_ite ?_ h)))
    exact fold_canon (fun _ _ ht => grantFar_canon _ _ ht) _ _ h
  · exact respond_canon _ _ _ h

theorem doWriteMsg_canon (m : PvlMsg) {s : State} (h : Canon s) : Canon (doWriteMsg m s) := by
  refine canon_ite (respond_canon _ _ _ h) ?_
  split
  · exact respond_canon _ _ _ h
  · exact msgWrite_canon _ _ h
  · exact respond_canon _ _ _ h

theorem doEnq_canon (m : PvlMsg) {s : State} (h : Canon s) : Canon (doEnq m s) := by
  refine canon_ite (respond_canon _ _ _ h) ?_
  split
  · exact respond_canon _ _ _ h
  · exact canon_ite (respond_canon _ _ _ h) (respond_canon _ _ _ (appendRecord_canon _ _ _ _ h))

theorem doAtom_canon (m : PvlMsg) (op : AtomOp) {s : State} (h : Canon s) : Canon (doAtom m op s) := by
  unfold doAtom
  dsimp only
  refine canon_ite (respond_canon _ _ _ h) (canon_ite (respond_canon _ _ _ h) ?_)
  split
  · exact respond_canon _ _ _ h
  · exact canon_ite (respond_canon _ _ _ (countUncorr_canon _ h)) (respond_canon _ _ _ (modFab_canon _ (homeAtomicAt_canon _ _ h)))
  · exact respond_canon _ _ _ h
  · exact respond_canon _ _ _ h

theorem doMig_canon (m : PvlMsg) (b : MigMsg) {s : State} (h : Canon s) : Canon (doMig m b s) := by
  refine respond_canon _ _ _ ?_
  cases b with
  | request va _ => exact homeRequest_canon _ _ _ h
  | answer va code home addr => exact answerReq_canon _ _ _ _ _ h
  | frame va f => exact modXl_canon _ h
  | arrive va _ wexp migc pin wstamp lease data => exact arrivePage_canon _ _ _ _ _ _ _ _ h
  | homeChange va home addr => exact sendMsg_canon _ _ _ _ _ (changeHome_canon _ _ _ _ h)
  | ack va => exact modXl_canon _ h

theorem doLeave_canon (m : PvlMsg) {s : State} (h : Canon s) : Canon (doLeave m s) :=
  respond_canon _ _ _ (canon_ite (leaveSet_canon h) (departDevice_canon _ h))

theorem doMgmt_canon (m : PvlMsg) {s : State} (h : Canon s) : Canon (doMgmt m s) := by
  unfold doMgmt
  split
  · exact respond_canon _ _ _ h
  · rename_i c _
    have hdefer := deferCmd_canon m.src c (some m) h
    split
    · rename_i hs; exact hdefer _ hs
    · exact respond_canon _ _ _ (manage_canon _ _ h)

theorem serveMgmt_canon {s : State} (h : Canon s) : Canon (serveMgmt s) := by
  refine fold_canon (fun t w ht => canon_ite ht (dropHostReads_canon _ ?_)) _ _ h
  have hrun := manage_canon w.src (waitCmd w) (setMgt_canon { t.mgt with waits := t.mgt.waits.erase w } ht)
  split
  · exact respond_canon _ _ _ hrun
  · exact emit_canon _ hrun

/-- The bytes of a host page that a READ brings become the bytes of memory (17 R432). -/
theorem hostData_canon (m : PvlMsg) (x : HostRead) {s : State} (h : Canon s) : Canon (hostData m s x) :=
  canon_ite h (canon_ite (setCells_wf _ _ h) (modFab_canon _ h))

theorem arriveHome_canon (st : Store) {s : State} (h : Canon s) : Canon (arriveHome st s) := by
  rw [arriveHome, Canon, raiseDue_hm]
  exact homeAccept_canon _ (modHm_canon (fun _ => rfl) h)

theorem hostAck_canon (m : PvlMsg) (st : Store) {s : State} (h : Canon s) : Canon (hostAck m s st) := by
  unfold hostAck
  split
  · exact h
  · refine canon_ite h (canon_ite (failStore_canon _ _ (modHm_canon (fun _ => rfl) h)) (canon_ite (arriveHome_canon _ h) ?_))
    exact modHm_canon (fun _ => rfl) h

theorem hostAnswer_canon (m : PvlMsg) {s : State} (h : Canon s) : Canon (hostAnswer m s) :=
  serveOwed_canon (fold_canon (fun _ _ ht => hostAck_canon _ _ ht) _ _ (fold_canon (fun _ _ ht => hostData_canon _ _ ht) _ _ h))

theorem doResp_canon (m : PvlMsg) {s : State} (h : Canon s) : Canon (doResp m s) :=
  canon_ite (canon_ite (leaveSet_canon (modFab_canon _ h)) (canon_ite (hostAnswer_canon _ (modFab_canon _ h)) (modFab_canon _ h))) h

theorem perform_canon (m : PvlMsg) (b : PvlBody) {s : State} (h : Canon s) : Canon (perform m b s) := by
  refine canon_ite (respond_canon _ _ _ h) ?_
  split
  · exact doEnq_canon _ h
  · exact doRead_canon _ _ h
  · exact doWriteMsg_canon _ h
  · exact doWriteMsg_canon _ h
  · exact doWriteMsg_canon _ h
  · exact doRead_canon _ _ h
  · exact doAtom_canon _ _ h
  · exact doMig_canon _ _ h
  · exact doLeave_canon _ h
  · exact doMgmt_canon _ h
  · exact respond_canon _ _ _ h

theorem serveInbox_canon (n : Nat) {s : State} (h : Canon s) : Canon (serveInbox n s) := by
  induction n generalizing s with
  | zero => exact h
  | succ n ih =>
    unfold serveInbox
    split
    · exact h
    · exact ih (perform_canon _ _ h)

theorem askInbox_canon {s : State} (h : Canon s) : Canon (askInbox s) := fold_canon (fun _ _ ht => askHosts_canon _ _ _ ht) _ _ h

theorem serveAll_canon {s : State} (h : Canon s) : Canon (serveAll s) := askInbox_canon (serveInbox_canon _ h)

theorem askAgain_canon (m : PvlMsg) {s : State} (h : Canon s) : Canon (askAgain m s) := canon_ite (emit_canon _ h) h

theorem takeMsg_canon (m : PvlMsg) (b : PvlBody) {s : State} (h : Canon s) : Canon (takeMsg m b s) :=
  canon_ite h (serveAll_canon (askAgain_canon _ (modFab_canon _ h)))

theorem receive_canon {m : PvlMsg} {b : PvlBody} {s : State} (h : Canon s) : OutCanon (receive m b s) :=
  outCanon_ite h (outCanon_ite (respond_canon _ _ _ h) (outCanon_ite (doResp_canon _ h) (outCanon_ite (respond_canon _ _ _ h)
    (takeMsg_canon _ _ (canon_ite (modFab_canon _ h) h)))))

theorem receiveAs_canon {n : Nat} {m : PvlMsg} {b : PvlBody} {s : State} (h : Canon s) : OutCanon (receiveAs n m b s) := outCanon_ite (receive_canon h) h

theorem execEthernetFrame_canon {port : Nat} {f : EthFrame} {s : State} (h : Canon s) : OutCanon (execEthernetFrame port f s) := by
  refine outCanon_ite h ?_
  cases f with
  | arp a => exact outCanon_ite (emit_canon _ h) h
  | neighbour a => exact outCanon_ite (emit_canon _ h) h
  | echo a d => exact outCanon_ite (emit_canon _ h) h
  | pvl p m b => exact outCanon_ite (receive_canon h) h
  | ptp b => exact execPtpMessage_canon h
  | other => exact h

/-! ### A tick of global time -/

theorem retryArrivals_canon {s : State} (h : Canon s) : Canon (retryArrivals s) :=
  fold_canon (fun _ _ ht => arriveVa_canon _ _ _ _ _ _ ht) _ _ (modHm_canon (fun _ => rfl) h)

theorem tickTo_canon (now : Nat) {s : State} (h : Canon s) : Canon (tickTo now s) := by
  have hpass (clk : Nat) : Canon (wakeAll (passTo (passFuel now s) now { s with clocks := clk })) := passTo_canon (passFuel now s) now h
  unfold tickTo
  rw [Canon, noteStuck_hm]
  exact serveAll_canon (serveMgmt_canon (serveOwed_canon (serveDones_canon (orphanFaults_canon (retryArrivals_canon (hpass _))))))

theorem execGlobalTimeTick_canon {s : State} (h : Canon s) : OutCanon (execGlobalTimeTick s) := outCanon_ite h (tickTo_canon _ (setFab_canon _ h))

end Sys2Proof.Proofs
end

section
/-! PROOFS. The canonical form of memory (log entry 2) under every instruction, event and step. -/
namespace Sys2Proof.Proofs
open Sys2Proof Sys2Proof.Machine Sys2Proof.Laws

/-! ### Instructions and events -/

theorem unif2_canon {d a b w : Nat} {f : Word64 → Word64 → Word64} {s : State} (h : Canon s) : OutCanon (unif2 d a b w f s) := unifOp_canon h
theorem bvote_canon {g o : Nat} {f : Word32 → Word32 → Bool} {s : State} (h : Canon s) : OutCanon (bvote g o f s) := issue_canon h h
theorem voteOp_canon {g d a : Nat} {f : Word32 → Word32 → Bool} {s : State} (h : Canon s) : OutCanon (voteOp g d a f s) := predOp_canon h
theorem shflOp_canon {r : Req} {g d a : Nat} {f : Skein → Nat → Option Nat} {s : State} (h : Canon s) : OutCanon (shflOp r g d a f s) :=
  laneOp_canon h
theorem itv2_canon {hull : Bool} {g d a b : Nat} {f : Fx → Fx → Fx → Fx → Word64} {s : State} (h : Canon s) : OutCanon (itv2 hull g d a b f s) :=
  itvOp_canon h
theorem itv1_canon {g d a : Nat} {f : Fx → Fx → Word64} {s : State} (h : Canon s) : OutCanon (itv1 g d a f s) := itvOp_canon h
theorem float2_canon {x : Option ArithPfx} {g d a b : Nat} {f : Fmt → Rm → Nat → Nat → Nat → Nat × Nat} {s : State} (h : Canon s) :
    OutCanon (float2 x g d a b f s) := floatOp_canon h
theorem floatMM_canon {x : Option ArithPfx} {g d a b : Nat} {f : Fmt → Nat → Nat → Nat} {s : State} (h : Canon s) :
    OutCanon (floatMM x g d a b f s) := laneOp_canon h

theorem exec_canon (i : Instr) {s : State} (h : Canon s) : OutCanon (exec i s) := by
  cases i with dsimp only [exec]
  | vadd | vsub | vmul | vmulh | vmad | vand | vor | vxor | vshl | vshr | vsar | vmin | vmax | vlea | vaddi | vimm | vmov | vabs | vpopc
  | vclz | vbcast | vcvtiI32I8 | vcvtiI32I16 | vcvtiN32N8 | vcvtiN32N16 | vcvtiI8I32 | vcvtiI16I32 | vcvtiN8N32 | vcvtiN16N32 | fclass =>
    exact laneOp_canon h
  | movsVector => exact execMovsVector_canon h
  | fadd | fsub | fmul => exact float2_canon h
  | ffma | fscale | fcvt | fround | sfn | sfnSlot => exact floatOp_canon h
  | fmin | fmax => exact floatMM_canon h
  | fcmp | pand | por | pxor | pnot | pmovgToPredicate | vsetp => exact predOp_canon h
  | iadd | isub | imul | idiv | imin | imax | ihull => exact itv2_canon h
  | isq | isqrt | iabs => exact itv1_canon h
  | pmovgToUniform | voteBallot | vsel | cfgmode => exact simple_canon h rfl
  | shflIdx | shflUp | shflDown | shflXor | shflIdxRegister => exact shflOp_canon h
  | voteAny | voteAll | voteNone => exact voteOp_canon h
  | vred | vscan => exact reduceOp_canon h
  | vldN8 | vldN16 | vld | vldN64 => exact laneLoad_canon h
  | vstN8 | vstN16 | vst | vstN64 => exact laneStore_canon h
  | vatom => exact execVatom_canon h
  | pgreq => exact execPgreq_canon h
  | sld => exact execSld_canon h
  | sldFe | sldFeClr => exact consume_canon h
  | sst => exact execSst_canon h
  | sclr => exact execSclr_canon h
  | smp => exact execSmp_canon h
  | smpPool => exact execSmpPool_canon h
  | gadd | gsub | gmul | gmulh | gmulhN | gdiv | gdivN | grem | gremN | gand | gor | gxor | gshl | gshr | gsar | gmin | gminN | gmax
  | gmaxN => exact unif2_canon h
  | gpopc | gclz | gsel | gcmp | gaddi | gandi | gori | gxori | gshli | gshri | gsari | gcmpi | ghi => exact unifOp_canon h
  | bru | bcc | br | call | yield | nop | halt => exact issue_canon h h
  | bvoteAny | bvoteAll | bvoteNone => exact bvote_canon h
  | brx => exact execBrx_canon h
  | ret => exact execRet_canon h
  | jmpg => exact execJmpg_canon h
  | exit => exact issue_canon h (endLanes_canon _ _ h)
  | tail => exact execTail_canon h
  | meld => exact execMeld_canon h
  | mend => exact execMend_canon h
  | mmap => exact execMmap_canon h
  | wopen => exact execWopen_canon h
  | wclose => exact execWclose_canon h
  | spawn => exact execSpawn_canon h
  | bar | barArrive | barWait => exact barForm_canon h
  | waitc => exact execWaitc_canon h
  | fenceRel | fenceAcq | fenceAr => exact fence_canon h
  | movs => exact execMovs_canon h
  | movsw => exact execMovsw_canon h
  | gang => exact execGang_canon h
  | trap | brk => exact raiseAfter_canon h
  | eret => exact execEret_canon h
  | sfload => exact execSfload_canon h
  | launch | launchWait => exact launchOp_canon h
  | lwait => exact execLwait_canon h
  | gld => exact execGld_canon h
  | gst => exact execGst_canon h
  | gatom => exact execGatom_canon h
  | cpyLin | cpyPut | cpyGet => exact cpyIssue_canon h fun i _ ht => linIssue_canon i ht
  | cpyShape => exact cpyIssue_canon h fun i _ ht => shapeIssue_canon i ht
  | cpyGather | cpyScatter => exact cpyIssue_canon h fun i _ ht => gsIssue_canon _ i ht
  | cpyMcast => exact clusterForm_canon h (cpyIssue_canon h fun i _ ht => mcastIssue_canon i ht)
  | cpyRadd => exact clusterForm_canon h (cpyIssue_canon h fun i _ ht => raddIssue_canon i ht)
  | cpyDec => exact cpyIssue_canon h fun i _ ht => decIssue_canon i ht
  | cpyDeq => exact cpyIssue_canon h fun i _ ht => deqIssue_canon i ht
  | cpyPack => exact cpyIssue_canon h fun i _ ht => packIssue_canon i ht
  | cpyUnpack => exact cpyIssue_canon h fun i _ ht => unpackIssue_canon i ht
  | cpySig => exact cpyIssue_canon h fun i _ ht => sigIssue_canon i ht
  | binit => exact execBinit_canon h
  | barrive => exact execBarrive_canon h
  | bwait => exact execBwait_canon h
  | btest => exact execBtest_canon h
  | shfence => exact execShfence_canon h
  | tmap => exact execTmap_canon h
  | mma => exact execMma_canon h
  | mmas => exact execMmas_canon h
  | cmma => exact execCmma_canon h
  | accz => exact execAccz_canon h
  | accin => exact execAccin_canon h
  | accout => exact execAccout_canon h
  | accmov => exact execAccmov_canon h
  | trowSum | trowMax | trowSmax | trowNorm => exact trow_canon h
  | march | marchIv => exact march_canon h
  | mresume => exact execMresume_canon h
  | fprep => exact execFprep_canon h
  | boxt => exact execBoxt_canon h
  | trit => exact execTrit_canon h
  | stkpush => exact execStkpush_canon h
  | stkpop => exact execStkpop_canon h
  | draw => exact execDraw_canon h
  | depthw => exact execDepthw_canon h
  | nbin => exact execNbin_canon h
  | npairs => exact execNpairs_canon h
  | nstat => exact execNstat_canon h
  | registerWrite => exact execRegisterWrite_canon h
  | xltinvPage | xltinvContext | xltinvAll => exact xltinvEvent_canon h
  | xltinvComplete => exact execXltinvComplete_canon h
  | frmgive64 =>
    rw [execFrmgive64]
    generalize frmOk s 0 = ok
    exact outCanon_ite (giveFrame_canon _ _ h) trivial
  | frmgive2m =>
    rw [execFrmgive2m]
    generalize frmOk s 1 = ok
    exact outCanon_ite (giveFrame_canon _ _ h) trivial
  | migrationCommit => exact execMigrationCommit_canon h
  | frameFree => exact execFrameFree_canon h
  | parkedStorePerform => exact execParkedStorePerform_canon h
  | parkedStoreTimeout => exact execParkedStoreTimeout_canon h
  | homeStore => exact execHomeStore_canon h
  | homeAtomic => exact execHomeAtomic_canon h
  | homeRead => exact execHomeRead_canon h
  | memoryScrub => exact execMemoryScrub_canon h
  | consumingLoadProceed => exact execConsumingLoadProceed_canon h
  | fullEmptyStall | spawnWaitTimeout | bwaitTimeout => exact waitTrap_canon h
  | arrival => exact execArrival_canon h
  | npairsClosingArrival => exact execNpairsClosingArrival_canon h
  | sequencerOpStart => exact execSequencerOpStart_canon h
  | gangLatchTimeout => exact execGangLatchTimeout_canon h
  | pairRecordEmit => exact execPairRecordEmit_canon h
  | merge => exact execMerge_canon h
  | levelBarrierRelease => exact execLevelBarrierRelease_canon h
  | barrierStallTimeout => exact execBarrierStallTimeout_canon h
  | preemptWaitingCrew => exact execPreemptWaitingCrew_canon h
  | basketTimerExpiry => exact execBasketTimerExpiry_canon h
  | basketLaunch => exact execBasketLaunch_canon h
  | skeinEnd => exact execSkeinEnd_canon h
  | retirementEntryFree => exact execRetirementEntryFree_canon h
  | crewEnd => exact execCrewEnd_canon h
  | takeRecord => exact execTakeRecord_canon h
  | placeUnit => exact execPlaceUnit_canon h
  | priorityPreemption => exact execPriorityPreemption_canon h
  | preemptCrew => exact execPreemptCrew_canon h
  | restoreCrew => exact execRestoreCrew_canon h
  | qctlOpen | qctlClose | qctlReset => exact qctlEvent_canon h
  | mailboxPendingAppend => exact execMailboxPendingAppend_canon h
  | deferredTrapTake => exact execDeferredTrapTake_canon h
  | watchdogTrap => exact execWatchdogTrap_canon h
  | watchdogKill => exact execWatchdogKill_canon h
  | kill => exact execKill_canon h
  | frameStart => exact execFrameStart_canon h
  | frameSlotEnd => exact execFrameSlotEnd_canon h
  | ethernetFrame => exact execEthernetFrame_canon h
  | enq | read | write | resp | mbox | put | get | atom | mig | leave | mgmt => exact receiveAs_canon h
  | ptpMessage => exact execPtpMessage_canon h
  | syncTimeout => exact execSyncTimeout_canon h
  | peerTimeout => exact execPeerTimeout_canon h
  | join => exact execJoin_canon h
  | joinComplete => exact execJoinComplete_canon h
  | fabctlLeave => exact execFabctlLeave_canon h
  | powerOn => exact execPowerOn_canon h
  | status | selftest | diag | regread | regwrite | attest | manifest | compare | resume | fatalrec | stream | streamq => exact manageEvent_canon h
  | clockThrottle => exact execClockThrottle_canon h
  | overtempShutdown => exact execOvertempShutdown_canon h
  | globalTimeTick => exact execGlobalTimeTick_canon h
  | pageRequestTimeout => exact execPageRequestTimeout_canon h
  | asyncOperationEnd => exact execAsyncOperationEnd_canon h

/-! ### The issue of a skein (15 R409, R413) -/

theorem ready_canon {s : State} (h : Canon s) : OptCanon (ready s) := by
  unfold ready
  split
  · exact optCanon_none
  · next c _ =>
    have hf : OptCanon (focusOn c.ref { s with quad := c.quad }) := focusOn_canon h
    split
    · exact optCanon_none
    · next t ht => exact optCanon_some (setSkein_canon _ (hf t ht))

theorem chooseEntry_canon {s : State} (h : Canon s) : OptCanon (chooseEntry s) := by
  intro t ht
  obtain ⟨k, -, rfl⟩ := Option.map_eq_some_iff.mp ht
  exact h

theorem correctFile_canon {s : State} (h : Canon s) : Canon (correctFile s) := canon_ite h (countCorr_canon _ h)

theorem runAtPc_canon {s : State} (h : Canon s) : OutCanon (runAtPc s) := by
  have hfetch := fetchInstr_canon h
  unfold runAtPc
  split
  · next i t he => exact exec_canon i (by simpa [he] using hfetch)
  · next x he => exact conclude_canon _ h (resCanon_error_of (he ▸ hfetch))

theorem issueOne_canon {s : State} (h : Canon s) : OutCanon (issueOne s) := by
  have htake := takeDeferred_canon h
  have hfile := correctFile_canon h
  unfold issueOne
  split
  · next t ht => exact htake t ht
  · split
    · exact takeTrap_canon _ _ h
    · split
      · next t ht => exact runAtPc_canon (chooseEntry_canon hfile t ht)
      · exact hfile

theorem issueFrom_canon (n : Nat) {s : State} (h : Canon s) : OutCanon (issueFrom n s) := by
  induction n generalizing s with
  | zero => exact h
  | succ n ih =>
    unfold issueFrom
    split
    · exact h
    · next t ht =>
      have hone := issueOne_canon (ready_canon h t ht)
      split
      · next u hu =>
        have hu' := outCanon_next hone hu
        split
        · exact ih hu'
        · exact hu'
      · exact hone

/-! ### One step -/

theorem tickBeat_canon {s : State} (h : Canon s) : OutCanon (tickBeat s) := by
  unfold tickBeat
  split
  · exact bringStep_canon _ h
  · exact exec_canon _ h

/-- Whichever of its turns a step takes, memory keeps its canonical form. -/
theorem step_canon {s : State} (h : Canon s) : OutCanon (step s) := by
  unfold step
  split
  · split
    · exact exec_canon _ h
    · exact h
  · split
    · exact issueFrom_canon _ h
    · split
      · exact exec_canon _ h
      · exact h
    · exact tickBeat_canon h

/-- Settles O60: the invariant is kept by every instruction and event, so by every step. -/
theorem memoryStaysCanonical : Obligations.MemoryStaysCanonical :=
  fun _ _ h ht => outCanon_next (step_canon h) ht

end Sys2Proof.Proofs
end

section
/-! PROOFS. The part after reset (18 R444, R450). -/
namespace Sys2Proof.Proofs
open Sys2Proof Sys2Proof.Machine Sys2Proof.Laws

/-- After reset no register of the privileged view is listed, so each holds the value of its table. -/
@[simp] theorem preg_reset (i : Nat) : preg State.reset i = pregReset i := rfl

/-- Every context has the same reset values: a register's value depends on its field alone. -/
theorem pregReset_ctxReg {c f : Nat} (hc : c < 256) (hf : f < 8) : pregReset (ctxReg c f) = pregReset (ctxReg 0 f) := by
  have hview : ∀ b < 256, ctxReg b f ≠ 0x18 ∧ ctxReg b f ≠ 0x1A ∧ (0x1000 ≤ ctxReg b f ∧ ctxReg b f < 0x1800) ∧ (ctxReg b f - 0x1000) % 8 = f := by
    intro b hb
    unfold ctxReg
    omega
  obtain ⟨hcfg, hleft, hctx, hfield⟩ := hview c hc
  obtain ⟨hcfg0, hleft0, hctx0, hfield0⟩ := hview 0 (by decide)
  rw [pregReset, pregReset, if_neg hcfg, if_neg hleft, if_pos hctx, hfield, if_neg hcfg0, if_neg hleft0, if_pos hctx0, hfield0]

/-- Settles O58: reset lists nothing, and the reset value of a context's register is that of context 0, read off the table. -/
theorem resetState : Obligations.ResetState := by
  have hctx : ∀ c < 256, ∀ f < 8, preg State.reset (ctxReg c f) = pregReset (ctxReg 0 f) := fun c hc f hf => pregReset_ctxReg hc hf
  refine ⟨by decide, rfl, rfl, rfl, rfl, rfl, rfl, rfl, fun c hc => ?_, by decide, by decide, by decide, rfl, by decide⟩
  have hzero : ∀ f, f = 0 ∨ f = 4 ∨ f = 7 → preg State.reset (ctxReg c f) = 0#64 := by
    rintro f (rfl | rfl | rfl) <;> rw [hctx c hc _ (by decide)] <;> rfl
  rw [ctxHand, ctxTrap, hctx c hc 5 (by decide), hctx c hc 6 (by decide), hctx c hc 1 (by decide), hctx c hc 3 (by decide), hctx c hc 2 (by decide)]
  exact ⟨rfl, rfl, rfl, rfl, by decide, by decide, by decide, hzero⟩

end Sys2Proof.Proofs
end

section
/-! PROOFS. Atomics of lanes and of a skein: their old values in registers (10 R286, R287). -/
namespace Sys2Proof.Proofs
open Sys2Proof Sys2Proof.Machine Sys2Proof.Laws Sys2Proof.Claims

/-! ### Lane atomics -/

/-- What a lane reads of a register, or of a pair of them where the atomic is 8 bytes wide. -/
def laneValue (x : AtomPfx) (k : Skein) (r L : Nat) : Nat := if x.w64 then (rdV2 k r L).toNat else (rdV k r L).toNat

/-- The exact offsets of a lane atomic on the window, as the bank takes them. -/
theorem lanes_of_vatom {x : AtomPfx} {k : Skein} {g d a b z : Nat} {row : AtomicRow} (h : atomicRow k (.vatom x g d a b z) = some row) (hs : x.scr = true) :
    row.lanes = (lanesOf (active k g)).map fun L => (L, laneSum k a b 1 0 L, laneValue x k x.vb L, laneValue x k d L) := by
  cases h
  simp [lanesOf, laneList, laneSum, laneValue, wide, U, S, hs]

/-- The accesses of a lane atomic on memory, as translation takes them. -/
theorem atomicLanesOf_vatom {x : AtomPfx} {k : Skein} {g d a b z : Nat} {row : AtomicRow} (h : atomicRow k (.vatom x g d a b z) = some row)
    (hs : x.scr ≠ true) :
    atomicLanesOf row = (laneAddrs k (active k g) a b (if z = 1 then 4 * (if x.w64 then 2 else 1) else 1) 0).map fun p =>
      { lane := p.1, va := p.2, data := laneValue x k x.vb p.1, cmp := laneValue x k d p.1 } := by
  cases h
  simp [atomicLanesOf, laneAddrs, lanesOf, laneList, laneSum, laneValue, wide, U, S, wrap64, hs]

/-- The skein with an atomic's old values in the lanes of `act`: in single registers, or in pairs where the atomic is 8 bytes wide. -/
def putOld (wide64 : Bool) (act : Word32) (d : Nat) (old : List (Nat × Nat)) (k : Skein) : Skein :=
  if wide64 then wrV2 act d (fun L => w64 (oldOf old L)) k else wrV act d (fun L => w32 (oldOf old L)) k

theorem putOld_frame (wide64 : Bool) (act : Word32) (d : Nat) (old : List (Nat × Nat)) (k : Skein) :
    putOld wide64 act d old k = { k with v := (putOld wide64 act d old k).v } := by cases wide64 <;> rfl

theorem exec_vatom {x : AtomPfx} {g d a b z : Nat} {row : AtomicRow} {s u : State} {old : List (Nat × Nat)}
    (hrow : atomicRow s.k (.vatom x g d a b z) = some row) (hp : Passes row.req s) (hrel : released row.rel row.scope s) (hat : Atomics row s u old) :
    exec (.vatom x g d a b z) s = .next (retire 2 { u with k := putOld x.w64 (active s.k g) d old u.k }) := by
  have harm : exec (.vatom x g d a b z) s = execVatom x g d a b z s := rfl
  have hwin := lanes_of_vatom hrow
  have hmem := atomicLanesOf_vatom hrow
  rw [Atomics] at hat
  generalize row.lanes = win at hat hwin
  generalize atomicLanesOf row = mem at hat hmem
  cases hrow
  rw [harm, execVatom]
  refine issue_eq_next hp ?_
  rw [bind_of_eq_ok _ (relFirst_ok hrel)]
  dsimp only at hat ⊢
  split
  · next hs =>
    rw [if_pos hs, hwin hs] at hat
    refine (bind_of_eq_ok _ hat).trans ?_
    rfl
  · next hs =>
    rw [if_neg hs, hmem hs] at hat
    refine (bind_of_eq_ok _ hat).trans ?_
    rfl

/-! ### Uniform atomics -/

theorem exec_gatom {x : Option MemPfx} {d a b o w z : Nat} {row : AtomicRow} {s u : State} {old : List (Nat × Nat)}
    (hrow : atomicRow s.k (.gatom x d a b o w z) = some row) (hp : Passes row.req s) (hrel : released row.rel row.scope s) (hat : Atomics row s u old) :
    exec (.gatom x d a b o w z) s = .next (retire row.req.len { u with k := wrG d (nat64 (oldOf old 0xFF)) u.k }) := by
  have harm : exec (.gatom x d a b o w z) s = execGatom x d a b o w z s := rfl
  cases hrow
  rw [words_eq_pfxLen] at hp
  rw [harm, execGatom, words_eq_pfxLen]
  refine issue_eq_next hp ?_
  rw [bind_of_eq_ok _ (relFirst_ok hrel)]
  dsimp only [Atomics] at hat ⊢
  by_cases hz : z = 1
  · rw [if_pos (by simpa using hz)] at hat
    rw [if_pos hz]
    refine (bind_of_eq_ok _ hat).trans ?_
    rfl
  · rw [if_neg (by simpa using hz)] at hat
    rw [if_neg hz]
    refine (bind_of_eq_ok _ hat).trans ?_
    rfl

end Sys2Proof.Proofs
end

section
/-! PROOFS. Bytes at their homes after atomics: in ascending lane order, one store per line (10 R287, 04 R105, R106). -/
namespace Sys2Proof.Proofs
open Sys2Proof Sys2Proof.Machine Sys2Proof.Laws Sys2Proof.Claims

/-! ### Listed bytes -/

theorem mget_mputAny {α : Type} (d : α) (m : SMap α) (k : Nat) (v : α) (j : Nat) : mget d (mputAny m k v) j = if j = k then v else mget d m j := by
  rw [mputAny, mget_mins _ _ _ _ _ (mdel_ne k m), mget_mdel]
  split <;> rfl

theorem find?_getD_eq_mget {α : Type} (d : α) (m : SMap α) (k : Nat) : ((m.find? fun e => decide (e.1 = k)).map (·.2)).getD d = mget d m k := by
  induction m with
  | nil => rfl
  | cons e m ih => by_cases he : e.1 = k <;> simp [mget, he, ih]

/-- What is not listed is read from what lies below, however often. -/
theorem mget_mget {α : Type} (d : α) (m : SMap α) (k : Nat) : mget (mget d m k) m k = mget d m k := by
  induction m with
  | nil => rfl
  | cons e m ih => by_cases he : e.1 = k <;> simp [mget, he, ih]

theorem mget_eq_of_not_mem {α : Type} {d : α} {m : SMap α} {k : Nat} (h : ∀ e ∈ m, e.1 ≠ k) : mget d m k = d := by
  induction m with
  | nil => rfl
  | cons e m ih =>
    rw [List.forall_mem_cons] at h
    rw [mget, if_neg h.1, ih h.2]

theorem setBytes_eq_putRange (m : List Host.Cell) (key : Nat) (l : List Byte) : setBytes m key l = putRange 0#8 m key l := by
  induction l generalizing m key with
  | nil => rfl
  | cons b l ih => exact ih _ _

/-- The bytes `new` of a word at `key` written over those listed. -/
def putWord (key n : Nat) (new : List Byte) (m : SMap Byte) : SMap Byte := (List.range n).foldl (fun m i => mputAny m (key + i) (new.getD i 0#8)) m

theorem mget_putWord {d : Byte} (new : List Byte) (key n : Nat) (m : SMap Byte) (a : Nat) :
    mget d (putWord key n new m) a = if key ≤ a ∧ a < key + n then new.getD (a - key) 0#8 else mget d m a := by
  unfold putWord
  induction n with
  | zero => rw [if_neg (by omega)]; rfl
  | succ n ih =>
    rw [List.range_succ, List.foldl_append, List.foldl_cons, List.foldl_nil, mget_mputAny, ih]
    by_cases ha : a = key + n
    · rw [if_pos ha, if_pos (by omega), ha, Nat.add_sub_cancel_left]
    · rw [if_neg ha]
      exact if_congr (by omega) rfl rfl

/-! ### The lanes in order -/

/-- The bytes that a lane finds from `key` on: those listed, and below them what the homes hold last. -/
def foundBytes (s : State) (m : SMap Byte) (key n : Nat) : List Byte := (List.range n).map fun j => mget (finalByte s (key + j)) m (key + j)

theorem ofBytes_foundBytes_lt (s : State) (m : SMap Byte) (key n : Nat) : ofBytes (foundBytes s m key n) < 2 ^ (8 * n) := by
  have := ofBytes_lt (foundBytes s m key n)
  rwa [foundBytes, List.length_map, List.length_range, pow_256] at this

/-- A run of lanes whose first finds these bytes. -/
def runFrom (s : State) (aop n : Nat) (x : AtLane) (key : Nat) (l : List (AtLane × Nat)) (m : SMap Byte) (found : List Byte) : List (Nat × Nat) × SMap Byte :=
  let r := atomicRun s aop n l (putWord key n (toBytes n (atomicOp aop n (ofBytes found) x.data x.cmp)) m)
  ((x.lane, ofBytes found) :: r.1, r.2)

theorem atomicRun_cons (s : State) (aop n : Nat) (x : AtLane) (key : Nat) (l : List (AtLane × Nat)) (m : SMap Byte) :
    atomicRun s aop n ((x, key) :: l) m = runFrom s aop n x key l m (foundBytes s m key n) := by
  refine congrArg (runFrom s aop n x key l m) (List.map_congr_left fun i _ => ?_)
  rw [← find?_getD_eq_mget]
  cases m.find? fun e => decide (e.1 = key + i) <;> rfl

/-- The machine's lanes of an atomic are the statements': the old values, and the bytes listed over those the homes hold last. -/
theorem runAtomics_eq (s : State) (aop n : Nat) (l : List (AtLane × Nat)) (m : SMap Byte) (hd : ∀ y ∈ l, y.1.data < 2 ^ (8 * n)) :
    runAtomics aop n (l.map fun y => (y.1.lane, y.2, y.1.data, y.1.cmp)) (fun a => mget (finalByte s a) m a) =
      ((atomicRun s aop n l m).1, fun a => mget (finalByte s a) (atomicRun s aop n l m).2 a) := by
  induction l generalizing m with
  | nil => rfl
  | cons y l ih =>
    obtain ⟨x, key⟩ := y
    rw [List.forall_mem_cons] at hd
    obtain ⟨hx, hl⟩ := hd
    have hrest := ih (putWord key n (toBytes n (atomicOp aop n (ofBytes (foundBytes s m key n)) x.data x.cmp)) m) hl
    rw [funext fun a => mget_putWord (d := finalByte s a) _ key n m a, atomicOp_eq_atomicNew (ofBytes_foundBytes_lt s m key n) hx,
      ← littleEndian_eq_toBytes] at hrest
    rw [atomicRun_cons, runFrom, atomicOp_eq_atomicNew (ofBytes_foundBytes_lt s m key n) hx, ← littleEndian_eq_toBytes, List.map_cons, runAtomics]
    exact congrArg (fun r : List (Nat × Nat) × (Nat → Byte) => ((x.lane, ofBytes (foundBytes s m key n)) :: r.1, r.2)) hrest

/-! ### A home that accepts a store -/

theorem pendingByte_append (sees : Store → Bool) (key : Nat) (l : List Store) (st : Store) (h : sees st = true) :
    pendingByte sees key (l ++ [st]) = (((st.cells.find? fun c => decide (c.1 = key)).map (·.2)).or (pendingByte sees key l)) := by
  induction l with
  | nil => simp [pendingByte, h]
  | cons x l ih =>
    rw [List.cons_append, pendingByte, ih, pendingByte]
    cases (st.cells.find? fun c => decide (c.1 = key)).map (·.2) <;> rfl

/-- The counts of writes are all that an acceptance changes in memory (01 R21, R39). -/
theorem countWrites_results (line : Nat) (s : State) :
    ∃ mem, countWrites line s = { s with hm := { s.hm with mem := mem } } ∧ ∀ key, ¬ countedAt s key → mget 0#8 mem key = memByte s key := by
  refine List.foldlRecOn (motive := fun t => ∃ mem, t = { s with hm := { s.hm with mem := mem } } ∧ ∀ key, ¬ countedAt s key → mget 0#8 mem key = memByte s key)
    _ _ ⟨s.hm.mem, rfl, fun _ _ => rfl⟩ ?_
  rintro _ ⟨mem, rfl, hmem⟩ m hm
  split
  · next hc =>
    refine ⟨_, rfl, fun key hkey => ?_⟩
    obtain ⟨-, hver, -⟩ := hc
    rw [setBytes_eq_putRange, mget_putRange, toBytes_length, if_neg, hmem key hkey]
    exact fun hin => hkey ⟨m, hm, hver, by omega⟩
  · exact ⟨mem, rfl, hmem⟩

/-- The home with a store that it accepts and the completion time it gives, before it counts the write. -/
def received (st : Store) (s : State) : State :=
  let c := completion s st.line
  { s with hm := { s.hm with
      timed := s.hm.timed ++ [{ st with c := c }], lineC := mset 0 s.hm.lineC st.line c,
      tlb := s.hm.tlb.map fun e => if e.cluster = clusterOf st.core ∧ e.ctx = st.ctx ∧ keyIn e.leaf (64 * st.line) then { e with done := max e.done c } else e } }

theorem homeAccept_frame (st : Store) (s : State) :
    (homeAccept st s).hm = (l2Access st.first st.line (countWrites st.line (received st s))).hm ∧
      (homeAccept st s).xl = (l2Access st.first st.line (countWrites st.line (received st s))).xl := by
  rw [homeAccept]
  constructor <;> split <;> split <;> rfl

/-- A store that its home accepts is the last of its bytes there; no other byte changes but the counts of writes. -/
theorem homeAccept_results (st : Store) (s : State) :
    (homeAccept st s).xl = s.xl ∧ ∀ key, ¬ countedAt s key →
      finalByte (homeAccept st s) key = ((st.cells.find? fun c => decide (c.1 = key)).map (·.2)).getD (finalByte s key) := by
  obtain ⟨hhm, hxl⟩ := homeAccept_frame st s
  obtain ⟨mem, hcount, hkeep⟩ := countWrites_results st.line (received st s)
  obtain ⟨⟨_, _, _, _, _, _, _, hl2⟩, -⟩ := l2Access_cachesOnly st.first st.line (countWrites st.line (received st s))
  rw [hl2, hcount] at hhm hxl
  refine ⟨hxl, fun key hkey => ?_⟩
  have hbyte : mget 0#8 mem key = memByte s key := hkeep key hkey
  rw [finalByte, memByte, hhm]
  dsimp only
  rw [hbyte, received, pendingByte_append _ _ _ _ rfl, finalByte, Option.getD_or]

/-! ### One store per line -/

theorem mem_quotients {d q : Nat} {cells : List (Nat × Byte)} : q ∈ quotients d cells ↔ ∃ c ∈ cells, c.1 / d = q := by
  have hfold : ∀ l : List Nat, q ∈ cells.foldl (fun l c => if l.contains (c.1 / d) then l else l ++ [c.1 / d]) l ↔ q ∈ l ∨ ∃ c ∈ cells, c.1 / d = q := by
    induction cells with
    | nil => simp
    | cons c cells ih =>
      intro l
      rw [List.foldl_cons, ih]
      split <;> simp_all [or_assoc, eq_comm]
      grind
  simpa [quotients] using hfold []

end Sys2Proof.Proofs
end

section
/-! PROOFS. Atomics on words of memory: performed at their homes, or set out to them (10 R287, 04 R105, R106, R118, 17 R437). -/
namespace Sys2Proof.Proofs
open Sys2Proof Sys2Proof.Machine Sys2Proof.Laws Sys2Proof.Claims

/-! ### The bytes of an atomic are accepted -/

theorem find?_filter_line (m : SMap Byte) (line key : Nat) :
    ((m.filter fun c => decide (c.1 / 64 = line)).find? fun c => decide (c.1 = key)) =
      if key / 64 = line then m.find? fun c => decide (c.1 = key) else none := by
  rw [List.find?_filter]
  split
  · next h => exact List.find?_congr fun c _ => by grind
  · next h => exact List.find?_eq_none.mpr fun c _ => by grind

/-- One line's bytes as a store of the skein. -/
def lineStore (first : Bool) (m : SMap Byte) (s : State) (line : Nat) : Store :=
  { sn := s.seqNo, uid := s.k.uid, cuid := s.crew.uid, core := s.crew.core, ctx := s.crew.ctx, remote := keyDev (64 * line), line := line,
    cells := m.filter (fun c => decide (c.1 / 64 = line)), first := first }

/-- What `acceptAtomics` does for one line. -/
def acceptLine (first : Bool) (m : SMap Byte) (s : State) (line : Nat) : State := homeAccept (lineStore first m s line) { s with seqNo := s.seqNo + 1 }

theorem acceptLine_results (first : Bool) (m : SMap Byte) (s : State) (line : Nat) :
    (acceptLine first m s line).xl = s.xl ∧ ∀ key, ¬ countedAt s key →
      finalByte (acceptLine first m s line) key = if key / 64 = line then mget (finalByte s key) m key else finalByte s key := by
  obtain ⟨hxl, hbyte⟩ := homeAccept_results (lineStore first m s line) { s with seqNo := s.seqNo + 1 }
  refine ⟨hxl, fun key hkey => (hbyte key hkey).trans ?_⟩
  rw [lineStore, find?_filter_line, ← find?_getD_eq_mget]
  split <;> rfl

theorem acceptLines_results (first : Bool) (m : SMap Byte) (lines : List Nat) (s : State) (key : Nat) (hkey : ¬ countedAt s key) :
    finalByte (lines.foldl (acceptLine first m) s) key = if key / 64 ∈ lines then mget (finalByte s key) m key else finalByte s key := by
  induction lines generalizing s with
  | nil => simp
  | cons line lines ih =>
    obtain ⟨hxl, hbyte⟩ := acceptLine_results first m s line
    rw [List.foldl_cons, ih _ (by rwa [countedAt, hxl]), hbyte key hkey]
    by_cases hline : key / 64 = line
    · simp [hline, mget_mget]
    · simp [hline]

/-- An atomic's bytes are what their homes hold last, whatever the number of lines that they lie in. -/
theorem acceptAtomics_results (first : Bool) (m : SMap Byte) (s : State) (key : Nat) (hkey : ¬ countedAt s key) :
    finalByte (acceptAtomics first m s) key = mget (finalByte s key) m key := by
  have hlines : acceptAtomics first m s = (quotients 64 m).foldl (acceptLine first m) s := rfl
  rw [hlines, acceptLines_results first m _ s key hkey]
  split
  · rfl
  · next hout => exact (mget_eq_of_not_mem fun e he hk => hout (mem_quotients.mpr ⟨e, he, hk ▸ rfl⟩)).symm

/-! ### The accesses of an atomic -/

/-- The lanes of an atomic with the home addresses of their words. -/
def homeWords (lanes : List AtLane) (r : List LaneAcc) : List (AtLane × Nat) := (lanes.zip r).map fun y => (y.1, atKey y.2)

theorem performParkedOn_of_none {vas : List Nat} {s : State}
    (h : ∀ va ∈ vas, ∀ p ∈ s.hm.parked, p.ctx = s.crew.ctx → va < p.page ∨ p.page + p.size ≤ va) : performParkedOn vas s = s := by
  have hnone : (s.hm.parked.filter fun p => decide (p.ctx = s.crew.ctx) && vas.any fun va => decide (p.page ≤ va) && decide (va < p.page + p.size)) = [] := by
    refine List.filter_eq_nil_iff.mpr fun p hp => ?_
    simp only [Bool.and_eq_true, decide_eq_true_eq, List.any_eq_true, not_and, not_exists]
    intro hctx va hva hge hlt
    have := h va hva p hp hctx
    omega
  rw [performParkedOn, hnone, List.foldl_nil]

theorem deliverLine_of_none {uid line : Nat} {s : State} (h : ∀ st ∈ s.hm.inflight, st.uid = uid → st.line ≠ line) : deliverLine uid line s = s := by
  have hnone : (s.hm.inflight.filter fun st => decide (st.uid = uid) && decide (st.line = line)) = [] :=
    List.filter_eq_nil_iff.mpr fun st hst => by simpa using h st hst
  rw [deliverLine, hnone, List.foldl_nil]

theorem deliverLines_of_none {α : Type} {f : α → Nat} {l : List α} {s : State}
    (h : ∀ y ∈ l, ∀ st ∈ s.hm.inflight, st.uid = s.k.uid → st.line ≠ f y) : l.foldl (fun t y => deliverLine t.k.uid (f y) t) s = s := by
  induction l with
  | nil => rfl
  | cons y l ih =>
    rw [List.forall_mem_cons] at h
    rw [List.foldl_cons, deliverLine_of_none h.1, ih h.2]

theorem absentAt_of_mem_zip {lanes : List AtLane} {r : List LaneAcc} (h : ∀ a ∈ r, absentAt a = none) {y : AtLane × LaneAcc} (hy : y ∈ lanes.zip r) :
    absentAt y.2 = none := h _ (List.of_mem_zip hy).2

/-- The state after the bytes `m` of an atomic have been accepted: the skein notes their completion time (04 R116, R117). -/
def accepted (acq : Bool) (pol : Nat) (lanes : List AtLane) (r : List LaneAcc) (m : SMap Byte) (v : State) : State :=
  let t := acceptAtomics (nbit pol 1 || r.any fun a => a.spans.any fun sp => nbit sp.leaf.cpol 1) m v
  let c := lastC m t
  { t with k := if lanes.isEmpty then t.k else { t.k with lastRead := max t.k.lastRead c, floor := if acq then max t.k.floor c else t.k.floor },
           free := t.free + 1 }

theorem finalByte_accepted (acq : Bool) (pol : Nat) (lanes : List AtLane) (r : List LaneAcc) (m : SMap Byte) (v : State) (key : Nat)
    (hkey : ¬ countedAt v key) : finalByte (accepted acq pol lanes r m v) key = mget (finalByte v key) m key :=
  acceptAtomics_results _ m v key hkey

/-- An atomic whose accesses pass, outside the merge ranges, behind no parked store and no store on its way: once it has set out, its lanes are
performed in order, and their bytes accepted. -/
theorem atomicLanes_eq {aop n pol : Nat} {acq : Bool} {lanes : List AtLane} {s v : State} {r : List LaneAcc} (hn : 0 < n)
    (hres : resolve .atomic false (if flightStage s = 2 then none else some 3) n (lanes.map fun x => (x.lane, x.va)) s = .ok (r, v))
    (habs : ∀ a ∈ r, absentAt a = none) (hbad : ∀ a ∈ r, badWord s a = none) (hheld : ∀ a ∈ r, heldPage s (atKey a) = false)
    (hmerge : ∀ x ∈ lanes, ∀ j < n, inMerge s.crew (x.va + j) = false)
    (hpark : ∀ x ∈ lanes, ∀ p ∈ s.hm.parked, p.ctx = s.crew.ctx → x.va < p.page ∨ p.page + p.size ≤ x.va)
    (hfly : ∀ a ∈ r, ∀ st ∈ s.hm.inflight, st.uid = s.k.uid → st.line ≠ atKey a / 64) :
    let run := atomicRun v aop n (homeWords lanes r) []
    atomicLanes aop n acq lanes s pol =
      setOut ((homeWords lanes r).map fun y => (y.1.va, y.2)) s >>= fun _ => .ok (run.1, accepted acq pol lanes r run.2 v) := by
  have hhit : (lanes.filter fun x => (List.range n).any fun i => inMerge s.crew (x.va + i)) = [] :=
    List.filter_eq_nil_iff.mpr fun x hx => by simpa using hmerge x hx
  have hlost : ((lanes.zip r).filter fun y => (absentAt y.2).isSome) = [] :=
    List.filter_eq_nil_iff.mpr fun y hy => by simp [absentAt_of_mem_zip habs hy]
  have hpairs : ((lanes.zip r).filter fun y => (absentAt y.2).isNone) = lanes.zip r :=
    List.filter_eq_self.mpr fun y hy => by simp [absentAt_of_mem_zip habs hy]
  have hout : ∀ y ∈ lanes.zip r, inMerge s.crew y.1.va = false := fun y hy => hmerge _ (List.of_mem_zip hy).1 0 hn
  have hpatch : ((lanes.zip r).filter fun y => inMerge s.crew y.1.va) = [] := List.filter_eq_nil_iff.mpr fun y hy => by simp [hout y hy]
  have htodo : ((lanes.zip r).filter fun y => !inMerge s.crew y.1.va) = lanes.zip r := List.filter_eq_self.mpr fun y hy => by simp [hout y hy]
  have hword : ∀ y ∈ homeWords lanes r, y.1 ∈ lanes ∧ ∃ a ∈ r, atKey a = y.2 := by
    intro y hy
    obtain ⟨z, hz, rfl⟩ := List.mem_map.mp hy
    exact ⟨(List.of_mem_zip hz).1, z.2, (List.of_mem_zip hz).2, rfl⟩
  have hfree : (homeWords lanes r).any (fun y => heldPage s y.2) = false := by
    refine List.any_eq_false.mpr fun y hy => ?_
    obtain ⟨-, a, ha, hkey⟩ := hword y hy
    simp [← hkey, hheld a ha]
  have hsame : v.hm.parked = s.hm.parked ∧ v.hm.inflight = s.hm.inflight ∧ v.crew = s.crew ∧ v.k = s.k := by
    obtain ⟨_, rfl⟩ := resolve_tlbsOnly hres
    exact ⟨rfl, rfl, rfl, rfl⟩
  obtain ⟨hvpark, hvfly, hvcrew, hvk⟩ := hsame
  have hperform : performParkedOn ((homeWords lanes r).map (·.1.va)) v = v := by
    refine performParkedOn_of_none fun va hva p hp hctx => ?_
    obtain ⟨y, hy, rfl⟩ := List.mem_map.mp hva
    exact hpark _ (hword y hy).1 p (hvpark ▸ hp) (hvcrew ▸ hctx)
  have hdeliver : (homeWords lanes r).foldl (fun t y => deliverLine t.k.uid (lineOf y.2) t) v = v := by
    refine deliverLines_of_none fun y hy st hst huid => ?_
    obtain ⟨-, a, ha, hkey⟩ := hword y hy
    exact hkey ▸ hfly a ha st (hvfly ▸ hst) (hvk ▸ huid)
  rw [homeWords] at hfree hperform hdeliver ⊢
  rw [atomicLanes, bind_of_eq_ok _ hres]
  dsimp only
  rw [hhit, ite_self]
  dsimp only
  rw [badTrap_eq_none hbad]
  dsimp only
  rw [hpairs, hpatch, htodo, hlost]
  have hover : overflowTrap v.crew [] = none := rfl
  simp only [List.map_nil, hover, hfree, List.foldl_nil, List.nil_append, List.append_nil, List.isEmpty_nil, if_true, Nat.max_zero, hperform, hdeliver,
    Bool.false_eq_true, if_false]
  rfl

end Sys2Proof.Proofs
end

section
/-! PROOFS. The statement about atomics (10 R286, R287, 04 R105, R106, R118, 17 R437). -/
namespace Sys2Proof.Proofs
open Sys2Proof Sys2Proof.Machine Sys2Proof.Laws Sys2Proof.Claims

/-! ### Words at other parts -/

theorem length_of_resolve {acc : Acc} {by1 : Bool} {absCause : Option Nat} {n : Nat} {lanes : List (Nat × Nat)} {s u : State} {r : List LaneAcc}
    (h : resolve acc by1 absCause n lanes s = .ok (r, u)) : r.length = lanes.length :=
  (checkLanes_laneOf (resolve_eq_ok h).1).length_eq

/-- Every home word of an atomic lies here exactly when it has no far word. -/
theorem farWords_homeWords {lanes : List AtLane} {r : List LaneAcc} (h : r.length = lanes.length) :
    farWords ((homeWords lanes r).map fun y => (y.1.va, y.2)) = [] ↔ ∀ a ∈ r, keyDev (atKey a) = none := by
  have hzip : (lanes.zip r).map Prod.snd = r := List.map_snd_zip h.le
  simp only [farWords, List.filterMap_eq_nil_iff, homeWords, List.map_map, List.mem_map, Option.map_eq_none_iff]
  constructor
  · intro hall a ha
    rw [← hzip] at ha
    obtain ⟨y, hy, rfl⟩ := List.mem_map.mp ha
    exact hall _ ⟨y, hy, rfl⟩
  · rintro hall _ ⟨y, hy, rfl⟩
    exact hall _ (List.of_mem_zip hy).2

/-- The lanes of an atomic as the statements run them, on the bytes that the homes hold last. -/
theorem runAtomics_homeWords {aop n : Nat} {lanes : List AtLane} {r : List LaneAcc} {s v : State} (hv : TlbsOnly s v)
    (hd : ∀ x ∈ lanes, x.data < 2 ^ (8 * n)) :
    runAtomics aop n ((lanes.zip r).map fun y => (y.1.lane, atKey y.2, y.1.data, y.1.cmp)) (finalByte s) =
      ((atomicRun v aop n (homeWords lanes r) []).1, fun a => mget (finalByte v a) (atomicRun v aop n (homeWords lanes r) []).2 a) := by
  have hrun := runAtomics_eq v aop n (homeWords lanes r) [] fun y hy => by
    obtain ⟨z, hz, rfl⟩ := List.mem_map.mp hy
    exact hd _ (List.of_mem_zip hz).1
  rw [← hrun, homeWords, List.map_map]
  obtain ⟨_, rfl⟩ := hv
  rfl

/-! ### The statement -/

/-- Settles O20: the instructions write what their lanes return, and the lanes are `runAtomics` on the bytes their homes hold last. -/
theorem atomicResults : Obligations.AtomicResults := by
  unfold Obligations.AtomicResults
  refine ⟨fun i row s u old _ hrow hp hrel hat => ⟨?_, ?_⟩, fun aop n acq lanes s v pol r hn hdata hres hr hlanes hfly => ?_⟩
  · rintro x g d a b z rfl
    refine ⟨_, (exec_vatom hrow hp hrel hat).trans (by rw [putOld_frame]), fun hw => ?_, fun hw => ?_⟩
    · rw [putOld, if_neg (by simp [hw])]
      exact lanesWritten_wrV _ _ _ _
    · rw [putOld, if_pos hw]
      exact pairsWritten_wrV2 _ _ _ _
  · rintro x d a b o w z rfl
    exact exec_gatom hrow hp hrel hat
  · have hpos : 0 < n := by omega
    have htlbs := resolve_tlbsOnly hres
    have heq := atomicLanes_eq (aop := aop) (pol := pol) (acq := acq) hpos hres (fun a ha => (hr a ha).1) (fun a ha => (hr a ha).2.1)
      (fun a ha => (hr a ha).2.2) (fun x hx j hj => (hlanes x hx j hj).1) (fun x hx => (hlanes x hx 0 hpos).2) hfly
    have hfar := farWords_homeWords (by simpa using length_of_resolve hres)
    refine ⟨fun hgo => ?_, fun ⟨a, ha, hdev⟩ hstage => ?_⟩
    · have hxl : v.xl = s.xl := by
        obtain ⟨_, rfl⟩ := htlbs
        rfl
      rw [runAtomics_homeWords htlbs fun x hx => (hdata x hx).1]
      rw [setOut, if_pos (hgo.imp_left hfar.mpr)] at heq
      exact ⟨_, heq, fun key hkey => finalByte_accepted _ _ _ _ _ _ _ (by rwa [countedAt, hxl])⟩
    · rw [setOut, if_neg (by simpa [hfar, hstage] using ⟨a, ha, hdev⟩)] at heq
      exact ⟨_, heq, _, rfl, rfl, rfl⟩

end Sys2Proof.Proofs
end

section
/-! PROOFS. Entry to the trap handler (16 R411, R416, R417). -/
namespace Sys2Proof.Proofs
open Sys2Proof Sys2Proof.Machine Sys2Proof.Laws Sys2Proof.Claims

/-! ### Cells that hold a run of bytes -/

/-- The cells of bytes from `key` on: the first cell of an address holds the byte that stands there. -/
theorem find?_runCells {l : List Byte} {n i : Nat} (key : Nat) (hl : l.length = n) (hi : i < n) :
    (((List.range n).zip l).map fun c => (key + c.1, c.2)).find? (fun c => decide (c.1 = key + i)) = some (key + i, l.getD i 0#8) := by
  rw [List.find?_eq_some_iff_getElem]
  refine ⟨decide_eq_true rfl, i, by simpa [hl] using hi, ?_, fun j hj => ?_⟩
  · simp [hl, hi]
  · simp
    omega

/-! ### A skein whose store is sent -/

/-- `k'` is `k` but for the horizons of its stores and the hold that a fault record's completion time ends (04 R114, 16 R417). -/
def HorizonsOnly (k k' : Skein) : Prop :=
  ∃ hCrew hDevice hFabric hCluster hold holdOn,
    k' = { k with hCrew := hCrew, hDevice := hDevice, hFabric := hFabric, hCluster := hCluster, hold := hold, holdOn := holdOn }

theorem HorizonsOnly.refl (k : Skein) : HorizonsOnly k k := ⟨_, _, _, _, _, _, rfl⟩

theorem endRecord_raiseHorizons_horizonsOnly (st : Store) (c : Nat) (fused : Bool) (d cc : Nat) (k : Skein) :
    HorizonsOnly k (endRecord st c (raiseHorizons fused c d cc k)) := by
  unfold endRecord
  split <;> exact ⟨_, _, _, _, _, _, rfl⟩

theorem modSkeinAll_horizonsOnly {f : Skein → Skein} (hf : ∀ k, HorizonsOnly k (f k)) (uid : Nat) (s : State) :
    HorizonsOnly s.k (modSkeinAll uid f s).k := by
  rw [modSkeinAll, modSkein]
  dsimp only
  split
  · exact hf s.k
  · exact .refl _

theorem homeAccept_horizonsOnly (st : Store) (s : State) : HorizonsOnly s.k (homeAccept st s).k := by
  obtain ⟨_, hcount, -⟩ := countWrites_results st.line (received st s)
  have hk : (l2Access st.first st.line (countWrites st.line (received st s))).k = s.k := by
    rw [(l2Access_cachesOnly _ _ _).k_eq, hcount, received]
  have hown : HorizonsOnly s.k (l2Access st.first st.line (countWrites st.line (received st s))).k := hk ▸ .refl _
  have hraised {f : Skein → Skein} (hf : ∀ k, HorizonsOnly k (f k)) :
      HorizonsOnly s.k (modSkeinAll st.uid f (l2Access st.first st.line (countWrites st.line (received st s)))).k :=
    hk ▸ modSkeinAll_horizonsOnly hf _ _
  rw [homeAccept]
  split <;> split
  · exact hown
  · exact hraised (endRecord_raiseHorizons_horizonsOnly _ _ _ _ _)
  · exact hown
  · exact hraised (endRecord_raiseHorizons_horizonsOnly _ _ _ _ _)

theorem sendStore_horizonsOnly (st : Store) (s : State) : HorizonsOnly s.k (sendStore st s).k := by
  unfold sendStore
  split
  · exact .refl _
  · exact homeAccept_horizonsOnly st s

/-! ### Where a store stands after it is sent -/

theorem homeAccept_timed (st : Store) (s : State) : (homeAccept st s).hm.timed = s.hm.timed ++ [{ st with c := completion s st.line }] := by
  obtain ⟨_, hcount, -⟩ := countWrites_results st.line (received st s)
  obtain ⟨⟨_, _, _, _, _, _, _, hl2⟩, -⟩ := l2Access_cachesOnly st.first st.line (countWrites st.line (received st s))
  rw [(homeAccept_frame st s).1, hl2, hcount, received]

/-- A byte of a store that its home accepts is the last at its home, even where the home counts the write. -/
theorem finalByte_homeAccept_of_cell {st : Store} {key a : Nat} {b : Byte} (s : State)
    (hc : st.cells.find? (fun c => decide (c.1 = key)) = some (a, b)) : finalByte (homeAccept st s) key = b := by
  rw [finalByte, homeAccept_timed, pendingByte_append _ _ _ _ rfl, hc]
  rfl

/-- A store that is sent is accepted or on its way, with all it was sent with but its completion time. -/
theorem mem_sendStore (st : Store) (s : State) : ∃ c, { st with c := c } ∈ (sendStore st s).hm.timed ++ (sendStore st s).hm.inflight := by
  unfold sendStore
  split
  · exact ⟨st.c, by simp [modHm]⟩
  · exact ⟨completion s st.line, by simp [homeAccept_timed]⟩

/-- A home here or at another part of the set accepts a store at once, unless it holds the page or an earlier store to the line is on its way. -/
theorem sendStore_eq_homeAccept {st : Store} {s : State} (hhost : st.remote ≠ some 255) (hheld : heldPage s (64 * st.line) = false)
    (hfirst : ∀ x ∈ s.hm.inflight, x.uid = st.uid → x.line ≠ st.line) : sendStore st s = homeAccept st s := by
  rw [sendStore, if_neg]
  simpa [hhost, hheld] using hfirst

/-! ### The trap -/

/-- The low two bits cleared. -/
theorem toNat_clearLow2 (x : Word64) : (x &&& ~~~3#64).toNat = x.toNat / 4 * 4 := by
  have hshift : x &&& ~~~3#64 = (x >>> 2) <<< 2 := by
    ext i hi
    have hmask : (3#64)[i] = decide (i < 2) := by
      rw [BitVec.getElem_eq_testBit_toNat]
      exact Nat.testBit_two_pow_sub_one 2 i
    rw [BitVec.getElem_and, BitVec.getElem_not, hmask, BitVec.getElem_shiftLeft]
    by_cases hlow : i < 2
    · simp [hlow]
    · simp [hlow, Nat.add_sub_cancel' (not_lt.mp hlow), hi]
  rw [hshift, BitVec.toNat_shiftLeft, BitVec.toNat_ushiftRight, Nat.shiftLeft_eq, Nat.shiftRight_eq_div_pow]
  omega

theorem recordBytes_length (pair fatal : Bool) (t : TrapInfo) (s : State) : (recordBytes pair fatal t s).length = 64 := by
  simp [recordBytes]

/-- An uncorrectable error is counted in ERRCNT, and nothing else changes (05 R141). -/
theorem ite_countUncorr_eq_with_preg (c : Prop) [Decidable c] (n : Nat) (s : State) :
    ∃ p, (if c then countUncorr n s else s) = { s with preg := p } ∧ ∀ j, j ≠ 0x21 → preg { s with preg := p } j = preg s j := by
  split
  · exact ⟨_, rfl, fun j hj => preg_setPreg_of_ne _ s hj⟩
  · exact ⟨_, rfl, fun _ _ => rfl⟩

theorem ctxReg_ne_errcnt (c f : Nat) : ctxReg c f ≠ 0x21 := by
  unfold ctxReg
  omega

/-- The fault record as a store of the skein. -/
def recordStore (b : List Byte) (key : Nat) (s : State) : Store :=
  { sn := s.seqNo, uid := s.k.uid, cuid := s.crew.uid, core := s.crew.core, ctx := s.crew.ctx, remote := keyDev key, line := lineOf key,
    cells := ((List.range 64).zip b).map fun c => (key + c.1, c.2), va := recordAddr s, pc := s.k.epc, sid := s.k.sid }

theorem storeRecord_eq (b : List Byte) (key : Nat) (s : State) : storeRecord b key s = sendStore (recordStore b key s) { s with seqNo := s.seqNo + 1 } := rfl

/-- The skein at the handler, but for what its record's store raises. -/
theorem enterHandler_horizonsOnly (pair : Bool) (t : TrapInfo) (key : Nat) (s : State) :
    HorizonsOnly (standAtHandler s.seqNo t s).k (enterHandler pair t key s).k := sendStore_horizonsOnly _ _

theorem enterHandler_record (pair : Bool) (t : TrapInfo) (key : Nat) (s : State) :
    ∃ st ∈ (enterHandler pair t key s).hm.timed ++ (enterHandler pair t key s).hm.inflight, st.uid = s.k.uid ∧ st.line = key / 64 ∧
      ∀ i < 64, (key + i, (recordBytes pair false t s).getD i 0#8) ∈ st.cells := by
  rw [enterHandler, storeRecord_eq]
  obtain ⟨c, hc⟩ := mem_sendStore (recordStore (recordBytes pair false t s) key (standAtHandler s.seqNo t s)) _
  refine ⟨_, hc, rfl, rfl, fun i hi => ?_⟩
  have hcell := find?_runCells key (recordBytes_length pair false t s) hi
  exact List.mem_of_find?_eq_some hcell

theorem enterHandler_finalByte {pair : Bool} {t : TrapInfo} {key : Nat} {s : State} (hhost : keyDev key ≠ some 255)
    (hheld : heldPage s (64 * (key / 64)) = false) (hfirst : ∀ x ∈ s.hm.inflight, x.uid = s.k.uid → x.line ≠ key / 64) {i : Nat} (hi : i < 64) :
    finalByte (enterHandler pair t key s) (key + i) = (recordBytes pair false t s).getD i 0#8 := by
  rw [enterHandler, storeRecord_eq, sendStore_eq_homeAccept hhost hheld hfirst]
  exact finalByte_homeAccept_of_cell _ (find?_runCells key (recordBytes_length pair false t s) hi)

/-- A trap that is not fatal enters the handler. -/
theorem takeTrap_eq_enterHandler {pair : Bool} {t : TrapInfo} {key : Nat} {s v : State} (hv : (if t.code = 17 then countUncorr 1 s else s) = v)
    (hf : isFatal t v = false) (hk : recordKey v = some key) : takeTrap pair t s = enterHandler pair t key v := by
  rw [takeTrap, hv]
  simp only [hf, hk, Bool.false_eq_true, if_false]

/-- Settles O55: the handler is entered past the count of the error, which no other register shows; the record is a store of the skein. -/
theorem trapEntersHandler : Obligations.TrapEntersHandler := by
  unfold Obligations.TrapEntersHandler
  intro pair t key s
  obtain ⟨p, hv, hp⟩ := ite_countUncorr_eq_with_preg (t.code = 17) 1 s
  dsimp only
  rw [hv]
  intro hf hk
  have hhand : ctxHand { s with preg := p } s.crew.ctx = ctxHand s s.crew.ctx := hp _ (ctxReg_ne_errcnt _ _)
  have haddr : recordAddr { s with preg := p } = recordAddr s := by
    rw [recordAddr, ctxTrap, hp _ (ctxReg_ne_errcnt _ _)]
    rfl
  rw [takeTrap_eq_enterHandler hv hf hk]
  obtain ⟨_, _, _, _, _, _, hu⟩ := enterHandler_horizonsOnly pair t key { s with preg := p }
  rw [hu]
  exact ⟨rfl, (toNat_clearLow2 _).trans (by rw [hhand]), rfl, rfl, rfl, rfl, rfl, rfl, toNat_clearLow2 _, congrArg w64 haddr,
    rfl, rfl, rfl, rfl, rfl, rfl, rfl, enterHandler_record pair t key { s with preg := p },
    fun hhost hheld hfirst i hi => enterHandler_finalByte (s := { s with preg := p }) hhost hheld hfirst hi⟩

end Sys2Proof.Proofs
end

section
/-! PROOFS. How copies start (10 R292 to R303, 05 R136, 07 R211). -/
namespace Sys2Proof.Proofs
open Sys2Proof Sys2Proof.Machine Sys2Proof.Laws Sys2Proof.Claims

/-! ### The modes of cpy -/

theorem nb_low (w n : Nat) : nb w n 0 = w % 2 ^ (n + 1) := by rw [nb, pow_zero, Nat.div_one, Nat.sub_zero]

theorem lenOf_eq (p : Nat) : lenOf p = p % 2 ^ 32 := nb_low p 31

/-- The common front of the copies with a mode's own checks and what it captures. -/
def runCopy (m : CopyMode) (s : State) : Out := cpyIssue m.mode m.ok m.capture m.fields.1 m.fields.2.1 m.fields.2.2.1 m.fields.2.2.2 s

/-- A copy of any mode is the common front, behind the check for a cluster where the mode names crews of one. -/
theorem exec_copy {i : Instr} {m : CopyMode} (s : State) (h : copyMode i = some m) :
    exec i s = if m.cluster then clusterForm (runCopy m) m.fields.2.2.1 s else runCopy m s := by
  cases i with
  | cpyLin =>
    cases h
    simp only [exec, execCpyLin, lenOf_eq]
    rfl
  | cpyMcast =>
    cases h
    simp only [exec, execCpyMcast, lenOf_eq]
    rfl
  | cpyDec =>
    cases h
    simp only [exec, execCpyDec, nb_low]
    rfl
  | cpyPut =>
    cases h
    simp only [exec, execCpyPut, lenOf_eq]
    rfl
  | cpyGet =>
    cases h
    simp only [exec, execCpyGet, lenOf_eq]
    rfl
  | cpyShape | cpyGather | cpyScatter | cpyRadd | cpyDeq | cpyPack | cpyUnpack | cpySig =>
    cases h
    rfl
  | _ => cases h

/-- Past the check for a cluster, or without one, a copy is the common front. -/
theorem exec_copy_eq_runCopy {i : Instr} {m : CopyMode} {s : State} (h : copyMode i = some m)
    (hcl : m.cluster = true → clusterLevel s.crew.lrec ≠ none) : exec i s = runCopy m s := by
  rw [exec_copy s h]
  split
  · next hc => rw [clusterForm, if_neg (fun hn => hcl hc hn.2)]
  · rfl

/-! ### What the common front does -/

/-- A copy past its issue checks. -/
def copyMeaning (m : CopyMode) (s : State) : Res State :=
  if !m.ok (copyIn m s.k) || (!(copyIn m s.k).scr && decide ((copyIn m s.k).x = 0#64)) then .error (illOp 0x0B)
  else do
    let u ← checkObj (copyIn m s.k).scr (copyIn m s.k).x s
    let (q, w) ← m.capture (copyIn m s.k) u
    startOp (cpyOp m.mode (copyIn m s.k) q w) w

theorem runCopy_of_passes {m : CopyMode} {s : State} (hp : Passes (copyReq m.fields.2.2.1) s) : runCopy m s = conclude false s (copyMeaning m s) :=
  issue_of_passes (copyMeaning m) hp

/-- The parameter word and the object are looked at first (10 R292). -/
theorem runCopy_illegal {m : CopyMode} {s : State} (hp : Passes (copyReq m.fields.2.2.1) s)
    (hbad : m.ok (copyIn m s.k) = false ∨ ((copyIn m s.k).scr = false ∧ (copyIn m s.k).x = 0#64)) :
    runCopy m s = .next (takeTrap false { code := 1, cause := 0x0B } s) := by
  have hstop : (!m.ok (copyIn m s.k) || (!(copyIn m s.k).scr && decide ((copyIn m s.k).x = 0#64))) = true := by simpa using hbad
  rw [runCopy_of_passes hp, copyMeaning, if_pos hstop]
  rfl

/-- A copy that passes its checks comes to its start. -/
theorem runCopy_starts {m : CopyMode} {s u w : State} {q : Capture} (hp : Passes (copyReq m.fields.2.2.1) s) (hok : m.ok (copyIn m s.k) = true)
    (hobj : (copyIn m s.k).scr = false → (copyIn m s.k).x ≠ 0#64) (hu : checkObj (copyIn m s.k).scr (copyIn m s.k).x s = .ok u)
    (hq : m.capture (copyIn m s.k) u = .ok (q, w)) :
    runCopy m s = conclude false s (startOp (cpyOp m.mode (copyIn m s.k) q w) w) := by
  have hgo : ¬ (!m.ok (copyIn m s.k) || (!(copyIn m s.k).scr && decide ((copyIn m s.k).x = 0#64))) = true := by simpa [hok] using hobj
  rw [runCopy_of_passes hp, copyMeaning, if_neg hgo, bind_of_eq_ok _ hu, bind_of_eq_ok _ hq]

/-- Only the count of copies holds a copy back (05 R136). -/
theorem opFull_cpy (mode : Nat) (s : State) : opFull (.cpy mode) s = decide (255 ≤ copyCount s) := by simp [opFull, isTileOp, isLong]

theorem startOp_cpy (mode : Nat) (i : CpyIn) (q : Capture) (s : State) : startOp (cpyOp mode i q s) s =
    if 255 ≤ copyCount s then .error (.wait s 0 0) else .ok (started (cpyOp mode i q s) s) := by
  rw [startOp, show (cpyOp mode i q s).kind = .cpy mode from rfl, opFull_cpy]
  simp only [decide_eq_true_eq]
  rfl

/-- Settles O29: every mode is the common front with its own checks and capture. -/
theorem copyOperations : Obligations.CopyOperations := by
  unfold Obligations.CopyOperations
  refine ⟨fun i m q s u w _ hm hcl hp => ?_, fun i m s _ hm => ⟨fun hc heven hnone => ?_, fun hcl hp hbad => ?_⟩⟩
  · intro x hok hobj hu hq
    rw [exec_copy_eq_runCopy hm hcl, runCopy_starts hp hok hobj hu hq, startOp_cpy]
    refine ⟨fun hroom => ⟨cpyOp m.mode x q w, ?_, ?_, rfl, rfl, rfl, rfl, rfl, rfl⟩, fun hfull => ?_⟩
    · rw [if_neg (by omega), conclude_ok]
    · exact ⟨rfl, rfl, rfl, rfl, rfl, rfl, rfl, rfl, rfl, rfl, rfl, rfl, rfl, rfl⟩
    · rw [if_pos hfull, conclude_wait]
  · rw [exec_copy s hm, if_pos hc, clusterForm, if_pos ⟨heven, hnone⟩]
    rfl
  · rw [exec_copy_eq_runCopy hm hcl, runCopy_illegal hp hbad]

end Sys2Proof.Proofs
end

section
/-! PROOFS. Events of asynchronous operations: their work, their arrivals, their ends (05 R128, R136, R137, 11 R311, 13 R372, R375, 15 R410). -/
namespace Sys2Proof.Proofs
open Sys2Proof Sys2Proof.Machine Sys2Proof.Laws Sys2Proof.Claims

/-! ### An operation at its unit -/

/-- A unit takes up an operation whose turn has come (15 R410). -/
theorem served_serveUnit (f : Op → State → State) (o : Op) (s : State) : Served f o s (serveUnit f o s) := by
  rw [serveUnit]
  refine ⟨fun ht => if_pos ht, fun ht hturn => ?_⟩
  rw [if_neg (by simp [ht]), if_pos hturn]

/-- An operation that stands at its unit unperformed does its work there, in turn. -/
theorem driveOp_served {o : Op} {s : State} (hstop : opStops o s = false) (hp : o.performed = false) : Served performOp o s (driveOp o s) := by
  rw [driveOp, hstop, hp]
  exact served_serveUnit performOp o s

/-- A performed operation arrives once what it waits for is past. -/
theorem driveOp_ends {o : Op} {s : State} (hstop : opStops o s = false) (hdue : opDue o s = true) : driveOp o s = .next (finishOp o s) := by
  have hp : o.performed = true := by
    simp only [opDue, Bool.and_eq_true] at hdue
    obtain ⟨⟨hp, -⟩, -⟩ := hdue
    exact hp
  rw [driveOp, hstop, hp, hdue]
  rfl

theorem exec_arrival {o : Op} {s : State} (hfind : findOp s o.id = some o) (hobj : o.obj ≠ .none) : exec (.arrival o.id) s = driveOp o s := by
  have harm : exec (.arrival o.id) s = execArrival o.id s := rfl
  rw [harm, execArrival, hfind]
  exact if_neg hobj

theorem exec_asyncOperationEnd {o : Op} {s : State} (hfind : findOp s o.id = some o) (hobj : o.obj = .none) :
    exec (.asyncOperationEnd o.id) s = driveOp o s := by
  have harm : exec (.asyncOperationEnd o.id) s = execAsyncOperationEnd o.id s := rfl
  rw [harm, execAsyncOperationEnd, hfind]
  exact if_pos hobj

/-- An operation whose object is in memory and that triggers no mailbox makes its arrival and is gone. -/
theorem finishOp_va {o : Op} {s : State} {a : Word64} (ha : o.obj = .va a) (hobj : objWaits o s = none) (hcpy : ∀ m, o.kind ≠ .cpy m) :
    finishOp o s = forgetPages o.id (dropHostReads o.id (dropOp o.id (arriveVa o.ctx a o.count o.status o.errIdx false s))) := by
  have harrive : arriveOp o s = arriveVa o.ctx a o.count o.status o.errIdx false s := by rw [arriveOp, ha]
  rw [finishOp, hobj]
  dsimp only
  rw [harrive]
  split
  · next m hm => exact absurd hm (hcpy m)
  · rfl

theorem exec_sequencerOpStart {o : Op} {s : State} {core : Nat}
    (hfind : s.en.ops.find? (fun q => decide (q.core = core) && isSeq q.kind && !q.performed) = some o) :
    exec (.sequencerOpStart core) s = .next (performSeq o s) := by
  have harm : exec (.sequencerOpStart core) s = execSequencerOpStart core s := rfl
  rw [harm, execSequencerOpStart, hfind]

/-! ### npairs (13 R372, R375) -/

/-- The steps of npairs: the search, then of each record its write and, past that, its arrival (13 R372). -/
theorem exec_pairRecordEmit {o : Op} {s : State} (hfind : findOp s o.id = some o) (hstop : opStops o s = false) (hkind : o.kind = .npairs) :
    (o.count = 0 → exec (.pairRecordEmit o.id) s = serveUnit startPairs o s) ∧
    (o.count ≠ 0 → o.started = false → ∀ c r, crewOf s o.cuid = some c → o.recs[o.pos + 1]? = some r →
      exec (.pairRecordEmit o.id) s = .next (writePair o c r s)) ∧
    (o.count ≠ 0 → o.started = true → o.due < s.gtime → objWaits o s = none →
      exec (.pairRecordEmit o.id) s = .next (setOp { o with started := false, pos := o.pos + 1 } (arriveCount o 16 0 false s))) := by
  have harm : exec (.pairRecordEmit o.id) s = execPairRecordEmit o.id s := rfl
  rw [harm, execPairRecordEmit, hfind]
  dsimp only
  rw [if_neg (by simp [hkind, hstop])]
  refine ⟨fun hnone => ?_, fun hfound hpast c r hc hr => ?_, fun hfound hon hdue hobj => ?_⟩
  · rw [if_pos (by simp [pairsReady, hnone])]
  · rw [if_neg (by simp [pairsReady, hfound]), if_neg (by simp [hpast]), hc, hr]
  · rw [if_neg (by simp [pairsReady, hfound]), if_pos hon, if_neg (by omega), hobj]

/-- After its last record npairs makes its closing arrival: past the additions, or with them (log entry 114). -/
theorem exec_npairsClosingArrival {o : Op} {s : State} (hfind : findOp s o.id = some o) (hstop : opStops o s = false) (hkind : o.kind = .npairs)
    (hfound : o.count ≠ 0) (hpast : o.started = false) (hlast : o.recs.length ≤ o.pos + 1) :
    (o.performed = false → waitingPages o (endNeeds o) s = [] → objWaits o s = none → exec (.npairsClosingArrival o.id) s = .next (closePairs o s)) ∧
    (o.performed = true → o.due < s.gtime →
      exec (.npairsClosingArrival o.id) s = .next (dropOp o.id (arriveCount o 0 (Nat.lor o.status (2 ^ 13)) true s))) := by
  have harm : exec (.npairsClosingArrival o.id) s = execNpairsClosingArrival o.id s := rfl
  have hgo : ¬ (o.kind ≠ .npairs ∨ o.started = true ∨ o.pos + 1 < o.recs.length ∨ o.count = 0 ∨ opStops o s = true) := by
    simp [hkind, hpast, hlast, hfound, hstop]
  rw [harm, execNpairsClosingArrival, hfind]
  dsimp only
  rw [if_neg hgo]
  refine ⟨fun hp hneeds hobj => ?_, fun hp hdue => ?_⟩
  · rw [if_neg (by simp [hp]), hneeds, hobj]
    rfl
  · rw [if_pos hp, if_neg (by omega)]
    rfl

theorem arriveCount_va {o : Op} {a : Word64} (ha : o.obj = .va a) (n st : Nat) (closing : Bool) (s : State) :
    arriveCount o n st closing s = arriveVa o.ctx a n st none closing s := by rw [arriveCount, ha]

/-- Where the closing arrival goes: to an object in scratch later, to one in memory with the additions, to none not at all (log entry 114). -/
theorem closePairs_eq (o : Op) (s : State) :
    let r := addCounters o s
    let st := Nat.lor o.status r.2.1
    let u := countErrors r.2.1 r.1
    (∀ a, o.obj = .scr a → closePairs o s = setOp { o with performed := true, due := r.2.2, status := st } u) ∧
    (∀ a, o.obj = .va a → closePairs o s = dropOp o.id (arriveVa o.ctx a 0 (Nat.lor st (2 ^ 13)) none true (objectAfter o (r.2.2 + 1) u))) ∧
    (o.obj = .none → closePairs o s = dropOp o.id u) := by
  dsimp only
  refine ⟨fun a ha => ?_, fun a ha => ?_, fun ha => ?_⟩
  · rw [closePairs, ha]
  · rw [closePairs, ha, ← arriveCount_va ha]
    rfl
  · rw [closePairs, arriveCount, objectAfter, ha]

/-- Settles O42: an operation's own events drive it at its unit, and npairs goes through its search, its records and its closing arrival. -/
theorem operationEventsComplete : Obligations.OperationEventsComplete := by
  unfold Obligations.OperationEventsComplete
  intro o s
  refine ⟨fun hfind hstop => ⟨fun hobj => ?_, fun hobj => ?_, fun hkind hnone => ?_, fun hkind hfound hpast => ⟨fun c r hc hr => ?_, fun hlast => ?_⟩,
    fun hkind hfound hon hdue hobj => ?_⟩, fun core => exec_sequencerOpStart, fun a => finishOp_va⟩
  · rw [exec_arrival hfind hobj]
    exact ⟨driveOp_served hstop, driveOp_ends hstop⟩
  · rw [exec_asyncOperationEnd hfind hobj]
    exact ⟨driveOp_served hstop, driveOp_ends hstop⟩
  · obtain ⟨hsearch, -, -⟩ := exec_pairRecordEmit hfind hstop hkind
    rw [hsearch hnone]
    exact served_serveUnit startPairs o s
  · obtain ⟨-, hwrite, -⟩ := exec_pairRecordEmit hfind hstop hkind
    exact hwrite hfound hpast c r hc hr
  · obtain ⟨hclose, hend⟩ := exec_npairsClosingArrival hfind hstop hkind hfound hpast hlast
    refine ⟨fun hp hneeds hobj => ?_, hend⟩
    obtain ⟨hscr, hva, hnone⟩ := closePairs_eq o s
    rw [hclose hp hneeds hobj]
    exact ⟨fun a ha => congrArg _ (hscr a ha), fun a ha => congrArg _ (hva a ha), fun ha => congrArg _ (hnone ha)⟩
  · obtain ⟨-, -, harrive⟩ := exec_pairRecordEmit hfind hstop hkind
    exact harrive hfound hon hdue hobj

end Sys2Proof.Proofs
end

section
/-! PROOFS. Where the lanes of a skein stand after its frontier moves on (06 R170 to R172, 07 R194). -/
namespace Sys2Proof.Proofs
open Sys2Proof Sys2Proof.Machine Sys2Proof.Laws Sys2Proof.Claims

section
variable {L : Nat} {pc : Word64}

/-! ### Lists of entries -/

theorem not_standsIn_nil : ¬ StandsIn [] L pc := by simp [StandsIn]

theorem standsIn_cons {x : Entry} {l : List Entry} : StandsIn (x :: l) L pc ↔ (laneOn x.mask L = true ∧ x.pc = pc) ∨ StandsIn l L pc := by
  simp [StandsIn]

theorem standsIn_append {l l' : List Entry} : StandsIn (l ++ l') L pc ↔ StandsIn l L pc ∨ StandsIn l' L pc := by
  simp [StandsIn, or_and_right, exists_or]

/-- A change of every entry that keeps lanes and address keeps where the lanes stand. -/
theorem standsIn_map {f : Entry → Entry} (hf : ∀ e, (f e).mask = e.mask ∧ (f e).pc = e.pc) {l : List Entry} :
    StandsIn (l.map f) L pc ↔ StandsIn l L pc := by
  simp [StandsIn, hf]

theorem not_laneOn_zero : ¬ laneOn 0#32 L = true := by simp [laneOn]

/-- An entry that holds no lane can be left out. -/
theorem standsIn_filter_live {l : List Entry} : StandsIn (l.filter fun e => decide (e.mask ≠ 0#32)) L pc ↔ StandsIn l L pc := by
  simp only [StandsIn, List.mem_filter, decide_eq_true_eq, and_assoc]
  refine exists_congr fun e => and_congr_right fun _ => and_iff_right_of_imp ?_
  rintro ⟨hon, -⟩ hzero
  exact not_laneOn_zero (hzero ▸ hon)

/-! ### The steps of an issue's end -/

/-- Entries that merge stand at one address, so their lanes stay where they are (06 R170). -/
theorem standsIn_absorb (x : Entry) (l : List Entry) : StandsIn ((absorb x l).1 :: (absorb x l).2) L pc ↔ StandsIn (x :: l) L pc := by
  induction l generalizing x with
  | nil => rfl
  | cons y l ih =>
    unfold absorb
    split
    · next h =>
      obtain ⟨hpc, -, -⟩ := h
      rw [ih, standsIn_cons, standsIn_cons, standsIn_cons, ← or_assoc]
      simp only [laneOn_or, Bool.or_eq_true, or_and_right, hpc]
    · have hrest := ih x
      simp only [standsIn_cons] at hrest ⊢
      rw [or_left_comm, hrest, or_left_comm]

theorem standsIn_mergeAll (n : Nat) (l : List Entry) : StandsIn (mergeAll n l) L pc ↔ StandsIn l L pc := by
  induction n generalizing l with
  | zero => rfl
  | succ n ih =>
    cases l with
    | nil => rfl
    | cons x l => rw [mergeAll, standsIn_cons, ih, ← standsIn_cons, standsIn_absorb]

theorem standsIn_unparkSole (l : List Entry) : StandsIn (unparkSole l) L pc ↔ StandsIn l L pc := by
  unfold unparkSole
  split
  · split
    · rfl
    · rw [standsIn_cons, standsIn_cons]
  · rfl

theorem standsIn_liftStep (lim : Nat) (k : Skein) (l : List Entry) : StandsIn (liftStep lim k l) L pc ↔ StandsIn l L pc := by
  unfold liftStep
  split
  · rfl
  · split
    · rfl
    · exact standsIn_map fun e => by split <;> exact ⟨rfl, rfl⟩

theorem issued_place (ends openMeld : Bool) (e : Entry) : (issued ends openMeld e).mask = e.mask ∧ (issued ends openMeld e).pc = e.pc := by
  unfold issued
  dsimp only
  split <;> exact ⟨rfl, rfl⟩

theorem bump_place (e : Entry) : (bump e).mask = e.mask ∧ (bump e).pc = e.pc := by
  unfold bump
  split <;> exact ⟨rfl, rfl⟩

/-- The first entry and the others of a frontier; an empty frontier is an entry without lanes. -/
theorem standsIn_headD (l : List Entry) : StandsIn (l.headD {} :: l.drop 1) L pc ↔ StandsIn l L pc := by
  cases l with
  | nil => exact iff_of_false (by simp [standsIn_cons, not_standsIn_nil, laneOn]) not_standsIn_nil
  | cons x l => rfl

/-! ### The frontier after an issue -/

theorem stands_settle (ends : Bool) (parts : List Entry) (s : State) :
    Stands (settle ends parts s).k L pc ↔ StandsIn (parts ++ s.k.rest) L pc := by
  rw [Stands, settle, standsIn_headD, standsIn_liftStep, standsIn_unparkSole, standsIn_mergeAll, standsIn_append, standsIn_filter_live,
    standsIn_map (issued_place _ _), standsIn_map bump_place, standsIn_append]

theorem exists_standsIn {l : List Entry} : (∃ pc, StandsIn l L pc) ↔ ∃ x ∈ l, laneOn x.mask L = true := by
  simp only [StandsIn, exists_comm (α := Word64), exists_and_left, exists_eq', and_true]

/-- The lanes that are live are those that stand somewhere. -/
theorem laneOn_liveMask (k : Skein) : laneOn (liveMask k) L = true ↔ ∃ pc, Stands k L pc := by
  have hfold (l : List Entry) (m : Word32) :
      laneOn (l.foldl (fun m x => m ||| x.mask) m) L = true ↔ laneOn m L = true ∨ ∃ x ∈ l, laneOn x.mask L = true := by
    induction l generalizing m with
    | nil => simp
    | cons x l ih => simp [ih, laneOn_or, or_assoc]
  rw [liveMask, hfold]
  exact (List.exists_mem_cons_iff _ _ _).symm.trans exists_standsIn.symm

end

theorem word32_ext {a b : Word32} (h : ∀ L, laneOn a L = true ↔ laneOn b L = true) : a = b :=
  BitVec.eq_of_getLsbD_eq fun L _ => Bool.eq_iff_iff.mpr (h L)

theorem liveMask_settle (ends : Bool) (e : Entry) (s : State) (he : e.mask = s.k.e.mask) : liveMask (settle ends [e] s).k = liveMask s.k := by
  refine word32_ext fun L => ?_
  simp only [laneOn_liveMask, stands_settle, List.singleton_append]
  simp [Stands, standsIn_cons, exists_or, he]

/-- Settles O8: each step of `settle` keeps where the lanes stand, and it writes the skein alone. -/
theorem entriesKeepTheirLanes : Obligations.EntriesKeepTheirLanes :=
  fun ends parts s _ _ _ => ⟨stands_settle ends parts s, rfl⟩

/-- Settles O9: going on is a `settle` whose one part is the entry at the next word, with the same lanes. -/
theorem nextWordFrame : Obligations.NextWordFrame := by
  unfold Obligations.NextWordFrame
  intro len s
  refine ⟨rfl, liveMask_settle _ _ _ rfl, fun L pc _ => ?_⟩
  rw [retire, stands_settle, List.singleton_append, standsIn_cons, eq_comm (a := pc)]
  rfl

end Sys2Proof.Proofs
end

section
/-! PROOFS. Control transfer, splits and ends of lanes (06 R175, R182, R184, 07 R190, 08 R233, R234, R236). -/
namespace Sys2Proof.Proofs
open Sys2Proof Sys2Proof.Machine Sys2Proof.Laws Sys2Proof.Claims

/-! ### Targets and conditions of branches -/

theorem target_eq_wordTarget {n o : Nat} (pc : Word64) (h : o < 2 ^ n) : target n o pc = wordTarget n o pc := by
  rw [target, wordTarget, int64, sxt_eq_signed h, BitVec.ofInt_add, BitVec.ofInt_natCast, BitVec.ofNat_toNat, BitVec.setWidth_eq]

/-- The six conditions one by one: those on bit vectors are those on the numbers that they stand for (07 R210). -/
theorem bccCond_eq_branchHolds (c : Nat) (a b : Word64) : bccCond c a b = branchHolds c a b := by
  match c with
  | 0 => exact decide_eq_decide.mpr BitVec.toNat_inj.symm
  | 1 => exact decide_eq_decide.mpr (not_congr BitVec.toNat_inj.symm)
  | 2 => rfl
  | 3 => exact decide_not.symm.trans (decide_eq_decide.mpr Int.not_lt)
  | 4 => rfl
  | _ + 5 => exact decide_not.symm.trans (decide_eq_decide.mpr Nat.not_lt)

theorem laneIn_eq (k : Skein) (g L : Nat) : laneIn k g L = laneOn (active k g) L := (laneOn_and _ _ _).symm

theorem ne_zero_iff_lane {m : Word32} : m ≠ 0#32 ↔ ∃ L < 32, laneOn m L = true := by
  refine ⟨fun h => ?_, fun ⟨L, _, hon⟩ hzero => not_laneOn_zero (hzero ▸ hon)⟩
  by_contra hnone
  refine h (BitVec.eq_of_getLsbD_eq fun L hL => ?_)
  rw [BitVec.getLsbD_zero]
  exact Bool.eq_false_iff.mpr fun hon => hnone ⟨L, hL, hon⟩

theorem anyLane_eq (k : Skein) (g : Nat) : anyLane k g = decide (active k g ≠ 0#32) := by
  rw [Bool.eq_iff_iff, decide_eq_true_eq, ne_zero_iff_lane]
  simp [anyLane, laneIn_eq]

theorem allLanes_eq (k : Skein) (g : Nat) : allLanes k g = decide (active k g = k.e.mask) := by
  have hlane (L : Nat) : (!laneOn k.e.mask L || laneOn (guardLanes k g) L) = true ↔ laneOn (active k g) L = laneOn k.e.mask L := by
    rw [active, laneOn_and]
    cases laneOn k.e.mask L <;> simp
  rw [Bool.eq_iff_iff, decide_eq_true_eq]
  simp only [allLanes, List.all_eq_true, List.mem_range, hlane]
  exact ⟨fun h => BitVec.eq_of_getLsbD_eq h, fun h L _ => by rw [h]⟩

/-! ### Branches of the whole entry -/

theorem moveTo_linked (i : Instr) (t : Word64) (s : State) :
    moveTo t { s with k := linked i s.k } = settle true [{ s.k.e with pc := t }] { s with k := linked i s.k } := by
  have he : (linked i s.k).e = s.k.e := by
    unfold linked
    split
    · rw [wrG_frame]
    · rfl
  rw [moveTo, he]

theorem bvote_next {g o : Nat} {f : Word32 → Word32 → Bool} {s : State} (ho : o < 2 ^ 16) (hp : Passes plainControl s) :
    bvote g o f s = .next (moveTo (if f (active s.k g) s.k.e.mask then wordTarget 16 o s.k.e.pc else next s.k) s) :=
  issue_eq_next hp (by rw [target_eq_wordTarget _ ho]; rfl)

/-- What a branch of the whole entry gives once its checks pass, a register target being a multiple of 4 (08 R233). -/
theorem exec_branch {i : Instr} {t : Word64} {s : State} (hwf : i.wf = true) (hto : branchTo s.k i = some t) (hp : Passes plainControl s)
    (hal : fromRegister i = true → t.toNat % 4 = 0) : exec i s = .next (moveTo t { s with k := linked i s.k }) := by
  have hreg {a : Nat} (h : (rdG s.k a).toNat % 4 = 0) : aligned (rdG s.k a) = true := decide_eq_true h
  have hvote {g o : Nat} (h : (guardOk g && decide (o < 65536)) = true) : o < 2 ^ 16 := of_decide_eq_true (Bool.and_eq_true_iff.mp h).2
  unfold branchTo at hto
  split at hto <;> obtain rfl | _ := hto
  · next o =>
    have ho : o < 2 ^ 16 := of_decide_eq_true hwf
    change execBru o s = _
    exact issue_eq_next hp (by rw [target_eq_wordTarget _ ho]; rfl)
  · next c a b o =>
    obtain ⟨⟨-, ho⟩, -⟩ : (_ ∧ o < 2 ^ 10) ∧ c < 6 := by simpa [Instr.wf] using hwf
    change execBcc c a b o s = _
    exact issue_eq_next hp (by rw [target_eq_wordTarget _ ho, bccCond_eq_branchHolds]; rfl)
  · next g o =>
    change execBvoteAny g o s = _
    rw [execBvoteAny, bvote_next (hvote hwf) hp, anyLane_eq]
    rfl
  · next g o =>
    change execBvoteAll g o s = _
    rw [execBvoteAll, bvote_next (hvote hwf) hp, allLanes_eq]
    rfl
  · next g o =>
    change execBvoteNone g o s = _
    rw [execBvoteNone, bvote_next (hvote hwf) hp, anyLane_eq]
    simp only [decide_eq_true_eq, ne_eq, ite_not]
    rfl
  · next o =>
    have ho : o < 2 ^ 16 := of_decide_eq_true hwf
    change execCall o s = _
    exact issue_eq_next hp (by rw [target_eq_wordTarget _ ho]; rfl)
  · next a =>
    change execRet a s = _
    exact issue_eq_next hp (if_pos (hreg (hal rfl)))
  · next d a =>
    change execJmpg d a s = _
    exact issue_eq_next hp (if_pos (hreg (hal rfl)))

/-! ### Ends of lanes (06 R182, R184) -/

/-- The lanes `x` of the issuing entry have ended and the others stand at `pc`; the crew's barriers have not looked again. -/
def withoutLanes (x : Word32) (pc : Word64) (s : State) : State :=
  settle true [{ s.k.e with pc := pc, mask := s.k.e.mask &&& ~~~ x }] (freeLaneRecs x s)

theorem withoutLanes_eq (x : Word32) (pc : Word64) (s : State) :
    settle true [{ s.k.e with pc := pc, mask := s.k.e.mask &&& ~~~ x }] (freeLaneRecs x s) = withoutLanes x pc s := rfl

theorem endLanes_eq (x : Word32) (pc : Word64) (s : State) : endLanes x pc s = skeinOver (withoutLanes x pc s) := rfl

theorem laneOn_liveMask_withoutLanes (x : Word32) (pc : Word64) (s : State) {L : Nat} :
    laneOn (liveMask (withoutLanes x pc s).k) L = true ↔ laneOn (s.k.e.mask &&& ~~~ x) L = true ∨ ∃ e ∈ s.k.rest, laneOn e.mask L = true := by
  simp only [withoutLanes, laneOn_liveMask, stands_settle, exists_standsIn, List.singleton_append]
  exact List.exists_mem_cons_iff _ _ _

/-- A lane outside `x` is still live. -/
theorem endLanes_of_live {x : Word32} {s : State} (pc : Word64) (h : liveMask s.k &&& ~~~ x ≠ 0#32) :
    liveMask (withoutLanes x pc s).k ≠ 0#32 ∧ endLanes x pc s = withoutLanes x pc s := by
  have hlive : liveMask (withoutLanes x pc s).k ≠ 0#32 := by
    obtain ⟨L, hL, hon⟩ := ne_zero_iff_lane.mp h
    obtain ⟨hstood, hout⟩ := Bool.and_eq_true_iff.mp (laneOn_and _ _ _ ▸ hon)
    obtain ⟨e, he, heL⟩ := exists_standsIn.mp ((laneOn_liveMask _).mp hstood)
    refine ne_zero_iff_lane.mpr ⟨L, hL, (laneOn_liveMask_withoutLanes x pc s).mpr ?_⟩
    obtain rfl | he := List.mem_cons.mp he
    · exact .inl (by rw [laneOn_and, heL, hout]; rfl)
    · exact .inr ⟨e, he, heL⟩
  exact ⟨hlive, by rw [endLanes_eq, skeinOver, if_neg hlive]⟩

/-- With the skein's last lane the barriers of its crew look again (06 R183). -/
theorem endLanes_of_last {x : Word32} {s : State} (pc : Word64) (he : s.k.e.mask &&& ~~~ x = 0#32) (hrest : ∀ e ∈ s.k.rest, e.mask = 0#32) :
    liveMask (withoutLanes x pc s).k = 0#32 ∧ endLanes x pc s = checkLevels (checkBars (withoutLanes x pc s)) := by
  have hnone : liveMask (withoutLanes x pc s).k = 0#32 := by
    by_contra hlive
    obtain ⟨L, -, hon⟩ := ne_zero_iff_lane.mp hlive
    obtain hon | ⟨e, hmem, hon⟩ := (laneOn_liveMask_withoutLanes x pc s).mp hon
    · exact not_laneOn_zero (he ▸ hon)
    · exact not_laneOn_zero (hrest e hmem ▸ hon)
  exact ⟨hnone, by rw [endLanes_eq, skeinOver, if_pos hnone]⟩

/-! ### The barriers that an ending skein touches change no lane -/

theorem HorizonsOnly.trans {k k' k'' : Skein} (h : HorizonsOnly k k') (h' : HorizonsOnly k' k'') : HorizonsOnly k k'' := by
  obtain ⟨_, _, _, _, _, _, rfl⟩ := h
  obtain ⟨_, _, _, _, _, _, rfl⟩ := h'
  exact ⟨_, _, _, _, _, _, rfl⟩

theorem HorizonsOnly.liveMask_eq {k k' : Skein} (h : HorizonsOnly k k') : liveMask k' = liveMask k := by
  obtain ⟨_, _, _, _, _, _, rfl⟩ := h
  rfl

theorem arriveKey_horizonsOnly (ctx key n st : Nat) (idx : Option (Bool × Nat)) (closing : Bool) (s : State) :
    HorizonsOnly s.k (arriveKey ctx key n st idx closing s).k := by
  rw [arriveKey, (countUncorr_cachesOnly _ _).k_eq]
  exact homeAccept_horizonsOnly _ _

theorem arriveVa_horizonsOnly (ctx : Nat) (a : Word64) (n st : Nat) (idx : Option (Bool × Nat)) (closing : Bool) (s : State) :
    HorizonsOnly s.k (arriveVa ctx a n st idx closing s).k := by
  unfold arriveVa
  split
  · exact .refl _
  · split
    · exact .refl _
    · exact arriveKey_horizonsOnly _ _ _ _ _ _ _

theorem levelCheck_horizonsOnly (l : Nat) (s : State) : HorizonsOnly s.k (levelCheck l s).k := by
  unfold levelCheck
  dsimp only
  split
  · split
    · exact .refl _
    · exact arriveVa_horizonsOnly _ _ _ _ _ _ _
  · exact .refl _

theorem checkLevels_horizonsOnly (s : State) : HorizonsOnly s.k (checkLevels s).k := by
  have hfold (ls : List Nat) (s : State) : HorizonsOnly s.k (ls.foldl (fun s l => levelCheck l s) s).k := by
    induction ls generalizing s with
    | nil => exact .refl _
    | cons l ls ih => exact (levelCheck_horizonsOnly l s).trans (ih _)
  exact hfold _ s

theorem liveMask_checkLevels_checkBars (s : State) : liveMask (checkLevels (checkBars s)).k = liveMask s.k :=
  (checkLevels_horizonsOnly (checkBars s)).liveMask_eq

/-! ### br, exit, tail and yield -/

theorem exec_br {g o : Nat} {s : State} (ho : o < 2 ^ 16) (hp : Passes divergent s) :
    exec (.br g o) s = .next (settle true [{ s.k.e with pc := wordTarget 16 o s.k.e.pc, mask := active s.k g },
      { s.k.e with pc := next s.k, mask := s.k.e.mask &&& ~~~ active s.k g }] s) := by
  change execBr g o s = _
  exact issue_eq_next hp (by rw [target_eq_wordTarget _ ho]; rfl)

theorem exec_exit {g : Nat} {s : State} (hp : Passes divergent s) : exec (.exit g) s = .next (endLanes (active s.k g) (next s.k) s) := by
  change execExit g s = _
  exact issue_eq_next hp rfl

theorem exec_tail_of_live {g : Nat} {s : State} (hp : Passes divergent s) (h : liveMask (endLanes (active s.k g) (next s.k) s).k ≠ 0#32) :
    exec (.tail g) s = .next (endLanes (active s.k g) (next s.k) s) := by
  change execTail g s = _
  exact issue_eq_next hp (if_pos h)

/-- tail of the last lane, the core's tracker having room. -/
theorem exec_tail_of_last {g : Nat} {s : State} (hp : Passes divergent s) (h : liveMask (endLanes (active s.k g) (next s.k) s).k = 0#32)
    (hroom : (s.sch.tracker.filter fun t => decide (t.core = s.crew.core)).length < 32) :
    let v := endLanes (active s.k g) (next s.k) s
    exec (.tail g) s = .next (removeSkein { v with ids := v.ids + 1, sch := { v.sch with
      tracker := v.sch.tracker ++ [{ n := v.ids + 1, uid := v.k.uid, cuid := v.crew.uid, core := v.crew.core }] } }) := by
  change execTail g s = _
  exact issue_eq_next hp ((if_neg (not_not.mpr h)).trans (if_neg (by omega)))

/-- The records that are left are those that no ended lane ran from (06 R182). -/
theorem mem_recs_freeLaneRecs (x : Word32) (s : State) (r : SpawnRec) :
    r ∈ (freeLaneRecs x s).crew.recs ↔ r ∈ s.crew.recs ∧ ∀ p ∈ s.k.laneRecs, laneOn x p.1 = true → p.2 ≠ r.idx := by
  simp only [freeLaneRecs, List.mem_filter, Bool.not_eq_true', ← Bool.not_eq_true (List.contains _ _), List.contains_iff_mem, List.mem_map, not_exists, not_and, and_imp]

/-- Settles O10: branches of the whole entry by `exec_branch`, ends of lanes by `endLanes_of_live` and `endLanes_of_last`. -/
theorem controlCompletes : Obligations.ControlCompletes := by
  unfold Obligations.ControlCompletes
  refine ⟨fun i t s hwf hto hp hal => by rw [exec_branch hwf hto hp hal, moveTo_linked], fun g o s hwf => ⟨exec_br ?_, fun hp => ?_, fun hp => ?_⟩⟩
  · exact of_decide_eq_true (Bool.and_eq_true_iff.mp hwf).2
  · simp only [withoutLanes_eq]
    refine ⟨fun hlive => ?_, fun he hrest => ?_, mem_recs_freeLaneRecs _ s⟩
    · obtain ⟨hleft, hend⟩ := endLanes_of_live (next s.k) hlive
      rw [exec_exit hp, exec_tail_of_live hp (hend ▸ hleft), hend]
      exact ⟨rfl, rfl⟩
    · obtain ⟨hnone, hend⟩ := endLanes_of_last (next s.k) he hrest
      have hover : liveMask (endLanes (active s.k g) (next s.k) s).k = 0#32 := by rw [hend, liveMask_checkLevels_checkBars, hnone]
      rw [exec_exit hp, hend]
      refine ⟨rfl, fun hroom => ?_⟩
      rw [exec_tail_of_last hp hover hroom, hend]
  · change ∃ p, execYield s = _ ∧ _
    exact ⟨_, issue_eq_next hp rfl, rfl⟩

/-! ### Traps of control -/

/-- In an open region what a region forbids traps, an open bracket or not (06 R175). -/
theorem check_of_openRegion {r : Req} {s : State} (hr : r = plainControl ∨ r = divergent) (h : s.k.meld.st ≠ .closed) :
    check r s = some { code := 0x03, cause := 0x01 } := by
  obtain rfl | rfl := hr <;> simp [check, chkRegs, chkAlign, chkMeld, plainControl, divergent, h]

theorem issue_eq_trap {r : Req} {s : State} {f : State → Res State} {t : TrapInfo} (hp : Passes r s) (h : f s = .error (.trap t)) :
    issue r s f = .next (takeTrap (decide (r.len = 2)) t s) := by
  rw [issue_of_passes f hp, h, conclude_trap]

/-- ret and jmpg to an address that is no multiple of 4 (07 R190). -/
theorem exec_registerTarget_misaligned {i : Instr} {t : Word64} {s : State} (hto : branchTo s.k i = some t) (hreg : fromRegister i = true)
    (hp : Passes plainControl s) (hal : t.toNat % 4 ≠ 0) : exec i s = .next (takeTrap false { code := 0x08, cause := 0x02, addr := t } s) := by
  have htrap : trapAt 8 2 0xFF t.toNat = .trap { code := 0x08, cause := 0x02, addr := t } := by rw [trapAt, w64, BitVec.ofNat_toNat, BitVec.setWidth_eq]
  have hbad : ¬ aligned t = true := by simpa [aligned] using hal
  unfold fromRegister at hreg
  split at hreg
  · next a =>
    obtain rfl : rdG s.k a = t := Option.some.inj hto
    exact (issue_eq_trap hp ((if_neg hbad).trans (congrArg _ htrap)) : execRet a s = _)
  · next d a =>
    obtain rfl : rdG s.k a = t := Option.some.inj hto
    exact (issue_eq_trap hp ((if_neg hbad).trans (congrArg _ htrap)) : execJmpg d a s = _)
  · cases hreg

theorem exec_forbiddenInRegion {i : Instr} {s : State} (hi : forbiddenInRegion i = true) (h : s.k.meld.st ≠ .closed) :
    exec i s = .next (takeTrap false { code := 0x03, cause := 0x01 } s) := by
  have hplain := check_of_openRegion (.inl rfl) h
  have hdivergent := check_of_openRegion (.inr rfl) h
  have hvote {g o : Nat} {f : Word32 → Word32 → Bool} : bvote g o f s = .next (takeTrap false { code := 0x03, cause := 0x01 } s) := issue_trap _ hplain
  unfold forbiddenInRegion at hi
  split at hi
  · exact (issue_trap _ hplain : execBru _ s = _)
  · exact (issue_trap _ hplain : execBcc _ _ _ _ s = _)
  · exact (hvote : execBvoteAny _ _ s = _)
  · exact (hvote : execBvoteAll _ _ s = _)
  · exact (hvote : execBvoteNone _ _ s = _)
  · exact (issue_trap _ hdivergent : execBr _ _ s = _)
  · exact (issue_trap _ hplain : execCall _ s = _)
  · exact (issue_trap _ hplain : execRet _ s = _)
  · exact (issue_trap _ hplain : execJmpg _ _ s = _)
  · exact (issue_trap _ hdivergent : execExit _ s = _)
  · exact (issue_trap _ hdivergent : execTail _ s = _)
  · exact (issue_trap _ hplain : execYield s = _)
  · exact (issue_trap _ hplain : execWopen s = _)
  · exact (issue_trap _ hplain : execWclose s = _)
  · exact (issue_trap _ hplain : execBwait _ _ _ s = _)
  · cases hi

/-- Settles O12: the misaligned register target, and the check that every forbidden instruction makes first. -/
theorem controlTraps : Obligations.ControlTraps :=
  ⟨fun _ _ _ hto hreg hp hal => exec_registerTarget_misaligned hto hreg hp hal, fun _ _ hi h => exec_forbiddenInRegion hi h⟩

end Sys2Proof.Proofs
end

section
/-! PROOFS. spawn, brx, melded regions and wide brackets, the forms of a barrier (06 R161, R162, R175 to R180, 08 R237 to R243). -/
namespace Sys2Proof.Proofs
open Sys2Proof Sys2Proof.Machine Sys2Proof.Laws Sys2Proof.Claims

/-! ### Spawn records -/

theorem spawnTrap_of_maySpawn {n : Nat} {s : State} (h : maySpawn n s) : spawnTrap (n + 1) s = none := by
  obtain ⟨hbaskets, hrole, hregs⟩ := h
  rw [spawnTrap, hbaskets, decide_eq_false (by omega), if_neg (by decide), if_neg (by omega)]

/-- The records of a spawn that finds room are written, and its lanes end (06 R180). -/
theorem spawnLanes_of_room {kind n : Nat} {entry : Word64} {x : Word32} {pc : Word64} {s u : State} (h : writeRecs (recordsOf kind n entry x s.k) s = some u) :
    spawnLanes kind (n + 1) entry x pc s = .ok (endLanes x pc u) := by
  have hrecs : (lanesOf x).map (laneRec kind (n + 1) entry [] s.k) = recordsOf kind n entry x s.k := rfl
  rw [spawnLanes, hrecs, h]

/-- No lane, no record. -/
theorem writeRecs_of_no_lane (kind n : Nat) (entry : Word64) (s : State) : writeRecs (recordsOf kind n entry 0#32 s.k) s = some s := rfl

section
variable {g n o : Nat} {s u : State} (ho : o < 2 ^ 16) (hmay : maySpawn n s)
include ho hmay

/-- What spawn does once its checks pass; the registers it names depend on whether lanes end. -/
theorem exec_spawn (hp : Passes (spawning n (decide (active s.k g ≠ 0#32))) s)
    (hroom : writeRecs (recordsOf 0 n (wordTarget 16 o s.k.e.pc) (active s.k g) s.k) s = some u) :
    exec (.spawn g n o) s = .next (endLanes (active s.k g) (next s.k) u) := by
  have hreads : (if active s.k g = 0#32 then [] else [(0, n + 1)]) = (spawning n (decide (active s.k g ≠ 0#32))).reads := by
    simp [spawning]
  change execSpawn g n o s = _
  rw [execSpawn, hreads]
  refine issue_eq_next hp ?_
  rw [spawnTrap_of_maySpawn hmay, target_eq_wordTarget _ ho]
  exact spawnLanes_of_room hroom

/-- What brx does once its checks pass, by the lanes that branch and those that do not. -/
theorem exec_brx {ends : Bool} (hp : Passes (spawning n ends) s) (hends : ends = decide (active s.k g ≠ 0#32 ∧ s.k.e.mask &&& ~~~ active s.k g ≠ 0#32)) :
    exec (.brx g n o) s = conclude false s (
      if active s.k g = 0#32 then .ok (moveTo (next s.k) s)
      else if s.k.e.mask &&& ~~~ active s.k g = 0#32 then .ok (moveTo (wordTarget 16 o s.k.e.pc) s)
      else spawnLanes 1 (n + 1) (brxEnds s.k g o).2.1 (brxEnds s.k g o).1 (brxEnds s.k g o).2.2 s) := by
  have hreads : (if active s.k g = 0#32 ∨ s.k.e.mask &&& ~~~ active s.k g = 0#32 then [] else [(0, n + 1)]) = (spawning n ends).reads := by
    subst hends
    by_cases h : active s.k g = 0#32 <;> simp [spawning, h]
  change execBrx g n o s = _
  rw [execBrx, hreads]
  refine (issue_of_passes _ hp).trans (congrArg _ ?_)
  dsimp only
  rw [spawnTrap_of_maySpawn hmay, target_eq_wordTarget _ ho]
  by_cases hle : (lanesOf (active s.k g)).length ≤ (lanesOf (s.k.e.mask &&& ~~~ active s.k g)).length
  · simp only [brxEnds, laneCount, hle, if_true]
    rfl
  · simp only [brxEnds, laneCount, hle, if_false]
    rfl

end

/-- Settles O11: spawn with and without lanes by `exec_spawn`, the sides of brx by `exec_brx`. -/
theorem spawnCompletes : Obligations.SpawnCompletes := by
  unfold Obligations.SpawnCompletes
  intro g n o s u hwf hmay
  have ho : o < 2 ^ 16 := of_decide_eq_true (Bool.and_eq_true_iff.mp hwf).2
  refine ⟨exec_spawn ho hmay, fun hp hnone => ⟨?_, ?_⟩, fun hp hsome hall => ?_, fun hp hsome hpart hroom => ?_⟩
  · have hspawn := exec_spawn (g := g) (u := s) ho hmay
    rw [hnone] at hspawn
    exact hspawn hp (writeRecs_of_no_lane _ _ _ _)
  · rw [exec_brx ho hmay hp (by simp [hnone]), if_pos hnone]
    rfl
  · rw [exec_brx ho hmay hp (by simp [hall]), if_neg hsome, if_pos hall]
    rfl
  · rw [exec_brx ho hmay hp (by simp [hsome, hpart]), if_neg hsome, if_neg hpart, spawnLanes_of_room hroom]
    rfl

/-! ### Melded regions (06 R175, R176, 08 R237, R238) -/

theorem not_meldLong_of_roomInRegion {k : Skein} (h : roomInRegion k) : ¬ meldLong k = true := by
  obtain ⟨-, hwords⟩ := h
  simp only [meldLong, Bool.and_eq_true, decide_eq_true_eq]
  omega

theorem exec_meld {p : Nat} {s : State} (h : s.k.meld.st = .closed) :
    exec (.meld p) s = .next (settle false [{ s.k.e with pc := next s.k }]
      { s with k := { s.k with meld := { st := .mapping, path := s.k.e.mask &&& rdP s.k p, addr := s.k.e.pc, words := 0, ta := ownNames, tb := ownNames } } }) := by
  change execMeld p s = _
  rw [execMeld, if_neg (by simp [meldLong, h]), if_neg (not_not.mpr h)]
  rfl

theorem exec_mend {s : State} (h : roomInRegion s.k) :
    exec .mend s = .next (settle false [{ s.k.e with pc := next s.k }] { s with k := { s.k with meld := {} } }) := by
  change execMend s = _
  rw [execMend, if_neg (not_meldLong_of_roomInRegion h), if_neg h.1]
  rfl

theorem exec_mmap {p i v : Nat} {s : State} (hp : p < 2) (h : roomInRegion s.k) (hst : s.k.meld.st = .mapping) (hv : v < s.k.regs) :
    exec (.mmap p i v) s = .next (settle false [{ s.k.e with pc := next s.k }]
      { s with k := { s.k with meld := { s.k.meld with words := s.k.meld.words + 1,
                                                       ta := if p = 0 then s.k.meld.ta.set i v else s.k.meld.ta,
                                                       tb := if p = 1 then s.k.meld.tb.set i v else s.k.meld.tb } } }) := by
  change execMmap p i v s = _
  rw [execMmap, if_neg (not_meldLong_of_roomInRegion h), if_neg (not_not.mpr hst), if_neg (by omega)]
  obtain rfl | rfl : p = 0 ∨ p = 1 := by omega
  · rfl
  · rfl

/-! ### Wide brackets (06 R178, 08 R239) -/

theorem exec_wopen {s : State} (hp : Passes plainControl s) (h : s.k.bracket = none) :
    exec .wopen s = .next (settle false [{ s.k.e with pc := next s.k, mask := liveMask s.k }]
      { s with k := { s.k with bracket := some (s.k.e.pc, s.k.e.mask), rest := s.k.rest.map fun e => { e with suspended := true } } }) :=
  (issue_eq_next hp (if_neg (by simp [h])) : execWopen s = _)

theorem exec_wclose {s : State} {pc : Word64} {m : Word32} (hp : Passes plainControl s) (h : s.k.bracket = some (pc, m)) :
    exec .wclose s = .next (settle false [{ s.k.e with pc := next s.k, mask := s.k.e.mask &&& m }]
      { s with k := { s.k with bracket := none, rest := s.k.rest.map fun e => { e with suspended := false } } }) := by
  change execWclose s = _
  refine issue_eq_next hp ?_
  dsimp only
  rw [h, BitVec.and_comm]
  rfl

/-- Settles O13: one lemma for each instruction of a region and of a bracket. -/
theorem regionsComplete : Obligations.RegionsComplete :=
  ⟨fun _ => ⟨fun _ => exec_meld, exec_mend, fun _ _ _ => exec_mmap⟩, fun _ hp => ⟨exec_wopen hp, fun _ _ => exec_wclose hp⟩⟩

/-! ### The forms of a barrier (08 R243) -/

section
variable {l b : Nat} {s : State} (hdecl : barUndeclared l b s = false) (hcheck : check { noMeld := true } s = none)
  (hwhole : ¬ s.k.e.mask ≠ liveMask s.k) (hnone : myArrival s.k l b = none)
include hdecl hcheck hwhole hnone

theorem barForm_firstArrival (hdone : releaseDone (barScope s.crew l) s = true) : barForm 1 l b s = .next (retire 1 (arriveAt l b none s)) := by
  simp only [barForm, hdecl, hcheck, hwhole, hnone, hdone, Bool.false_eq_true, if_false, if_true, OfNat.one_ne_ofNat, decide_false, Bool.or_false,
    Bool.not_true]
  rfl

/-- A wait without an arrival before it is an acquire fence (08 R243). -/
theorem barForm_waitAlone : barForm 2 l b s = .next (retire 1 (standOff l b (acquire (standAt l b s)))) := by
  simp only [barForm, hdecl, hcheck, hwhole, hnone, Bool.false_eq_true, if_false, if_true, OfNat.ofNat_ne_one, decide_true, Bool.true_or]
  rfl

/-- The full form whose arrival completes the phase goes past at once. -/
theorem barForm_completesPhase {a : BarArrival} (hdone : releaseDone (barScope s.crew l) (standAt l b s) = true)
    (ha : myArrival (arriveAt l b (some s.k.e.pc) (standAt l b s)).k l b = some a)
    (hover : phaseOver a (arriveAt l b (some s.k.e.pc) (standAt l b s)) = true) :
    barForm 0 l b s = .next (passBar l b (arriveAt l b (some s.k.e.pc) (standAt l b s))) := by
  simp only [barForm, hdecl, hcheck, hwhole, hnone, hdone, ha, hover, Bool.false_eq_true, if_false, if_true, Nat.zero_ne_one, OfNat.zero_ne_ofNat,
    decide_false, Bool.or_false, Bool.not_true]
  rfl

end

/-- Settles O14: the arms of `barForm` without an earlier arrival, and past an earlier one by `barForm_passes`. -/
theorem barrierFormsComplete : Obligations.BarrierFormsComplete := by
  unfold Obligations.BarrierFormsComplete
  intro l b s hdecl hcheck hwhole
  have hall : ¬ s.k.e.mask ≠ liveMask s.k := not_not.mpr hwhole
  exact ⟨fun hnone hdone => barForm_firstArrival hdecl hcheck hall hnone hdone, fun hnone => barForm_waitAlone hdecl hcheck hall hnone,
    fun a ha hover => barForm_passes hdecl hcheck hall ha (.inl rfl) hover,
    fun a hnone hdone ha hover => barForm_completesPhase hdecl hcheck hall hnone hdone ha hover⟩

end Sys2Proof.Proofs
end

section
/-! PROOFS. One step of the machine: whose turn it is, the fetch and the instruction that it runs (06 R171, 07 R190, R196, R211, 15 R409, 16 R413). -/
namespace Sys2Proof.Proofs
open Sys2Proof Sys2Proof.Machine Sys2Proof.Laws Sys2Proof.Claims

/-! ### Events and instructions -/

theorem withPfx_isEmpty (x : Option Nat) (w : Nat) : (withPfx x w).isEmpty = false := by cases x <;> rfl

/-- An event is what no word encodes. -/
theorem isEvent_eq (i : Instr) : isEvent i = i.isEvent := by
  cases i
  case vmul | vmin | vmax | vlea | fadd | fsub | fmul | ffma | fmin | fmax | fscale | fcvt | fround | fclass | vldN8 | vldN16 | vld | vldN64 | vstN8
    | vstN16 | vst | vstN64 | pgreq | sld | sst | sclr | gld | gst | gatom => exact withPfx_isEmpty _ _
  all_goals rfl

/-! ### What a fetch leaves unchanged -/

theorem l2Access_isPriv (first : Bool) (line : Nat) (s : State) : isPriv (l2Access first line s) = isPriv s := by
  obtain ⟨⟨_, _, _, _, _, _, _, h⟩, -⟩ := l2Access_cachesOnly first line s
  rw [h]
  rfl

theorem fillCode_isPriv (evict : Bool) (va key : Nat) (s : State) : isPriv (fillCode evict va key s) = isPriv s := by
  unfold fillCode
  dsimp only
  split
  · exact l2Access_isPriv _ _ _
  · exact l2Access_isPriv _ _ _

/-- A fetch changes neither the crew nor which contexts are privileged. -/
theorem fetchWord_isPriv {va w : Nat} {s v : State} (h : fetchWord va s = .ok (w, v)) : isPriv v = isPriv s := by
  unfold fetchWord at h
  split at h
  · cases h
    rfl
  · obtain ⟨⟨r, s1⟩, hres, h⟩ := exists_of_bind_eq_ok h
    obtain ⟨_, rfl⟩ := resolve_tlbsOnly hres
    obtain ⟨s2, hready, h⟩ := exists_of_bind_eq_ok h
    obtain rfl := hostReady_eq_ok hready
    split at h
    · cases h
    · split at h
      · cases h
        exact fillCode_isPriv _ _ _ _
      · cases h
        rfl

/-! ### The instruction at the program counter -/

section
variable {u v z : State} {w x : Nat}

theorem runAtPc_of_ok {p : Bool} {i : Instr} (h : fetchInstr u = (p, .ok (i, v))) : runAtPc u = exec i v := by rw [runAtPc, h]

theorem runAtPc_of_error {p : Bool} {e : Stop} (h : fetchInstr u = (p, .error e)) : runAtPc u = conclude p u (.error e) := by rw [runAtPc, h]

/-- A fetch that traps. -/
theorem runAtPc_of_fetch_error {e : Stop} (h : fetchWord u.k.e.pc.toNat u = .error e) : runAtPc u = conclude false u (.error e) :=
  runAtPc_of_error (by rw [fetchInstr, h])

theorem runAtPc_of_second_error {e : Stop} (h : fetchWord u.k.e.pc.toNat u = .ok (w, v)) (hw : isPrefix w = true)
    (h' : fetchWord ((u.k.e.pc.toNat + 4) % 2 ^ 64) v = .error e) : runAtPc u = conclude true u (.error e) :=
  runAtPc_of_error (by rw [fetchInstr, h]; simp only [hw, if_true, h'])

/-- What the decoder reads runs at the state that the fetch leaves, and what it refuses is illegal with its cause (07 R211). -/
theorem runAtPc_of_decodeAt {p : Bool} (h : fetchInstr u = (p, decodeAt w x v)) (hpriv : isPriv v = isPriv u) :
    (∀ i, decode w x = .ok i → runAtPc u = exec i v) ∧
      ∀ e, decode w x = .error e → runAtPc u = .next (takeTrap p { code := 1, cause := e.causeIn (isPriv u) } u) := by
  refine ⟨fun i hi => runAtPc_of_ok (p := p) (h.trans ?_), fun e he => (runAtPc_of_error (h.trans ?_)).trans (conclude_trap _ _ _)⟩
  · rw [decodeAt, hi]
  · rw [decodeAt, he, hpriv]

theorem fetchInstr_word (h : fetchWord u.k.e.pc.toNat u = .ok (w, v)) (hw : isPrefix w = false) : fetchInstr u = (false, decodeAt w 0 v) := by
  rw [fetchInstr, h]
  simp only [hw, Bool.false_eq_true, if_false]

theorem fetchInstr_pair (h : fetchWord u.k.e.pc.toNat u = .ok (w, v)) (hw : isPrefix w = true)
    (h' : fetchWord ((u.k.e.pc.toNat + 4) % 2 ^ 64) v = .ok (x, z)) : fetchInstr u = (true, decodeAt w x z) := by
  rw [fetchInstr, h]
  simp only [hw, if_true, h']

end

/-! ### One issue -/

section
variable {t : State}

theorem issueOne_of_deferred {x : State} (h : takeDeferred t = some x) : issueOne t = .next x := by rw [issueOne, h]

theorem issueOne_of_fileBad (h : takeDeferred t = none) (hbad : t.k.fileBad = true) :
    issueOne t = .next (takeTrap false { code := 17, cause := 2 } t) := by rw [issueOne, h, hbad]; rfl

theorem issueOne_of_entry {u : State} (h : takeDeferred t = none) (hbad : t.k.fileBad = false) (hu : chooseEntry (correctFile t) = some u) :
    issueOne t = runAtPc u := by rw [issueOne, h, hbad]; dsimp only; rw [hu]; rfl

end

theorem waitsAgain_iff {t x : State} : waitsAgain t x = true ↔ t.k.wait ≠ none ∧ x.k.wait ≠ none ∧ x.k.uid = t.k.uid := by
  simp [waitsAgain, Option.isSome_iff_ne_none, and_assoc]

theorem step_of_issue {s : State} (hs : s.schedule = []) (hb : s.beat = .issue) :
    step s = issueFrom ((cands { s with beat := .event }).length + 1) { s with beat := .event } := by
  rw [step, hs]
  dsimp only
  rw [hb]
  rfl

/-- A step whose turn is an issue is the chosen skein's, or, where that one's wait is not over, that of the candidates after it. -/
theorem issues_of_issueOne {s t : State} {o : Out} (hs : s.schedule = []) (hb : s.beat = .issue) (ht : ready { s with beat := .event } = some t)
    (ho : issueOne t = o) : Issues s t o := by
  have hstep := step_of_issue hs hb
  rw [issueFrom, ht] at hstep
  dsimp only at hstep
  rw [ho] at hstep
  refine ⟨fun hover => ?_, fun x hx hw hwx huid => ?_⟩
  · rw [hstep]
    split
    · next x =>
      refine if_neg fun hagain => ?_
      obtain ⟨hw, hwx, huid⟩ := waitsAgain_iff.mp hagain
      obtain hnone | hdone := hover
      · exact hw hnone
      · exact (hdone x rfl).elim hwx (absurd huid)
    · rfl
  · subst hx
    rw [hstep]
    exact if_pos (waitsAgain_iff.mpr ⟨hw, hwx, huid⟩)

/-- Settles O53: each turn of `step`, and of the chosen skein's issue by `issueOne` and the fetch. -/
theorem stepRunsTheDecodedInstruction : Obligations.StepRunsTheDecodedInstruction := by
  unfold Obligations.StepRunsTheDecodedInstruction
  intro s
  refine ⟨fun t hs hb ht => ?_, fun hs hb hnone => ?_, fun i l hs hi => ?_, fun i l hs hi => ?_, fun i hs hb hi => ?_, fun hs hb hpower => ?_,
    fun b hs hb hpower => ?_⟩
  · have hissue {o : Out} (ho : issueOne t = o) : Issues s t o := issues_of_issueOne hs hb ht ho
    refine ⟨fun x hx => hissue (issueOne_of_deferred hx), fun hx hbad => hissue (issueOne_of_fileBad hx hbad), fun u hx hbad hu => ?_⟩
    have hrun := issueOne_of_entry hx hbad hu
    refine ⟨fun e he => hissue (hrun.trans (runAtPc_of_fetch_error he)), fun v w hv => ⟨fun hw => ?_, fun hw =>
      ⟨fun e he => hissue (hrun.trans (runAtPc_of_second_error hv hw he)), fun x z hz => ?_⟩⟩⟩
    · obtain ⟨hok, herr⟩ := runAtPc_of_decodeAt (fetchInstr_word hv hw) (fetchWord_isPriv hv)
      exact ⟨fun i hi => hissue (hrun.trans (hok i hi)), fun e he => hissue (hrun.trans (herr e he))⟩
    · obtain ⟨hok, herr⟩ := runAtPc_of_decodeAt (fetchInstr_pair hv hw hz) ((fetchWord_isPriv hz).trans (fetchWord_isPriv hv))
      exact ⟨fun i hi => hissue (hrun.trans (hok i hi)), fun e he => hissue (hrun.trans (herr e he))⟩
  · rw [step_of_issue hs hb, issueFrom, hnone]
  · rw [step, hs]
    exact if_pos ((isEvent_eq i).trans hi)
  · rw [step, hs]
    exact if_neg (Bool.eq_false_iff.mp ((isEvent_eq i).trans hi))
  · rw [step, hs]
    simp only [hb, hi]
  · rw [step, hs]
    simp only [hb, tickBeat, hpower]
  · rw [step, hs]
    simp only [hb, tickBeat, hpower]

end Sys2Proof.Proofs
end

section
/-! PROOFS. The laws about each instruction's words, as one law about every instruction (07 R191 to R210). -/
namespace Sys2Proof.Laws.RoundTrip

/-- Every instruction's words are read back, each by the law of its own constructor. -/
theorem reads_of_wf (i : Instr) : Statement i :=
  Instr.casesOn (motive := Statement) i
    vadd vsub vmul vmulh vmad vand vor vxor vshl vshr vsar vmin vmax vlea vaddi vimm vmov vabs vpopc vclz vbcast movsVector vcvtiI32I8 vcvtiI32I16
    vcvtiN32N8 vcvtiN32N16 vcvtiI8I32 vcvtiI16I32 vcvtiN8N32 vcvtiN16N32 fadd fsub fmul ffma fmin fmax fcmp fscale fcvt fround fclass iadd isub imul
    idiv imin imax ihull isq isqrt iabs sfn sfnSlot pand por pxor pnot pmovgToPredicate pmovgToUniform shflIdx shflUp shflDown shflXor shflIdxRegister
    voteAny voteAll voteNone voteBallot vred vscan vsel vsetp vldN8 vldN16 vld vldN64 vstN8 vstN16 vst vstN64 vatom pgreq sld sldFe sldFeClr sst sclr
    smp smpPool gadd gsub gmul gmulh gmulhN gdiv gdivN grem gremN gand gor gxor gshl gshr gsar gmin gminN gmax gmaxN gpopc gclz gsel gcmp gaddi gandi
    gori gxori gshli gshri gsari gcmpi ghi bru bcc bvoteAny bvoteAll bvoteNone br brx call ret jmpg exit tail yield meld mend mmap wopen wclose spawn
    bar barArrive barWait waitc fenceRel fenceAcq fenceAr movs movsw gang cfgmode nop trap brk eret halt sfload launch launchWait lwait gld gst gatom
    cpyLin cpyShape cpyGather cpyScatter cpyMcast cpyRadd cpyDec cpyDeq cpyPack cpyUnpack cpyPut cpyGet cpySig binit barrive bwait btest shfence tmap
    mma mmas cmma accz accin accout accmov trowSum trowMax trowSmax trowNorm march marchIv mresume fprep boxt trit stkpush stkpop draw depthw nbin
    npairs nstat migrationCommit frameFree parkedStorePerform parkedStoreTimeout homeStore consumingLoadProceed fullEmptyStall arrival
    npairsClosingArrival sequencerOpStart gangLatchTimeout pairRecordEmit merge levelBarrierRelease barrierStallTimeout spawnWaitTimeout bwaitTimeout
    preemptWaitingCrew basketTimerExpiry basketLaunch skeinEnd retirementEntryFree crewEnd takeRecord priorityPreemption mailboxPendingAppend
    deferredTrapTake watchdogTrap watchdogKill kill frameStart frameSlotEnd peerTimeout pageRequestTimeout asyncOperationEnd registerWrite xltinvPage
    xltinvContext xltinvAll xltinvComplete frmgive64 frmgive2m homeAtomic homeRead memoryScrub placeUnit preemptCrew restoreCrew qctlOpen qctlClose
    qctlReset ethernetFrame enq read write resp mbox put get atom mig leave mgmt ptpMessage syncTimeout join joinComplete fabctlLeave powerOn status
    selftest diag regread regwrite attest manifest compare resume fatalrec stream streamq clockThrottle overtempShutdown globalTimeTick

end Sys2Proof.Laws.RoundTrip
end

section
/-! PROOFS. Decoding inverts encoding, and the words that no instruction has (07 R191 to R211). -/
namespace Sys2Proof.Proofs
open Sys2Proof Sys2Proof.Machine Sys2Proof.Laws Sys2Proof.Claims

/-! ### The bytes of words -/

theorem leWord_eq_ofBytes (l : List Byte) : leWord l = ofBytes l := by
  induction l with
  | nil => rfl
  | cons b l ih => rw [leWord, ofBytes, ih]

@[simp] theorem littleEndian_length (n x : Nat) : (littleEndian n x).length = n := by
  rw [littleEndian_eq_toBytes, toBytes_length]

theorem leWord_littleEndian {w : Nat} (h : w < 2 ^ 32) : leWord (littleEndian 4 w) = w := by
  rw [leWord_eq_ofBytes, littleEndian_eq_toBytes, ofBytes_toBytes]
  exact Nat.mod_eq_of_lt h

/-- A word without a second one is decoded alone. -/
theorem decodeBytes_word {w : Nat} (l : List Byte) (hw : w < 2 ^ 32) (hp : isPrefix w = false) :
    decodeBytes (littleEndian 4 w ++ l) = some (decode w 0) := by
  have htake : (littleEndian 4 w ++ l).take 4 = littleEndian 4 w := List.take_left' (littleEndian_length 4 w)
  simp [decodeBytes, htake, leWord_littleEndian hw, hp]

/-- The first word of a pair is decoded with the word after it (07 R196). -/
theorem decodeBytes_pair {x w : Nat} (l : List Byte) (hx : x < 2 ^ 32) (hw : w < 2 ^ 32) (hp : isPrefix x = true) :
    decodeBytes (littleEndian 4 x ++ (littleEndian 4 w ++ l)) = some (decode x w) := by
  have hfirst : (littleEndian 4 x ++ (littleEndian 4 w ++ l)).take 4 = littleEndian 4 x :=
    List.take_left' (littleEndian_length 4 x)
  have hrest : (littleEndian 4 x ++ (littleEndian 4 w ++ l)).drop 4 = littleEndian 4 w ++ l :=
    List.drop_left' (littleEndian_length 4 x)
  have hsecond : (littleEndian 4 w ++ l).take 4 = littleEndian 4 w := List.take_left' (littleEndian_length 4 w)
  have hlong : ¬ (4 + (4 + l.length) < 8) := by omega
  simp [decodeBytes, hfirst, hrest, hsecond, leWord_littleEndian hx, leWord_littleEndian hw, hp, hlong]

/-- The bytes of words that are read back, whatever follows them. -/
theorem decodeBytes_bytesOf {i : Instr} (l : List Byte) (h : RoundTrip.Reads i) :
    (∀ w ∈ encode i, w < 2 ^ 32) ∧ decodeBytes (bytesOf (encode i) ++ l) = some (.ok i) := by
  unfold RoundTrip.Reads at h
  split at h
  · next w hw =>
    obtain ⟨hlt, hp, hdec⟩ := h
    rw [hw, bytesOf, bytesOf, List.append_nil, decodeBytes_word l hlt hp, hdec]
    exact ⟨by simpa using hlt, rfl⟩
  · next x w hw =>
    obtain ⟨hx, hlt, hp, hdec⟩ := h
    rw [hw, bytesOf, bytesOf, bytesOf, List.append_nil, List.append_assoc, decodeBytes_pair l hx hlt hp, hdec]
    exact ⟨by simpa using ⟨hx, hlt⟩, rfl⟩
  · exact h.elim

/-- Settles O50: each constructor's words are read back, and so are their bytes. -/
theorem decodingInvertsEncoding : Obligations.DecodingInvertsEncoding := by
  unfold Obligations.DecodingInvertsEncoding
  intro i l hwf hevent
  exact decodeBytes_bytesOf l (RoundTrip.reads_of_wf i hwf hevent)

/-- The worked words are those of well-formed instructions. -/
theorem workedWords_encoded : ∀ p ∈ workedWords, p.1 = encode p.2 ∧ p.2.wf = true ∧ p.2.isEvent = false := by decide

/-- Settles O49: the worked words are what `encode` writes, and decoding inverts it. -/
theorem workedWordsDecode : Obligations.WorkedWordsDecode := by
  unfold Obligations.WorkedWordsDecode
  intro p hp
  obtain ⟨henc, hwf, hevent⟩ := workedWords_encoded p hp
  obtain ⟨-, hdec⟩ := decodingInvertsEncoding p.2 [] hwf hevent
  rwa [List.append_nil, ← henc] at hdec

/-! ### Words that no instruction has -/

theorem opOf_of_lt {w : Nat} (h : w < 2 ^ 32) : opOf w = w / 2 ^ 25 :=
  Nat.mod_eq_of_lt (Nat.div_lt_of_lt_mul h)

/-- A single word goes through the checks 2 and 3 of R211 first. -/
theorem decode_of_not_prefix {w : Nat} (v : Nat) (h : isPrefix w = false) : decode w v = wordChecks w (decodeBody .none w) := by
  rw [decode, h]
  rfl

theorem wordChecks_unassigned {w : Nat} (k : Decoded) (h : opAssigned (opOf w) = false) : wordChecks w k = .error .opcodeUnassigned := by
  rw [wordChecks, h]
  rfl

theorem wordChecks_guard8 {w : Nat} (k : Decoded) (ha : opAssigned (opOf w) = true) (hg : hasGuard (opOf w) = true) (h8 : fld w 24 21 = 8) :
    wordChecks w k = .error .guardReserved := by
  rw [wordChecks, ha, hg, h8]
  rfl

/-- Settles O51: the checks 2 and 3 of R211 come before any look at the other bits. -/
theorem unassignedWordsAreIllegal : Obligations.UnassignedWordsAreIllegal := by
  unfold Obligations.UnassignedWordsAreIllegal
  intro w v hw hp
  rw [← opOf_of_lt hw, decode_of_not_prefix v hp]
  exact ⟨wordChecks_unassigned _, wordChecks_guard8 _⟩

end Sys2Proof.Proofs
end

section
/-! PROOFS. The hardwired registers (07 R201), and special registers (07 R203, 08 R246, R247). -/
namespace Sys2Proof.Proofs
open Sys2Proof Sys2Proof.Machine Sys2Proof.Laws Sys2Proof.Claims

/-- Settles O48, by what a read after a write gives, for g and for p registers. -/
theorem hardwiredRegisters : Obligations.HardwiredRegisters := by
  unfold Obligations.HardwiredRegisters
  intro k n x m
  refine ⟨rdG_zero k, rdP_zero k, wrG_zero k x, wrP_zero k m, fun hn => ⟨?_, ?_⟩, fun j hj => ⟨?_, ?_⟩⟩
  · rw [rdG_wrG, if_pos ⟨rfl, hn⟩]
  · rw [rdP_wrP, if_pos ⟨rfl, hn⟩]
  · rw [rdG_wrG, if_neg fun h => hj h.1]
  · rw [rdP_wrP, if_neg fun h => hj h.1]

/-! ### Numbers of special registers -/

theorem viewIndex_of_lt {n : Nat} (ctx : Nat) (h : n < 0x800) : viewIndex ctx n = none := by
  rw [viewIndex, if_neg (by omega), if_neg (by omega)]

theorem specialTrap_of_lt {n : Nat} (s : State) (h : n < 0x800) : specialTrap n s = none := by
  rw [specialTrap, if_pos h]

/-- A number of the privileged view is none of the special registers'. -/
theorem le_of_viewIndex {ctx n i : Nat} (h : viewIndex ctx n = some i) : 0x800 ≤ n := by
  by_contra hn
  rw [viewIndex_of_lt ctx (by omega)] at h
  cases h

/-- A read of gtime moves the skein's latest value alone. -/
theorem noteRead_eq (n : Nat) (s : State) : ∃ g, noteRead n s = { s with k := { s.k with lastG := g } } := by
  by_cases hn : n = 8
  · exact ⟨gtimeFor s, if_pos hn⟩
  · exact ⟨s.k.lastG, if_neg hn⟩

theorem noteRead_of_viewIndex {ctx n i : Nat} (s : State) (h : viewIndex ctx n = some i) : noteRead n s = s :=
  if_neg (by have := le_of_viewIndex h; omega)

/-- A write has no trap where its number, GANG's value and the context's privilege have none. -/
theorem writeTrap_eq_none {n : Nat} {x : Word64} {s : State} (hn : specialTrap n s = none) (hpriv : n = 13 → isPriv s = true)
    (hgang : n = 7 → gangOk x s = true) : writeTrap n x s = none := by
  rw [writeTrap, hn, if_neg (by simpa using hpriv), if_neg (by simpa using hgang)]
  rfl

/-! ### Reads -/

theorem exec_movs_special {d n : Nat} {s : State} (hn : n < 0x800) (hp : Passes {} s) :
    exec (.movs d n) s = .next (retire 1 { noteRead n s with k := wrG d (specialRead n s) (noteRead n s).k }) := by
  have harm : exec (.movs d n) s = execMovs d n s := rfl
  rw [harm, execMovs, specialTrap_of_lt s hn]
  refine issue_eq_next hp ?_
  rw [viewIndex_of_lt _ hn]

theorem exec_movs_view {d n i : Nat} {s : State} (ht : specialTrap n s = none) (hi : viewIndex s.crew.ctx n = some i) (hp : Passes {} s) :
    exec (.movs d n) s = .next (retire 1 { s with k := wrG d (viewRead s i) s.k }) := by
  have harm : exec (.movs d n) s = execMovs d n s := rfl
  rw [harm, execMovs, ht]
  refine issue_eq_next hp ?_
  rw [hi, noteRead_of_viewIndex s hi]

theorem exec_movsVector {g d a : Nat} {s : State} (hp : Passes { vs := [(d, 1)] } s) :
    exec (.movsVector g d a) s = .next (retire 1 { noteRead a s with
      k := wrV (active (noteRead a s).k g) d (fun L => if a = 0 then w32 L else w32 (specialRead a s).toNat) (noteRead a s).k }) := by
  have harm : exec (.movsVector g d a) s = execMovsVector g d a s := rfl
  obtain ⟨hcheck, hstores, hheld⟩ := hp
  exact harm.trans (simple_passes _ hcheck hstores hheld)

/-- The lanes and the registers that a lane write names do not depend on the latest gtime read. -/
theorem lanesWritten_noteRead (n g d : Nat) (f : Nat → Word32) (s : State) :
    LanesWritten (active s.k g) (fun L => ren s.k L d) f s.k.v (wrV (active (noteRead n s).k g) d f (noteRead n s).k).v := by
  have hwritten := lanesWritten_wrV (active (noteRead n s).k g) d f (noteRead n s).k
  obtain ⟨_, hread⟩ := noteRead_eq n s
  rwa [hread] at hwritten ⊢

/-! ### Writes -/

theorem exec_movsw_special {a n : Nat} {s : State} (hp : Passes {} s) (hn : n < 0x800) (hpriv : n = 13 → isPriv s = true)
    (hgang : n = 7 → gangOk (rdG s.k a) s = true) : exec (.movsw a n) s = .next (retire 1 (specialWrite n (rdG s.k a) s)) := by
  have harm : exec (.movsw a n) s = execMovsw a n s := rfl
  rw [harm, execMovsw, writeTrap_eq_none (specialTrap_of_lt s hn) hpriv hgang]
  refine issue_eq_next hp ?_
  rw [viewIndex_of_lt _ hn]

theorem exec_movsw_view {a n i : Nat} {s : State} (hp : Passes {} s) (ht : specialTrap n s = none) (hi : viewIndex s.crew.ctx n = some i) :
    exec (.movsw a n) s = if viewMemory i (rdG s.k a) s = true then .next (viewWrite i (rdG s.k a) (retire 1 s)) else .fault .noSuchMemory := by
  have harm : exec (.movsw a n) s = execMovsw a n s := rfl
  have hn := le_of_viewIndex hi
  rw [harm, execMovsw, writeTrap_eq_none ht (by omega) (by omega)]
  refine (issue_of_passes _ hp).trans ?_
  rw [hi]
  dsimp only
  split <;> rfl

/-- GANG of a list of skeinids: their number, and a field of six bits for each (06 R168). -/
def gangWord (l : List Nat) : Word64 := nat64 (l.length * 2 ^ 36 + ((List.range l.length).map fun j => l.getD j 0 * 2 ^ (6 * j)).sum)

theorem foldl_add_eq_sum (f : Nat → Nat) (l : List Nat) (a : Nat) : l.foldl (fun acc j => acc + f j) a = a + (l.map f).sum := by
  rw [List.sum_eq_foldl, ← List.foldl_assoc (α := Nat) (op := (· + ·)), Nat.add_zero, List.foldl_map]

theorem gangOf_eq_gangWord {x : Nat} {l : List Nat} {s : State} (hl : l = (List.range 64).filter fun i => x.testBit i) (hlen : l.length ≤ 6)
    (hin : ∀ i ∈ l, i < skeinTotal s.crew.lrec) (hok : gangOk (gangWord l) s = true) : gangOf x s = some (gangWord l) := by
  have hsound : ¬ (l.any (fun i => decide (skeinTotal s.crew.lrec ≤ i)) || decide (6 < l.length)) = true := by simpa using ⟨hin, hlen⟩
  have hword : w64 ((List.range l.length).foldl (fun acc j => acc + l.getD j 0 * 2 ^ (6 * j)) (l.length * 2 ^ 36)) = gangWord l := by
    rw [foldl_add_eq_sum fun j => l.getD j 0 * 2 ^ (6 * j)]
    rfl
  subst hl
  refine (if_neg hsound).trans ?_
  simp only [nbit, hword, if_pos hok]

theorem exec_gang {a : Nat} {v : Word64} {s : State} (hp : Passes {} s) (h : gangOf (rdG s.k a).toNat s = some v) :
    exec (.gang a) s = .next (retire 1 (setGang v s)) := by
  have harm : exec (.gang a) s = execGang a s := rfl
  rw [harm, execGang, h]
  exact issue_eq_next hp rfl

/-- Settles O16: the reads of movs in its two forms, the writes of movsw and the gang of a mask. -/
theorem specialRegistersComplete : Obligations.SpecialRegistersComplete := by
  unfold Obligations.SpecialRegistersComplete
  refine ⟨fun s => ⟨fun d n => exec_movs_special, fun d n i => exec_movs_view,
      fun g d a hp => ⟨_, exec_movsVector hp, lanesWritten_noteRead a g d _ s⟩⟩,
    fun s hp => ⟨fun a n => exec_movsw_special hp, fun a n i ht hi => ?_, fun a l hl hlen hin hok => ?_⟩⟩
  · rw [exec_movsw_view hp ht hi]
    exact ⟨fun h => if_pos h, fun h => if_neg (by simp [h])⟩
  · exact exec_gang hp (gangOf_eq_gangWord hl hlen hin hok)

end Sys2Proof.Proofs
end

section
/-! PROOFS. Words as numbers: the 32-bit results of lanes (08 R222, R223). -/
namespace Sys2Proof.Proofs
open Sys2Proof Sys2Proof.Machine Sys2Proof.Laws Sys2Proof.Claims

/-! ### Numbers and words -/

theorem int32_toInt (a : Word32) : int32 a.toInt = a := BitVec.ofInt_toInt

theorem nat32_toNat (a : Word32) : nat32 a.toNat = a := BitVec.ofNat_toNat _ _ |>.trans (BitVec.setWidth_eq a)

/-- The two readings of a word give the same low bits. -/
theorem int32_natCast (n : Nat) : int32 n = nat32 n := BitVec.ofInt_natCast _ _

theorem signed_toNat {n : Nat} (hn : 0 < n) (a : BitVec n) : signed n a.toNat = a.toInt := by
  rw [signed, BitVec.toInt_eq_toNat_cond]
  have hpow : 2 ^ n = 2 * 2 ^ (n - 1) := by rw [← pow_succ', Nat.sub_add_cancel hn]
  refine if_congr (by omega) rfl rfl

theorem sxt_toNat {n : Nat} (hn : 0 < n) (a : BitVec n) : sxt n a.toNat = a.toInt :=
  (sxt_eq_signed a.isLt).trans (signed_toNat hn a)

/-! ### Sums, differences and products -/

theorem add_eq_nat32 (a b : Word32) : a + b = nat32 (a.toNat + b.toNat) := by
  rw [nat32, BitVec.ofNat_add, ← nat32, ← nat32, nat32_toNat, nat32_toNat]

theorem sub_eq_int32 (a b : Word32) : a - b = int32 (a.toInt - b.toInt) := by
  rw [int32, Int.sub_eq_add_neg, BitVec.ofInt_add, BitVec.ofInt_neg, ← BitVec.sub_eq_add_neg, ← int32, ← int32, int32_toInt, int32_toInt]

theorem mul_eq_nat32 (a b : Word32) : a * b = nat32 (a.toNat * b.toNat) := by
  rw [nat32, BitVec.ofNat_mul, ← nat32, ← nat32, nat32_toNat, nat32_toNat]

theorem mad_eq_nat32 (a b d : Word32) : a * b + d = nat32 (a.toNat * b.toNat + d.toNat) := by
  rw [nat32, BitVec.ofNat_add, ← nat32, ← nat32, nat32_toNat, mul_eq_nat32]

theorem addi_eq_int32 {i : Nat} (a : Word32) (h : i < 2 ^ 7) : a + ofInt32 (sxt 7 i) = int32 (a.toInt + signed 7 i) := by
  rw [int32, BitVec.ofInt_add, ← int32, int32_toInt, sxt_eq_signed h, ofInt32]

/-- The high half of a 64-bit number is its quotient by 2^32. -/
theorem extractHigh_ofInt (z : Int) : (BitVec.ofInt 64 z).extractLsb' 32 32 = int32 (z / 2 ^ 32) := by
  refine BitVec.eq_of_toNat_eq ?_
  simp only [BitVec.extractLsb'_toNat, BitVec.toNat_ofInt, Nat.shiftRight_eq_div_pow, int32]
  omega

theorem mulHigh_unsigned (a b : Word32) : mulHigh true a b = nat32 (a.toNat * b.toNat / 2 ^ 32) := by
  have hprod : a.setWidth 64 * b.setWidth 64 = BitVec.ofInt 64 ((a.toNat * b.toNat : Nat) : Int) := by
    rw [BitVec.ofInt_natCast, BitVec.ofNat_mul, BitVec.ofNat_toNat, BitVec.ofNat_toNat]
  rw [mulHigh, if_pos rfl, hprod, extractHigh_ofInt, ← int32_natCast]
  rfl

theorem mulHigh_signed (a b : Word32) : mulHigh false a b = int32 (a.toInt * b.toInt / 2 ^ 32) := by
  have hprod : a.signExtend 64 * b.signExtend 64 = BitVec.ofInt 64 (a.toInt * b.toInt) := by
    rw [BitVec.ofInt_mul]
    rfl
  rw [mulHigh, if_neg Bool.false_ne_true, hprod, extractHigh_ofInt]

theorem mulHigh_eq (uns : Bool) (a b : Word32) :
    mulHigh uns a b = if uns then nat32 (a.toNat * b.toNat / 2 ^ 32) else int32 (a.toInt * b.toInt / 2 ^ 32) := by
  cases uns
  · exact mulHigh_signed a b
  · exact mulHigh_unsigned a b

/-! ### Bits and shifts -/

theorem and_eq_nat32 (a b : Word32) : a &&& b = nat32 (Nat.land a.toNat b.toNat) := (nat32_toNat _).symm.trans (congrArg nat32 (BitVec.toNat_and a b))
theorem or_eq_nat32 (a b : Word32) : a ||| b = nat32 (Nat.lor a.toNat b.toNat) := (nat32_toNat _).symm.trans (congrArg nat32 (BitVec.toNat_or a b))
theorem xor_eq_nat32 (a b : Word32) : a ^^^ b = nat32 (Nat.xor a.toNat b.toNat) := (nat32_toNat _).symm.trans (congrArg nat32 (BitVec.toNat_xor a b))

theorem shl_eq_nat32 (a : Word32) (n : Nat) : a <<< n = nat32 (a.toNat * 2 ^ n) :=
  BitVec.eq_of_toNat_eq (by simp [nat32, Nat.shiftLeft_eq])

theorem shr_eq_nat32 (a : Word32) (n : Nat) : a >>> n = nat32 (a.toNat / 2 ^ n) := by
  rw [← nat32_toNat (a >>> n), BitVec.toNat_ushiftRight, Nat.shiftRight_eq_div_pow]

theorem sar_eq_int32 (a : Word32) (n : Nat) : a.sshiftRight n = int32 (a.toInt / 2 ^ n) := by
  rw [← int32_toInt (a.sshiftRight n), BitVec.toInt_sshiftRight, Int.shiftRight_eq_div_pow]
  norm_cast

theorem lea_eq_nat32 (a b : Word32) (n : Nat) : a + (b <<< n) = nat32 (a.toNat + b.toNat * 2 ^ n) := by
  rw [nat32, BitVec.ofNat_add, ← nat32, ← nat32, nat32_toNat, shl_eq_nat32]

/-! ### Minimum, maximum and absolute value -/

theorem minLane_eq (uns : Bool) (a b : Word32) :
    minLane uns a b = if uns then nat32 (min a.toNat b.toNat) else int32 (min a.toInt b.toInt) := by
  rw [min_comm, min_comm a.toInt, min_def_lt, min_def_lt, apply_ite nat32, apply_ite int32, nat32_toNat, nat32_toNat, int32_toInt, int32_toInt]
  cases uns <;> simp [minLane, BitVec.slt, BitVec.ult]

theorem maxLane_eq (uns : Bool) (a b : Word32) :
    maxLane uns a b = if uns then nat32 (max a.toNat b.toNat) else int32 (max a.toInt b.toInt) := by
  rw [max_def_lt, max_def_lt, apply_ite nat32, apply_ite int32, nat32_toNat, nat32_toNat, int32_toInt, int32_toInt]
  cases uns <;> simp [maxLane, BitVec.slt, BitVec.ult]

theorem abs_eq_nat32 (a : Word32) : (if a.msb then 0#32 - a else a) = nat32 a.toInt.natAbs := by
  rw [← int32_natCast, Int.natCast_natAbs]
  split
  · next h =>
    have hneg : a.toInt < 0 := BitVec.toInt_neg_of_msb_true h
    rw [abs_of_neg hneg, int32, BitVec.ofInt_neg, ← int32, int32_toInt, BitVec.zero_sub]
  · next h =>
    have hpos : 0 ≤ a.toInt := BitVec.toInt_nonneg_of_msb_false (by simpa using h)
    rw [abs_of_nonneg hpos, int32_toInt]

/-! ### Counts of bits -/

/-- Above the highest set bit of a number that is not zero there are zero bits only. -/
theorem clz_eq_zerosAbove {n x : Nat} (h : x < 2 ^ n) : clz n x = zerosAbove n x := by
  induction n with
  | zero =>
    obtain rfl : x = 0 := by omega
    rfl
  | succ n ih =>
    rw [zerosAbove, List.range_succ, List.reverse_append, List.reverse_singleton, List.singleton_append, List.takeWhile_cons]
    by_cases hx : x < 2 ^ n
    · rw [if_pos (by simp [Nat.testBit_lt_two_pow hx]), List.length_cons, ← zerosAbove, ← ih hx, clz, clz]
      split
      · rfl
      · next hne =>
        have := (Nat.log2_lt hne).mpr hx
        omega
    · have hbit : x.testBit n = true := Nat.testBit_of_two_pow_le_and_two_pow_add_one_gt (not_lt.mp hx) h
      have hne : x ≠ 0 := by
        rintro rfl
        simp at hbit
      have hlog : Nat.log2 x = n := (Nat.log2_eq_iff hne).mpr ⟨not_lt.mp hx, h⟩
      rw [if_neg (by simp [hbit]), clz, if_neg hne, hlog]
      simp

/-! ### Conversions -/

theorem satTo_eq_clamp {lo hi : Int} (x : Int) (h : lo ≤ hi) : satTo lo hi x = clamp lo hi x := by
  unfold satTo clamp
  grind

/-- The low bits of a word, sign-extended. -/
theorem signExtend_low {n : Nat} (a : Word32) (hn : 0 < n) : (a.extractLsb' 0 n).signExtend 32 = int32 (signed n (a.toNat % 2 ^ n)) := by
  have hlow : a.toNat % 2 ^ n = (a.extractLsb' 0 n).toNat := by simp
  rw [hlow, signed_toNat hn]
  rfl

theorem zeroExtend_low (a : Word32) (n : Nat) : (a.extractLsb' 0 n).setWidth 32 = nat32 (a.toNat % 2 ^ n) := by
  rw [nat32, ← BitVec.ofNat_toNat]
  simp

theorem clampUnsigned_eq (hi : Nat) (a : Word32) : w32 (min a.toNat hi) = int32 (clamp 0 hi a.toNat) := by
  rw [← satTo_eq_clamp _ (Int.natCast_nonneg _), satTo, max_eq_right (by omega), min_comm, ← Nat.cast_min, int32_natCast]
  rfl

theorem extractLow_uniform (x : Word64) : x.extractLsb' 0 32 = nat32 (x.toNat % 2 ^ 32) :=
  BitVec.eq_of_toNat_eq (by simp [nat32])

end Sys2Proof.Proofs
end

section
/-! PROOFS. Lane integer instructions (08 R220, R222, R223). -/
namespace Sys2Proof.Proofs
open Sys2Proof Sys2Proof.Machine Sys2Proof.Laws Sys2Proof.Claims

theorem eq_laneOp {o : Out} {r : Req} {g d : Nat} {f f' : Skein → Nat → Word32} {s : State} (ho : o = laneOp r g d f s)
    (h : ∀ k L, f k L = f' k L) : o = laneOp r g d f' s := by rw [ho, funext₂ h]

/-- A lane operation of three registers of one or two words. -/
theorem eq_laneOp_pfx {o : Out} {x : Option ArithPfx} {g d a b : Nat} {f f' : Skein → Nat → Word32} {s : State}
    (ho : o = laneOp (req3p x d a b) g d f s) (h : ∀ k L, f k L = f' k L) :
    o = laneOp { len := words x, vs := [(d, 1), (a, 1), (b, 1)] } g d f' s := by
  rw [ho, words_eq_pfxLen, funext₂ h]
  rfl

/-- Whether the operands have no sign, and the amount of a shift, as the first word of a pair says them (07 R199). -/
theorem unsOf_eq (x : Option ArithPfx) : unsOf x = (x.map (·.uns)).getD false := by cases x <;> rfl
theorem shOf_eq (x : Option ArithPfx) : shOf x = (x.map (·.sh)).getD 0 := by cases x <;> rfl

/-- Each instruction of R222 and R223 is a lane operation, and its result is that of its row. -/
theorem exec_laneRow {i : Instr} {r : LaneRow} {s : State} (hwf : i.wf = true) (h : laneRow i = some r) :
    exec i s = laneOp r.req r.guard r.dest r.val s := by
  unfold laneRow at h
  simp only [row3, row2, row1] at h
  split at h <;> obtain rfl | _ := h <;> rw [exec]
  · exact eq_laneOp rfl fun k L => add_eq_nat32 _ _
  · exact eq_laneOp rfl fun k L => sub_eq_int32 _ _
  · exact eq_laneOp_pfx rfl fun k L => mul_eq_nat32 _ _
  · exact eq_laneOp rfl fun k L => mulHigh_eq _ _ _
  · exact eq_laneOp rfl fun k L => mad_eq_nat32 _ _ _
  · exact eq_laneOp rfl fun k L => and_eq_nat32 _ _
  · exact eq_laneOp rfl fun k L => or_eq_nat32 _ _
  · exact eq_laneOp rfl fun k L => xor_eq_nat32 _ _
  · exact eq_laneOp rfl fun k L => shl_eq_nat32 _ _
  · exact eq_laneOp rfl fun k L => shr_eq_nat32 _ _
  · exact eq_laneOp rfl fun k L => sar_eq_int32 _ _
  · next x _ _ _ _ => exact eq_laneOp_pfx rfl fun k L => unsOf_eq x ▸ minLane_eq _ _ _
  · next x _ _ _ _ => exact eq_laneOp_pfx rfl fun k L => unsOf_eq x ▸ maxLane_eq _ _ _
  · next x _ _ _ _ => exact eq_laneOp_pfx rfl fun k L => shOf_eq x ▸ lea_eq_nat32 _ _ _
  · next i =>
    have hi : i < 2 ^ 7 := of_decide_eq_true (Bool.and_eq_true_iff.mp hwf).2
    exact eq_laneOp rfl fun k L => addi_eq_int32 _ hi
  · next i =>
    have hi : i < 2 ^ 14 := of_decide_eq_true (Bool.and_eq_true_iff.mp hwf).2
    exact eq_laneOp rfl fun _ _ => congrArg int32 (sxt_eq_signed hi)
  · rfl
  · exact eq_laneOp rfl fun k L => abs_eq_nat32 _
  · rfl
  · exact eq_laneOp rfl fun k L => congrArg w32 (clz_eq_zerosAbove (rdV k _ L).isLt)
  · exact eq_laneOp rfl fun k L => extractLow_uniform _
  · exact eq_laneOp rfl fun k L => signExtend_low _ (by decide)
  · exact eq_laneOp rfl fun k L => signExtend_low _ (by decide)
  · exact eq_laneOp rfl fun k L => zeroExtend_low _ _
  · exact eq_laneOp rfl fun k L => zeroExtend_low _ _
  · exact eq_laneOp rfl fun k L => congrArg int32 (satTo_eq_clamp _ (by decide))
  · exact eq_laneOp rfl fun k L => congrArg int32 (satTo_eq_clamp _ (by decide))
  · exact eq_laneOp rfl fun k L => clampUnsigned_eq _ _
  · exact eq_laneOp rfl fun k L => clampUnsigned_eq _ _

/-- Settles O1: each instruction is a lane operation with the result of its row, which writes one vector register. -/
theorem laneIntegerResults : Obligations.LaneIntegerResults := by
  unfold Obligations.LaneIntegerResults
  rintro i r s hwf hrow ⟨hcheck, hstores, hheld⟩
  refine ⟨_, ?_, lanesWritten_wrV _ _ _ _⟩
  rw [exec_laneRow hwf hrow, laneOp_passes _ _ _ hcheck hstores hheld]
  rfl

end Sys2Proof.Proofs
end

section
/-! PROOFS. Uniform registers as numbers: operands, results at their width, conditions (08 R231, 07 R210). -/
namespace Sys2Proof.Proofs
open Sys2Proof Sys2Proof.Machine Sys2Proof.Laws Sys2Proof.Claims

/-! ### Operands and results at their width -/

theorem int64_toInt (x : Word64) : int64 x.toInt = x := BitVec.ofInt_toInt

theorem nat64_toNat (x : Word64) : nat64 x.toNat = x := (BitVec.ofNat_toNat _ _).trans (BitVec.setWidth_eq x)

theorem int64_natCast (n : Nat) : int64 n = nat64 n := BitVec.ofInt_natCast _ _

theorem int64_toNat (x : Word64) : int64 x.toNat = x := (int64_natCast _).trans (nat64_toNat x)

/-- A uniform operation is on 32 or on 64 bits. -/
theorem bitsOf_cases (w : Nat) : (w = 1 ∧ bitsOf w = 32) ∨ (w ≠ 1 ∧ bitsOf w = 64) := by
  unfold Claims.bitsOf
  split <;> simp_all

theorem bitsOf_pos (w : Nat) : 0 < bitsOf w := by
  obtain ⟨-, h⟩ | ⟨-, h⟩ := bitsOf_cases w <;> omega

theorem widthW_eq_bitsOf (w : Nat) : widthW w = bitsOf w := rfl

theorem opU_toNat (w : Nat) (x : Word64) : (opU w x).toNat = x.toNat % 2 ^ bitsOf w := by
  obtain ⟨hw, hbits⟩ | ⟨hw, hbits⟩ := bitsOf_cases w
  · rw [opU, if_pos hw, hbits, BitVec.toNat_setWidth, BitVec.extractLsb'_toNat, Nat.shiftRight_zero]
    omega
  · rw [opU, if_neg hw, hbits, Nat.mod_eq_of_lt x.isLt]

theorem opS_toInt (w : Nat) (x : Word64) : (opS w x).toInt = signed (bitsOf w) (x.toNat % 2 ^ bitsOf w) := by
  obtain ⟨hw, hbits⟩ | ⟨hw, hbits⟩ := bitsOf_cases w
  · have hlow : x.toNat % 2 ^ 32 = (x.extractLsb' 0 32).toNat := by simp
    rw [opS, if_pos hw, hbits, hlow, signed_toNat (by decide)]
    exact BitVec.toInt_signExtend_of_le (by decide)
  · rw [opS, if_neg hw, hbits, Nat.mod_eq_of_lt x.isLt, signed_toNat (by decide)]

/-- The result of an exact integer: with W32 its low 32 bits, sign-extended (08 R231). -/
theorem resW_int64 (w : Nat) (z : Int) : resW w (int64 z) = narrow w z := by
  obtain ⟨hw, hbits⟩ | ⟨hw, hbits⟩ := bitsOf_cases w
  · have hlow : (z % (2 ^ 32 : Nat)).toNat = ((int64 z).extractLsb' 0 32).toNat := by
      rw [BitVec.extractLsb'_toNat, int64, BitVec.toNat_ofInt, Nat.shiftRight_zero]
      omega
    rw [resW, if_pos hw, narrow, hbits, hlow, signed_toNat (by decide)]
    rfl
  · have hall : (z % (2 ^ 64 : Nat)).toNat = (int64 z).toNat := (BitVec.toNat_ofInt _).symm
    rw [resW, if_neg hw, narrow, hbits, hall, signed_toNat (by decide), int64_toInt]

theorem narrow_congr {w : Nat} {z z' : Int} (h : z ≡ z' [ZMOD (2 ^ bitsOf w : Nat)]) : narrow w z = narrow w z' := by
  rw [narrow, narrow, h]

variable (w : Nat) (k : Skein)

theorem opU_rdG_toNat (n : Nat) : (opU w (rdG k n)).toNat = Ug w k n := opU_toNat _ _
theorem opS_rdG_toInt (n : Nat) : (opS w (rdG k n)).toInt = Sg w k n := opS_toInt _ _

theorem opU_rdG (n : Nat) : opU w (rdG k n) = nat64 (Ug w k n) := by rw [← opU_rdG_toNat, nat64_toNat]
theorem opS_rdG (n : Nat) : opS w (rdG k n) = int64 (Sg w k n) := by rw [← opS_rdG_toInt, int64_toInt]

theorem Ug_lt (n : Nat) : Ug w k n < 2 ^ bitsOf w := Nat.mod_lt _ (Nat.two_pow_pos _)

/-- An operand read without a sign is its register, to its width. -/
theorem Ug_modEq (n : Nat) : ((rdG k n).toNat : Int) ≡ Ug w k n [ZMOD (2 ^ bitsOf w : Nat)] :=
  Int.natCast_modEq_iff.mpr (Nat.mod_modEq _ _).symm

/-- An operand read with a sign is its register, to its width. -/
theorem Sg_modEq (n : Nat) : ((rdG k n).toNat : Int) ≡ Sg w k n [ZMOD (2 ^ bitsOf w : Nat)] := by
  refine (Ug_modEq w k n).trans ?_
  rw [Sg, signed]
  split
  · exact rfl
  · exact Int.modEq_iff_dvd.mpr ⟨-1, by ring⟩

/-! ### Sums, differences and products -/

theorem narrow_add (a b : Nat) : resW w (rdG k a + rdG k b) = narrow w (Ug w k a + Ug w k b) := by
  have hsum : rdG k a + rdG k b = int64 ((rdG k a).toNat + (rdG k b).toNat) := by
    rw [int64, BitVec.ofInt_add, ← int64, ← int64, int64_toNat, int64_toNat]
  rw [hsum, resW_int64, narrow_congr ((Ug_modEq w k a).add (Ug_modEq w k b))]

theorem narrow_sub (a b : Nat) : resW w (rdG k a - rdG k b) = narrow w (Sg w k a - Sg w k b) := by
  have hdiff : rdG k a - rdG k b = int64 ((rdG k a).toNat - (rdG k b).toNat) := by
    rw [int64, Int.sub_eq_add_neg, BitVec.ofInt_add, BitVec.ofInt_neg, ← BitVec.sub_eq_add_neg, ← int64, ← int64, int64_toNat, int64_toNat]
  rw [hdiff, resW_int64, narrow_congr ((Sg_modEq w k a).sub (Sg_modEq w k b))]

theorem narrow_mul (a b : Nat) : resW w (rdG k a * rdG k b) = narrow w (Ug w k a * Ug w k b) := by
  have hprod : rdG k a * rdG k b = int64 ((rdG k a).toNat * (rdG k b).toNat) := by
    rw [int64, BitVec.ofInt_mul, ← int64, ← int64, int64_toNat, int64_toNat]
  rw [hprod, resW_int64, narrow_congr ((Ug_modEq w k a).mul (Ug_modEq w k b))]

theorem narrow_addi {i : Nat} (a : Nat) (hi : i < 2 ^ 12) : resW w (rdG k a + imm12 0 i) = narrow w (Sg w k a + signed 12 i) := by
  have hsum : rdG k a + imm12 0 i = int64 ((rdG k a).toNat + signed 12 i) := by
    rw [int64, BitVec.ofInt_add, ← int64, int64_toNat, imm12, if_neg (by decide), sxt_eq_signed hi]
  rw [hsum, resW_int64, narrow_congr ((Sg_modEq w k a).add_right _)]

theorem narrow_mulHigh_signed (a b : Nat) :
    resW w (mulHi w true (rdG k a) (rdG k b)) = narrow w (Sg w k a * Sg w k b / (2 ^ bitsOf w : Nat)) := by
  rw [← resW_int64, mulHi, if_pos rfl, opS_rdG_toInt, opS_rdG_toInt, Nat.cast_pow]
  rfl

theorem narrow_mulHigh_unsigned (a b : Nat) :
    resW w (mulHi w false (rdG k a) (rdG k b)) = narrow w (Ug w k a * Ug w k b / 2 ^ bitsOf w : Nat) := by
  rw [← resW_int64, mulHi, if_neg Bool.false_ne_true, opU_rdG_toNat, opU_rdG_toNat, Int.natCast_ediv, Nat.cast_pow]
  rfl

/-! ### Quotients and remainders without trap (08 R231) -/

/-- All ones is the number -1. -/
theorem resW_allOnes : resW w (BitVec.allOnes 64) = narrow w (-1) := by
  have hones : BitVec.allOnes 64 = int64 (-1) := by decide
  rw [hones, resW_int64]

/-- The most negative number by -1: the quotient is that number again, to its width. -/
theorem narrow_overflow : narrow w (-(2 ^ (bitsOf w - 1)) : Int) = narrow w ((-(2 ^ (bitsOf w - 1)) : Int).tdiv (-1)) := by
  refine narrow_congr ?_
  have hpow : ((2 ^ bitsOf w : Nat) : Int) = 2 * 2 ^ (bitsOf w - 1) := by
    rw [← pow_succ', Nat.sub_add_cancel (bitsOf_pos w), Nat.cast_pow]
    rfl
  rw [Int.tdiv_neg, Int.tdiv_one, neg_neg, hpow]
  exact Int.modEq_iff_dvd.mpr ⟨1, by ring⟩

theorem narrow_divS (a b : Nat) :
    resW w (divS w (rdG k a) (rdG k b)) = narrow w (if Sg w k b = 0 then -1 else (Sg w k a).tdiv (Sg w k b)) := by
  simp only [divS, opS_rdG_toInt, widthW_eq_bitsOf]
  split
  · exact resW_allOnes w
  · split
    · next h =>
      obtain ⟨hx, hy⟩ := h
      rw [← int64, resW_int64, hx, hy]
      exact narrow_overflow w
    · exact resW_int64 w _

theorem narrow_divU (a b : Nat) :
    resW w (divU w (rdG k a) (rdG k b)) = narrow w (if Ug w k b = 0 then -1 else (Ug w k a / Ug w k b : Nat)) := by
  simp only [divU, opU_rdG_toNat]
  split
  · exact resW_allOnes w
  · rw [← resW_int64, int64_natCast]
    rfl

theorem narrow_remS (a b : Nat) :
    resW w (remS w (rdG k a) (rdG k b)) = narrow w (if Sg w k b = 0 then Sg w k a else (Sg w k a).tmod (Sg w k b)) := by
  simp only [remS, opS_rdG_toInt]
  split
  · rw [opS_rdG, resW_int64]
  · split
    · next h => rw [h.2, Int.tmod_neg, Int.tmod_one, ← resW_int64]; rfl
    · rw [← resW_int64, Int.tmod_def]; rfl

theorem narrow_remU (a b : Nat) :
    resW w (remU w (rdG k a) (rdG k b)) = narrow w (if Ug w k b = 0 then Ug w k a else Ug w k a % Ug w k b : Nat) := by
  simp only [remU, opU_rdG_toNat]
  rw [← resW_int64, int64_natCast]
  split
  · rw [opU_rdG]
  · rw [Nat.mod_def]; rfl

/-! ### Bits and shifts -/

theorem narrow_nat_congr {x y : Nat} (h : x % 2 ^ bitsOf w = y) : resW w (nat64 x) = narrow w y := by
  rw [← int64_natCast, resW_int64, ← h]
  exact narrow_congr (Int.natCast_modEq_iff.mpr (Nat.mod_modEq _ _).symm)

theorem narrow_and (a b : Nat) : resW w (rdG k a &&& rdG k b) = narrow w (Nat.land (Ug w k a) (Ug w k b)) := by
  rw [← nat64_toNat (rdG k a &&& rdG k b), BitVec.toNat_and]
  exact narrow_nat_congr w Nat.and_mod_two_pow

theorem narrow_or (a b : Nat) : resW w (rdG k a ||| rdG k b) = narrow w (Nat.lor (Ug w k a) (Ug w k b)) := by
  rw [← nat64_toNat (rdG k a ||| rdG k b), BitVec.toNat_or]
  exact narrow_nat_congr w Nat.or_mod_two_pow

theorem narrow_xor (a b : Nat) : resW w (rdG k a ^^^ rdG k b) = narrow w (Nat.xor (Ug w k a) (Ug w k b)) := by
  rw [← nat64_toNat (rdG k a ^^^ rdG k b), BitVec.toNat_xor]
  exact narrow_nat_congr w Nat.xor_mod_two_pow

/-- An amount of a shift by register: the width divides what is left out of the register. -/
theorem shAmt_rdG (n : Nat) : shAmt w (rdG k n) = Ug w k n % bitsOf w := by
  rw [shAmt, widthW_eq_bitsOf, Ug]
  refine (Nat.mod_mod_of_dvd _ ?_).symm
  obtain ⟨-, h⟩ | ⟨-, h⟩ := bitsOf_cases w <;> rw [h] <;> decide

theorem narrow_shl (a n : Nat) : resW w (shlW w (rdG k a) n) = narrow w (Ug w k a * 2 ^ n : Nat) := by
  have hshift : shlW w (rdG k a) n = nat64 (Ug w k a * 2 ^ n) := by
    rw [shlW, opU_rdG]
    exact BitVec.eq_of_toNat_eq (by simp [nat64, Nat.shiftLeft_eq])
  rw [hshift, ← int64_natCast, resW_int64]

theorem narrow_shr (a n : Nat) : resW w (shrW w (rdG k a) n) = narrow w (Ug w k a / 2 ^ n : Nat) := by
  rw [← nat64_toNat (shrW w (rdG k a) n), shrW, BitVec.toNat_ushiftRight, opU_rdG_toNat, Nat.shiftRight_eq_div_pow, ← int64_natCast, resW_int64]

theorem narrow_sar (a n : Nat) : resW w (sarW w (rdG k a) n) = narrow w (Sg w k a / (2 ^ n : Nat)) := by
  rw [← int64_toInt (sarW w (rdG k a) n), sarW, BitVec.toInt_sshiftRight, opS_rdG_toInt, Int.shiftRight_eq_div_pow, resW_int64]

/-! ### Minimum, maximum and counts of bits -/

theorem narrow_minS (a b : Nat) :
    resW w (if (opS w (rdG k b)).slt (opS w (rdG k a)) then opS w (rdG k b) else opS w (rdG k a)) = narrow w (min (Sg w k a) (Sg w k b)) := by
  rw [← resW_int64, BitVec.slt, opS_rdG_toInt, opS_rdG_toInt, opS_rdG, opS_rdG, ← apply_ite int64, min_comm, min_def_lt]
  simp only [decide_eq_true_eq]

theorem narrow_maxS (a b : Nat) :
    resW w (if (opS w (rdG k a)).slt (opS w (rdG k b)) then opS w (rdG k b) else opS w (rdG k a)) = narrow w (max (Sg w k a) (Sg w k b)) := by
  rw [← resW_int64, BitVec.slt, opS_rdG_toInt, opS_rdG_toInt, opS_rdG, opS_rdG, ← apply_ite int64, max_def_lt]
  simp only [decide_eq_true_eq]

theorem narrow_minU (a b : Nat) :
    resW w (if (opU w (rdG k b)).ult (opU w (rdG k a)) then opU w (rdG k b) else opU w (rdG k a)) = narrow w (min (Ug w k a) (Ug w k b) : Nat) := by
  rw [← resW_int64, int64_natCast, BitVec.ult, opU_rdG_toNat, opU_rdG_toNat, opU_rdG, opU_rdG, ← apply_ite nat64, min_comm, min_def_lt]
  simp only [decide_eq_true_eq]

theorem narrow_maxU (a b : Nat) :
    resW w (if (opU w (rdG k a)).ult (opU w (rdG k b)) then opU w (rdG k b) else opU w (rdG k a)) = narrow w (max (Ug w k a) (Ug w k b) : Nat) := by
  rw [← resW_int64, int64_natCast, BitVec.ult, opU_rdG_toNat, opU_rdG_toNat, opU_rdG, opU_rdG, ← apply_ite nat64, max_def_lt]
  simp only [decide_eq_true_eq]

theorem popc_rdG (a : Nat) : w64 (popc (widthW w) (opU w (rdG k a)).toNat) = nat64 (ones (bitsOf w) (Ug w k a)) := by
  rw [opU_rdG_toNat]
  rfl

theorem clz_rdG (a : Nat) : w64 (clz (widthW w) (opU w (rdG k a)).toNat) = nat64 (zerosAbove (bitsOf w) (Ug w k a)) := by
  rw [opU_rdG_toNat, widthW_eq_bitsOf, clz_eq_zerosAbove (Ug_lt w k a)]
  rfl

/-! ### Conditions -/

/-- The ten conditions on numbers of `n` bits (07 R210). -/
theorem intCond_eq_cond {n x y : Nat} (c : Nat) (hx : x < 2 ^ n) (hy : y < 2 ^ n) :
    intCond n c x y = cond c (signed n x) (signed n y) x y := by
  simp only [intCond, sxt_eq_signed hx, sxt_eq_signed hy]
  rfl

theorem cmpW_rdG (c a b : Nat) :
    cmpW w c (rdG k a) (rdG k b) = if cond c (Sg w k a) (Sg w k b) (Ug w k a) (Ug w k b) then 1#64 else 0#64 := by
  rw [cmpW, opU_rdG_toNat, opU_rdG_toNat, widthW_eq_bitsOf, intCond_eq_cond c (Ug_lt w k a) (Ug_lt w k b)]
  rfl

/-- A number that `n` bits hold is read back from its residue. -/
theorem signed_emod {n : Nat} {z : Int} (hn : 0 < n) (hlo : -(2 ^ (n - 1)) ≤ z) (hhi : z < 2 ^ (n - 1)) : signed n (z % (2 ^ n : Nat)).toNat = z := by
  have hpow : ((2 ^ n : Nat) : Int) = 2 * 2 ^ (n - 1) := by
    rw [← pow_succ', Nat.sub_add_cancel hn, Nat.cast_pow]
    rfl
  rw [← BitVec.toNat_ofInt, signed_toNat hn, BitVec.toInt_ofInt]
  exact Int.bmod_eq_of_le (by omega) (by omega)

theorem signed_8_bounds {i : Nat} (hi : i < 2 ^ 8) : -128 ≤ signed 8 i ∧ signed 8 i < 128 := by
  unfold signed
  split <;> omega

theorem cmpW_immediate {i : Nat} (c a : Nat) (hi : i < 2 ^ 8) :
    cmpW w c (rdG k a) (BitVec.ofInt 64 (sxt 8 i)) =
      if cond c (Sg w k a) (signed 8 i) (Ug w k a) (signed 8 i % (2 ^ bitsOf w : Nat)).toNat then 1#64 else 0#64 := by
  have hbounds := signed_8_bounds hi
  have hbits := bitsOf_cases w
  have hy : (opU w (BitVec.ofInt 64 (signed 8 i))).toNat = (signed 8 i % (2 ^ bitsOf w : Nat)).toNat := by
    rw [opU_toNat, BitVec.toNat_ofInt]
    obtain ⟨-, h⟩ | ⟨-, h⟩ := hbits <;> rw [h] <;> omega
  have hlt : (signed 8 i % (2 ^ bitsOf w : Nat)).toNat < 2 ^ bitsOf w := by
    obtain ⟨-, h⟩ | ⟨-, h⟩ := hbits <;> rw [h] <;> omega
  have hsigned : signed (bitsOf w) (signed 8 i % (2 ^ bitsOf w : Nat)).toNat = signed 8 i := by
    refine signed_emod (bitsOf_pos w) ?_ ?_ <;> obtain ⟨-, h⟩ | ⟨-, h⟩ := hbits <;> rw [h] <;> omega
  rw [cmpW, sxt_eq_signed hi, opU_rdG_toNat, hy, widthW_eq_bitsOf, intCond_eq_cond c (Ug_lt w k a) hlt, hsigned]
  rfl

/-! ### Immediates -/

theorem imm12_toNat {z i : Nat} (hi : i < 2 ^ 12) : (imm12 z i).toNat = immediate z i := by
  unfold imm12 immediate
  split
  · rw [w64, BitVec.toNat_ofNat]
    omega
  · rw [BitVec.toNat_ofInt, sxt_eq_signed hi]

theorem and_imm12 {i : Nat} (a z : Nat) (hi : i < 2 ^ 12) : rdG k a &&& imm12 z i = nat64 (Nat.land (rdG k a).toNat (immediate z i)) := by
  rw [← nat64_toNat (rdG k a &&& imm12 z i), BitVec.toNat_and, imm12_toNat hi]
  rfl

theorem or_imm12 {i : Nat} (a z : Nat) (hi : i < 2 ^ 12) : rdG k a ||| imm12 z i = nat64 (Nat.lor (rdG k a).toNat (immediate z i)) := by
  rw [← nat64_toNat (rdG k a ||| imm12 z i), BitVec.toNat_or, imm12_toNat hi]
  rfl

theorem xor_imm12 {i : Nat} (a z : Nat) (hi : i < 2 ^ 12) : rdG k a ^^^ imm12 z i = nat64 (Nat.xor (rdG k a).toNat (immediate z i)) := by
  rw [← nat64_toNat (rdG k a ^^^ imm12 z i), BitVec.toNat_xor, imm12_toNat hi]
  rfl

end Sys2Proof.Proofs
end

section
/-! PROOFS. Uniform integer instructions (08 R231, R232). -/
namespace Sys2Proof.Proofs
open Sys2Proof Sys2Proof.Machine Sys2Proof.Laws Sys2Proof.Claims

theorem eq_unifOp {o : Out} {d : Nat} {f f' : Skein → Word64} {s : State} (ho : o = unifOp d f s) (h : ∀ k, f k = f' k) : o = unifOp d f' s := by
  rw [ho, funext h]

theorem eq_unif2 {o : Out} {d a b w : Nat} {f : Word64 → Word64 → Word64} {f' : Skein → Word64} {s : State} (ho : o = unif2 d a b w f s)
    (h : ∀ k, resW w (f (rdG k a) (rdG k b)) = f' k) : o = unifOp d f' s := eq_unifOp ho h

/-- A uniform operation whose checks pass writes its register (08 R220). -/
theorem unifOp_writes {d : Nat} {f : Skein → Word64} {s : State} (hp : Passes {} s) :
    ∃ g, unifOp d f s = .next (retire 1 { s with k := { s.k with g := g } }) ∧ UniformWritten d (f s.k) s.k { s.k with g := g } := by
  obtain ⟨hcheck, -, hheld⟩ := hp
  refine ⟨_, ?_, uniformWritten_wrG d (f s.k) s.k _ rfl⟩
  rw [unifOp_passes _ _ hcheck hheld, ← wrG_frame]

/-- Each instruction of R231 and R232 is a uniform operation, and its result is that of its row. -/
theorem exec_uniformRow {i : Instr} {d : Nat} {f : Skein → Word64} {s : State} (hwf : i.wf = true) (h : uniformRow i = some (d, f)) :
    exec i s = unifOp d f s := by
  unfold uniformRow at h
  split at h <;> cases h <;> rw [exec]
  · exact eq_unif2 rfl fun k => narrow_add _ k _ _
  · exact eq_unif2 rfl fun k => narrow_sub _ k _ _
  · exact eq_unif2 rfl fun k => narrow_mul _ k _ _
  · exact eq_unif2 rfl fun k => narrow_mulHigh_signed _ k _ _
  · exact eq_unif2 rfl fun k => narrow_mulHigh_unsigned _ k _ _
  · exact eq_unif2 rfl fun k => narrow_divS _ k _ _
  · exact eq_unif2 rfl fun k => narrow_divU _ k _ _
  · exact eq_unif2 rfl fun k => narrow_remS _ k _ _
  · exact eq_unif2 rfl fun k => narrow_remU _ k _ _
  · exact eq_unif2 rfl fun k => narrow_and _ k _ _
  · exact eq_unif2 rfl fun k => narrow_or _ k _ _
  · exact eq_unif2 rfl fun k => narrow_xor _ k _ _
  · exact eq_unif2 rfl fun k => (congrArg (fun n => resW _ (shlW _ _ n)) (shAmt_rdG _ k _)).trans (narrow_shl _ k _ _)
  · exact eq_unif2 rfl fun k => (congrArg (fun n => resW _ (shrW _ _ n)) (shAmt_rdG _ k _)).trans (narrow_shr _ k _ _)
  · exact eq_unif2 rfl fun k => (congrArg (fun n => resW _ (sarW _ _ n)) (shAmt_rdG _ k _)).trans (narrow_sar _ k _ _)
  · exact eq_unif2 rfl fun k => narrow_minS _ k _ _
  · exact eq_unif2 rfl fun k => narrow_minU _ k _ _
  · exact eq_unif2 rfl fun k => narrow_maxS _ k _ _
  · exact eq_unif2 rfl fun k => narrow_maxU _ k _ _
  · exact eq_unifOp rfl fun k => popc_rdG _ k _
  · exact eq_unifOp rfl fun k => clz_rdG _ k _
  · exact eq_unifOp rfl fun k => ite_not ..
  · exact eq_unifOp rfl fun k => cmpW_rdG _ k _ _ _
  · next i =>
    have hi : i < 2 ^ 12 := of_decide_eq_true (Bool.and_eq_true_iff.mp hwf).2
    exact eq_unifOp rfl fun k => narrow_addi _ k _ hi
  · next i =>
    have hi : i < 2 ^ 12 := of_decide_eq_true (Bool.and_eq_true_iff.mp hwf).2
    exact eq_unifOp rfl fun k => and_imm12 k _ _ hi
  · next i =>
    have hi : i < 2 ^ 12 := of_decide_eq_true (Bool.and_eq_true_iff.mp hwf).2
    exact eq_unifOp rfl fun k => or_imm12 k _ _ hi
  · next i =>
    have hi : i < 2 ^ 12 := of_decide_eq_true (Bool.and_eq_true_iff.mp hwf).2
    exact eq_unifOp rfl fun k => xor_imm12 k _ _ hi
  · exact eq_unifOp rfl fun k => narrow_shl _ k _ _
  · exact eq_unifOp rfl fun k => narrow_shr _ k _ _
  · exact eq_unifOp rfl fun k => narrow_sar _ k _ _
  · next i =>
    have hi : i < 2 ^ 8 := of_decide_eq_true (Bool.and_eq_true_iff.mp (Bool.and_eq_true_iff.mp hwf).1).2
    exact eq_unifOp rfl fun k => cmpW_immediate _ k _ _ hi
  · next i =>
    have hi : i < 2 ^ 20 := of_decide_eq_true (Bool.and_eq_true_iff.mp hwf).2
    exact eq_unifOp rfl fun k => congrArg (fun z => BitVec.ofInt 64 (z * 4096)) (sxt_eq_signed hi)

/-- Settles O2: each instruction is a uniform operation with the result of its row, which writes one register. -/
theorem uniformIntegerResults : Obligations.UniformIntegerResults := by
  unfold Obligations.UniformIntegerResults
  intro i d f s hwf hrow hp
  rw [exec_uniformRow hwf hrow]
  exact unifOp_writes hp

end Sys2Proof.Proofs
end

section
/-! PROOFS. Comparisons, predicate logic, votes, mask moves and vsel (08 R224 to R227, R229). -/
namespace Sys2Proof.Proofs
open Sys2Proof Sys2Proof.Machine Sys2Proof.Laws Sys2Proof.Claims

/-! ### Writes of predicate registers -/

theorem predicateWritten_wrP (p : Nat) (act x : Word32) {f : Nat → Bool} (k : Skein) (hx : ∀ L < 32, laneOn act L = true → laneOn x L = f L) :
    PredicateWritten p act f k (wrP p (blend act x (rdP k p)) k) := by
  intro n L hL
  rw [rdP_wrP]
  by_cases hn : n = p ∧ n ≠ 0
  · obtain ⟨rfl, hne⟩ := hn
    rw [if_pos ⟨rfl, hne⟩, laneOn_blend _ _ _ _ hL]
    split <;> simp_all
  · rw [if_neg (by grind), if_neg (by grind)]

/-- A predicate operation whose checks pass writes the bits of the lanes of ACTIVE (08 R220). -/
theorem predOp_writes {r : Req} {g p : Nat} {f : Skein → Word32} {val : Skein → Nat → Bool} {s : State} (hlen : r.len = 1) (hp : Passes r s)
    (hf : ∀ L < 32, laneOn (active s.k g) L = true → laneOn (f s.k) L = val s.k L) :
    ∃ m, predOp r g p f s = .next (retire 1 { s with k := { s.k with p := m } }) ∧
      PredicateWritten p (active s.k g) (val s.k) s.k { s.k with p := m } := by
  obtain ⟨hcheck, hstores, hheld⟩ := hp
  have hw := predicateWritten_wrP p (active s.k g) (f s.k) s.k hf
  rw [wrP_frame] at hw
  refine ⟨_, ?_, hw⟩
  rw [predOp_passes _ _ _ hcheck hstores hheld, hlen, ← wrP_frame]

theorem laneOn_ite_ones (b : Bool) {L : Nat} (hL : L < 32) : laneOn (if b then 0xFFFFFFFF#32 else 0#32) L = b := by
  cases b
  · simp [laneOn]
  · interval_cases L <;> rfl

/-- The bits of a register that ACTIVE selects are there when a lane of ACTIVE has its bit set (08 R229). -/
theorem vote_some (k : Skein) (g a : Nat) : decide (rdP k a &&& active k g ≠ 0#32) = someLane k g a := by
  rw [Bool.eq_iff_iff, decide_eq_true_eq, ne_zero_iff_lane]
  simp [someLane, laneOn_and, and_comm]

theorem vote_every (k : Skein) (g a : Nat) : decide (rdP k a &&& active k g = active k g) = everyLane k g a := by
  have hlane (L : Nat) : (!laneOn (active k g) L || laneOn (rdP k a) L) = true ↔ laneOn (rdP k a &&& active k g) L = laneOn (active k g) L := by
    rw [laneOn_and]
    cases laneOn (active k g) L <;> simp
  rw [Bool.eq_iff_iff, decide_eq_true_eq]
  simp only [everyLane, List.all_eq_true, List.mem_range, hlane]
  exact ⟨fun h L _ => by rw [h], fun h => BitVec.eq_of_getLsbD_eq h⟩

theorem vote_no (k : Skein) (g a : Nat) : decide (rdP k a &&& active k g = 0#32) = !someLane k g a := by
  rw [← vote_some, decide_not, Bool.not_not]

theorem laneOn_extractLow (x : Word64) {L : Nat} (hL : L < 32) : laneOn (x.extractLsb' 0 32) L = x.toNat.testBit L := by
  rw [laneOn, BitVec.getLsbD_extractLsb', Nat.zero_add, decide_eq_true hL, Bool.true_and, BitVec.getLsbD]

/-- The instruction is a predicate operation whose bits are `val`. -/
def WritesBits (o : Out) (r : PredRow) (s : State) : Prop :=
  r.req.len = 1 ∧ ∃ f : Skein → Word32, o = predOp r.req r.guard r.dest f s ∧ ∀ L < 32, laneOn (f s.k) L = r.val s.k L

theorem predOp_writesBits {o : Out} {r : Req} {g p : Nat} {f : Skein → Word32} {val : Skein → Nat → Bool} {s : State} (hlen : r.len = 1)
    (ho : o = predOp r g p f s) (h : ∀ L < 32, laneOn (f s.k) L = val s.k L) : WritesBits o ⟨r, g, p, val⟩ s := ⟨hlen, f, ho, h⟩

/-- A vote gives every lane the one answer (08 R229). -/
theorem voteOp_writesBits {o : Out} {g d a : Nat} {f : Word32 → Word32 → Bool} {vote : Skein → Bool} {s : State}
    (ho : o = voteOp g d a f s) (h : f (rdP s.k a &&& active s.k g) (active s.k g) = vote s.k) :
    WritesBits o ⟨{ full := true }, g, d, fun k _ => vote k⟩ s :=
  predOp_writesBits rfl ho fun _ hL => (laneOn_ite_ones _ hL).trans h

/-- Each instruction that writes a predicate register is a predicate operation with the bits of its row. -/
theorem exec_predRow {i : Instr} {r : PredRow} {s : State} (h : predRow i = some r) : WritesBits (exec i s) r s := by
  unfold predRow at h
  split at h <;> cases h <;> rw [exec]
  · refine predOp_writesBits rfl rfl fun L hL => (laneOn_maskOf _ L hL).trans ?_
    rw [intCond_eq_cond _ (rdV s.k _ L).isLt (rdV s.k _ L).isLt, signed_toNat (by decide), signed_toNat (by decide)]
    rfl
  · exact predOp_writesBits rfl rfl fun L _ => laneOn_and _ _ L
  · exact predOp_writesBits rfl rfl fun L _ => laneOn_or _ _ L
  · exact predOp_writesBits rfl rfl fun L _ => BitVec.getLsbD_xor
  · exact predOp_writesBits rfl rfl fun L hL => laneOn_not _ L hL
  · exact predOp_writesBits rfl rfl fun L hL => laneOn_extractLow _ hL
  · exact voteOp_writesBits rfl (vote_some s.k _ _)
  · exact voteOp_writesBits rfl (vote_every s.k _ _)
  · exact voteOp_writesBits rfl (vote_no s.k _ _)

/-! ### Mask moves and vsel -/

/-- A mask of lanes in a g register, zero-extended (08 R226, R229). -/
theorem getLsbD_maskRegister (k : Skein) (g a L : Nat) :
    ((rdP k a &&& active k g).setWidth 64).getLsbD L = (decide (L < 32) && laneOn (active k g) L && laneOn (rdP k a) L) := by
  by_cases hL : L < 32
  · have hL64 : L < 64 := by omega
    simp [laneOn, hL, hL64, Bool.and_comm]
  · have hoff (m : Word32) : m.getLsbD L = false := BitVec.getLsbD_of_ge m L (not_lt.mp hL)
    simp [hoff, laneOn]

theorem exec_maskRegister {i : Instr} {g d a : Nat} {full : Bool} {s : State}
    (hi : (i = .pmovgToUniform g a d ∧ full = false) ∨ (i = .voteBallot g d a ∧ full = true)) (hp : Passes { full := full } s) :
    exec i s = .next (retire 1 { s with k := wrG d ((rdP s.k a &&& active s.k g).setWidth 64) s.k }) := by
  obtain ⟨hcheck, hstores, hheld⟩ := hp
  obtain ⟨rfl, rfl⟩ | ⟨rfl, rfl⟩ := hi
  · rw [exec, execPmovgToUniform, simple_passes _ hcheck hstores hheld]
  · rw [exec, execVoteBallot, fullReq, simple_passes _ hcheck hstores hheld]

theorem exec_vsel {g d a b : Nat} {s : State} (hp : Passes { vs := [(d, 1), (a, 1), (b, 1)] } s) :
    exec (.vsel g d a b) s = .next (retire 1 { s with
      k := wrV s.k.e.mask d (fun L => if laneOn (guardLanes s.k g) L then rdV s.k a L else rdV s.k b L) s.k }) := by
  obtain ⟨hcheck, hstores, hheld⟩ := hp
  rw [exec, execVsel, req3, simple_passes _ hcheck hstores hheld]

/-- Settles O3: predicate writes by `predOp_writes`; the mask moves and vsel write one g register, one vector register. -/
theorem predicateResults : Obligations.PredicateResults := by
  unfold Obligations.PredicateResults
  refine ⟨fun i r s _ hrow hp => ?_, fun i g d a full s _ hi hp => ?_, fun g d a b s _ hp => ?_⟩
  · obtain ⟨hlen, f, hexec, hf⟩ := exec_predRow hrow
    rw [hexec]
    exact predOp_writes hlen hp fun L hL _ => hf L hL
  · refine ⟨_, _, ?_, uniformWritten_wrG d _ s.k _ rfl, getLsbD_maskRegister s.k g a⟩
    rw [exec_maskRegister hi hp, ← wrG_frame]
  · exact ⟨_, exec_vsel hp, lanesWritten_wrV _ _ _ _⟩

end Sys2Proof.Proofs
end

section
/-! PROOFS. Shuffles, reductions and scans (08 R228, R230). -/
namespace Sys2Proof.Proofs
open Sys2Proof Sys2Proof.Machine Sys2Proof.Laws Sys2Proof.Claims

/-! ### Shuffles -/

/-- There is no lane from 32 on. -/
theorem lt_of_laneOn {m : Word32} {L : Nat} (h : laneOn m L = true) : L < 32 := BitVec.lt_of_getLsbD h

theorem shflVal_eq_shuffled (k : Skein) (act : Word32) (a : Nat) (src : Option Nat) (L : Nat) : shflVal k act a src L = shuffled k act a src L := by
  cases src with
  | none => rfl
  | some t => exact if_congr (and_iff_right_of_imp lt_of_laneOn) rfl rfl

/-- A source lane beyond the last is none. -/
theorem shuffled_beyond (k : Skein) (act : Word32) (a t L : Nat) :
    shuffled k act a (some t) L = shuffled k act a (if 32 ≤ t then none else some t) L := by
  split
  · next h => exact if_neg fun hon => absurd (lt_of_laneOn hon) (by omega)
  · rfl

theorem eq_shflOp {o : Out} {r : Req} {g d a : Nat} {f src : Skein → Nat → Option Nat} {s : State} (ho : o = shflOp r g d a f s)
    (h : ∀ k L, shuffled k (active k g) a (f k L) L = shuffled k (active k g) a (src k L) L) :
    o = laneOp r g d (fun k L => shuffled k (active k g) a (src k L) L) s :=
  eq_laneOp ho fun k L => (shflVal_eq_shuffled k _ a (f k L) L).trans (h k L)

/-- Each shuffle is a lane operation that reads the source lane of its row, or the lane itself. -/
theorem exec_shuffleRow {i : Instr} {req : Req} {g d a : Nat} {src : Skein → Nat → Option Nat} {s : State}
    (h : shuffleRow i = some (req, g, d, a, src)) :
    req.len = 1 ∧ exec i s = laneOp req g d (fun k L => shuffled k (active k g) a (src k L) L) s := by
  unfold shuffleRow at h
  split at h <;> cases h <;> rw [exec] <;> refine ⟨rfl, ?_⟩
  · exact eq_shflOp rfl fun _ _ => rfl
  · exact eq_shflOp rfl fun k L => congrArg (shuffled k _ _ · L) (by simp only [← not_lt, ite_not])
  · exact eq_shflOp rfl fun k L => shuffled_beyond k _ _ _ L
  · exact eq_shflOp rfl fun _ _ => rfl
  · exact eq_shflOp rfl fun _ _ => rfl

/-- Settles O4: a shuffle is a lane operation that reads the source lane, or the lane itself. -/
theorem shuffleResults : Obligations.ShuffleResults := by
  unfold Obligations.ShuffleResults
  rintro i req g d a src s - hrow ⟨hcheck, hstores, hheld⟩
  obtain ⟨hlen, hexec⟩ := exec_shuffleRow (s := s) hrow
  refine ⟨_, ?_, lanesWritten_wrV _ _ _ _⟩
  rw [hexec, laneOp_passes _ _ _ hcheck hstores hheld, hlen]
  rfl

/-! ### Reductions -/

theorem lanesOf_eq_sources (act : Word32) (L : Nat) : lanesOf act = sources false act L := by
  simp [lanesOf, laneList, sources]

theorem lanesUpTo_eq_sources (act : Word32) (L : Nat) : ((lanesOf act).filter fun j => decide (j ≤ L)) = sources true act L := by
  simp [lanesOf, laneList, sources, List.filter_filter, Bool.and_comm]

/-- A lane of ACTIVE is among the sources of its own reduction. -/
theorem mem_sources {scan : Bool} {act : Word32} {L : Nat} (h : laneOn act L = true) : L ∈ sources scan act L := by
  simp [sources, h, lt_of_laneOn h]

theorem sources_map_ne_nil {scan : Bool} {act : Word32} {L : Nat} (f : Nat → Nat) (h : laneOn act L = true) : (sources scan act L).map f ≠ [] :=
  List.ne_nil_of_mem (List.mem_map_of_mem (mem_sources h))

/-- A sum taken modulo 2^32 at each lane is the exact sum, narrowed at the end. -/
theorem nat32_foldl_add (l : List Nat) (x : Nat) : nat32 (l.foldl (fun a b => (a + b) % 2 ^ 32) x) = nat32 (x + l.sum) := by
  induction l generalizing x with
  | nil => rfl
  | cons y l ih =>
    rw [List.foldl_cons, ih, List.sum_cons]
    exact BitVec.eq_of_toNat_eq (by simp only [nat32, BitVec.toNat_ofNat]; omega)

theorem int32_sxt (x : Nat) : int32 (sxt 32 x) = nat32 x := by
  refine BitVec.eq_of_toNat_eq ?_
  simp only [int32, nat32, sxt, BitVec.toNat_ofInt, BitVec.toNat_ofNat]
  split <;> omega

/-- A choice of the operands that a signed `f` makes, over a list. -/
theorem nat32_foldl_signed {pick : Nat → Nat → Nat} {f : Int → Int → Int} (hf : ∀ a b, sxt 32 (pick a b) = f (sxt 32 a) (sxt 32 b))
    (hidem : ∀ a, f a a = a) {x : Nat} {l : List Nat} (hlt : ∀ y ∈ x :: l, y < 2 ^ 32) :
    nat32 (l.foldl pick x) = int32 (((x :: l).map (signed 32)).foldl f (signed 32 x)) := by
  have hmap : (x :: l).map (signed 32) = (x :: l).map (sxt 32) := List.map_congr_left fun y hy => (sxt_eq_signed (hlt y hy)).symm
  rw [hmap, ← sxt_eq_signed (hlt x List.mem_cons_self), List.map_cons, List.foldl_cons, hidem, List.foldl_map,
    List.foldl_hom (sxt 32) fun a b => (hf a b).symm, int32_sxt]

theorem sxt_pickMin (a b : Nat) : sxt 32 (if sxt 32 b < sxt 32 a then b else a) = min (sxt 32 a) (sxt 32 b) := by
  rw [apply_ite (sxt 32), min_comm, min_def_lt]

theorem sxt_pickMax (a b : Nat) : sxt 32 (if sxt 32 a < sxt 32 b then b else a) = max (sxt 32 a) (sxt 32 b) := by
  rw [apply_ite (sxt 32), max_def_lt]

/-- The reduction of lanes that are not none, on integers (08 R230). -/
theorem reduce_eq_reduced {o t : Nat} {xs : List Nat} (ht : t ≠ 2) (hne : xs ≠ []) (hlt : ∀ x ∈ xs, x < 2 ^ 32) :
    w32 (reduce o t xs).1 = reduced o t xs := by
  obtain ⟨x, l, rfl⟩ := List.exists_cons_of_ne_nil hne
  have hx : x < 2 ^ 32 := hlt x List.mem_cons_self
  have hint : reduce o t (x :: l) = _ := if_neg ht
  rw [hint]
  match o with
  | 0 => exact (nat32_foldl_add l x).trans (congrArg nat32 List.sum_cons.symm)
  | 1 =>
    simp only [reduced]
    split
    · exact nat32_foldl_signed sxt_pickMin min_self hlt
    · exact congrArg (fun y => nat32 (l.foldl min y)) (min_self x).symm
  | 2 =>
    simp only [reduced]
    split
    · exact nat32_foldl_signed sxt_pickMax max_self hlt
    · exact congrArg (fun y => nat32 (l.foldl max y)) (max_self x).symm
  | 3 =>
    have hland : Nat.land (2 ^ 32 - 1) x = x := (Nat.land_comm _ _).trans (Nat.and_two_pow_sub_one_of_lt_two_pow hx)
    exact congrArg (fun y => nat32 (l.foldl Nat.land y)) hland.symm
  | 4 => exact congrArg (fun y => nat32 (l.foldl Nat.lor y)) (Nat.zero_or x).symm
  | _ + 5 => exact congrArg (fun y => nat32 (l.foldl Nat.xor y)) (Nat.zero_xor x).symm

theorem reduce_no_flags {o t : Nat} (xs : List Nat) (ht : t ≠ 2) : (reduce o t xs).2 = 0 := by
  have hint : reduce o t xs = _ := if_neg ht
  rw [hint]

theorem unionFlags_zero (act : Word32) : unionFlags act (fun _ => 0) = 0 := by
  have hfold (l : List Nat) : l.foldl (fun m _ => Nat.lor m 0) 0 = 0 := by
    induction l with
    | nil => rfl
    | cons x l ih => exact ih
  exact hfold _

theorem orFlags_zero (f : Word64) : orFlags 0 f = f := by simp [orFlags, w64]

theorem exec_reduceRow {i : Instr} {g d a o t : Nat} {scan : Bool} {s : State} (h : reduceRow i = some (g, d, a, o, t, scan)) :
    exec i s = reduceOp g d a o t (sources scan) s := by
  unfold reduceRow at h
  split at h <;> cases h <;> rw [exec]
  · rw [execVred, funext₂ lanesOf_eq_sources]
  · rw [execVscan, funext₂ lanesUpTo_eq_sources]

/-- Settles O5: the lanes' values by `reduce_eq_reduced`, the flags by `reduce_no_flags`. -/
theorem reductionResults : Obligations.ReductionResults := by
  unfold Obligations.ReductionResults
  rintro i g d a o t scan s - hrow ⟨hcheck, hstores, hheld⟩ act xs
  refine ⟨(wrV act d (fun L => w32 (reduce o t (xs L)).1) s.k).v, unionFlags act fun L => (reduce o t (xs L)).2, ?_, fun n L hL => ?_, fun ht => ?_, fun ht => by rw [ht]⟩
  · rw [exec_reduceRow hrow, reduceOp, fullReq, simple_passes _ hcheck hstores hheld]
    rfl
  · rw [lanesWritten_wrV act d (fun L => w32 (reduce o t (xs L)).1) s.k n L hL]
    refine if_ctx_congr Iff.rfl (fun hon => ?_) fun _ => rfl
    split
    · next ht => rw [ht]; rfl
    · next ht =>
      refine reduce_eq_reduced ht (sources_map_ne_nil _ hon.1) fun x hx => ?_
      obtain ⟨j, -, rfl⟩ := List.mem_map.mp hx
      exact (rdV s.k a j).isLt
  · simp only [reduce_no_flags _ ht, unionFlags_zero, orFlags_zero]

end Sys2Proof.Proofs
end

section
/-! PROOFS. Traps raised by an instruction, halt, and the return from a handler (08 R250, 16 R411, R412, R418). -/
namespace Sys2Proof.Proofs
open Sys2Proof Sys2Proof.Machine Sys2Proof.Laws Sys2Proof.Claims

/-! ### nop, trap, brk and halt -/

theorem exec_nop {s : State} (hp : Passes {} s) : exec .nop s = .next (retire 1 s) := by
  change execNop s = _
  exact issue_eq_next hp rfl

/-- A privileged context passes the check of privilege (07 R211). -/
theorem passes_priv {s : State} (hp : Passes {} s) (hpriv : isPriv s = true) : Passes { priv := 1 } s := by
  obtain ⟨hcheck, -, hheld⟩ := hp
  have hsame : check { priv := 1 } s = check {} s := by
    rw [check, check, if_neg (by simp [hpriv]), if_neg (by simp)]
    rfl
  exact ⟨hsame.trans hcheck, nofun, hheld⟩

/-- The trap is taken with epc past the instruction, which counts in a melded region. -/
def raised (code c : Nat) (s : State) : State :=
  takeTrap false { code := code, info0 := nat64 c, after := true } { s with k := { s.k with meld := meldOn 1 s.k.meld } }

theorem raiseAfter_next {code c : Nat} {s : State} (hp : Passes {} s) : raiseAfter code c s = .next (raised code c s) := by
  rw [raiseAfter, issue_of_passes _ hp]
  rfl

theorem exec_trap {c : Nat} {s : State} (hp : Passes {} s) : exec (.trap c) s = .next (raised 0x12 c s) := raiseAfter_next hp

theorem exec_brk {c : Nat} {s : State} (hp : Passes {} s) : exec (.brk c) s = .next (raised 0x13 c s) := raiseAfter_next hp

/-- A crew after halt, and the report of it (08 R250). -/
def haltedCrew (s : State) : State :=
  emit (.halted (s.crew.core + 2048 * s.crew.slot) s.crew.ctx) { retire 1 s with crew := { s.crew with halted := true } }

theorem exec_halt {s : State} (hp : Passes {} s) (hpriv : isPriv s = true) : exec .halt s = .next (haltedCrew s) := by
  change execHalt s = _
  exact issue_eq_next (passes_priv hp hpriv) rfl

theorem exec_halt_unprivileged {s : State} (h : isPriv s = false) : exec .halt s = .next (takeTrap false { code := 2, cause := 1 } s) := by
  have hcheck : check { priv := 1 } s = some { code := 2, cause := 1 } := by
    rw [check, if_pos (by simp [h])]
    rfl
  change execHalt s = _
  exact issue_trap _ hcheck

theorem exec_eret_outside {s : State} (h : s.k.handler = false) : exec .eret s = .next (takeTrap false { code := 1, cause := 9 } s) := by
  change execEret s = _
  rw [execEret, h]
  rfl

/-! ### Entries that are not parked, when a frontier is put back together -/

theorem absorb_not_parked {x : Entry} {l : List Entry} (hx : x.parked = false) (hl : ∀ e ∈ l, e.parked = false) :
    (absorb x l).1.parked = false ∧ ∀ e ∈ (absorb x l).2, e.parked = false := by
  induction l generalizing x with
  | nil => exact ⟨hx, hl⟩
  | cons y l ih =>
    obtain ⟨hy, hl⟩ := List.forall_mem_cons.mp hl
    unfold absorb
    split
    · exact ih rfl hl
    · obtain ⟨hfirst, hothers⟩ := ih hx hl
      exact ⟨hfirst, List.forall_mem_cons.mpr ⟨hy, hothers⟩⟩

theorem mergeAll_not_parked (n : Nat) {l : List Entry} (hl : ∀ e ∈ l, e.parked = false) : ∀ e ∈ mergeAll n l, e.parked = false := by
  induction n generalizing l with
  | zero => exact hl
  | succ n ih =>
    cases l with
    | nil => exact hl
    | cons x l =>
      obtain ⟨hx, hl⟩ := List.forall_mem_cons.mp hl
      obtain ⟨hfirst, hothers⟩ := absorb_not_parked hx hl
      exact List.forall_mem_cons.mpr ⟨hfirst, ih hothers⟩

theorem unparkSole_not_parked {l : List Entry} (hl : ∀ e ∈ l, e.parked = false) : ∀ e ∈ unparkSole l, e.parked = false := by
  unfold unparkSole
  split
  · split
    · exact hl
    · exact List.forall_mem_singleton.mpr rfl
  · exact hl

/-! ### The return from a handler (16 R418) -/

/-- The entries held aside, the trapping one at epc. -/
def returned (epc : Word64) (x : Entry) (l : List Entry) : List Entry :=
  (if x.pc = epc then x else { x with pc := epc, parked := false }) :: l

/-- What stands again after the handler: the lanes of those entries that are still live. -/
def restored (k : Skein) (l : List Entry) : List Entry :=
  let kept := (l.map fun e => { e with mask := e.mask &&& liveMask k }).filter fun e => decide (e.mask ≠ 0#32)
  unparkSole (mergeAll kept.length kept)

/-- Only the stands of the skein's arrivals are forgotten. -/
theorem forgetStand_frame (s : State) : ∃ a, forgetStand s = { s with k := { s.k with arrivals := a } } := by
  unfold forgetStand
  split
  · split
    · split
      · exact ⟨_, rfl⟩
      · exact ⟨_, rfl⟩
    · exact ⟨_, rfl⟩
  · exact ⟨_, rfl⟩

theorem exec_eret_inside {s : State} {h : Held} {x : Entry} {l : List Entry} (hh : s.k.handler = true) (hheld : s.k.held = some h)
    (hfront : h.frontier = x :: l) (hp : Passes { full := true } s) :
    ∃ a, exec .eret s = .next { s with k := { s.k with
      arrivals := a, handler := false, frec := 0, held := none, e := (restored s.k (returned s.k.epc x l)).headD {},
      rest := (restored s.k (returned s.k.epc x l)).drop 1, meld := h.meld, bracket := h.bracket, wait := none } } := by
  obtain ⟨a, ha⟩ := forgetStand_frame s
  refine ⟨a, ?_⟩
  change execEret s = _
  rw [execEret, if_neg (by simp [hh]), issue_of_passes _ hp, ha, leaveHandler]
  simp only [hheld, hfront]
  rfl

theorem standsIn_returned {epc pc : Word64} {x : Entry} {l : List Entry} {L : Nat} :
    StandsIn (returned epc x l) L pc ↔ (laneOn x.mask L = true ∧ pc = epc) ∨ StandsIn l L pc := by
  rw [returned, standsIn_cons, eq_comm (a := pc)]
  split
  · next h => rw [h]
  · rfl

theorem standsIn_restored {k : Skein} {l : List Entry} {L : Nat} {pc : Word64} :
    StandsIn (restored k l) L pc ↔ laneOn (liveMask k) L = true ∧ StandsIn l L pc := by
  rw [restored, standsIn_unparkSole, standsIn_mergeAll, standsIn_filter_live]
  simp only [StandsIn, List.mem_map, exists_exists_and_eq_and, laneOn_and, Bool.and_eq_true]
  grind

theorem restored_not_parked {k : Skein} {l : List Entry} (hl : ∀ e ∈ l, e.parked = false) : ∀ e ∈ restored k l, e.parked = false := by
  refine unparkSole_not_parked (mergeAll_not_parked _ fun e he => ?_)
  obtain ⟨x, hx, rfl⟩ := List.mem_map.mp (List.mem_filter.mp he).1
  exact hl x hx

theorem returned_not_parked {epc : Word64} {x : Entry} {l : List Entry} (hx : x.pc ≠ epc) (hl : ∀ e ∈ l, e.parked = false) :
    ∀ e ∈ returned epc x l, e.parked = false := by
  rw [returned, if_neg hx]
  exact List.forall_mem_cons.mpr ⟨rfl, hl⟩

/-- Settles O26: the traps and halt by their own lemmas; eret by where the lanes of the entries held aside stand again. -/
theorem systemGroupCompletes : Obligations.SystemGroupCompletes := by
  unfold Obligations.SystemGroupCompletes
  refine ⟨fun c s => ⟨fun hp => ⟨exec_nop hp, exec_trap hp, exec_brk hp⟩,
    fun hpriv hp => ⟨_, exec_halt hp hpriv, rfl, rfl, rfl, rfl⟩, exec_eret_outside, exec_halt_unprivileged⟩, ?_⟩
  intro h x l s hh hheld hfront hp
  obtain ⟨a, hexec⟩ := exec_eret_inside hh hheld hfront hp
  refine ⟨_, hexec, rfl, rfl, rfl, rfl, rfl, fun hx hl e he => ?_, rfl, rfl, rfl, rfl, rfl, rfl, rfl, rfl, fun L pc _ => ?_⟩
  · have hall := restored_not_parked (k := s.k) (returned_not_parked hx hl)
    cases hr : restored s.k (returned s.k.epc x l) <;> grind
  · rw [Stands, standsIn_headD, standsIn_restored, standsIn_returned]

end Sys2Proof.Proofs
end

section
/-! PROOFS. launch, launch.wait and lwait (08 R251, R252, 15 R397, R398). -/
namespace Sys2Proof.Proofs
open Sys2Proof Sys2Proof.Machine Sys2Proof.Laws Sys2Proof.Claims

theorem exec_lwait {s : State} (hp : Passes {} s) :
    exec .lwait s = .next (if s.crew.children = 0 then retire 1 s else beginWait 6 0 s) := by
  change execLwait s = _
  rw [execLwait, issue_of_passes _ hp]
  split <;> rfl

/-- The instruction ends with a status and is no waiter any more (08 R251). -/
def launchEnds (a x : Nat) (s t : State) : State := dropWaiter s.k.uid (retire 1 { t with k := wrG a (w64 x) t.k })

/-- What launch and launch.wait do in state `u` with the record that they have read (08 R251). -/
def launchRead (waits : Bool) (a b : Nat) (s : State) (r : List Loaded) (u : State) : Res State :=
  match (if (rdG s.k b).toNat < 16384 ∧ !(waits && u.sch.denied.contains s.k.uid) then openQueue u (rdG s.k b).toNat else none) with
  | none => .ok (launchEnds a 2 s u)
  | some q =>
    if !mayEnqueue q u.crew.ctx then .ok (launchEnds a 2 s u)
    else if ringFull q || (waits && waiterAhead u q.n s.k.uid) then
      if waits then .error (.wait (addWaiter q.n s.k.uid u) 7 0) else .ok (retire 1 { u with k := wrG a 1#64 u.k })
    else if !mayAppend q.n (launchKey u) u then .error (if waits then .wait (addWaiter q.n s.k.uid u) 7 0 else .wait u 0 0)
    else .ok (launchEnds a 0 s (appendRecord q (laneBytes r 0xFF) (some u.crew.uid) (launchKey u) u))

section
variable {a b c : Nat} {s u : State} {r : List Loaded}

/-- An instruction that reads its record goes on with it. -/
theorem launchOp_eq (waits : Bool) (hp : Passes {} s) (hrel : releaseDone 3 s = true) (hal : (rdG s.k c).toNat % 64 = 0)
    (hload : loadLanes false false 1 256 [(0xFF, (rdG s.k c).toNat)] s = .ok (r, u)) :
    launchOp waits a b c s = conclude false s (launchRead waits a b s r u) := by
  rw [launchOp, issue_of_passes _ hp, bind_of_eq_ok _ (release_ok hrel)]
  simp only [hal, ne_eq, not_true_eq_false, if_false]
  rw [bind_of_eq_ok _ hload]
  rfl

/-- No open queue that the context may append to (08 R251). -/
theorem launchRead_refused (waits : Bool) (h : 16384 ≤ (rdG s.k b).toNat ∨ openQueue u (rdG s.k b).toNat = none ∨
      ∃ q, openQueue u (rdG s.k b).toNat = some q ∧ mayEnqueue q u.crew.ctx = false) :
    launchRead waits a b s r u = .ok (launchEnds a 2 s u) := by
  unfold launchRead
  split
  · rfl
  · next q hq =>
    obtain ⟨⟨hn, -⟩, hq⟩ := (Option.ite_none_right_eq_some ..).mp hq
    obtain hbig | hnone | ⟨q', hq', hmay⟩ := h
    · omega
    · simp [hnone] at hq
    · obtain rfl : q' = q := Option.some.inj (hq'.symm.trans hq)
      rw [hmay]
      rfl

/-- The queue closed while the skein waited on it (15 R397). -/
theorem launchRead_denied (h : s.k.uid ∈ u.sch.denied) : launchRead true a b s r u = .ok (launchEnds a 2 s u) := by
  simp [launchRead, h]

variable {q : Queue} (hn : (rdG s.k b).toNat < 16384) (hq : openQueue u (rdG s.k b).toNat = some q) (hmay : mayEnqueue q u.crew.ctx = true)

include hn hq hmay

/-- What becomes of the record at a queue that takes the context's (08 R251, 15 R398). -/
theorem launchRead_open (waits : Bool) (hden : waits = true → s.k.uid ∉ u.sch.denied) :
    launchRead waits a b s r u =
      if ringFull q || (waits && waiterAhead u q.n s.k.uid) then
        if waits then .error (.wait (addWaiter q.n s.k.uid u) 7 0) else .ok (retire 1 { u with k := wrG a 1#64 u.k })
      else if !mayAppend q.n (launchKey u) u then .error (if waits then .wait (addWaiter q.n s.k.uid u) 7 0 else .wait u 0 0)
      else .ok (launchEnds a 0 s (appendRecord q (laneBytes r 0xFF) (some u.crew.uid) (launchKey u) u)) := by
  have hgo : (rdG s.k b).toNat < 16384 ∧ (!(waits && u.sch.denied.contains s.k.uid)) = true := ⟨hn, by simpa [imp_iff_not_or] using hden⟩
  rw [launchRead, if_pos hgo, hq]
  simp only [hmay, Bool.not_true, Bool.false_eq_true, if_false]

theorem launchRead_appends (waits : Bool) (hfull : ringFull q = false) (happ : mayAppend q.n (launchKey u) u = true)
    (hahead : waits = true → waiterAhead u q.n s.k.uid = false) (hden : waits = true → s.k.uid ∉ u.sch.denied) :
    launchRead waits a b s r u = .ok (launchEnds a 0 s (appendRecord q (laneBytes r 0xFF) (some u.crew.uid) (launchKey u) u)) := by
  have hroom : (ringFull q || (waits && waiterAhead u q.n s.k.uid)) = false := by simpa [hfull] using hahead
  rw [launchRead_open hn hq hmay waits hden, hroom, happ]
  rfl

theorem launchRead_waits (hden : s.k.uid ∉ u.sch.denied)
    (h : ringFull q = true ∨ waiterAhead u q.n s.k.uid = true ∨ mayAppend q.n (launchKey u) u = false) :
    launchRead true a b s r u = .error (.wait (addWaiter q.n s.k.uid u) 7 0) := by
  rw [launchRead_open hn hq hmay true fun _ => hden]
  obtain h | h | h := h <;> simp [h]

theorem launchRead_early (hfull : ringFull q = false) (happ : mayAppend q.n (launchKey u) u = false) :
    launchRead false a b s r u = .error (.wait u 0 0) := by
  rw [launchRead_open hn hq hmay false nofun, hfull, happ]
  rfl

theorem launchRead_full (hfull : ringFull q = true) : launchRead false a b s r u = .ok (retire 1 { u with k := wrG a 1#64 u.k }) := by
  rw [launchRead_open hn hq hmay false nofun, hfull]
  rfl

end

/-- Settles O27: the record is read by `launchOp_eq`, and each clause is one outcome of `launchRead`. -/
theorem launchCompletes : Obligations.LaunchCompletes := by
  unfold Obligations.LaunchCompletes
  intro a b c s hp
  refine ⟨fun h => by rw [exec_lwait hp, if_pos h], fun h => by rw [exec_lwait hp, if_neg h], ?_⟩
  intro u r hrel hal hload n out
  have hlaunch {o : Res State} (h : launchRead false a b s r u = o) : exec (.launch a b c) s = conclude false s o :=
    h ▸ launchOp_eq false hp hrel hal hload
  have hwait {o : Res State} (h : launchRead true a b s r u = o) : exec (.launchWait a b c) s = conclude false s o :=
    h ▸ launchOp_eq true hp hrel hal hload
  refine ⟨fun q hn hq hmay hfull happ => ⟨?_, fun hahead hden => ?_⟩, fun q hn hq hmay hden h => ?_, fun q hn hq hmay hfull happ => ?_,
    fun q hn hq hmay hfull => ?_, fun hden => ?_, fun h => ⟨?_, ?_⟩⟩
  · exact hlaunch (launchRead_appends hn hq hmay false hfull happ nofun nofun)
  · exact hwait (launchRead_appends hn hq hmay true hfull happ (fun _ => hahead) fun _ => hden)
  · exact hwait (launchRead_waits hn hq hmay hden h)
  · exact hlaunch (launchRead_early hn hq hmay hfull happ)
  · exact hlaunch (launchRead_full hn hq hmay hfull)
  · exact hwait (launchRead_denied hden)
  · exact hlaunch (launchRead_refused false h)
  · exact hwait (launchRead_refused true h)

end Sys2Proof.Proofs
end

section
/-! PROOFS. The fields of FMODE: cfgmode and writes of FMODE (09 R254, R257). -/
namespace Sys2Proof.Proofs
open Sys2Proof Sys2Proof.Machine Sys2Proof.Laws Sys2Proof.Claims

/-! ### FMODE put together from its fields (09 R254) -/

/-- FMODE of SEED and SRCTR as one number, of E4SAT, DRND and the flags; the reserved bits are zero. -/
def fmodeOf (high sat rnd fl : Nat) : Word64 := w64 (high * 2 ^ 16 + sat * 2 ^ 12 + rnd * 2 ^ 8 + fl)

/-- The fields of FMODE after it has been put together. -/
structure FmodeFields (m high sat rnd fl : Nat) : Prop where
  high : nb m 63 16 = high
  zero15 : nb m 15 13 = 0
  sat : nb m 12 12 = sat
  zero11 : nb m 11 11 = 0
  rnd : nb m 10 8 = rnd
  zero7 : nb m 7 6 = 0
  flags : nb m 5 0 = fl

theorem fmodeOf_fields {high sat rnd fl : Nat} (hhigh : high < 2 ^ 48) (hsat : sat < 2) (hrnd : rnd < 8) (hfl : fl < 64) :
    FmodeFields (fmodeOf high sat rnd fl).toNat high sat rnd fl := by
  rw [fmodeOf, w64_toNat_of_lt (by omega)]
  constructor <;> simp only [nb] <;> omega

/-- SEED and SRCTR are the halves of bits 63:16. -/
theorem nb_seed (m : Nat) : nb m 63 32 = nb m 63 16 / 2 ^ 16 := by simp only [nb]; omega
theorem nb_srctr (m : Nat) : nb m 31 16 = nb m 63 16 % 2 ^ 16 := by simp only [nb]; omega

/-! ### cfgmode and writes of FMODE (09 R254, R257) -/

/-- FMODE after cfgmode (09 R257). -/
def configured (r e f c : Nat) (old : Word64) : Word64 :=
  fmodeOf (nb old.toNat 63 32 * 2 ^ 16 + if c = 1 then 0 else nb old.toNat 31 16)
    (if e = 1 then 0 else if e = 2 then 1 else nb old.toNat 12 12) (if r = 0 then nb old.toNat 10 8 else r)
    (if f = 1 then 0 else nb old.toNat 5 0)

theorem exec_cfgmode {r e f c : Nat} {s : State} (hp : Passes {} s) :
    exec (.cfgmode r e f c) s = .next (retire 1 { s with k := { s.k with fmode := configured r e f c s.k.fmode } }) := by
  obtain ⟨hcheck, hstores, hheld⟩ := hp
  have hsum (a b : Nat) : a * 2 ^ 32 + b * 2 ^ 16 = (a * 2 ^ 16 + b) * 2 ^ 16 := by omega
  rw [exec, execCfgmode, simple_passes _ hcheck hstores hheld]
  simp only [configured, fmodeOf, ← hsum]
  match e with
  | 0 | 1 | 2 | _ + 3 => rfl

theorem configured_fields {r e f c : Nat} (hr : r < 8) (old : Word64) :
    FmodeFields (configured r e f c old).toNat (nb old.toNat 63 32 * 2 ^ 16 + if c = 1 then 0 else nb old.toNat 31 16)
      (if e = 1 then 0 else if e = 2 then 1 else nb old.toNat 12 12) (if r = 0 then nb old.toNat 10 8 else r)
      (if f = 1 then 0 else nb old.toNat 5 0) := by
  have hseed := nb_lt old.toNat 63 32
  have hctr := nb_lt old.toNat 31 16
  have hsat := nb_lt old.toNat 12 12
  have hrnd := nb_lt old.toNat 10 8
  have hfl := nb_lt old.toNat 5 0
  apply fmodeOf_fields <;> split_ifs <;> omega

/-- DRND after a write: a reserved code leaves it as it was (09 R254). -/
def drndAfter (x old : Word64) : Nat := if 1 ≤ nb x.toNat 10 8 ∧ nb x.toNat 10 8 ≤ 5 then nb x.toNat 10 8 else nb old.toNat 10 8

theorem writeFmode_eq (x old : Word64) :
    writeFmode x old = fmodeOf (nb x.toNat 63 16) (nb x.toNat 12 12) (drndAfter x old) (nb x.toNat 5 0) := by
  have hrnd : (if nb x.toNat 10 8 = 0 ∨ 6 ≤ nb x.toNat 10 8 then nb old.toNat 10 8 else nb x.toNat 10 8) = drndAfter x old := by
    unfold drndAfter
    split_ifs <;> omega
  rw [writeFmode, hrnd, fmodeOf]

theorem writeFmode_fields (x old : Word64) :
    FmodeFields (writeFmode x old).toNat (nb x.toNat 63 16) (nb x.toNat 12 12) (drndAfter x old) (nb x.toNat 5 0) := by
  have hrnd := nb_lt x.toNat 10 8
  have hold := nb_lt old.toNat 10 8
  rw [writeFmode_eq]
  refine fmodeOf_fields (nb_lt x.toNat 63 16) (nb_lt x.toNat 12 12) ?_ (nb_lt x.toNat 5 0)
  unfold drndAfter
  split_ifs <;> omega

/-- Settles O17: both put FMODE together from its fields, which `fmodeOf_fields` reads back. -/
theorem modeRegisterFields : Obligations.ModeRegisterFields := by
  unfold Obligations.ModeRegisterFields
  refine ⟨fun r e f c s hwf hp => ⟨_, exec_cfgmode hp, ?_⟩, fun x old => ?_⟩
  · simp only [Instr.wf, Bool.and_eq_true, decide_eq_true_eq] at hwf
    obtain ⟨⟨⟨⟨⟨hr, -⟩, -⟩, -⟩, -⟩, -⟩ := hwf
    have h := configured_fields (e := e) (f := f) (c := c) hr s.k.fmode
    have hctr : (if c = 1 then 0 else nb s.k.fmode.toNat 31 16) < 2 ^ 16 := by
      have := nb_lt s.k.fmode.toNat 31 16
      split_ifs <;> omega
    exact ⟨by rw [nb_seed, h.high]; omega, by rw [nb_srctr, h.high]; omega, h.zero15, h.sat, h.zero11, h.rnd, h.zero7, h.flags⟩
  · have h := writeFmode_fields x old
    exact ⟨h.high, h.sat, h.flags, h.rnd, h.zero15, h.zero11, h.zero7⟩

end Sys2Proof.Proofs
end

section
/-! PROOFS. Floating-point lane instructions (09 R256, R258 to R266). -/
namespace Sys2Proof.Proofs
open Sys2Proof Sys2Proof.Machine Sys2Proof.Laws Sys2Proof.Claims

/-! ### FMODE after flags and a draw (09 R256, R259) -/

theorem nb_or (a b hi lo : Nat) : nb (a ||| b) hi lo = nb a hi lo ||| nb b hi lo := by
  simp only [nb, Nat.or_div_two_pow, Nat.or_mod_two_pow]

theorem orFlags_toNat (fl : Nat) (f : Word64) : (orFlags fl f).toNat = f.toNat ||| fl % 64 := by
  rw [orFlags, BitVec.toNat_or, w64_toNat_of_lt (by omega)]

theorem nb_orFlags_flags (fl : Nat) (f : Word64) : nb (orFlags fl f).toNat 5 0 = Nat.lor (nb f.toNat 5 0) (fl % 64) := by
  have hfl : nb (fl % 64) 5 0 = fl % 64 := by simp only [nb]; omega
  rw [orFlags_toNat, nb_or, hfl]
  rfl

/-- Raised flags leave the fields above them. -/
theorem nb_orFlags_above (fl : Nat) (f : Word64) {lo : Nat} (hi : Nat) (h : 6 ≤ lo) : nb (orFlags fl f).toNat hi lo = nb f.toNat hi lo := by
  have hlow : fl % 64 < 2 ^ 6 := Nat.mod_lt fl (by decide)
  have hlt : fl % 64 < 2 ^ lo := hlow.trans_le (Nat.pow_le_pow_right (by decide) h)
  have hfl : nb (fl % 64) hi lo = 0 := by rw [nb, Nat.div_eq_of_lt hlt, Nat.zero_mod]
  rw [orFlags_toNat, nb_or, hfl, Nat.or_zero]

/-- A draw counts in SRCTR, and every other bit of FMODE is kept. -/
theorem stepCtr_fields (sr : Bool) (f : Word64) :
    nb (stepCtr sr f).toNat 15 0 = nb f.toNat 15 0 ∧ nb (stepCtr sr f).toNat 63 32 = nb f.toNat 63 32 ∧
      nb (stepCtr sr f).toNat 31 16 = if sr then (nb f.toNat 31 16 + 1) % 2 ^ 16 else nb f.toNat 31 16 := by
  cases sr with
  | false => exact ⟨rfl, rfl, rfl⟩
  | true =>
    have hseed := nb_lt f.toNat 63 32
    have hlow := nb_lt f.toNat 15 0
    rw [stepCtr, if_pos rfl, if_pos rfl, fmCtr, w64_toNat_of_lt (by omega)]
    generalize nb f.toNat 63 32 = seed at *
    generalize nb f.toNat 15 0 = low at *
    generalize nb f.toNat 31 16 = ctr
    simp only [nb]
    omega

/-- Fields within bits 15:0 are fields of those bits. -/
theorem nb_low16 (m : Nat) : nb m 5 0 = nb (nb m 15 0) 5 0 ∧ nb m 15 6 = nb (nb m 15 0) 15 6 := by
  simp only [nb]
  omega

/-! ### A floating-point lane operation -/

/-- The instruction is the lane operation with the results, the flags and the draw of its row. -/
def ComputesRow (o : Out) (r : FloatRow) (s : State) : Prop :=
  ∃ sr f, o = floatOp r.req r.guard r.dest sr f s ∧ sr s = r.draws ∧ f s = r.val

/-- FMODE after a lane operation: the flags of the lanes are raised, and a draw counts (09 R256, R259). -/
theorem raised_draw_fields (sr : Bool) (fl : Nat) (f : Word64) :
    let m := (stepCtr sr (orFlags fl f)).toNat
    nb m 5 0 = Nat.lor (nb f.toNat 5 0) (fl % 64) ∧ nb m 15 6 = nb f.toNat 15 6 ∧ nb m 63 32 = nb f.toNat 63 32 ∧
      nb m 31 16 = if sr then (nb f.toNat 31 16 + 1) % 2 ^ 16 else nb f.toNat 31 16 := by
  intro m
  obtain ⟨hlow, hseed, hctr⟩ := stepCtr_fields sr (orFlags fl f)
  refine ⟨?_, ?_, ?_, ?_⟩
  · rw [(nb_low16 m).1, hlow, ← (nb_low16 _).1, nb_orFlags_flags]
  · rw [(nb_low16 m).2, hlow, ← (nb_low16 _).2, nb_orFlags_above _ _ _ (by decide)]
  · rw [hseed, nb_orFlags_above _ _ _ (by decide)]
  · rw [hctr, nb_orFlags_above _ _ _ (by decide)]

theorem floatOp_writes {o : Out} {r : FloatRow} {s : State} (h : ComputesRow o r s) (hp : Passes r.req s) :
    ∃ v, o = .next (retire r.req.len { s with k := { s.k with
        v := v, fmode := stepCtr r.draws (orFlags (unionFlags (active s.k r.guard) fun L => (r.val L).2) s.k.fmode) } }) ∧
      LanesWritten (active s.k r.guard) (fun L => ren s.k L r.dest) (fun L => nat32 (r.val L).1) s.k.v v := by
  obtain ⟨sr, f, rfl, hsr, hf⟩ := h
  obtain ⟨hcheck, hstores, hheld⟩ := hp
  refine ⟨_, ?_, lanesWritten_wrV _ _ _ _⟩
  rw [floatOp_passes _ _ _ _ hcheck hstores hheld, hsr, hf]
  rfl

/-! ### The instructions -/

theorem floatOp_computes {o : Out} {r : Req} {g d : Nat} {sr : State → Bool} {draws : Bool} {f : State → Nat → Nat × Nat} {val : Nat → Nat × Nat}
    {s : State} (ho : o = floatOp r g d sr f s) (hsr : sr s = draws) (hf : ∀ L, f s L = val L) : ComputesRow o ⟨r, g, d, draws, val⟩ s :=
  ⟨sr, f, ho, hsr, funext hf⟩

/-- The exponent of a packed fscale is the half read as a signed number (09 R265). -/
theorem sxt_elem {pk : Nat} (h x : Nat) (hpk : pk ≠ 0) : sxt 16 (elem pk h x) = signed 16 (elem pk h x) := by
  have hlt := nb_lt x (16 * h + 15) (16 * h)
  rw [show 16 * h + 15 + 1 - 16 * h = 16 by omega] at hlt
  rw [elem, if_neg hpk]
  exact sxt_eq_signed hlt

/-- An operation on the elements of two registers (09 R261). -/
theorem float2_computes (x : Option ArithPfx) (g d a b : Nat) (op : Fmt → Rm → Nat → Nat → Nat → Nat × Nat) (s : State) :
    ComputesRow (float2 x g d a b op s) ⟨req3p x d a b, g, d, decide (rndOf x s.k.fmode = 5), fun L => perElem (pkOf x) fun h =>
      op (pkFmt (pkOf x)) (rmAt x s) (laneDraw s L h) (half x s.k a L h) (half x s.k b L h)⟩ s :=
  floatOp_computes rfl rfl fun _ => rfl

/-- A choice of the elements of two registers, without flags (09 R262). -/
theorem floatMM_eq (x : Option ArithPfx) (g d a b : Nat) (op : Fmt → Nat → Nat → Nat) (s : State) :
    floatMM x g d a b op s = laneOp { len := words x, vs := [(d, 1), (a, 1), (b, 1)] } g d
      (fun k L => nat32 (perElem (pkOf x) fun h => (op (pkFmt (pkOf x)) (half x k a L h) (half x k b L h), 0)).1) s :=
  eq_laneOp_pfx rfl fun _ _ => rfl

/-- Each instruction of R258 to R266 and R270 to R274 is the lane operation of its row. -/
theorem exec_floatRow {i : Instr} {r : FloatRow} {s : State} (h : floatRow s i = some r) : ComputesRow (exec i s) r s := by
  unfold floatRow at h
  simp only [floatElems, words_eq_pfxLen] at h
  split at h <;> cases h <;> rw [exec]
  · exact float2_computes _ _ _ _ _ fpAdd s
  · exact float2_computes _ _ _ _ _ fpSub s
  · exact float2_computes _ _ _ _ _ fpMul s
  · exact floatOp_computes rfl rfl fun _ => rfl
  · next x g d a b =>
    refine floatOp_computes rfl rfl fun L => congrArg (perElem (pkOf x)) (funext fun h => ?_)
    dsimp only
    congr 1
    exact if_ctx_congr Iff.rfl (fun _ => rfl) (sxt_elem h _)
  · exact floatOp_computes rfl rfl fun _ => rfl
  · exact floatOp_computes rfl rfl fun _ => rfl
  · exact floatOp_computes rfl rfl fun _ => rfl
  · next n =>
    refine floatOp_computes rfl rfl fun L => ?_
    split
    · next hnone => exact (if_pos hnone).symm
    · next hne => exact (if_neg hne).symm

/-- fmin, fmax and fclass are lane operations without flags (09 R262, R266). -/
theorem exec_floatQuietRow {i : Instr} {r : LaneRow} {s : State} (h : floatQuietRow i = some r) :
    exec i s = laneOp r.req r.guard r.dest r.val s := by
  unfold floatQuietRow at h
  simp only [row3] at h
  split at h <;> cases h <;> rw [exec]
  · exact floatMM_eq _ _ _ _ _ fpMin s
  · exact floatMM_eq _ _ _ _ _ fpMax s
  · rw [words_eq_pfxLen]
    exact eq_laneOp rfl fun _ _ => rfl

/-- Settles O6: the rows are lane operations by `exec_floatRow` and `exec_floatQuietRow`, fcmp writes predicate bits. -/
theorem floatResults : Obligations.FloatResults := by
  unfold Obligations.FloatResults
  refine ⟨fun i r s _ hrow hp => ?_, fun i r s _ hrow hp => ?_, fun g c p a b s _ hp => ?_⟩
  · obtain ⟨v, hexec, hv⟩ := floatOp_writes (exec_floatRow hrow) hp
    exact ⟨v, _, hexec, hv, raised_draw_fields _ _ _⟩
  · obtain ⟨hcheck, hstores, hheld⟩ := hp
    refine ⟨_, ?_, lanesWritten_wrV _ _ _ _⟩
    rw [exec_floatQuietRow hrow, laneOp_passes _ _ _ hcheck hstores hheld]
    rfl
  · rw [exec, execFcmp]
    exact predOp_writes (val := fun k L => fpCmp fp32 c (U k a L) (U k b L)) rfl hp fun L hL _ => laneOn_maskOf _ L hL

end Sys2Proof.Proofs
end

section
/-! PROOFS. Interval instructions (09 R267, R268). -/
namespace Sys2Proof.Proofs
open Sys2Proof Sys2Proof.Machine Sys2Proof.Laws Sys2Proof.Claims

/-! ### The flag IN -/

/-- Lanes that raise IN or nothing raise together IN exactly when one of them does. -/
theorem foldl_lor_flIN {f : Nat → Nat} (hf : ∀ L, f L = 0 ∨ f L = flIN) (l : List Nat) (m : Nat) :
    l.foldl (fun m L => Nat.lor m (f L)) m = Nat.lor m (if l.any fun L => decide (f L = flIN) then flIN else 0) := by
  induction l generalizing m with
  | nil => exact (Nat.or_zero m).symm
  | cons L l ih =>
    have hassoc (y : Nat) : Nat.lor (Nat.lor m (f L)) y = Nat.lor m (Nat.lor (f L) y) := Nat.lor_assoc m (f L) y
    rw [List.foldl_cons, ih, List.any_cons, hassoc]
    congr 1
    obtain h | h := hf L
    · rw [h, decide_eq_false (by decide), Bool.false_or]
      exact Nat.zero_or _
    · rw [h, decide_eq_true rfl, Bool.true_or, if_pos rfl]
      split <;> rfl

theorem unionFlags_flIN {f : Nat → Nat} (hf : ∀ L, f L = 0 ∨ f L = flIN) (act : Word32) :
    unionFlags act f = if (List.range 32).any fun L => laneOn act L && decide (f L = flIN) then flIN else 0 := by
  have hany : ((lanesOf act).any fun L => decide (f L = flIN)) = (List.range 32).any fun L => laneOn act L && decide (f L = flIN) := by
    rw [lanesOf, laneList, List.any_filter]
  rw [unionFlags, foldl_lor_flIN hf, hany]
  exact Nat.zero_or _

/-- IN is bit 5 of FMODE (09 R254). -/
theorem getLsbD_orFlags_flIN (b : Bool) (f : Word64) (j : Nat) :
    (orFlags (if b then flIN else 0) f).getLsbD j = (f.getLsbD j || (decide (j = 5) && b)) := by
  have hbit : (w64 flIN).getLsbD j = decide (j = 5) := by
    have hpow : w64 flIN = BitVec.twoPow 64 5 := rfl
    rw [hpow, BitVec.getLsbD_twoPow]
    grind
  cases b with
  | false => simp [orFlags_zero]
  | true =>
    have hor : orFlags (if true then flIN else 0) f = f ||| w64 flIN := rfl
    rw [hor, BitVec.getLsbD_or, hbit, Bool.and_true]

/-! ### The decisions of R267 -/

theorem itvCases_eq_intervalResult (hull : Bool) (x y : Itv) (f : Fx → Fx → Fx → Fx → Word64) : itvCases hull x y f = intervalResult hull x y f := by
  cases x <;> cases y <;> rfl

/-- A lane raises IN or nothing. -/
theorem intervalResult_flags (hull : Bool) (x y : Itv) (f : Fx → Fx → Fx → Fx → Word64) :
    (intervalResult hull x y f).2 = 0 ∨ (intervalResult hull x y f).2 = flIN := by
  cases x <;> cases y <;> simp [intervalResult]

/-! ### The instructions -/

theorem exec_intervalTwo {i : Instr} {g d a b : Nat} {hull : Bool} {op : Fx → Fx → Fx → Fx → Word64} {s : State}
    (h : intervalTwo i = some (g, d, a, b, hull, op)) :
    exec i s = itvOp { vs := [(d, 2), (a, 2), (b, 2)] } g d (fun k L => intervalResult hull (interval k a L) (interval k b L) op) s := by
  have hitv : exec i s = itv2 hull g d a b op s := by
    unfold intervalTwo at h
    split at h <;> cases h <;> rfl
  rw [hitv, itv2]
  simp only [itvCases_eq_intervalResult]
  rfl

theorem exec_intervalOne {i : Instr} {g d a : Nat} {op : Fx → Fx → Word64} {s : State} (h : intervalOne i = some (g, d, a, op)) :
    exec i s = itvOp { vs := [(d, 2), (a, 2)] } g d
      (fun k L => intervalResult false (interval k a L) (interval k a L) fun x y _ _ => op x y) s := by
  have hitv : exec i s = itv1 g d a op s := by
    unfold intervalOne at h
    split at h <;> cases h <;> rfl
  rw [hitv, itv1]
  simp only [itvCases_eq_intervalResult]
  rfl

/-- An interval operation writes the pairs of the lanes of ACTIVE, and raises IN or nothing. -/
theorem itvOp_writes {r : Req} {g d : Nat} {f : Skein → Nat → Word64 × Nat} {s : State} (hlen : r.len = 1) (hp : Passes r s)
    (hf : ∀ L, (f s.k L).2 = 0 ∨ (f s.k L).2 = flIN) :
    ∃ v m, itvOp r g d f s = .next (retire 1 { s with k := { s.k with v := v, fmode := m } }) ∧
      PairsWritten (active s.k g) (fun L => ren s.k L d) (fun L => (f s.k L).1) s.k.v v ∧
      ∀ j, m.getLsbD j = (s.k.fmode.getLsbD j ||
        (decide (j = 5) && (List.range 32).any fun L => laneOn (active s.k g) L && decide ((f s.k L).2 = flIN))) := by
  obtain ⟨hcheck, hstores, hheld⟩ := hp
  refine ⟨_, _, ?_, pairsWritten_wrV2 _ _ _ _, getLsbD_orFlags_flIN _ _⟩
  rw [itvOp_passes _ _ _ hcheck hstores hheld, unionFlags_flIN hf, hlen]
  rfl

/-- Settles O7: an interval instruction is the operation of `itvOp_writes` on its row's result. -/
theorem intervalResults : Obligations.IntervalResults := by
  unfold Obligations.IntervalResults
  rintro i g d req f s - hrow hp
  obtain ⟨a, b, hull, op, hi, rfl, rfl⟩ | ⟨a, op, hi, rfl, rfl⟩ := hrow
  · rw [exec_intervalTwo hi]
    exact itvOp_writes rfl hp fun L => intervalResult_flags _ _ _ _
  · rw [exec_intervalOne hi]
    exact itvOp_writes rfl hp fun L => intervalResult_flags _ _ _ _

end Sys2Proof.Proofs
end

section
/-! PROOFS. sfload (09 R272 to R275). -/
namespace Sys2Proof.Proofs
open Sys2Proof Sys2Proof.Machine Sys2Proof.Laws Sys2Proof.Claims

/-- sfload of a valid table that its two loads read (09 R275). -/
theorem exec_sfload {a n : Nat} {h t : List Byte} {s u w : State} (hp : Passes { priv := 1 } s) (hal : (rdG s.k a).toNat % 64 = 0)
    (hhead : loadOne 64 (rdG s.k a).toNat s = .ok (h, u)) (hseg : leAt h 4 1 ∈ [1, 2, 4, 8, 16, 32, 64])
    (htable : loadOne (64 + 32 * leAt h 4 1) (rdG s.k a).toNat u = .ok (t, w)) (hgood : slotBad t = none) :
    exec (.sfload a n) s = .next (retire 1 { w with en := { w.en with slots := mset [] w.en.slots n t } }) := by
  have harm : exec (.sfload a n) s = execSfload a n s := rfl
  rw [harm]
  refine issue_eq_next hp ?_
  rw [if_neg (not_not.mpr hal), bind_of_eq_ok _ hhead]
  dsimp only
  rw [if_pos (List.contains_iff_mem.mpr hseg), bind_of_eq_ok _ htable]
  dsimp only
  rw [hgood]
  rfl

/-- Settles O28: the slot named holds the table, every other slot what it held. -/
theorem tableLoadCompletes : Obligations.TableLoadCompletes := by
  unfold Obligations.TableLoadCompletes
  intro a n h t s u w hp hal hhead hseg htable hgood
  exact ⟨_, exec_sfload hp hal hhead hseg htable hgood, fun j => mget_mset [] w.en.slots n t j⟩

end Sys2Proof.Proofs
end

section
/-! PROOFS. Row operations, fprep, nbin, npairs and draw as they start (09 R276, R277, 12 R356, 13 R369, R372, 14 R387, R388). -/
namespace Sys2Proof.Proofs
open Sys2Proof Sys2Proof.Machine Sys2Proof.Laws Sys2Proof.Claims

/-! ### Operations that start -/

/-- An operation with what it captured at issue. -/
def capturedOp (kind : OpKind) (obj : Obj) (args : List Word64) (recs : List (List Byte)) (count : Nat) (index : List Nat) (w : State) : Op :=
  { newOp kind obj w with args := args, recs := recs, count := count, index := index }

theorem startOp_of_room {o : Op} {w : State} (h : opFull o.kind w = false) : startOp o w = .ok (started o w) := by
  rw [startOp, h, if_neg Bool.false_ne_true]
  rfl

/-- An instruction starts the operation that its meaning comes to, where the counts leave room (05 R136, 16 R422). -/
theorem starts_of_issue {i : Instr} {req : Req} {f : State → Res State} {kind : OpKind} {obj : Obj} {args : List Word64} {recs : List (List Byte)}
    {count : Nat} {index : List Nat} {s w : State} (hp : Passes req s) (hi : exec i s = issue req s f) (hroom : opFull kind w = false)
    (hf : f s = startOp (capturedOp kind obj args recs count index w) w) : Starts i kind obj s w args recs count index := by
  refine ⟨capturedOp kind obj args recs count index w, ?_, ?_, rfl, rfl, rfl, rfl⟩
  · rw [hi]
    exact issue_eq_next hp (hf.trans (startOp_of_room hroom))
  · exact ⟨rfl, rfl, rfl, rfl, rfl, rfl, rfl, rfl, rfl, rfl, rfl, rfl, rfl, rfl⟩

theorem opFull_trow (mode : Nat) {w : State} (h : tileCount w < 255) : opFull (.trow mode) w = false := by
  simpa [opFull, isTileOp, isLong] using h

theorem opFull_copy {kind : OpKind} {w : State} (htile : isTileOp kind = false) (hlong : isLong kind = false) (h : copyCount w < 255) :
    opFull kind w = false := by
  simpa [opFull, htile, hlong] using h

theorem opFull_long {kind : OpKind} {w : State} (htile : isTileOp kind = false) (h : roomForLong w) : opFull kind w = false := by
  obtain ⟨hcopies, hlong⟩ := h
  have hfew : ¬ 8 ≤ (w.en.ops.filter fun o => decide (o.cuid = w.crew.uid) && isLong o.kind).length := not_le.mpr hlong
  rw [opFull, htile, decide_eq_false hfew, Bool.and_false, Bool.or_false]
  exact decide_eq_false (not_le.mpr hcopies)

/-! ### Ranges of the window (01 R13) -/

theorem chkWin_eq_ok {W o n : Nat} (h : scrBad W o n = none) : chkWin W o n = .ok () := by rw [chkWin, h]

theorem chkWin_of_le {W o n : Nat} (h : o + n ≤ W) : chkWin W o n = .ok () :=
  chkWin_eq_ok (scrBad_eq_none (Int.natCast_nonneg o) (by exact_mod_cast h))

theorem chkWins_eq_ok {W : Nat} {l : List (Nat × Nat)} (h : ∀ r ∈ l, scrBad W r.1 r.2 = none) : chkWins W l = .ok () := by
  induction l with
  | nil => rfl
  | cons r l ih =>
    obtain ⟨hr, hl⟩ := List.forall_mem_cons.mp h
    rw [chkWins, bind_of_eq_ok _ (chkWin_eq_ok hr)]
    exact ih hl

theorem inRange_eq_true {lo hi x : Nat} (hlo : lo ≤ x) (hhi : x ≤ hi) : inRange lo hi x = true := by simp [inRange, hlo, hhi]

/-- A register's value, captured as a word. -/
theorem w64_toNat (x : Word64) : w64 x.toNat = x := BitVec.eq_of_toNat_eq (w64_toNat_of_lt x.isLt)

/-! ### Row operations (09 R276, R277) -/

theorem exec_rowForm {i : Instr} {mode a b c o : Nat} {s : State} (h : rowForm i = some (mode, a, b, c, o)) : exec i s = trow mode a b c o s := by
  unfold rowForm at h
  split at h <;> cases h <;> rfl

theorem trow_starts {i : Instr} {mode a b c o : Nat} {obj : Obj} {s w : State} (hi : rowForm i = some (mode, a, b, c, o))
    (hp : Passes { even := [c], full := true } s)
    (hok : rowOk mode (rdG s.k c).toNat (rowPar (rdG s.k a).toNat (rdG s.k b).toNat (rdG s.k c).toNat) = true)
    (hranges : ∀ r ∈ rowRanges mode (rowPar (rdG s.k a).toNat (rdG s.k b).toNat (rdG s.k c).toNat), scrBad (winSize s.crew) r.1 r.2 = none)
    (hobj : tileObj (decide (o = 1)) (rdG s.k (c + 1)) s = .ok (obj, w)) (hroom : tileCount w < 255) :
    let x := rowPar (rdG s.k a).toNat (rdG s.k b).toNat (rdG s.k c).toNat
    Starts i (.trow mode) obj s w [rdG s.k a, rdG s.k b, rdG s.k c] [] (x.rows * rowOut mode x) [] := by
  intro x
  refine starts_of_issue hp (exec_rowForm hi) (opFull_trow mode hroom) ?_
  dsimp only
  rw [hok, if_neg (by decide), bind_of_eq_ok _ (chkWins_eq_ok hranges), bind_of_eq_ok _ hobj]
  rfl

/-! ### fprep (12 R356) -/

theorem fprep_starts {a b c o : Nat} {obj : Obj} {tile : List Byte} {r : List (List Byte)} {s s' u w : State} (hp : Passes (evens [b, c]) s)
    (hhigh : nb (rdG s.k c).toNat 63 48 = 0) (hlow : nb (rdG s.k c).toNat 31 0 = 0) (hmin : 3 ≤ nb (rdG s.k c).toNat 47 32)
    (hmax : nb (rdG s.k c).toNat 47 32 ≤ 256) (hdst : (rdG s.k a).toNat % 16 = 0) (hsrc : (rdG s.k (b + 1)).toNat % 16 = 0)
    (hwin : (rdG s.k a).toNat + 16 * nb (rdG s.k c).toNat 47 32 ≤ winSize s.crew) (htile : winRead (rdG s.k (b + 1)).toNat 32 s = .ok (tile, s'))
    (hgood : tileBad tile = false) (hobj : tileObj (decide (o = 1)) (rdG s.k (c + 1)) s' = .ok (obj, u))
    (hcap : capture false (rdG s.k b).toNat u = .ok (r, w)) (hroom : copyCount w < 255) :
    Starts (.fprep a b c o) .fprep obj s w [rdG s.k a, rdG s.k b, nat64 (16 * nb (rdG s.k c).toNat 47 32)] (tile :: r)
      (16 * nb (rdG s.k c).toNat 47 32) [] := by
  refine starts_of_issue hp (show exec (.fprep a b c o) s = execFprep a b c o s from rfl) (opFull_copy rfl rfl hroom) ?_
  have hlegal : ¬ (nb (rdG s.k c).toNat 63 48 ≠ 0 ∨ nb (rdG s.k c).toNat 31 0 ≠ 0 ∨ (!inRange 3 256 (nb (rdG s.k c).toNat 47 32)) = true ∨
      (rdG s.k a).toNat % 16 ≠ 0 ∨ (rdG s.k (b + 1)).toNat % 16 ≠ 0) := by
    simp [hhigh, hlow, inRange_eq_true hmin hmax, hdst, hsrc]
  have hobj' : engObj true (decide (o = 1)) (rdG s.k (c + 1)) s' = .ok (obj, u) := hobj
  dsimp only
  rw [if_neg hlegal, bind_of_eq_ok _ (chkWin_of_le hwin), bind_of_eq_ok _ htile]
  dsimp only
  rw [hgood, if_neg Bool.false_ne_true, bind_of_eq_ok _ hobj', bind_of_eq_ok _ hcap, w64_toNat]
  rfl

/-! ### nbin and npairs (13 R369, R372) -/

theorem nbin_starts {a b c o : Nat} {obj : Obj} {r : List Byte} {g : Grid} {s u w : State} (hp : Passes (evens [c]) s)
    (hmin : 1 ≤ (rdG s.k c).toNat) (hmax : (rdG s.k c).toNat ≤ 2 ^ 24)
    (hobj : tileObj (decide (o = 1)) (rdG s.k (c + 1)) s = .ok (obj, u))
    (hgrid : fetchGrid (rdG s.k a).toNat (some (rdG s.k c).toNat) false u = .ok (r, w)) (hg : g = gridOf (rdG s.k a).toNat r)
    (harray : chkArray (rdG s.k b).toNat (rdG s.k c).toNat w = .ok ())
    (hmerge : chkMerges w.crew [(g.cells, g.count * g.es), (g.spill, 8 * g.spillcap), (g.pos, 16 * (rdG s.k c).toNat),
      ((rdG s.k a).toNat, 128)] = .ok ()) (hroom : copyCount w < 255) :
    Starts (.nbin a b c o) .nbin obj s w [rdG s.k a, rdG s.k b, nat64 (rdG s.k c).toNat] [r] (16 * (rdG s.k c).toNat) [] := by
  subst hg
  refine starts_of_issue hp (show exec (.nbin a b c o) s = execNbin a b c o s from rfl) (opFull_copy rfl rfl hroom) ?_
  have hobj' : engObj true (decide (o = 1)) (rdG s.k (c + 1)) s = .ok (obj, u) := hobj
  dsimp only
  rw [inRange_eq_true hmin hmax, if_neg (by decide), bind_of_eq_ok _ hobj']
  dsimp only
  rw [bind_of_eq_ok _ hgrid]
  dsimp only
  rw [bind_of_eq_ok _ harray, bind_of_eq_ok _ hmerge]
  rfl

/-- One past the last cell whose pairs npairs looks for: the grid's end where the count is 0 (13 R372). -/
def lastCell (g : Grid) (x : Nat) : Nat := if nb x 61 32 = 0 then g.count else nb x 29 0 + nb x 61 32

theorem npairs_starts {a b c o : Nat} {obj : Obj} {r : List Byte} {g : Grid} {s u w : State} (hp : Passes (evens [b, c]) s)
    (hx1 : nb (rdG s.k (b + 1)).toNat 63 62 = 0) (hx0 : nb (rdG s.k (b + 1)).toNat 31 30 = 0)
    (hp1 : nb (rdG s.k c).toNat 47 44 = 0) (hp0 : nb (rdG s.k c).toNat 31 0 = 0)
    (hobj : engObj false (decide (o = 1)) (rdG s.k (c + 1)) s = .ok (obj, u)) (hgrid : fetchGrid (rdG s.k a).toNat none true u = .ok (r, w))
    (hg : g = gridOf (rdG s.k a).toNat r) (harray : chkArray (rdG s.k b).toNat g.npart w = .ok ())
    (hmerge : chkMerge w.crew ((rdG s.k a).toNat + 80) 20 = .ok ())
    (hwin : 16 * nb (rdG s.k c).toNat 63 48 + 16 * (nb (rdG s.k c).toNat 43 32 + 1) ≤ winSize w.crew)
    (hfirst : nb (rdG s.k (b + 1)).toNat 29 0 < g.count) (hlast : lastCell g (rdG s.k (b + 1)).toNat ≤ g.count) (hroom : roomForLong w) :
    Starts (.npairs a b c o) .npairs obj s w [rdG s.k a, rdG s.k b] [r] 0
      [nb (rdG s.k (b + 1)).toNat 29 0, lastCell g (rdG s.k (b + 1)).toNat, 16 * nb (rdG s.k c).toNat 63 48, nb (rdG s.k c).toNat 43 32 + 1] := by
  subst hg
  refine starts_of_issue hp (show exec (.npairs a b c o) s = execNpairs a b c o s from rfl) (opFull_long rfl hroom) ?_
  have hlegal : ¬ (nb (rdG s.k (b + 1)).toNat 63 62 ≠ 0 ∨ nb (rdG s.k (b + 1)).toNat 31 30 ≠ 0 ∨ nb (rdG s.k c).toNat 47 44 ≠ 0 ∨
      nb (rdG s.k c).toNat 31 0 ≠ 0) := by simp [hx1, hx0, hp1, hp0]
  have hcells : ¬ ((gridOf (rdG s.k a).toNat r).count ≤ nb (rdG s.k (b + 1)).toNat 29 0 ∨
      (gridOf (rdG s.k a).toNat r).count < lastCell (gridOf (rdG s.k a).toNat r) (rdG s.k (b + 1)).toNat) := by omega
  rw [lastCell] at hcells
  dsimp only
  rw [if_neg hlegal, bind_of_eq_ok _ hobj]
  dsimp only
  rw [bind_of_eq_ok _ hgrid]
  dsimp only
  rw [bind_of_eq_ok _ harray, bind_of_eq_ok _ (chkWin_of_le hwin), if_neg hcells]
  exact bind_of_eq_ok _ hmerge

/-! ### draw (14 R387, R388) -/

theorem checkObj_k {scr : Bool} {a : Word64} {s u : State} (h : checkObj scr a s = .ok u) : u.k = s.k := by
  unfold checkObj at h
  split_ifs at h
  · cases h
    rfl
  · obtain ⟨⟨l, s1⟩, hres, hu⟩ := exists_of_bind_eq_ok h
    cases hu
    exact (resolve_tlbsOnly hres).cachesOnly.k_eq

theorem engObj_k {scr : Bool} {x : Word64} {obj : Obj} {s u : State} (h : engObj false scr x s = .ok (obj, u)) : u.k = s.k := by
  rw [engObj, if_neg Bool.false_ne_true] at h
  obtain ⟨s1, hobj, hu⟩ := exists_of_bind_eq_ok h
  cases hu
  exact checkObj_k hobj

theorem loadOne_readTimesOnly {n va : Nat} {b : List Byte} {s u : State} (h : loadOne n va s = .ok (b, u)) : ReadTimesOnly s.k u.k := by
  obtain ⟨⟨r, s1⟩, hload, hu⟩ := exists_of_bind_eq_ok h
  cases hu
  exact loadLanes_readTimesOnly hload

theorem ReadTimesOnly.rdG_eq {k k' : Skein} (h : ReadTimesOnly k k') : rdG k' = rdG k := by
  obtain ⟨_, _, rfl⟩ := h
  rfl

theorem draw_starts {a b c o : Nat} {obj : Obj} {r : List Byte} {s u w : State} (hp : Passes (evens []) s)
    (hobj : engObj false (decide (o = 1)) (rdG s.k c) s = .ok (obj, u)) (hal : (rdG s.k a).toNat % 64 = 0)
    (hload : loadOne 64 (rdG s.k a).toNat u = .ok (r, w)) (hgood : drawBad r = none) (hzero : nb (rdG s.k b).toNat 47 16 = 0)
    (hx : 32 * nb (rdG s.k b).toNat 7 0 < (drawOf r).vieww) (hy : 32 * nb (rdG s.k b).toNat 15 8 < (drawOf r).viewh)
    (hwin : 16 * nb (rdG s.k b).toNat 63 48 + 4096 ≤ winSize w.crew) (hbaskets : hasBaskets w.crew = true) (hregs : 8 ≤ (basketRole w.crew).regs)
    (hverts : chkGlob (drawOf r).verts (48 * (drawOf r).ntri) w = .ok ()) (hroom : roomForLong w) :
    Starts (.draw a b c o) .draw obj s w [rdG s.k a, rdG s.k b] [r] (16 * (drawOf r).ntri) [] := by
  refine starts_of_issue hp (show exec (.draw a b c o) s = execDraw a b c o s from rfl) (opFull_long rfl hroom) ?_
  have hread : rdG w.k = rdG s.k := by rw [(loadOne_readTimesOnly hload).rdG_eq, engObj_k hobj]
  have htile : ¬ (nb (rdG s.k b).toNat 47 16 ≠ 0 ∨ (drawOf r).vieww ≤ 32 * nb (rdG s.k b).toNat 7 0 ∨
      (drawOf r).viewh ≤ 32 * nb (rdG s.k b).toNat 15 8) := by
    omega
  have hrole : ¬ (!hasBaskets w.crew || decide ((basketRole w.crew).regs < 8)) = true := by simp [hbaskets, hregs]
  have hshape : shapeErr (rdG s.k a).toNat (drawBad r) = .ok () := by rw [hgood, shapeErr]
  dsimp only
  rw [bind_of_eq_ok _ hobj]
  dsimp only
  rw [if_neg (not_not.mpr hal), bind_of_eq_ok _ hload]
  dsimp only
  rw [bind_of_eq_ok _ hshape, hread, if_neg htile, bind_of_eq_ok _ (chkWin_of_le hwin), if_neg hrole, bind_of_eq_ok _ hverts, w64_toNat, w64_toNat]
  rfl

/-- Settles O32: each instruction's meaning comes to its start once its operands and records pass. -/
theorem engineOperationsStart : Obligations.EngineOperationsStart := by
  unfold Obligations.EngineOperationsStart
  refine ⟨fun i mode a b c o obj s w _ hi hp => trow_starts hi hp, fun a b c o obj s u w => ⟨?_, ?_, ?_, ?_⟩⟩
  · exact fun tile r s' hp => fprep_starts hp
  · exact fun r hp hmin hmax hobj hgrid => nbin_starts hp hmin hmax hobj hgrid rfl
  · exact fun r hp hx1 hx0 hp1 hp0 hobj hgrid => npairs_starts hp hx1 hx0 hp1 hp0 hobj hgrid rfl
  · exact fun r hp => draw_starts hp

end Sys2Proof.Proofs
end

section
/-! PROOFS. Reads of a barrier object's PHASE and invalidation of cached records (10 R304, R306). -/
namespace Sys2Proof.Proofs
open Sys2Proof Sys2Proof.Machine Sys2Proof.Laws Sys2Proof.Claims

/-! ### The condition on a flip count -/

/-- The difference kept non-negative by 2^31 and the signed one agree modulo 2^31. -/
theorem flipHolds_eq_flipped (p F : Nat) : flipHolds p (F % 2 ^ 31) = flipped p F := by
  rw [flipHolds, flipped, decide_eq_decide]
  omega

/-! ### PHASE in the window -/

theorem ofBytes_append (l r : List Byte) : ofBytes (l ++ r) = ofBytes l + 256 ^ l.length * ofBytes r := by
  induction l with
  | nil => simp [ofBytes]
  | cons x l ih =>
    rw [List.cons_append, ofBytes, ih, ofBytes, List.length_cons, pow_succ']
    ring

theorem winNat_add (c : Crew) (o m n : Nat) : winNat c o (m + n) = winNat c o m + 2 ^ (8 * m) * winNat c (o + m) n := by
  simp only [winNat, List.range_add, List.map_append, List.map_map, ofBytes_append, List.length_map, List.length_range, pow_256, Function.comp_def,
    Nat.add_assoc]

/-- Bytes 8 to 11 of an object are its PHASE (05 R126). -/
theorem winNat_phase (c : Crew) (a : Nat) : winNat c (a + 8) 4 = phaseOf (winNat c a 16) := by
  have hlow := winNat_lt c a 8
  have hphase := winNat_lt c (a + 8) 4
  have hobject : winNat c a (8 + (4 + 4)) = winNat c a 8 + 2 ^ 64 * (winNat c (a + 8) 4 + 2 ^ 32 * winNat c (a + 8 + 4) 4) := by
    rw [winNat_add, winNat_add]
  rw [phaseOf, hobject]
  omega

/-- The read time is the machine's own, which a correction does not touch. -/
theorem bankRead_of_corrected {s c : State} (h : Corrected s c) : bankRead true c =
    { c with k := { s.k with lastRead := max s.k.lastRead s.gtime, floor := max s.k.floor s.gtime } } := by
  obtain ⟨⟨ws, pr, rfl⟩, -⟩ := h
  rfl

/-- The state after an acquire read of the PHASE of the object at `a` in the window: single-bit errors are corrected, and the last read and the
acquire floor are raised to the time of the read. -/
def phaseSeen (a : Nat) (s : State) : State :=
  { correctScr [(0xFF, (a : Int) + 8, 4)] s with k := { s.k with lastRead := max s.k.lastRead s.gtime, floor := max s.k.floor s.gtime } }

theorem readPhase_scratch {s : State} {obj : Word64} (ho : scratchObject s obj.toNat)
    (hbad : ∀ i < 4, (obj.toNat + 8 + i) / 8 ∉ s.crew.winBad) :
    readPhase true obj s = .ok (phaseOf (winNat s.crew obj.toNat 16), phaseSeen obj.toNat s) := by
  have huncorr : winUncorr s.crew [(0xFF, (obj.toNat : Int) + 8, 4)] = none :=
    winUncorr_eq_none fun y hy => by rw [List.mem_singleton.mp hy]; exact hbad
  rw [readPhase, if_pos rfl, bind_of_eq_ok _ (checkObj_scratch ho), huncorr, winNat_phase,
    bankRead_of_corrected (correctScr_corrected _ s)]
  rfl

/-! ### The instructions, once the PHASE is read -/

theorem wrG_g_congr (n : Nat) (x : Word64) {k k' : Skein} (h : k'.g = k.g) : (wrG n x k').g = (wrG n x k).g := by
  unfold wrG
  split
  · exact h
  · rw [h]

section
variable {a b p : Nat} (o : Nat) {s u : State} (hread : readPhase (decide (o = 1)) (rdG s.k a) s = .ok (p, u))
include hread

theorem exec_btest {d : Nat} (hp : Passes {} s) : exec (.btest d a b o) s =
    .next (retire 1 { u with k := wrG d (if flipped p (rdG s.k b).toNat then 1#64 else 0#64) u.k }) := by
  have harm : exec (.btest d a b o) s = execBtest d a b o s := rfl
  have hword (c : Bool) : w64 (b2 c) = if c then 1#64 else 0#64 := by cases c <;> rfl
  rw [harm]
  refine issue_eq_next hp ((bind_of_eq_ok _ hread).trans ?_)
  dsimp only
  rw [flipHolds_eq_flipped, hword]
  rfl

/-- bwait goes on when the condition holds, and waits in kind 5 when it does not. -/
theorem exec_bwait (hp : Passes plainControl s) : exec (.bwait a b o) s =
    .next (if flipped p (rdG s.k b).toNat then retire 1 u else beginWait 5 0 u) := by
  have harm : exec (.bwait a b o) s = execBwait a b o s := rfl
  rw [harm]
  refine (issue_of_passes _ hp).trans ?_
  rw [bind_of_eq_ok _ hread]
  dsimp only
  rw [flipHolds_eq_flipped]
  split <;> rfl

theorem bwait_retires (hp : Passes plainControl s) (hflip : flipped p (rdG s.k b).toNat = true) :
    exec (.bwait a b o) s = .next (retire 1 u) := by
  rw [exec_bwait o hread hp, if_pos hflip]

theorem bwait_waits (hp : Passes plainControl s) (hflip : flipped p (rdG s.k b).toNat = false) :
    exec (.bwait a b o) s = .next (beginWait 5 0 u) := by
  rw [exec_bwait o hread hp, if_neg (by simp [hflip])]

end

/-! ### Cached records -/

/-- The record cache without the records of context `ctx` at `addr`, or without any of them. -/
def dropRecords (all : Bool) (ctx addr : Nat) (l : List CachedRec) : List CachedRec :=
  l.filter fun c => !(decide (c.ctx = ctx) && (all || decide (c.addr = addr)))

theorem mem_dropRecords {all : Bool} {ctx addr : Nat} {l : List CachedRec} {x : CachedRec} :
    x ∈ dropRecords all ctx addr l ↔ x ∈ l ∧ ¬ (x.ctx = ctx ∧ (all = true ∨ x.addr = addr)) := by
  simp only [dropRecords, List.mem_filter, Bool.not_eq_true', ← Bool.not_eq_true, Bool.and_eq_true, Bool.or_eq_true, decide_eq_true_eq]

theorem exec_shfence {a : Nat} {s : State} (hp : Passes {} s) (hrel : releaseDone 3 s = true) : exec (.shfence a) s =
    .next (retire 1 { s with en := { s.en with cache := dropRecords (decide (a = 0)) s.crew.ctx (rdG s.k a).toNat s.en.cache } }) := by
  have harm : exec (.shfence a) s = execShfence a s := rfl
  rw [harm]
  exact issue_eq_next hp (bind_of_eq_ok _ (release_ok hrel))

/-- Settles O25: in the window and in memory alike, each instruction ends by the PHASE that its one read gives. -/
theorem objectWaitResults : Obligations.ObjectWaitResults := by
  unfold Obligations.ObjectWaitResults
  refine ⟨fun d a b s ho hbad => ?_, fun d a b s => ⟨?_, ?_, fun hp hrel => ?_⟩⟩
  · have hread := readPhase_scratch ho hbad
    refine ⟨_, correctScr_corrected [(0xFF, ((rdG s.k a).toNat : Int) + 8, 4)] s, fun hp => ?_, bwait_retires 1 hread, bwait_waits 1 hread⟩
    rw [exec_btest 1 hread hp, wrG_frame]
    exact ⟨_, rfl, uniformWritten_wrG _ _ _ _ (wrG_g_congr _ _ rfl)⟩
  · exact fun p u hp hread => exec_btest 0 hread hp
  · exact fun p u hp hread => bwait_retires 0 hread hp
  · exact ⟨_, exec_shfence hp hrel, fun x => by rw [mem_dropRecords, decide_eq_true_eq]⟩

end Sys2Proof.Proofs
end

section
/-! PROOFS. A matrix product of a skein that waits in the cluster latch (11 R321, R322, 06 R169). -/
namespace Sys2Proof.Proofs
open Sys2Proof Sys2Proof.Machine Sys2Proof.Laws Sys2Proof.Claims

/-! ### mma beside a cluster latch -/

/-- A skein whose entry stands in a cluster latch issues no other matrix product: it waits there. -/
theorem exec_mma_of_inCluster {a t u g o : Nat} {s : State} (hp : Passes (tilesReq [t, u] []) s) (hin : inCluster s s.k.uid = true) :
    exec (.mma a t u g o) s = .next (beginWait 4 2 s) := by
  have harm : exec (.mma a t u g o) s = execMma a t u g o s := rfl
  rw [harm, execMma]
  refine (issue_of_passes _ hp).trans ?_
  rw [gangIssue, if_pos hin, conclude_wait]

/-- Operands and region that agree are captured as they stand, with no object at address 0 outside scratch. -/
theorem captureProd_without_object {kind : OpKind} {s48 : Bool} {a t u : Nat} {s : State}
    (hok : prodOk kind s.crew (rdA s.k a) (mapOf (rdT s.k t)) (mapOf (rdT s.k u)) = true) :
    ∃ q, captureProd kind s48 false a t u 0 s = .ok (q, s) := by
  rw [captureProd, hok]
  exact ⟨_, rfl⟩

theorem releaseSkeins_ids (gang : Bool) (l : List Nat) (s : State) : (releaseSkeins gang l s).ids = s.ids := by
  induction l generalizing s with
  | nil => rfl
  | cons u l ih => exact ih _

/-- A product that starts has a number, which a wait does not give. -/
theorem beginWait_ne_started (kind stage : Nat) (gang : Bool) (l : List Nat) (o : Op) (s : State) :
    beginWait kind stage s ≠ releaseSkeins gang l (enqueueOp o s) := by
  intro h
  have hids : s.ids = (enqueueOp o s).ids := by rw [← releaseSkeins_ids gang l (enqueueOp o s), ← h, beginWait_ids]
  exact Nat.succ_ne_self s.ids hids.symm

/-! ### The counterexample -/

/-- A crew of a cluster level of sixteen, whose skein holds FP16 maps of 4 by 32 and 32 by 8 and an FP32 region of 4 by 8. -/
def clusterIssuer : State :=
  let s := State.reset.withFetchWord 32 0
  { s with
    crew := { s.crew with lrec := { s.crew.lrec with levels := [{ size := 16, domain := 3 }, {}, {}, {}, {}] } }
    k := { s.k with t := [(0, 0x001100041F030000#128), (1, 0x00110001071F0040#128)], a := [(0, 0x8000000007000000#64)] } }

/-- The crew's cmma has entered the latch as its first, and the skein waits there. -/
def waitingForCluster : State :=
  match exec (.cmma 0 0 1 0) clusterIssuer with
  | .next s => s
  | _ => clusterIssuer

theorem waitingForCluster_passes : Passes (tilesReq [0, 1] []) waitingForCluster := by
  simp only [Passes]
  decide +kernel

theorem waitingForCluster_inCluster : inCluster waitingForCluster waitingForCluster.k.uid = true := by
  decide +kernel

/-- It is no member of a gang, mma takes its operands, and it has no tile operation outstanding. -/
theorem waitingForCluster_operands :
    nb waitingForCluster.k.gang.toNat 38 36 < 2 ∧ tileCount waitingForCluster < 255 ∧
      prodOk .mma waitingForCluster.crew (rdA waitingForCluster.k 0) (mapOf (rdT waitingForCluster.k 0)) (mapOf (rdT waitingForCluster.k 1)) = true := by
  decide +kernel

/-- Refutes O30: its clause for mma lets every skein without a gang start its product, whether or not the skein waits in a latch, where its
clause for cmma asks that it does not. The machine's skein whose cmma waits in the cluster latch issues no mma: it goes on waiting. -/
theorem not_tileOperations : ¬ Obligations.TileOperations := by
  unfold Obligations.TileOperations
  intro ⟨_, hproducts, _⟩
  obtain ⟨hgang, hroom, hok⟩ := waitingForCluster_operands
  obtain ⟨q, hcapture⟩ := captureProd_without_object (s48 := false) hok
  obtain ⟨hmatrix, -⟩ := hproducts 0 0 1 0 0 0 waitingForCluster waitingForCluster
  obtain ⟨hmma, -⟩ := hmatrix q waitingForCluster_passes hgang
  have hstart := hmma hcapture hroom
  rw [exec_mma_of_inCluster waitingForCluster_passes waitingForCluster_inCluster] at hstart
  injection hstart with heq
  exact beginWait_ne_started _ _ _ _ _ _ heq

end Sys2Proof.Proofs
end

section
/-! PROOFS. The bytes of a fault record, and the traps that kill their context (16 R414, R417). -/
namespace Sys2Proof.Proofs
open Sys2Proof Sys2Proof.Machine Sys2Proof.Laws Sys2Proof.Claims

/-! ### Numbers laid out one after the other -/

/-- The bytes of fields, each a width and a number. -/
def fieldBytes (l : List (Nat × Nat)) : List Byte := (l.map fun f => toBytes f.1 f.2).flatten

/-- A field is read at the sum of the widths of the fields before it. -/
theorem leAt_fieldBytes {l : List (Nat × Nat)} {i o n x : Nat} (hfield : l[i]? = some (n, x)) (ho : ((l.take i).map (·.1)).sum = o) :
    leAt (fieldBytes l) o n = x % 256 ^ n := by
  subst ho
  induction l generalizing i with
  | nil => cases hfield
  | cons f l ih =>
    rw [fieldBytes, List.map_cons, List.flatten_cons, ← fieldBytes]
    cases i with
    | zero =>
      obtain rfl := Option.some.inj hfield
      simp [leAt, ofBytes_toBytes]
    | succ i =>
      rw [← ih hfield, List.take_succ_cons, List.map_cons, List.sum_cons, leAt, ← List.drop_drop, List.drop_left' (toBytes_length _ _), leAt]

/-- A word in as many bytes as it has. -/
theorem toNat_mod_bytes {w : Nat} (n : Nat) (x : BitVec w) (h : w = 8 * n) : x.toNat % 256 ^ n = x.toNat := by
  subst h
  exact Nat.mod_eq_of_lt (pow_256 n ▸ x.isLt)

/-! ### The record (16 R414) -/

/-- The fields of a fault record, in the order of their offsets. -/
def recordLayout (pair fatal : Bool) (t : TrapInfo) (s : State) : List (Nat × Nat) :=
  [(1, t.code), (1, t.cause), (1, b2 t.deferred + 2 * b2 pair + 4 * b2 fatal + 8 * b2 s.k.handler), (1, t.lane), (4, s.k.e.mask.toNat),
    (8, (trapEpc t s.k).toNat), (8, (if t.deferred then trapEpc t s.k else s.k.e.pc).toNat), (8, t.addr.toNat), (8, t.info0.toNat),
    (8, t.info1.toNat), (8, s.gtime), (2, s.k.sid), (2, s.crew.core), (1, s.crew.ctx), (3, 0)]

/-- The widths of the fields. -/
def recordWidths : List Nat := [1, 1, 1, 1, 4, 8, 8, 8, 8, 8, 8, 2, 2, 1, 3]

/-- Field `i` of the record. -/
theorem leAt_recordBytes {pair fatal : Bool} {t : TrapInfo} {s : State} (i : Nat) {o n x : Nat} (hfield : (recordLayout pair fatal t s)[i]? = some (n, x))
    (ho : (recordWidths.take i).sum = o) : leAt (recordBytes pair fatal t s) o n = x % 256 ^ n := by
  have hlayout : recordBytes pair fatal t s = fieldBytes (recordLayout pair fatal t s) := by simp [recordBytes, recordLayout, fieldBytes]
  have hwidths : (recordLayout pair fatal t s).map (·.1) = recordWidths := rfl
  rw [hlayout]
  exact leAt_fieldBytes hfield (by rw [List.map_take, hwidths, ho])

/-- Field `i` of the record where it holds a word. -/
theorem leAt_recordBytes_word {pair fatal : Bool} {t : TrapInfo} {s : State} (i : Nat) {o n w : Nat} {x : BitVec w}
    (hfield : (recordLayout pair fatal t s)[i]? = some (n, x.toNat)) (ho : (recordWidths.take i).sum = o)
    (hw : w = 8 * n) : leAt (recordBytes pair fatal t s) o n = x.toNat := by
  rw [leAt_recordBytes i hfield ho, toNat_mod_bytes n x hw]

theorem recordFlags_eq (deferred pair fatal handler : Bool) :
    (b2 deferred + 2 * b2 pair + 4 * b2 fatal + 8 * b2 handler) % 256 =
      (if deferred then 1 else 0) + (if pair then 2 else 0) + (if fatal then 4 else 0) + (if handler then 8 else 0) := by
  revert deferred pair fatal handler
  decide

/-- The address in the record's pc field: past the instruction only for a deferred trap that is taken after it. -/
theorem recordPc_eq (t : TrapInfo) (k : Skein) :
    (if t.deferred then trapEpc t k else k.e.pc) = if t.deferred && t.after then k.e.pc + 4#64 else k.e.pc := by
  cases hd : t.deferred <;> simp [trapEpc]

theorem recordAddr_aligned (s : State) : recordAddr s % 64 = 0 := by
  rw [recordAddr]
  omega

/-- Settles O54: each field is read off the layout at its offset. -/
theorem faultRecordLayout : Obligations.FaultRecordLayout := by
  unfold Obligations.FaultRecordLayout
  intro pair fatal t s
  have hflags := (leAt_recordBytes (pair := pair) (fatal := fatal) (t := t) (s := s) 2 rfl rfl).trans (recordFlags_eq _ _ _ _)
  have hpc := leAt_recordBytes_word (pair := pair) (fatal := fatal) (t := t) (s := s) 6 rfl rfl rfl
  have hzero : leAt (recordBytes pair fatal t s) 61 3 = 0 % 256 ^ 3 := leAt_recordBytes 14 rfl rfl
  rw [recordPc_eq] at hpc
  exact ⟨recordBytes_length pair fatal t s, leAt_recordBytes 0 rfl rfl, leAt_recordBytes 1 rfl rfl, hflags, leAt_recordBytes 3 rfl rfl,
    leAt_recordBytes_word 4 rfl rfl rfl, leAt_recordBytes_word 5 rfl rfl rfl, hpc, leAt_recordBytes_word 7 rfl rfl rfl,
    leAt_recordBytes_word 8 rfl rfl rfl, leAt_recordBytes_word 9 rfl rfl rfl, leAt_recordBytes 10 rfl rfl, leAt_recordBytes 11 rfl rfl,
    leAt_recordBytes 12 rfl rfl, leAt_recordBytes 13 rfl rfl, hzero, recordAddr_aligned s⟩

/-! ### Fatal traps (16 R417) -/

theorem isFatal_iff (t : TrapInfo) (s : State) :
    isFatal t s = true ↔ (t.code = 17 ∧ t.cause = 2) ∨ (s.k.handler = true ∧ t.deferred = false) ∨ (ctxHand s s.crew.ctx).toNat / 4 = 0 ∨
      ctxTrap s s.crew.ctx / 2 ^ 23 % 2 ^ 25 = 0 ∨ recordKey s = none := by
  have hhand : nb (ctxHand s s.crew.ctx).toNat 63 2 = (ctxHand s s.crew.ctx).toNat / 4 := by
    have := (ctxHand s s.crew.ctx).isLt
    simp only [nb]
    omega
  simp only [isFatal, hhand, Bool.or_eq_true, Bool.and_eq_true, decide_eq_true_eq, Bool.not_eq_true', Option.isNone_iff_eq_none, or_assoc]
  rfl

/-- A fatal trap keeps its record for the management processor and kills the context. -/
theorem takeTrap_eq_kill {pair : Bool} {t : TrapInfo} {s v : State} (hv : (if t.code = 17 then countUncorr 1 s else s) = v)
    (hf : isFatal t v = true) : takeTrap pair t s = kill v.crew.ctx t.code (keepFatal pair t v) := by
  rw [takeTrap, hv]
  simp only [hf, if_true]

/-- A count of errors shows in no record. -/
theorem keepFatal_withPreg (pair : Bool) (t : TrapInfo) (s : State) (p : SMap Word64) :
    keepFatal pair t { s with preg := p } =
      { s with preg := p, mgt := { s.mgt with fatal := mputAny s.mgt.fatal s.crew.ctx (recordBytes pair true t s) } } := rfl

/-- Settles O56: the disjuncts of `isFatal`, and the kill past the count of the error, which the record does not show. -/
theorem fatalTrapKills : Obligations.FatalTrapKills := by
  unfold Obligations.FatalTrapKills
  intro pair t s
  refine ⟨isFatal_iff t s, ?_⟩
  obtain ⟨p, hv, -⟩ := ite_countUncorr_eq_with_preg (t.code = 17) 1 s
  dsimp only
  rw [hv]
  intro hf
  refine ⟨mputAny s.mgt.fatal s.crew.ctx (recordBytes pair true t s), ?_, mget_mputAny [] s.mgt.fatal s.crew.ctx (recordBytes pair true t s)⟩
  rw [takeTrap_eq_kill hv hf, keepFatal_withPreg]

end Sys2Proof.Proofs
end

section
/-! PROOFS. A kill while the page of the queue table is being copied out (16 R426, 15 R403, 01 R21, R39). -/
namespace Sys2Proof.Proofs
open Sys2Proof Sys2Proof.Machine

/-- Context 1 has a queue with credit, and the page in which the queue table stands is being copied out to another part. -/
def tableInCopy : State :=
  { State.reset with
    sch := { State.reset.sch with queues := [{ n := 0, ctx := 1, opened := true, quantum := 1, deficit := 5 }] }
    xl := { State.reset.xl with
      migs := [{ id := 1, ctx := 2, page := 0, size := 0, old := 0, pa := 0x100000, dst := 2, lease := 0, committed := false, acks := [],
                 attempt := 1, ver := some 0 }] } }

/-- The kill takes the queue's credit away, and the home counts the manager's store to the queue record in WVER of the page's entry. -/
theorem kill_tableInCopy_mem : (kill 1 0xFF tableInCopy).hm.mem = [(0x10000E, 1#8)] := by decide +kernel

/-- Refutes O57: by its clause on memory a kill leaves every byte as it is. A queue of the context that holds credit loses it with the kill (15
R403), by a store of the manager to the queue record; where that page is being copied out its home counts the store in WVER (01 R21, R39), and
the entry's bytes have changed. -/
theorem not_killEndsContext : ¬ Obligations.KillEndsContext := by
  unfold Obligations.KillEndsContext
  intro h
  obtain ⟨-, -, -, -, -, -, -, -, -, -, -, -, -, hmem, -⟩ := h 1 0xFF tableInCopy (by decide) (by decide) (by decide)
  rw [kill_tableInCopy_mem] at hmem
  exact List.cons_ne_nil _ _ hmem

end Sys2Proof.Proofs
end

section
/-! PROOFS. nstat (13 R378). -/
namespace Sys2Proof.Proofs
open Sys2Proof Sys2Proof.Machine Sys2Proof.Laws Sys2Proof.Claims

/-- Offset and width of each of the seven statistics. -/
theorem statField_eq {c : Nat} (h : c < 7) : statField c = ([64, 68, 72, 76, 80, 88, 96].getD c 0, if c = 4 ∨ c = 5 then 8 else 4) := by
  interval_cases c <;> rfl

/-- Settles O38: the load is that of the field, whose bytes are the number written. -/
theorem gridStatisticReads : Obligations.GridStatisticReads := by
  unfold Obligations.GridStatisticReads
  intro d a b r s u hp hb
  dsimp only
  intro hload
  refine ⟨(wrG d (nat64 (ofBytes ((laneBytes r 0xFF).take (if (rdG s.k b).toNat = 4 ∨ (rdG s.k b).toNat = 5 then 8 else 4)))) u.k).g, ?_,
    uniformWritten_wrG d _ u.k _ rfl⟩
  have harm : exec (.nstat d a b) s = execNstat d a b s := rfl
  rw [harm, execNstat, ← wrG_frame]
  refine issue_eq_next hp ?_
  dsimp only
  rw [if_neg (not_le.mpr hb), statField_eq hb, bind_of_eq_ok _ hload]
  rfl

end Sys2Proof.Proofs
end

section
/-! PROOFS. The operands of the ray and raster instructions: served lanes and register blocks (14 R380, R381). -/
namespace Sys2Proof.Proofs
open Sys2Proof Sys2Proof.Machine Sys2Proof.Laws Sys2Proof.Claims

/-! ### Served lanes -/

theorem served_eq_ok {m : Nat} {s : State} (h : (rdG s.k m).toNat < 8) : served m s = .ok (s.k.e.mask &&& rdP s.k (rdG s.k m).toNat) := by
  rw [served, if_neg (not_le.mpr h)]

theorem servedLanes_eq_lanesOf (m : Nat) (k : Skein) : servedLanes m k = lanesOf (k.e.mask &&& rdP k (rdG k m).toNat) :=
  List.filter_congr fun L _ => (laneOn_and _ _ L).symm

theorem nodup_lanesOf (m : Word32) : (lanesOf m).Nodup := List.nodup_range.filter _

theorem lt_of_mem_lanesOf {m : Word32} {L : Nat} (h : L ∈ lanesOf m) : L < 32 := ((mem_lanesOf m L).mp h).1

/-! ### Words written to the blocks of lanes -/

/-- A run of words of one lane, from register `b + i` on. -/
theorem getV_foldl_zipIdx (b : Nat) {L L' : Nat} (n i : Nat) (l : List Nat) (v : SMap Word32) (hL : L < 32) (hL' : L' < 32) :
    getV ((l.zipIdx i).foldl (fun v x => mset 0#32 v (32 * (b + x.2) + L) (w32 x.1)) v) n L' =
      if L' = L ∧ b + i ≤ n ∧ n < b + i + l.length then w32 (l.getD (n - (b + i)) 0) else getV v n L' := by
  induction l generalizing i v with
  | nil => rw [if_neg (by rw [List.length_nil]; omega)]; rfl
  | cons x l ih =>
    rw [List.zipIdx_cons, List.foldl_cons, ih, List.length_cons, getV, mget_mset, ← getV]
    by_cases hown : L' = L ∧ b + i ≤ n ∧ n < b + i + (l.length + 1)
    · rw [if_pos hown]
      obtain ⟨rfl, hlo, hhi⟩ := hown
      obtain rfl | hlater := eq_or_lt_of_le hlo
      · rw [if_neg (by omega), if_pos rfl, Nat.sub_self, List.getD_cons_zero]
      · rw [if_pos (by omega), show n - (b + i) = n - (b + (i + 1)) + 1 by omega, List.getD_cons_succ]
    · rw [if_neg hown, if_neg (by omega), if_neg (by omega)]

/-- The runs of several lanes, each of `len` words. -/
theorem getV_foldl_lanes (b len : Nat) (f : Nat → List Nat) {L n : Nat} (hL : L < 32) (ls : List Nat) (v : SMap Word32) (hnd : ls.Nodup)
    (hls : ∀ L ∈ ls, L < 32) (hlen : ∀ L ∈ ls, (f L).length = len) :
    getV (ls.foldl (fun v L => (f L).zipIdx.foldl (fun v x => mset 0#32 v (32 * (b + x.2) + L) (w32 x.1)) v) v) n L =
      if L ∈ ls ∧ b ≤ n ∧ n < b + len then w32 ((f L).getD (n - b) 0) else getV v n L := by
  induction ls generalizing v with
  | nil => rw [if_neg (by simp)]; rfl
  | cons M ls ih =>
    obtain ⟨hM, hnd⟩ := List.nodup_cons.mp hnd
    obtain ⟨hM32, hls⟩ := List.forall_mem_cons.mp hls
    obtain ⟨hMlen, hlen⟩ := List.forall_mem_cons.mp hlen
    rw [List.foldl_cons, ih _ hnd hls hlen, getV_foldl_zipIdx b n 0 (f M) v hM32 hL, hMlen]
    by_cases hLM : L = M
    · subst hLM
      simp [hM]
    · simp [hLM]

/-- The blocks after `putBlk`. -/
theorem blocksWritten_putBlk {k first n : Nat} {lanes : Word32} {f : Nat → List Nat} (s : State) (hlen : ∀ L ∈ lanesOf lanes, (f L).length = n) :
    BlocksWritten k first n (lanesOf lanes) f s.k.v (putBlk k first lanes f s).k.v := by
  intro m L hL
  rw [Nat.sub_sub]
  exact getV_foldl_lanes (2 * k + first) n f hL (lanesOf lanes) s.k.v (nodup_lanesOf lanes) (fun L => lt_of_mem_lanesOf) hlen

theorem BlocksWritten.congr {b j n : Nat} {ls : List Nat} {f g : Nat → List Nat} {v v' : SMap Word32} (h : BlocksWritten b j n ls f v v')
    (hfg : ∀ L ∈ ls, f L = g L) : BlocksWritten b j n ls g v v' := by
  intro m L hL
  rw [h m L hL]
  refine if_ctx_congr Iff.rfl (fun hin => ?_) fun _ => rfl
  rw [hfg L hin.1]

/-! ### Lanes that fault in lane order (01 R47) -/

/-- Lanes that all pass are performed together. -/
theorem lowestFirst_of_ok {α β : Type} {f : List Nat → State → Res α} {g : List Nat → State → Res β} {lanes : List Nat} {s : State} {x : α}
    (h : f lanes s = .ok x) : lowestFirst f g lanes s = .ok x := by
  rw [lowestFirst, h]

theorem lowestFirst_eq_ok {α β : Type} {f : List Nat → State → Res α} {g : List Nat → State → Res β} {lanes : List Nat} {s : State} {x : α}
    (h : lowestFirst f g lanes s = .ok x) : f lanes s = .ok x := by
  unfold lowestFirst at h
  split at h
  · split at h <;> cases h
  · exact h

end Sys2Proof.Proofs
end

section
/-! PROOFS. boxt and trit (14 R381 to R383). -/
namespace Sys2Proof.Proofs
open Sys2Proof Sys2Proof.Machine Sys2Proof.Laws Sys2Proof.Claims

theorem length_boxResult (ray : List Nat) (node : List Byte) : (boxResult ray node).length = 5 := by
  simp [boxResult]

theorem length_triResult (ray : List Nat) (r : List Byte) : (triResult ray r).length = 6 := by
  unfold triResult
  dsimp only
  repeat' split
  all_goals rfl

theorem loadNodes_readTimesOnly {n align : Nat} {lanes : List (Nat × Nat)} {s u : State} {r : List Loaded}
    (h : loadNodes n align lanes s = .ok (r, u)) : ReadTimesOnly s.k u.k := by
  have hnodes := lowestFirst_eq_ok h
  rw [nodesOf] at hnodes
  split at hnodes
  · cases hnodes
  · exact loadLanes_readTimesOnly hnodes

/-- A test of the rays of the served lanes against their records of `n` bytes. -/
def rayTest (n align : Nat) (result : List Nat → List Byte → List Nat) (k m : Nat) (s : State) : Res State := do
  let act ← served m s
  let (r, s1) ← loadNodes n align ((lanesOf act).map fun L => (L, recAddr s k L)) s
  pure (retire 1 (putBlk k 10 act (fun L => result (rayOf s1 k L) (laneBytes r L)) s1))

theorem rayTest_writes {n align len k m : Nat} {result : List Nat → List Byte → List Nat} {i : Instr} {s u : State} {r : List Loaded}
    (hi : exec i s = issue (blockReq k 16) s (rayTest n align result k m)) (hlen : ∀ ray node, (result ray node).length = len)
    (hp : Passes { blocks := [(2 * k, 16)] } s) (hm : (rdG s.k m).toNat < 8)
    (hload : loadNodes n align (rayRecords k (servedLanes m s.k) s.k) s = .ok (r, u)) :
    ∃ v, exec i s = .next (retire 1 { u with k := { u.k with v := v } }) ∧
      BlocksWritten k 10 len (servedLanes m s.k) (fun L => result (rayWords k L s.k) (laneBytes r L)) s.k.v v := by
  rw [servedLanes_eq_lanesOf] at hload ⊢
  generalize hact : s.k.e.mask &&& rdP s.k (rdG s.k m).toNat = act at hload ⊢
  have hserved : served m s = .ok act := hact ▸ served_eq_ok hm
  have hv : u.k.v = s.k.v := (loadNodes_readTimesOnly hload).v_eq
  refine ⟨(putBlk k 10 act (fun L => result (rayOf u k L) (laneBytes r L)) u).k.v, ?_, ?_⟩
  · rw [hi]
    refine issue_eq_next hp ?_
    rw [rayTest, bind_of_eq_ok _ hserved]
    exact bind_of_eq_ok _ hload
  · rw [← hv]
    exact BlocksWritten.congr (blocksWritten_putBlk u fun L _ => hlen _ _) fun L _ => by simp only [rayOf, blk, rayWords, word, hv]

/-- Settles O33: both are one test of the served lanes' rays, with their own records and results. -/
theorem rayTestResults : Obligations.RayTestResults := by
  unfold Obligations.RayTestResults
  exact fun k m s u r hp hm => ⟨rayTest_writes rfl length_boxResult hp hm, rayTest_writes rfl length_triResult hp hm⟩

end Sys2Proof.Proofs
end

section
/-! PROOFS. Depth tests (14 R385, R386). -/
namespace Sys2Proof.Proofs
open Sys2Proof Sys2Proof.Machine Sys2Proof.Laws Sys2Proof.Claims

/-! ### One test at the bank -/

theorem fxEq_comm (a b : Fx) : fxEq a b = fxEq b a := by
  cases a <;> cases b <;> simp only [fxEq, eq_comm, Bool.beq_comm]

theorem depthTest_eq_depthPasses (code z d : Nat) : depthTest code z d = depthPasses code z d := by
  unfold depthTest depthPasses
  split
  · rfl
  · rw [if_neg (by decide), if_pos rfl, fxLe, f32, f32, fxEq_comm]
  · rfl
  · next h0 h1 h2 => rw [if_neg h0, if_neg h1, if_neg h2]

/-- The bytes of an aligned depth lie in one word. -/
theorem word_of_depth {o i : Nat} (hal : o % 4 = 0) (hi : i < 4) : (o + i) / 8 = o / 8 := by omega

theorem ofBytes_engWin {c : Crew} {o : Nat} (hal : o % 4 = 0) (hgood : o / 8 ∉ c.winBad) : ofBytes (engWin c o 4).1 = winNat c o 4 := by
  rw [engWin, winNat]
  refine congrArg ofBytes (List.map_congr_left fun i hi => ?_)
  have hword : ¬ c.winBad.contains ((o + i) / 8) = true := by
    rw [word_of_depth hal (List.mem_range.mp hi)]
    simpa using hgood
  exact if_neg hword

theorem depthStep_eq {o code z : Nat} {wr : Bool} {c : Crew} (hal : o % 4 = 0) (hgood : o / 8 ∉ c.winBad) :
    depthStep o code z wr c =
      (depthPasses code z (winNat c o 4), if depthPasses code z (winNat c o 4) = true ∧ wr = true then putWin o (toBytes 4 z) c else c) := by
  rw [depthStep, depthTest_eq_depthPasses, ofBytes_engWin hal hgood]
  simp only [Bool.and_eq_true]

/-! ### Pixels and lanes -/

/-- Bits above the coordinates are zero in a pixel of the tile, as the machine tests it. -/
theorem pixelOk_eq (p : Nat) : decide (p % 2 ^ 5 + nb p 20 16 * 2 ^ 16 = p) = pixelOk p := by
  rw [pixelOk, ← Bool.decide_and, decide_eq_decide]
  simp only [nb]
  omega

theorem pixelAt_eq {p : Nat} (tile : Nat) (h : pixelOk p = true) : tile + 4 * (32 * nb p 20 16 + p % 32) = pixelAt tile p := by
  simp only [pixelOk, Bool.and_eq_true, decide_eq_true_eq] at h
  simp only [nb, Claims.pixelAt]
  omega

/-- The machine's loop over the lanes, as it keeps the outcomes and the window. -/
theorem foldl_depthStep (tile code : Nat) (wr : Bool) (pix z at_ : Nat → Nat) (l : List Nat) (hat : ∀ L ∈ l, at_ L = pixelAt tile (pix L))
    (acc : List (Nat × Bool)) (c : Crew) :
    l.foldl (fun (acc : List (Nat × Bool) × Crew) L => (acc.1 ++ [(L, (depthStep (at_ L) code (z L) wr acc.2).1)], (depthStep (at_ L) code (z L) wr acc.2).2))
      (acc, c) = (acc ++ (depthRun tile code wr pix z l c).1, (depthRun tile code wr pix z l c).2) := by
  induction l generalizing acc c with
  | nil => simp [depthRun]
  | cons L l ih =>
    obtain ⟨hL, hat⟩ := List.forall_mem_cons.mp hat
    rw [List.foldl_cons, ih hat, hL]
    simp [depthRun]

/-- What word 2 of a lane's block says of the tests `r`: passed, failed, or outside the tile. -/
def depthStatus (r : List (Nat × Bool)) (L : Nat) : Nat := match r.find? fun y => decide (y.1 = L) with | some y => b2 y.2 | none => 2

theorem correctScr_k (l : List (Nat × Int × Nat)) (s : State) : (correctScr l s).k = s.k := by
  obtain ⟨⟨_, _, hc⟩, -⟩ := correctScr_corrected l s
  rw [hc]

/-- The depths that the lanes read. -/
def depthReads (tile : Nat) (pix : Nat → Nat) (ls : List Nat) : List (Nat × Int × Nat) := ls.map fun L => (L, (pixelAt tile (pix L) : Int), 4)

/-- depthw whose depths lie in the window, in words without uncorrectable errors. -/
theorem exec_depthw {b t m tile : Nat} {at_ : List Nat} {s c : State} (hp : Passes { blocks := [(2 * b, 3)] } s) (hm : (rdG s.k m).toNat < 8)
    (hpar : nb (rdG s.k t).toNat 47 19 = 0) (htile : tile = 16 * nb (rdG s.k t).toNat 63 48) (hwin : tile + 4096 ≤ winSize s.crew)
    (hat : at_ = (servedLanes m s.k).filter fun L => pixelOk (word s.k b 0 L))
    (hgood : ∀ L ∈ at_, pixelAt tile (word s.k b 0 L) / 8 ∉ s.crew.winBad) (hc : c = correctScr (depthReads tile (word s.k b 0) at_) s) :
    let r := depthRun tile (nb (rdG s.k t).toNat 17 16) ((rdG s.k t).toNat.testBit 18) (word s.k b 0) (word s.k b 1) at_ c.crew
    exec (.depthw b t m) s =
      .next (retire 1 (putBlk b 2 (s.k.e.mask &&& rdP s.k (rdG s.k m).toNat) (fun L => [depthStatus r.1 L]) { c with crew := r.2 })) := by
  intro r
  have harm : exec (.depthw b t m) s = execDepthw b t m s := rfl
  have hpix : (lanesOf (s.k.e.mask &&& rdP s.k (rdG s.k m).toNat)).filter (fun L =>
      decide (blk s b 0 L % 2 ^ 5 + nb (blk s b 0 L) 20 16 * 2 ^ 16 = blk s b 0 L)) = at_ := by
    rw [hat, servedLanes_eq_lanesOf]
    exact List.filter_congr fun L _ => pixelOk_eq _
  have haddr : ∀ L ∈ at_, tile + 4 * (32 * nb (blk s b 0 L) 20 16 + blk s b 0 L % 32) = pixelAt tile (word s.k b 0 L) := by
    rw [hat]
    exact fun L hL => pixelAt_eq tile (List.mem_filter.mp hL).2
  have hread : at_.map (fun L => (L, ((tile + 4 * (32 * nb (blk s b 0 L) 20 16 + blk s b 0 L % 32) : Nat) : Int), 4)) =
      depthReads tile (word s.k b 0) at_ :=
    List.map_congr_left fun L hL => by rw [haddr L hL]
  have huncorr : winUncorr s.crew (depthReads tile (word s.k b 0) at_) = none := by
    refine winUncorr_eq_none fun y hy i hi => ?_
    obtain ⟨L, hL, rfl⟩ := List.mem_map.mp hy
    have hal : pixelAt tile (word s.k b 0 L) % 4 = 0 := by
      rw [Claims.pixelAt, htile]
      omega
    rw [Int.toNat_natCast, word_of_depth hal hi]
    exact hgood L hL
  have hz : blk c b 1 = word s.k b 1 := by
    funext L
    rw [blk, hc, correctScr_k, word]
  rw [harm, execDepthw]
  refine issue_eq_next hp ((bind_of_eq_ok _ (served_eq_ok hm)).trans ?_)
  dsimp only
  rw [if_neg (not_not.mpr hpar), ← htile, bind_of_eq_ok _ (chkWin_of_le hwin), hpix, hread, huncorr, ← hc]
  dsimp only
  rw [foldl_depthStep tile _ _ (word s.k b 0) _ _ at_ haddr, hz]
  rfl

/-- Settles O35: the loop is `depthRun`, and each of its steps is `depthStep_eq`. -/
theorem depthTestResults : Obligations.DepthTestResults := by
  unfold Obligations.DepthTestResults
  refine ⟨fun b t m s hp hm hpar => ?_, fun o code z wr c hal hgood _ => ?_⟩
  · intro x tile ls at_ hwin hgood
    have hcorr := correctScr_corrected (depthReads tile (word s.k b 0) at_) s
    have hexec := exec_depthw hp hm hpar rfl hwin rfl hgood rfl
    have hk := correctScr_k (depthReads tile (word s.k b 0) at_) s
    generalize correctScr (depthReads tile (word s.k b 0) at_) s = c at hcorr hexec hk
    have hls : ls = lanesOf (s.k.e.mask &&& rdP s.k (rdG s.k m).toNat) := servedLanes_eq_lanesOf m s.k
    dsimp only [putBlk] at hexec
    rw [hk] at hexec
    rw [hls]
    refine ⟨c, _, hcorr, hexec, BlocksWritten.congr (blocksWritten_putBlk (n := 1) s fun _ _ => rfl) fun _ _ => rfl⟩
  · rw [depthStep_eq hal hgood]
    refine ⟨rfl, ?_, fun a => ?_⟩
    · dsimp only
      split <;> rfl
    · dsimp only
      by_cases hwrite : depthPasses code z (winNat c o 4) = true ∧ wr = true
      · obtain ⟨hpass, hwr⟩ := hwrite
        rw [if_pos ⟨hpass, hwr⟩, winByte_putWin, toBytes_length]
        refine if_ctx_congr ⟨fun h => ⟨hpass, hwr, h⟩, fun h => h.2.2⟩ (fun h => ?_) fun _ => rfl
        exact toBytes_getD z _ (by omega)
      · rw [if_neg hwrite, if_neg fun h => hwrite ⟨h.1, h.2.1⟩]

end Sys2Proof.Proofs
end

section
/-! PROOFS. What a store leaves of its skein and crew (10 R284, R285, 01 R33 to R39). -/
namespace Sys2Proof.Proofs
open Sys2Proof Sys2Proof.Machine Sys2Proof.Laws Sys2Proof.Claims

/-- `u` has the vector registers of the skein in focus of `s` and the words with uncorrectable errors of its crew's window. -/
def VectorsKept (s u : State) : Prop := u.k.v = s.k.v ∧ u.crew.winBad = s.crew.winBad

theorem VectorsKept.refl (s : State) : VectorsKept s s := ⟨rfl, rfl⟩

theorem VectorsKept.trans {s t u : State} (h : VectorsKept s t) (h' : VectorsKept t u) : VectorsKept s u := by
  obtain ⟨hv, hbad⟩ := h
  obtain ⟨hv', hbad'⟩ := h'
  exact ⟨hv'.trans hv, hbad'.trans hbad⟩

theorem vectorsKept_foldl {α : Type} {f : State → α → State} (hf : ∀ t x, VectorsKept t (f t x)) (l : List α) (s : State) : VectorsKept s (l.foldl f s) :=
  List.foldlRecOn l f (.refl s) fun t ht x _ => ht.trans (hf t x)

theorem SameCrews.crew_eq {s u : State} (h : SameCrews s u) : u.crew = s.crew := h.2.2.1

theorem SameCrews.vectorsKept {s u : State} (h : SameCrews s u) : VectorsKept s u := by
  obtain ⟨hk, -, hcrew, -⟩ := h
  exact ⟨congrArg Skein.v hk, congrArg Crew.winBad hcrew⟩

theorem TlbsOnly.vectorsKept {s u : State} (h : TlbsOnly s u) : VectorsKept s u := h.cachesOnly.sameCrews.vectorsKept

theorem modCrewAll_vectorsKept {f : Crew → Crew} (hf : ∀ c, (f c).winBad = c.winBad) (uid : Nat) (s : State) : VectorsKept s (modCrewAll uid f s) := by
  refine ⟨rfl, ?_⟩
  rw [modCrewAll, modCrew]
  dsimp only
  split
  · exact hf _
  · rfl

/-! ### Stores that reach their homes, and parked ones that fail -/

theorem HorizonsOnly.v_eq {k k' : Skein} (h : HorizonsOnly k k') : k'.v = k.v := by
  obtain ⟨_, _, _, _, _, _, rfl⟩ := h
  rfl

theorem homeAccept_vectorsKept (st : Store) (s : State) : VectorsKept s (homeAccept st s) := by
  refine ⟨(homeAccept_horizonsOnly st s).v_eq, ?_⟩
  have hcrew : (l2Access st.first st.line (countWrites st.line (received st s))).crew = s.crew :=
    ((countWrites_sameCrews _ _).trans (l2Access_cachesOnly _ _ _).sameCrews).crew_eq
  have hraised (t : State) (n : Nat) : VectorsKept t (modCrewAll st.cuid (fun x => { x with hor := max x.hor n }) t) :=
    modCrewAll_vectorsKept (f := fun x => { x with hor := max x.hor n }) (fun _ => rfl) _ t
  rw [← hcrew, homeAccept]
  split <;> split
  · rfl
  · rfl
  · exact (hraised _ _).2
  · exact (hraised _ _).2

theorem sendStore_vectorsKept (st : Store) (s : State) : VectorsKept s (sendStore st s) := by
  unfold sendStore
  split
  · exact .refl s
  · exact homeAccept_vectorsKept st s

theorem reportStore_vectorsKept (ctx cuid : Nat) (d : DefStore) (s : State) : VectorsKept s (reportStore ctx cuid d s) := by
  unfold reportStore
  split
  · exact .refl s
  · split
    · exact .refl s
    · refine modCrewAll_vectorsKept (fun c => ?_) _ s
      split <;> rfl

theorem failParked_vectorsKept (cause : Nat) (p : Parked → Bool) (s : State) : VectorsKept s (failParked cause p s) :=
  .trans ⟨rfl, rfl⟩ (vectorsKept_foldl (fun _ _ => reportStore_vectorsKept _ _ _ _) _ _)

theorem performParked_vectorsKept (p : Parked) (l : Leaf) (s : State) : VectorsKept s (performParked p l s) :=
  .trans ⟨rfl, rfl⟩ (sendStore_vectorsKept _ _)

theorem performPage_vectorsKept (ctx page : Nat) (s : State) : VectorsKept s (performPage ctx page s) := by
  unfold performPage
  split
  · exact .refl s
  · dsimp only
    split
    · exact .refl s
    · split
      · exact failParked_vectorsKept _ _ s
      · exact vectorsKept_foldl (fun _ _ => performParked_vectorsKept _ _ _) _ s

theorem performParkedOn_vectorsKept (vas : List Nat) (s : State) : VectorsKept s (performParkedOn vas s) :=
  vectorsKept_foldl (fun _ _ => performPage_vectorsKept _ _ _) _ s

/-! ### Page requests -/

theorem zeroFrame_vectorsKept (frame n : Nat) (s : State) : VectorsKept s (zeroFrame frame n s) := by
  unfold zeroFrame
  split <;> exact ⟨rfl, rfl⟩

theorem putLeaf_vectorsKept (ctx va : Nat) (l : Leaf) (s : State) : VectorsKept s (putLeaf ctx va l s) := by
  unfold putLeaf dropTlb physWrite
  exact ((sameCrews_modHm _ s).trans (sameCrews_modHm _ _)).vectorsKept

theorem createPage_vectorsKept (ctx va : Nat) (l : Leaf) (frame : Nat) (s : State) : VectorsKept s (createPage ctx va l frame s) :=
  ((zeroFrame_vectorsKept _ _ s).trans (putLeaf_vectorsKept _ _ _ _)).trans (performPage_vectorsKept _ _ _)

theorem popFrame_vectorsKept {size frame : Nat} {s u : State} (h : popFrame size s = some (frame, u)) : VectorsKept s u := by
  unfold popFrame at h
  dsimp only at h
  split at h
  · cases h
  · obtain ⟨-, rfl⟩ := Prod.mk.inj (Option.some.inj h)
    unfold frmWith
    exact ⟨by rw [setPreg_k], by rw [setPreg_crew]⟩

theorem pageRequest_vectorsKept {priv : Bool} {ctx va asker c : Nat} {s u : State} (h : pageRequest priv ctx va asker s = .ok (c, u)) : VectorsKept s u := by
  have hanswer {n : Nat} {t : State} (h : (pure (n, t) : Res (Nat × State)) = .ok (c, u)) (hkept : VectorsKept s t) : VectorsKept s u := by
    obtain ⟨-, rfl⟩ := Prod.mk.inj (Except.ok.inj h)
    exact hkept
  obtain ⟨ce, -, h⟩ := exists_of_bind_eq_ok h
  split at h
  · exact hanswer h (.refl s)
  obtain ⟨l, -, h⟩ := exists_of_bind_eq_ok h
  split at h
  · exact hanswer h (.refl s)
  dsimp only at h
  split at h
  · exact hanswer h (.refl s)
  split at h
  · exact hanswer h (.refl s)
  split at h
  · exact hanswer h (.refl s)
  split at h
  · exact hanswer h (.refl s)
  split at h
  · split at h
    · exact hanswer h (createPage_vectorsKept _ _ _ _ s)
    · split at h
      · next hpop => exact hanswer h ((popFrame_vectorsKept hpop).trans (createPage_vectorsKept _ _ _ _ _))
      · exact hanswer h ⟨by rw [modXl, setPreg_k], by rw [modXl, setPreg_crew]⟩
  · split at h
    · exact hanswer h (.refl s)
    · exact hanswer h ⟨rfl, rfl⟩

theorem parkRequest_vectorsKept {priv : Bool} {ctx page size : Nat} {s u : State} (h : parkRequest priv ctx page size s = .ok u) : VectorsKept s u := by
  obtain ⟨⟨c, t⟩, hreq, h⟩ := exists_of_bind_eq_ok h
  have hkept := pageRequest_vectorsKept hreq
  obtain rfl := Except.ok.inj h
  split
  · exact hkept.trans (failParked_vectorsKept _ _ t)
  · exact hkept

theorem requestAll_vectorsKept {l : List (Nat × Nat)} {s u : State} (h : requestAll l s = .ok u) : VectorsKept s u := by
  induction l generalizing s with
  | nil =>
    obtain rfl := Except.ok.inj h
    exact .refl _
  | cons p l ih =>
    obtain ⟨t, hpark, h⟩ := exists_of_bind_eq_ok h
    exact (parkRequest_vectorsKept hpark).trans (ih h)

/-! ### Stores -/

theorem sendStores_vectorsKept (ins : Nat) (first : Bool) (vaOf : Nat → Nat) (cells : List (Nat × Byte)) (s : State) :
    VectorsKept s (sendStores ins first vaOf cells s) := by
  unfold sendStores updateL1
  refine .trans (sameCrews_modHm _ s).vectorsKept (vectorsKept_foldl ?_ _ _)
  refine fun t line => ⟨?_, rfl⟩
  dsimp only
  split <;> rfl

theorem park_vectorsKept (first : Bool) (ins : Nat) (cells : List StCell) (x : Nat × Nat × Nat) (s : State) : VectorsKept s (park first ins cells x s) :=
  ⟨rfl, rfl⟩

theorem storeLanes_vectorsKept {n pol : Nat} {lanes : List (Nat × Nat)} {data : Nat → List Byte} {s u : State}
    (h : storeLanes n lanes data s pol = .ok u) : VectorsKept s u := by
  obtain ⟨⟨r, s1⟩, hcheck, h⟩ := exists_of_bind_eq_ok h
  have hs1 : VectorsKept s s1 := (checkLanes_tlbsOnly hcheck).vectorsKept
  dsimp only at h
  split at h
  · cases h
  · split at h
    · cases h
    · split at h
      · cases h
      · refine hs1.trans (.trans ?_ (requestAll_vectorsKept h))
        refine .trans ?_ (vectorsKept_foldl (fun t x => park_vectorsKept _ _ _ x t) _ _)
        refine .trans (.trans (.trans ?_ (performParkedOn_vectorsKept _ _)) (sameCrews_modHm _ _).vectorsKept) (sendStores_vectorsKept _ _ _ _ _)
        split
        · exact .refl s1
        · exact ⟨rfl, rfl⟩

end Sys2Proof.Proofs
end

section
/-! PROOFS. Short stacks (14 R384). -/
namespace Sys2Proof.Proofs
open Sys2Proof Sys2Proof.Machine Sys2Proof.Laws Sys2Proof.Claims

/-! ### The slots of lanes -/

/-- Slots of 8 bytes of different lanes do not overlap. -/
theorem slotAt_apart (x : Stk) (f : Nat → Nat) {L M : Nat} (h : L ≠ M) :
    Claims.slotAt x L (f L) + 8 ≤ Claims.slotAt x M (f M) ∨ Claims.slotAt x M (f M) + 8 ≤ Claims.slotAt x L (f L) := by
  simp only [Claims.slotAt]
  omega

theorem slotsFirst_eq_ok {α : Type} {slot : Nat → Nat} {f : List Nat → State → Res α} {live : List Nat} {s : State} {r : α}
    (hin : slotsIn s (live.map slot)) (h : f live s = .ok r) : slotsFirst slot f live s = .ok r := by
  have hcheck : scrCheck (winSize s.crew) (slotRanges slot live) = none := by
    refine scrCheck_eq_none fun y hy _ => ?_
    obtain ⟨L, hL, rfl⟩ := List.mem_map.mp hy
    have := hin (slot L) (List.mem_map_of_mem hL)
    refine ⟨Int.natCast_nonneg _, ?_⟩
    dsimp only
    rw [winSize]
    omega
  rw [slotsFirst]
  refine lowestFirst_of_ok ?_
  rw [hcheck]
  exact h

theorem readSlots_eq_ok {slot : Nat → Nat} {ls : List Nat} {s : State} (h : slotsSound s (ls.map slot)) :
    readSlots (slotRanges slot ls) s = .ok (correctScr (slotRanges slot ls) s) := by
  have huncorr : winUncorr s.crew (slotRanges slot ls) = none := by
    refine winUncorr_eq_none fun y hy i hi => ?_
    obtain ⟨L, hL, rfl⟩ := List.mem_map.mp hy
    exact h (slot L) (List.mem_map_of_mem hL) i hi
  rw [readSlots, huncorr]

/-- The window after the lanes' slots are written. -/
def slotsWritten (slot : Nat → Nat) (data : Nat → List Byte) (ls : List Nat) (c : Crew) : Crew := putSlots (ls.map fun L => (slot L, data L)) c

theorem slotsWritten_cons (slot : Nat → Nat) (data : Nat → List Byte) (L : Nat) (ls : List Nat) (c : Crew) :
    slotsWritten slot data (L :: ls) c = slotsWritten slot data ls (putWin (slot L) (data L) c) := rfl

theorem slotsWritten_frame (slot : Nat → Nat) (data : Nat → List Byte) (ls : List Nat) (c : Crew) :
    slotsWritten slot data ls c = { c with win := (slotsWritten slot data ls c).win } :=
  List.foldlRecOn _ _ (motive := fun c' : Crew => c' = { c with win := c'.win }) rfl fun c' hc' y _ => by rw [hc']; rfl

theorem winByte_slotsWritten_outside {slot : Nat → Nat} {data : Nat → List Byte} {ls : List Nat} {o : Nat} (c : Crew) (hlen : ∀ L ∈ ls, (data L).length ≤ 8)
    (h : ∀ L ∈ ls, o < slot L ∨ slot L + 8 ≤ o) : winByte (slotsWritten slot data ls c) o = winByte c o := by
  induction ls generalizing c with
  | nil => rfl
  | cons L ls ih =>
    obtain ⟨hL, hlen⟩ := List.forall_mem_cons.mp hlen
    obtain ⟨ho, h⟩ := List.forall_mem_cons.mp h
    rw [slotsWritten_cons, ih _ hlen h, winByte_putWin, if_neg (by omega)]

theorem winByte_slotsWritten_own {slot : Nat → Nat} {data : Nat → List Byte} {ls : List Nat} {L i : Nat} (c : Crew) (hlen : ∀ L ∈ ls, (data L).length ≤ 8)
    (hnd : ls.Nodup) (hapart : ∀ M ∈ ls, L ≠ M → slot L + 8 ≤ slot M ∨ slot M + 8 ≤ slot L) (hL : L ∈ ls) (hi : i < (data L).length) :
    winByte (slotsWritten slot data ls c) (slot L + i) = (data L).getD i 0#8 := by
  have hi8 := hlen L hL
  induction ls generalizing c with
  | nil => cases hL
  | cons M ls ih =>
    obtain ⟨hM, hnd'⟩ := List.nodup_cons.mp hnd
    obtain ⟨-, hlen'⟩ := List.forall_mem_cons.mp hlen
    obtain ⟨-, hapart'⟩ := List.forall_mem_cons.mp hapart
    rw [slotsWritten_cons]
    obtain rfl | hL := List.mem_cons.mp hL
    · rw [winByte_slotsWritten_outside _ hlen', winByte_putWin, if_pos (by omega), Nat.add_sub_cancel_left]
      intro N hN
      have := hapart' N hN fun h => hM (h ▸ hN)
      omega
    · exact ih _ hlen' hnd' hapart' hL

/-! ### What a load of lanes leaves, and the bytes it gives -/

/-- A load leaves the crew unchanged and gives no lane more than its `n` bytes. -/
theorem loadLanes_crew {acq nf cl : Bool} {pol n : Nat} {lanes : List (Nat × Nat)} {s u : State} {r : List Loaded}
    (h : loadLanes acq nf pol n lanes s cl = .ok (r, u)) (hn : 0 < n) : u.crew = s.crew ∧ ∀ L, (laneBytes r L).length ≤ n := by
  obtain ⟨⟨accs, s1⟩, hres, h1⟩ := exists_of_bind_eq_ok h
  obtain ⟨s2, hhost, h2⟩ := exists_of_bind_eq_ok h1
  obtain rfl := hostReady_eq_ok hhost
  obtain ⟨hcheck, hfault⟩ := resolve_eq_ok hres
  dsimp only at h2
  split at h2
  · cases h2
  · have htouch := cachesOnly_foldl (touchLane_cachesOnly (if !acq && !nbit pol 0 then pol else Nat.lor pol 1)) accs s2
    have hcrew := ((resolve_tlbsOnly hres).cachesOnly.trans htouch).sameCrews.crew_eq
    obtain ⟨rfl, rfl⟩ := Prod.mk.inj (Except.ok.inj h2)
    refine ⟨hcrew, fun L => ?_⟩
    rw [laneBytes_map_laneData]
    obtain ⟨hnone, -⟩ | ⟨a, x, hfind, -, ha, hlane⟩ := find_laneOf (checkLanes_laneOf hcheck) L
    · rw [hnone]
      exact Nat.zero_le n
    · rw [hfind]
      exact (length_bytes_laneData hlane (fault_eq_none_of_laneFault hfault a ha) hn).le

/-! ### The instructions -/

/-- Of a list's filtered lanes, all are lanes of the list. -/
theorem filter_contains_filter (l : List Nat) (p : Nat → Bool) : (l.filter p).filter l.contains = l.filter p :=
  List.filter_eq_self.mpr fun _ hx => List.contains_iff_mem.mpr (List.mem_filter.mp hx).1

theorem contains_filter {l : List Nat} {p : Nat → Bool} {x : Nat} (h : x ∈ l) : (l.filter p).contains x = true ↔ p x = true := by
  rw [List.contains_iff_mem, List.mem_filter, and_iff_right h]

theorem length_pushed (k : Skein) (b L : Nat) : (pushed k b L).length = 8 := by
  simp [pushed, littleEndian_eq_toBytes, toBytes_length]

theorem pushed_eq (k : Skein) (b L : Nat) : pushed k b L = toBytes 4 (word k b 0 L) ++ toBytes 4 (word k b 1 L) := by
  rw [pushed, littleEndian_eq_toBytes, littleEndian_eq_toBytes]

/-- Where stkpush puts a lane's value. -/
def pushSlot (x : Stk) (k : Skein) (b L : Nat) : Nat := Claims.slotAt x L (word k b 2 L)

/-- Where stkpop finds a lane's value. -/
def popSlot (x : Stk) (k : Skein) (b L : Nat) : Nat := Claims.slotAt x L (word k b 2 L - 1)

/-- stkpush whose slots lie in the window and whose spilled slots are read without an uncorrectable error. -/
theorem exec_stkpush {b g m : Nat} {x : Stk} {act : Word32} {live deep : List Nat} {s u c : State}
    (hp : Passes { blocks := [(2 * b, 4)], even := [g], stores := true } s) (hstk : stkOf g m s = .ok (x, act))
    (hlive : live = (lanesOf act).filter fun L => decide (word s.k b 2 L < 16 + x.scap))
    (hdeep : deep = live.filter fun L => decide (16 ≤ word s.k b 2 L))
    (hin : slotsIn s (live.map (pushSlot x s.k b)))
    (hsound : slotsSound s (deep.map (pushSlot x s.k b)))
    (hstore : storeLanes 8 (deep.map fun L => (L, spillSlot x L (word s.k b 2 L - 16)))
      (fun L => (List.range 8).map fun i => winByte s.crew (pushSlot x s.k b L + i)) s = .ok u)
    (hc : c = correctScr (slotRanges (pushSlot x s.k b) deep) u) :
    exec (.stkpush b g m) s =
      .next (retire 1 (putBlk b 2 act (fun L => if live.contains L then [word s.k b 2 L + 1, 0] else [word s.k b 2 L, 2])
        { c with crew := slotsWritten (pushSlot x s.k b) (pushed s.k b) live c.crew })) := by
  have harm : exec (.stkpush b g m) s = execStkpush b g m s := rfl
  have hbad : u.crew.winBad = s.crew.winBad := (storeLanes_vectorsKept hstore).2
  have hread : readSlots (slotRanges (pushSlot x s.k b) deep) u = .ok c := by
    rw [hc]
    refine readSlots_eq_ok ?_
    rw [slotsSound, hbad]
    exact hsound
  rw [harm, execStkpush]
  refine issue_eq_next hp ((bind_of_eq_ok _ hstk).trans ?_)
  have hslots : slotsFirst (pushSlot x s.k b) (fun ls t => storeLanes 8 ((deep.filter ls.contains).map fun L => (L, spillSlot x L (word s.k b 2 L - 16)))
      (fun L => (List.range 8).map fun i => winByte t.crew (pushSlot x s.k b L + i)) t) live s = .ok u := by
    refine slotsFirst_eq_ok hin ?_
    rwa [hdeep, filter_contains_filter, ← hdeep]
  subst hlive hdeep
  refine (bind_of_eq_ok _ hslots).trans ((bind_of_eq_ok _ hread).trans ?_)
  simp only [slotsWritten, pushed_eq]
  rfl

/-- stkpop whose slots lie in the window, in words without uncorrectable errors. -/
theorem exec_stkpop {b g m : Nat} {x : Stk} {act : Word32} {live deep : List Nat} {r : List Loaded} {s u c : State}
    (hp : Passes { blocks := [(2 * b, 4)], even := [g] } s) (hstk : stkOf g m s = .ok (x, act))
    (hlive : live = (lanesOf act).filter fun L => decide (word s.k b 2 L ≠ 0)) (hdeep : deep = live.filter fun L => decide (17 ≤ word s.k b 2 L))
    (hin : slotsIn s (live.map (popSlot x s.k b))) (hsound : slotsSound s (live.map (popSlot x s.k b)))
    (hload : loadLanes false false 0 8 (deep.map fun L => (L, spillSlot x L (word s.k b 2 L - 17))) s = .ok (r, u))
    (hc : c = correctScr (slotRanges (popSlot x s.k b) live) u) :
    exec (.stkpop b g m) s =
      .next (retire 1 (putBlk b 0 act (fun L => if live.contains L then
          [winNat s.crew (popSlot x s.k b L) 8 % 2 ^ 32, winNat s.crew (popSlot x s.k b L) 8 / 2 ^ 32, word s.k b 2 L - 1, 0]
          else [word s.k b 0 L, word s.k b 1 L, word s.k b 2 L, 1])
        { c with crew := slotsWritten (popSlot x s.k b) (laneBytes r) deep c.crew })) := by
  have harm : exec (.stkpop b g m) s = execStkpop b g m s := rfl
  have hread : readSlots (slotRanges (popSlot x s.k b) live) u = .ok c := by
    rw [hc]
    refine readSlots_eq_ok ?_
    rw [slotsSound, (loadLanes_crew hload (by decide)).1]
    exact hsound
  rw [harm, execStkpop]
  refine issue_eq_next hp ((bind_of_eq_ok _ hstk).trans ?_)
  have hslots : slotsFirst (popSlot x s.k b) (fun ls t => loadLanes false false 0 8
      ((deep.filter ls.contains).map fun L => (L, spillSlot x L (word s.k b 2 L - 17))) t) live s = .ok (r, u) := by
    refine slotsFirst_eq_ok hin ?_
    rwa [hdeep, filter_contains_filter, ← hdeep]
  subst hlive hdeep
  exact (bind_of_eq_ok _ hslots).trans (bind_of_eq_ok _ hread)

/-- The window and the words after the slots of `ls` and the blocks of `act` are written, single-bit errors having been corrected. -/
theorem exists_slots_and_words {b first n : Nat} {act : Word32} {slot : Nat → Nat} {data : Nat → List Byte} {words : Nat → List Nat} {ls : List Nat} {s u c : State}
    (hcorr : Corrected u c) (hk : c.k = u.k) (hv : u.k.v = s.k.v) (hwords : ∀ L, (words L).length = n) (hlen : ∀ L ∈ ls, (data L).length ≤ 8)
    (hnd : ls.Nodup) (hapart : ∀ L M, L ≠ M → slot L + 8 ≤ slot M ∨ slot M + 8 ≤ slot L) :
    ∃ v w, putBlk b first act words { c with crew := slotsWritten slot data ls c.crew } = { c with k := { u.k with v := v }, crew := { c.crew with win := w } } ∧
      (∀ L ∈ ls, ∀ i < (data L).length, mget 0#8 w (slot L + i) = (data L).getD i 0#8) ∧
      (∀ o, (∀ L ∈ ls, o < slot L ∨ slot L + 8 ≤ o) → mget 0#8 w o = winByte u.crew o) ∧ BlocksWritten b first n (lanesOf act) words s.k.v v := by
  refine ⟨(putBlk b first act words { c with crew := slotsWritten slot data ls c.crew }).k.v, (slotsWritten slot data ls c.crew).win, ?_,
    fun L hL i hi => ?_, fun o ho => ?_, ?_⟩
  · rw [← hk, ← slotsWritten_frame]
    rfl
  · exact winByte_slotsWritten_own c.crew hlen hnd (fun M _ => hapart L M) hL hi
  · obtain ⟨⟨_, _, rfl⟩, -⟩ := hcorr
    exact winByte_slotsWritten_outside _ hlen ho
  · rw [← hv, ← hk]
    exact blocksWritten_putBlk { c with crew := slotsWritten slot data ls c.crew } fun L _ => hwords L

/-- Settles O34: the window after each is `slotsWritten`, whose slots lie apart. -/
theorem stackResults : Obligations.StackResults := by
  unfold Obligations.StackResults
  refine ⟨fun b g m x act s u hp hstk => ?_, fun b g m x act r s u hp hstk => ?_⟩
  · intro D ls live deep hin hsound hstore
    obtain ⟨v, w, hput, hown, hout, hblk⟩ := exists_slots_and_words (b := b) (first := 2) (n := 2) (act := act) (slot := pushSlot x s.k b) (data := pushed s.k b)
      (words := fun L => if live.contains L then [D L + 1, 0] else [D L, 2]) (ls := live) (s := s)
      (correctScr_corrected (slotRanges (pushSlot x s.k b) deep) u) (correctScr_k _ u) (storeLanes_vectorsKept hstore).1
      (fun L => by split <;> rfl) (fun L _ => (length_pushed s.k b L).le) ((nodup_lanesOf act).filter _) fun L M => slotAt_apart x (word s.k b 2)
    refine ⟨_, v, w, correctScr_corrected (slotRanges (pushSlot x s.k b) deep) u, ?_, fun L hL i hi => hown L hL i (by rwa [length_pushed]), hout,
      BlocksWritten.congr hblk fun L hL => ?_⟩
    · rw [exec_stkpush hp hstk rfl rfl hin hsound hstore rfl]
      exact congrArg (fun t => Host.Outcome.next (retire 1 t)) hput
    · exact if_ctx_congr ((contains_filter hL).trans decide_eq_true_iff) (fun _ => rfl) fun _ => rfl
  · intro D ls live deep hin hsound hload top
    obtain ⟨hcrew, hlen⟩ := loadLanes_crew hload (by decide)
    obtain ⟨v, w, hput, hown, hout, hblk⟩ := exists_slots_and_words (b := b) (first := 0) (n := 4) (act := act) (slot := popSlot x s.k b) (data := laneBytes r)
      (words := fun L => if live.contains L then [top L % 2 ^ 32, top L / 2 ^ 32, D L - 1, 0] else [word s.k b 0 L, word s.k b 1 L, D L, 1]) (ls := deep) (s := s)
      (correctScr_corrected (slotRanges (popSlot x s.k b) live) u) (correctScr_k _ u) (loadLanes_readTimesOnly hload).v_eq
      (fun L => by split <;> rfl) (fun L _ => hlen L) (((nodup_lanesOf act).filter _).filter _) fun L M => slotAt_apart x fun L => word s.k b 2 L - 1
    refine ⟨_, v, w, correctScr_corrected (slotRanges (popSlot x s.k b) live) u, ?_, hown, hout, BlocksWritten.congr hblk fun L hL => ?_⟩
    · rw [exec_stkpop hp hstk rfl rfl hin hsound hload rfl]
      exact congrArg (fun t => Host.Outcome.next (retire 1 t)) hput
    · refine if_ctx_congr ((contains_filter hL).trans decide_eq_true_iff) (fun _ => rfl) fun hD => ?_
      rw [not_not.mp hD]

end Sys2Proof.Proofs
end

section
/-! PROOFS. march, march.iv and mresume as they start (12 R350 to R352). -/
namespace Sys2Proof.Proofs
open Sys2Proof Sys2Proof.Machine Sys2Proof.Laws Sys2Proof.Claims

/-! ### The words captured of the lanes -/

/-- One word of each lane. -/
theorem mget_foldl_lanes (f : Nat → Word32) (j : Nat) {j' L : Nat} (hL : L < 32) (ls : List Nat) (m : SMap Word32) (hls : ∀ M ∈ ls, M < 32) :
    mget 0#32 (ls.foldl (fun m M => mset 0#32 m (32 * j + M) (f M)) m) (32 * j' + L) =
      if j' = j ∧ L ∈ ls then f L else mget 0#32 m (32 * j' + L) := by
  induction ls generalizing m with
  | nil => simp
  | cons M ls ih =>
    obtain ⟨hM, hls⟩ := List.forall_mem_cons.mp hls
    rw [List.foldl_cons, ih _ hls, mget_mset]
    by_cases hj : j' = j ∧ L ∈ M :: ls
    · rw [if_pos hj]
      obtain ⟨rfl, hmem⟩ := hj
      by_cases hlater : L ∈ ls
      · rw [if_pos ⟨rfl, hlater⟩]
      · obtain rfl := (List.mem_cons.mp hmem).resolve_right hlater
        rw [if_neg fun h => hlater h.2, if_pos rfl]
    · rw [if_neg hj, if_neg fun h => hj ⟨h.1, List.mem_cons_of_mem _ h.2⟩, if_neg]
      intro heq
      exact hj ⟨by omega, List.mem_cons.mpr (.inl (by omega))⟩

theorem mget_captured (lanes : Word32) (n : Nat) (f : Nat → Nat → Word32) {j L : Nat} (hL : L < 32) :
    mget 0#32 (captured lanes n f) (32 * j + L) = if j < n ∧ laneOn lanes L = true then f j L else 0#32 := by
  induction n with
  | zero => rw [if_neg (by omega)]; rfl
  | succ n ih =>
    have hstep : captured lanes (n + 1) f = (lanesOf lanes).foldl (fun m L => mset 0#32 m (32 * n + L) (f n L)) (captured lanes n f) := by
      rw [captured, List.range_succ, List.foldl_append]
      rfl
    rw [hstep, mget_foldl_lanes (f n) n hL _ _ fun M => lt_of_mem_lanesOf, ih]
    by_cases hon : laneOn lanes L = true
    · have hmem : L ∈ lanesOf lanes := (mem_lanesOf lanes L).mpr ⟨hL, hon⟩
      obtain rfl | hne := eq_or_ne j n
      · rw [if_pos ⟨rfl, hmem⟩, if_pos ⟨Nat.lt_succ_self j, hon⟩]
      · rw [if_neg fun h => hne h.1]
        exact if_ctx_congr (and_congr_left' (by omega)) (fun _ => rfl) fun _ => rfl
    · rw [if_neg fun h => hon ((mem_lanesOf lanes L).mp h.2).2, if_neg fun h => hon h.2, if_neg fun h => hon h.2]

/-! ### What the object and the program leave unchanged -/

theorem checkObj_tlbsOnly {scr : Bool} {a : Word64} {s u : State} (h : checkObj scr a s = .ok u) : TlbsOnly s u := by
  unfold checkObj at h
  split_ifs at h
  · cases h
    exact .refl s
  · obtain ⟨⟨l, s1⟩, hres, hu⟩ := exists_of_bind_eq_ok h
    cases hu
    exact resolve_tlbsOnly hres

theorem tileObj_tlbsOnly {scr : Bool} {x : Word64} {obj : Obj} {s u : State} (h : tileObj scr x s = .ok (obj, u)) : TlbsOnly s u := by
  unfold tileObj at h
  split_ifs at h
  · cases h
    exact .refl s
  · obtain ⟨s1, hobj, hu⟩ := exists_of_bind_eq_ok h
    cases hu
    exact checkObj_tlbsOnly hobj

theorem ReadTimesOnly.trans {k k' k'' : Skein} (h : ReadTimesOnly k k') (h' : ReadTimesOnly k' k'') : ReadTimesOnly k k'' := by
  obtain ⟨_, _, rfl⟩ := h
  obtain ⟨_, _, rfl⟩ := h'
  exact ⟨_, _, rfl⟩

theorem TlbsOnly.readTimesOnly {s u : State} (h : TlbsOnly s u) : ReadTimesOnly s.k u.k := h.cachesOnly.k_eq ▸ .refl s.k

theorem winRead_k {off n : Nat} {b : List Byte} {s u : State} (h : winRead off n s = .ok (b, u)) : u.k = s.k := by
  obtain ⟨-, -, h⟩ := exists_of_bind_eq_ok h
  split at h <;> cases h
  exact correctScr_k _ s

theorem progLoad_readTimesOnly {va n : Nat} {b : List Byte} {s u : State} (h : progLoad va n s = .ok (b, u)) : ReadTimesOnly s.k u.k := by
  obtain ⟨⟨r, s1⟩, hres, h⟩ := exists_of_bind_eq_ok h
  exact (resolve_tlbsOnly hres).readTimesOnly.trans (loadOne_readTimesOnly h)

theorem readProg_readTimesOnly {scr : Bool} {addr : Nat} {b : List Byte} {s u : State} (h : readProg scr addr s = .ok (b, u)) : ReadTimesOnly s.k u.k := by
  unfold readProg at h
  split at h
  · cases h
  · split at h
    all_goals
      obtain ⟨⟨head, s1⟩, hhead, h⟩ := exists_of_bind_eq_ok h
      obtain ⟨-, -, h⟩ := exists_of_bind_eq_ok h
      obtain ⟨⟨prog, s2⟩, hprog, h⟩ := exists_of_bind_eq_ok h
      obtain ⟨-, -, h⟩ := exists_of_bind_eq_ok h
      cases h
    · rw [winRead_k hprog, winRead_k hhead]
      exact .refl s.k
    · exact (progLoad_readTimesOnly hhead).trans (progLoad_readTimesOnly hprog)

theorem fetchGrid_readTimesOnly {addr : Nat} {n : Option Nat} {valid : Bool} {r : List Byte} {s u : State} (h : fetchGrid addr n valid s = .ok (r, u)) :
    ReadTimesOnly s.k u.k := by
  obtain ⟨⟨b, s1⟩, hload, h⟩ := exists_of_bind_eq_ok h
  have hk := loadOne_readTimesOnly hload
  dsimp only at h
  split at h <;> cases h
  exact hk

theorem readNodes_readTimesOnly {p : Prog} {ops : List FOp} {rs : List (List Byte)} {s u : State} (h : readNodes p ops s = .ok (rs, u)) :
    ReadTimesOnly s.k u.k := by
  induction ops generalizing s rs with
  | nil =>
    cases h
    exact .refl _
  | cons x ops ih =>
    rw [readNodes] at h
    dsimp only at h
    split at h
    · obtain ⟨⟨r, s1⟩, hrec, h⟩ := exists_of_bind_eq_ok h
      obtain ⟨⟨rs', s2⟩, hrest, h⟩ := exists_of_bind_eq_ok h
      cases h
      exact (fetchRecord_readTimesOnly hrec).trans (ih hrest)
    · split at h
      · obtain ⟨⟨r, s1⟩, hgrid, h⟩ := exists_of_bind_eq_ok h
        obtain ⟨⟨rs', s2⟩, hrest, h⟩ := exists_of_bind_eq_ok h
        cases h
        exact (fetchGrid_readTimesOnly hgrid).trans (ih hrest)
      · exact ih h

theorem capture_readTimesOnly {scr : Bool} {addr : Nat} {r : List (List Byte)} {s u : State} (h : capture scr addr s = .ok (r, u)) : ReadTimesOnly s.k u.k := by
  obtain ⟨⟨b, s1⟩, hprog, h⟩ := exists_of_bind_eq_ok h
  obtain ⟨⟨rs, s2⟩, hnodes, h⟩ := exists_of_bind_eq_ok h
  cases h
  exact (readProg_readTimesOnly hprog).trans (readNodes_readTimesOnly hnodes)

theorem ReadTimesOnly.marchLanes_eq {k k' : Skein} (h : ReadTimesOnly k k') (p : Nat) : marchLanes p k' = marchLanes p k := by
  obtain ⟨_, _, rfl⟩ := h
  rfl

theorem TlbsOnly.kind3Of_eq {s u : State} (h : TlbsOnly s u) : kind3Of u = kind3Of s := by
  obtain ⟨_, rfl⟩ := h
  rfl

/-! ### The instructions -/

theorem contBad_eq_false {e : Word64} {s : State} (h : e ≠ 0#64 → hasBaskets s.crew = true ∧ 16 ≤ (basketRole s.crew).regs) : contBad e s = false := by
  by_cases he : e = 0#64
  · simp [contBad, he]
  · obtain ⟨hbaskets, hregs⟩ := h he
    simp [contBad, hbaskets, hregs]

/-- march and march.iv as they start. -/
theorem march_starts {iv : Bool} {k p q o : Nat} {obj : Obj} {r : List (List Byte)} {s u w : State} (hp : Passes (marchReq k p q) s)
    (hcont : contBad (rdG s.k (p + 1)) s = false) (hobj : tileObj (decide (o = 1)) (rdG s.k (q + 1)) s = .ok (obj, u)) (hroom : roomForLong w)
    (hpar : paramBad false (rdG s.k q).toNat (rdG s.k (p + 1)) = false) (hcap : capture (nbit (rdG s.k q).toNat 0) (rdG s.k p).toNat u = .ok (r, w)) :
    let lanes := marchLanes (rdG s.k q).toNat s.k
    march iv k p q o s = .next (started { newOp (.march iv) obj w with
      args := [w64 (rdG s.k q).toNat, rdG s.k (p + 1), w64 (2 * k), rdG s.k p], recs := r, lanes := lanes, count := 16 * laneCount lanes,
      lane := captured lanes 12 fun j L => getV s.k.v (2 * k + j) L } w) := by
  have hobj' : engObj true (decide (o = 1)) (rdG s.k (q + 1)) s = .ok (obj, u) := hobj
  have hk : ReadTimesOnly s.k w.k := (tileObj_tlbsOnly hobj).readTimesOnly.trans (capture_readTimesOnly hcap)
  refine issue_eq_next hp ?_
  dsimp only
  rw [hpar, if_neg Bool.false_ne_true, hcont, if_neg Bool.false_ne_true, bind_of_eq_ok _ hobj']
  dsimp only
  rw [bind_of_eq_ok _ hcap]
  dsimp only
  rw [hk.marchLanes_eq, hk.rdG_eq, hk.v_eq]
  exact startOp_of_room (opFull_long rfl hroom)

/-- The words that mresume captures of a lane: 28 of its launching record, then those of its block (12 R352). -/
def resumedWord (k : Nat) (w : State) (j L : Nat) : Word32 :=
  match kind3Of w L with
  | some r => if j < 28 then recWord r j else getV w.k.v (2 * k + (j - 28)) L
  | none => 0#32

/-- mresume as it starts. -/
theorem mresume_starts {k p q o : Nat} {obj : Obj} {bs : List (List Byte)} {ix : List Nat} {s u w : State} (hp : Passes (marchReq k p q) s)
    (hcont : contBad (rdG s.k (p + 1)) s = false) (hobj : tileObj (decide (o = 1)) (rdG s.k (q + 1)) s = .ok (obj, u)) (hroom : roomForLong w)
    (hpar : paramBad true (rdG s.k q).toNat (rdG s.k (p + 1)) = false)
    (hrecs : ((lanesOf (marchLanes (rdG s.k q).toNat s.k)).filterMap (kind3Of s)).length = laneCount (marchLanes (rdG s.k q).toNat s.k))
    (hcap : captureAll ((lanesOf (marchLanes (rdG s.k q).toNat s.k)).filterMap (kind3Of s)) u = .ok (bs, ix, w)) :
    let lanes := marchLanes (rdG s.k q).toNat s.k
    exec (.mresume k p q o) s = .next (started { newOp .mresume obj w with
      args := [w64 (rdG s.k q).toNat, rdG s.k (p + 1), w64 (2 * k)], recs := bs, index := ix, lanes := lanes, count := 16 * laneCount lanes,
      lane := captured lanes 30 (resumedWord k w) } w) := by
  have harm : exec (.mresume k p q o) s = execMresume k p q o s := rfl
  have hobj' : engObj true (decide (o = 1)) (rdG s.k (q + 1)) s = .ok (obj, u) := hobj
  have hlanes := (tileObj_tlbsOnly hobj).readTimesOnly.marchLanes_eq (rdG s.k q).toNat
  have hkind := (tileObj_tlbsOnly hobj).kind3Of_eq
  rw [harm]
  refine issue_eq_next hp ?_
  dsimp only
  rw [hpar, if_neg Bool.false_ne_true, hcont, if_neg Bool.false_ne_true, bind_of_eq_ok _ hobj']
  dsimp only
  rw [hlanes, hkind, if_neg (not_not.mpr hrecs), bind_of_eq_ok _ hcap]
  exact startOp_of_room (opFull_long rfl hroom)

/-- Settles O31: what starts is `march_starts` and `mresume_starts`, whose captured words `mget_captured` gives. -/
theorem marchesStart : Obligations.MarchesStart := by
  unfold Obligations.MarchesStart
  intro k p q o obj s u w hp par cont act hcont hobj hroom
  have hcont' := contBad_eq_false hcont
  refine ⟨fun r hpar hcap iv i hi => ?_, fun bs ix hpar hrecs hcap => ?_⟩
  · have hexec := march_starts (iv := iv) hp hcont' hobj hroom hpar hcap
    have harm : exec i s = march iv k p q o s := by
      subst hi
      cases iv <;> rfl
    refine ⟨_, harm.trans hexec, ?_⟩
    refine ⟨⟨rfl, rfl, rfl, rfl, rfl, rfl, rfl, rfl, rfl, rfl, rfl, rfl, rfl, rfl⟩, rfl, rfl, rfl, rfl, fun j L hj hL => ?_⟩
    rw [mget_captured _ _ _ hL]
    exact if_ctx_congr (and_iff_right hj) (fun _ => rfl) fun _ => rfl
  · have hexec := mresume_starts hp hcont' hobj hroom hpar hrecs hcap
    refine ⟨_, hexec, ?_⟩
    exact ⟨⟨rfl, rfl, rfl, rfl, rfl, rfl, rfl, rfl, rfl, rfl, rfl, rfl, rfl, rfl⟩, rfl, rfl, rfl, rfl, rfl⟩

end Sys2Proof.Proofs
end

section
/-! PROOFS. The launch manager: records taken, units placed, mailboxes appended (15 R399 to R404, R407, R408). -/
namespace Sys2Proof.Proofs
open Sys2Proof Sys2Proof.Machine Sys2Proof.Laws Sys2Proof.Claims

/-! ### Records (15 R399) -/

theorem exec_takeRecord {n : Nat} {q : Queue} {s : State} (hopen : openQueue s n = some q) (htake : takeable s q = true) :
    exec (.takeRecord n) s = .next (takeFrom q s) := by
  have harm : exec (.takeRecord n) s = execTakeRecord n s := rfl
  rw [harm, execTakeRecord, hopen]
  exact if_pos htake

/-! ### The level that is served (15 R401, R403) -/

/-- The queues of a level in turn, those whose front unit fits. -/
def levelRing (p : Nat) (s : State) : List Nat :=
  (ringFrom (mget 0 s.sch.ptr p) ((s.sch.queues.filter fun q => decide (q.prio = p)).map (·.n))).filter (placeable s)

theorem mem_ringFrom {p n : Nat} {l : List Nat} (h : n ∈ ringFrom p l) : n ∈ l := by
  rw [ringFrom, List.mem_append] at h
  obtain h | h := h <;> exact (List.mem_filter.mp h).1

/-- A level none of whose queues has a unit that fits. -/
theorem levelRing_eq_nil {p : Nat} {s : State} (h : ∀ q ∈ s.sch.queues, q.prio = p → placeable s q.n = false) : levelRing p s = [] := by
  refine List.filter_eq_nil_iff.mpr fun n hn => ?_
  obtain ⟨q, hq, rfl⟩ := List.mem_map.mp (mem_ringFrom hn)
  obtain ⟨hmem, hprio⟩ := List.mem_filter.mp hq
  rw [h q hmem (of_decide_eq_true hprio)]
  exact Bool.false_ne_true

theorem placeLevel_eq_none {p : Nat} {s : State} (h : ∀ q ∈ s.sch.queues, q.prio = p → placeable s q.n = false) : placeLevel p s = none := by
  have hring := levelRing_eq_nil h
  rw [levelRing] at hring
  rw [placeLevel, hring]
  rfl

theorem placeLevel_of_winner {p w : Nat} {s t : State} (hw : winner s (levelRing p s) = some w)
    (hplace : placeFront w (addQuanta w (rounds s w) (levelRing p s) s) = some t) :
    placeLevel p s = some (settleDeficit w { t with sch := { t.sch with ptr := mset 0 t.sch.ptr p (w + 1) } }) := by
  rw [levelRing] at hw hplace
  rw [placeLevel, hw]
  dsimp only
  rw [hplace]
  rfl

theorem levelsDown_pairwise (s : State) : (levelsDown s).Pairwise (· > ·) := by
  refine .filter _ (List.pairwise_map.mpr ?_)
  refine List.pairwise_lt_range.imp_of_mem fun ha hb h => ?_
  have := List.mem_range.mp hb
  omega

/-- Where no level above has a unit that fits, the level's own unit is placed. -/
theorem exec_placeUnit {p w : Nat} {s t : State} (hon : computeOn s = true) (hp : p ∈ levelsDown s)
    (habove : ∀ q ∈ s.sch.queues, p < q.prio → placeable s q.n = false) (hw : winner s (levelRing p s) = some w)
    (hplace : placeFront w (addQuanta w (rounds s w) (levelRing p s) s) = some t) :
    exec .placeUnit s = .next (settleDeficit w { t with sch := { t.sch with ptr := mset 0 t.sch.ptr p (w + 1) } }) := by
  have harm : exec .placeUnit s = execPlaceUnit s := rfl
  obtain ⟨above, below, hlevels⟩ := List.append_of_mem hp
  have hhigher : above.findSome? (fun p => placeLevel p s) = none := by
    refine List.findSome?_eq_none_iff.mpr fun p' hp' => placeLevel_eq_none fun q hq hprio => habove q hq ?_
    have hsorted := levelsDown_pairwise s
    rw [hlevels, List.pairwise_append] at hsorted
    obtain ⟨-, -, hgt⟩ := hsorted
    rw [hprio]
    exact hgt p' hp' p List.mem_cons_self
  have hfound : (levelsDown s).findSome? (fun p => placeLevel p s) =
      some (settleDeficit w { t with sch := { t.sch with ptr := mset 0 t.sch.ptr p (w + 1) } }) := by
    rw [hlevels, List.findSome?_append, hhigher, Option.none_or, List.findSome?_cons, placeLevel_of_winner hw hplace]
  rw [harm, execPlaceUnit, hon, hfound]
  rfl

/-! ### Where a launch's unit goes (15 R404) -/

/-- What a launch at the front of a queue has: a unit left, its setup done. -/
theorem frontOf_unit {n : Nat} {l : Launch} {s : State} (h : frontOf s n = .unit l) :
    ¬ (unitCount l.lrec ≤ l.nextUnit ∨ s.gtime ≤ l.ready ∨ underWay l.uid s = true) := by
  unfold frontOf at h
  split at h
  · cases h
  · split at h
    · next x hfind =>
      split at h
      · cases h
      · next hready =>
        cases h
        have hfound := List.find?_some hfind
        rw [Bool.and_eq_true, decide_eq_true_eq, decide_eq_true_eq] at hfound
        obtain ⟨-, hunits⟩ := hfound
        rw [Bool.or_eq_true, decide_eq_true_eq] at hready
        rintro (hdone | hwaits)
        · omega
        · exact hready hwaits
    · cases h

theorem placeFront_unit {n : Nat} {l : Launch} {s : State} (hfront : frontOf s n = .unit l) (hfree : l.lrec.flags.testBit 0 = false)
    (hroom : ∃ p < places l.lrec, (atPlace (fun i core s => addCrew l (l.nextUnit * unitTasks l.lrec + i) core s) l.lrec p s).isSome = true) :
    ∃ u, placeFront n s = some { u with sch := { u.sch with
        launches := u.sch.launches.map fun y => if y.uid = l.uid then { y with nextUnit := y.nextUnit + 1 } else y } } ∧
      LeastLoaded (fun p => atPlace (fun i core s => addCrew l (l.nextUnit * unitTasks l.lrec + i) core s) l.lrec p s) (loadOf l.lrec s) (places l.lrec) u := by
  obtain ⟨u, hu, hleast⟩ := leastLoaded_range (load := loadOf l.lrec s) hroom
  refine ⟨u, ?_, hleast⟩
  have hnot : ¬ nbit l.lrec.flags 0 = true := by rw [nbit, hfree]; exact Bool.false_ne_true
  rw [placeFront, hfront]
  dsimp only
  rw [placeNext, if_neg (frontOf_unit hfront)]
  dsimp only
  rw [if_neg hnot, placeLeast_eq, hu]
  rfl

/-! ### Mailboxes (15 R407, R408) -/

theorem withRecord_of_given {m : MboxTrig} {s : State} {f : State → State} (hgaps : hostGaps (mboxReader m.ctx m.n) s m.ctx m.record 256 = [])
    (hturn : mboxEarly s m = false) : withRecord m s f = .next (f s) := by
  rw [withRecord, hgaps]
  dsimp only
  rw [hturn, if_neg Bool.false_ne_true]

/-- The triggers of a mailbox. -/
def boxTrigs (ctx n : Nat) (s : State) : List MboxTrig := s.sch.mbox.filter fun m => decide (m.ctx = ctx) && decide (m.n = n)

/-- The oldest trigger of a mailbox whose bytes are complete. -/
def dueTrig (ctx n : Nat) (s : State) : Option MboxTrig := (boxTrigs ctx n s).find? fun m => !m.pending && decide (m.time < s.gtime) && !underWay m.op s

section
variable {ctx n : Nat} {m : MboxTrig} {s : State}

theorem exec_mailbox (ctx n : Nat) (s : State) : exec (.mailboxPendingAppend ctx n) s = execMailboxPendingAppend ctx n s := rfl

theorem exec_mailbox_pending (hpend : (boxTrigs ctx n s).find? (·.pending) = some m) :
    (mboxFull s m = false → hostGaps (mboxReader m.ctx m.n) s m.ctx m.record 256 = [] → mboxEarly s m = false →
      exec (.mailboxPendingAppend ctx n) s = .next (mboxAppend m (mboxPend ctx n false (dropTrig m s)))) ∧
    ∀ d, mboxFull s m = true → dueTrig ctx n s = some d → exec (.mailboxPendingAppend ctx n) s = .next (mboxMissed ctx n (dropTrig d s)) := by
  rw [boxTrigs] at hpend
  rw [exec_mailbox, execMailboxPendingAppend, hpend]
  dsimp only
  refine ⟨fun hroom hgaps hturn => ?_, fun d hfull hdue => ?_⟩
  · rw [hroom, if_pos (by decide)]
    exact withRecord_of_given hgaps hturn
  · rw [dueTrig, boxTrigs] at hdue
    rw [hfull, if_neg (by decide), hdue]

theorem exec_mailbox_due (hpend : (boxTrigs ctx n s).find? (·.pending) = none) (hdue : dueTrig ctx n s = some m) :
    (mboxFull s m = false → hostGaps (mboxReader m.ctx m.n) s m.ctx m.record 256 = [] → mboxEarly s m = false →
      exec (.mailboxPendingAppend ctx n) s = .next (mboxAppend m (dropTrig m s))) ∧
    (mboxFull s m = true → exec (.mailboxPendingAppend ctx n) s =
      .next (mboxPend ctx n true { s with sch := { s.sch with mbox := s.sch.mbox.erase m ++ [{ m with pending := true }] } })) := by
  rw [boxTrigs] at hpend
  rw [dueTrig, boxTrigs] at hdue
  rw [exec_mailbox, execMailboxPendingAppend, hpend, hdue]
  dsimp only
  refine ⟨fun hroom hgaps hturn => ?_, fun hfull => ?_⟩
  · rw [hroom, if_neg Bool.false_ne_true]
    exact withRecord_of_given hgaps hturn
  · rw [hfull, if_pos rfl]
    rfl

theorem mboxAppend_of_record {q : Queue} {b : List Byte} (hq : mboxQueue s m = some q) (hb : recordAt (mboxReader m.ctx m.n) s m.ctx m.record 256 = some b) :
    mboxAppend m s = appendRecord q (b.take 248 ++ littleEndian 8 m.addr) none (mboxKey m) (dropHostReads (mboxReader m.ctx m.n).1 s) := by
  rw [mboxAppend, hq, hb, littleEndian_eq_toBytes]

theorem mboxAppend_of_none (h : mboxQueue s m = none ∨ recordAt (mboxReader m.ctx m.n) s m.ctx m.record 256 = none) :
    mboxAppend m s = mboxMissed m.ctx m.n (dropHostReads (mboxReader m.ctx m.n).1 s) := by
  rw [mboxAppend]
  obtain h | h := h
  · rw [h]
  · rw [h]
    cases mboxQueue s m <;> rfl

end

/-- Settles O44: each event under its conditions by the lemma that says what it does. -/
theorem managerEventsComplete : Obligations.ManagerEventsComplete := by
  unfold Obligations.ManagerEventsComplete
  intro n s
  refine ⟨fun q hopen htake => exec_takeRecord hopen htake, fun p w t hon hp habove hw hplace => exec_placeUnit hon hp habove hw hplace,
    fun l hfront hfree hroom => placeFront_unit hfront hfree hroom, fun ctx => ⟨?_, ?_, ?_⟩,
    fun m => ⟨fun q b hq hb => mboxAppend_of_record hq hb, mboxAppend_of_none⟩⟩
  · rintro m hpend hroom ⟨hgaps, hturn⟩
    exact (exec_mailbox_pending hpend).1 hroom hgaps hturn
  · exact fun m d hpend hfull hdue => (exec_mailbox_pending hpend).2 d hfull hdue
  · intro m hpend hdue
    refine ⟨?_, (exec_mailbox_due hpend hdue).2⟩
    rintro hroom ⟨hgaps, hturn⟩
    exact (exec_mailbox_due hpend hdue).1 hroom hgaps hturn

end Sys2Proof.Proofs
end

section
/-! PROOFS. Messages as they arrive: admission, order, answers (17 R428, R430, R431, 18 R445). -/
namespace Sys2Proof.Proofs
open Sys2Proof Sys2Proof.Machine Sys2Proof.Laws Sys2Proof.Claims

/-! ### Admission and membership -/

theorem admits_iff (m : PvlMsg) (s : State) : admits m s = true ↔ admitted m s := by
  simp only [admits, admitted, validSrc, Bool.and_eq_true, Bool.or_eq_true, decide_eq_true_eq, and_assoc]
  rfl

theorem notMember_iff (m : PvlMsg) (s : State) : notMember m s = true ↔ ¬ heard m s := by
  simp only [notMember, heard, Bool.and_eq_true, Bool.not_eq_true', decide_eq_true_eq, List.contains_eq_mem, decide_eq_false_iff_not, not_or,
    Bool.not_eq_true]
  tauto

theorem kept_iff (m : PvlMsg) (s : State) : kept m s = true ↔ isKept m s := by
  simp only [kept, isKept, List.any_eq_true, Bool.and_eq_true, decide_eq_true_eq]

/-! ### What arrives without being performed -/

theorem exec_messageOf {i : Instr} {type : Nat} {m : PvlMsg} {b : PvlBody} {s : State} (h : messageOf i = some (type, m, b)) (htype : m.type = type) :
    exec i s = receive m b s ∧ m.type ≠ 4 := by
  cases i <;> cases h
  all_goals
    refine ⟨if_pos htype, ?_⟩
    omega

section
variable {m : PvlMsg} {b : PvlBody} {s : State}

theorem receive_of_not_admitted (h : ¬ admitted m s) : receive m b s = .next { s with fab := { s.fab with drops := s.fab.drops + 1 } } := by
  rw [← admits_iff, Bool.not_eq_true] at h
  rw [receive, h]
  rfl

theorem receive_of_admitted (h : admitted m s) :
    receive m b s =
      if s.mgt.safe ∧ m.type ≠ 0x0B then .next (respond m 6 [] s)
      else if m.type = 4 then .next (doResp m s) else if notMember m s then .next (respond m 7 [] s) else .next (takeMsg m b (readmit m s)) := by
  rw [receive, (admits_iff m s).mpr h]
  rfl

theorem receive_in_safe_state (h : admitted m s) (hsafe : s.mgt.safe = true) (htype : m.type ≠ 11) : receive m b s = .next (respond m 6 [] s) := by
  rw [receive_of_admitted h, if_pos ⟨hsafe, htype⟩]

theorem receive_of_stranger (h : admitted m s) (hheard : ¬ heard m s) (hresp : m.type ≠ 4) : receive m b s = .next (respond m 7 [] s) := by
  have hunsafe : ¬ (s.mgt.safe = true ∧ m.type ≠ 11) := fun hs => hheard (.inr (.inr (.inr hs.1)))
  rw [receive_of_admitted h, if_neg hunsafe, if_neg hresp, if_pos ((notMember_iff m s).mpr hheard)]

theorem receive_resp (h : admitted m s) (hsafe : s.mgt.safe = false) (hresp : m.type = 4) : receive m b s = .next (doResp m s) := by
  have hunsafe : ¬ (s.mgt.safe = true ∧ m.type ≠ 11) := fun hs => Bool.false_ne_true (hsafe.symm.trans hs.1)
  rw [receive_of_admitted h, if_neg hunsafe, if_pos hresp]

theorem receive_of_heard (h : admitted m s) (hheard : heard m s) (hsafe : s.mgt.safe = false ∨ m.type = 11) (hresp : m.type ≠ 4) :
    receive m b s = .next (takeMsg m b (readmit m s)) := by
  have hserved : ¬ (s.mgt.safe = true ∧ m.type ≠ 11) := by
    rintro ⟨hs, ht⟩
    obtain hsafe | hsafe := hsafe
    · exact Bool.false_ne_true (hsafe.symm.trans hs)
    · exact ht hsafe
  rw [receive_of_admitted h, if_neg hserved, if_neg hresp, if_neg fun hn => (notMember_iff m s).mp hn hheard]

/-! ### Turns (17 R431) -/

theorem inTurn_iff (m : PvlMsg) (b : PvlBody) (s : State) : inTurn s (m, b) = true ↔ m.seq = mget 0 s.fab.seqExp m.src ∧ settled m s := by
  rw [inTurn, Bool.and_eq_true, Bool.and_eq_true, decide_eq_true_eq, List.all_eq_true, List.all_eq_true, and_assoc, settled]
  refine and_congr_right' (and_congr (by simp only [decide_eq_true_eq]) (forall₂_congr fun w _ => ?_))
  cases w.msg with
  | none => simp
  | some x => simp

/-- What a kept message waits for does not depend on the messages kept and sent. -/
theorem isDue_keep (s : State) : isDue (keep m b s) = isDue s := rfl

theorem isDue_emit (o : Output) (s : State) : isDue (emit o s) = isDue s := rfl

theorem isDue_iff (m : PvlMsg) (b : PvlBody) (s : State) :
    isDue s (m, b) = true ↔ (m.seq = mget 0 s.fab.seqExp m.src ∧ settled m s) ∧ mustWait m s = false := by
  rw [isDue, Bool.and_eq_true, inTurn_iff, Bool.not_eq_true']

/-- Where no kept message is due, only the last one can be. -/
theorem filter_isDue_append (hidle : s.fab.inbox.find? (isDue s) = none) :
    (s.fab.inbox ++ [(m, b)]).filter (isDue s) = if isDue s (m, b) = true then [(m, b)] else [] := by
  rw [List.filter_append, List.filter_eq_nil_iff.mpr (List.find?_eq_none.mp hidle), List.nil_append, List.filter_cons, List.filter_nil]

/-- Nothing is performed where nothing is due. -/
theorem serveInbox_of_idle (n : Nat) (h : nextDue s = none) : serveInbox n s = s := by
  cases n with
  | zero => rfl
  | succ n => rw [serveInbox, h]

theorem erase_kept (hnew : ¬ isKept m s) : (s.fab.inbox ++ [(m, b)]).erase (m, b) = s.fab.inbox := by
  have hmem : (m, b) ∉ s.fab.inbox := fun h => hnew ⟨(m, b), h, rfl, rfl⟩
  rw [List.erase_append_right _ hmem, List.erase_cons_head, List.append_nil]

/-- A new message that is not due is kept, and nothing is performed. -/
theorem serveAll_of_waiting {w : State} (hinbox : w.fab.inbox = s.fab.inbox ++ [(m, b)]) (hsame : isDue w = isDue s)
    (hidle : s.fab.inbox.find? (isDue s) = none) (hwait : isDue s (m, b) = false) : serveAll w = askInbox w := by
  have hnone : nextDue w = none := by
    rw [nextDue, hinbox, hsame, filter_isDue_append hidle, hwait]
    rfl
  rw [serveAll, serveInbox_of_idle _ hnone]

/-- A new message that is due is performed, and the kept ones follow. -/
theorem serveAll_of_due (hnew : ¬ isKept m s) (hidle : s.fab.inbox.find? (isDue s) = none) (hdue : isDue s (m, b) = true) :
    Host.Outcome.next (serveAll (keep m b s)) = performed s (perform m b (awaitNext m s)) := by
  have hinbox : (keep m b s).fab.inbox = s.fab.inbox ++ [(m, b)] := rfl
  have hnext : nextDue (keep m b s) = some (m, b) := by
    rw [nextDue, hinbox, isDue_keep, filter_isDue_append hidle, if_pos hdue]
    simp
  have hrest : advance m (modFab (fun f => { f with inbox := f.inbox.erase (m, b) }) (keep m b s)) = awaitNext m s := by
    have herase := erase_kept (b := b) hnew
    rw [← hinbox] at herase
    rw [advance, modFab, modFab, herase]
    rfl
  rw [performed, serveAll, hinbox, List.length_append, List.length_singleton, serveInbox, hnext]
  dsimp only
  rw [hrest]

/-- A new message is kept for its turn. -/
theorem takeMsg_of_new (hseq : mget 0 s.fab.seqExp m.src ≤ m.seq) (hnew : ¬ isKept m s) : takeMsg m b s = serveAll (askAgain m (keep m b s)) := by
  rw [takeMsg, if_neg]
  rintro (hold | hkept)
  · omega
  · exact hnew ((kept_iff m s).mp hkept)

theorem takeMsg_of_old (h : m.seq < mget 0 s.fab.seqExp m.src ∨ isKept m s) : takeMsg m b s = s := by
  rw [takeMsg, if_pos (h.imp_right (kept_iff m s).mpr)]

/-- What the part still awaits of the sender when the message is kept. -/
theorem any_inbox_keep (e : Nat) : ((keep m b s).fab.inbox.any fun x => decide (x.1.src = m.src) && decide (x.1.seq = e)) = true ↔
    (∃ x ∈ s.fab.inbox, x.1.src = m.src ∧ x.1.seq = e) ∨ m.seq = e := by
  rw [keep, modFab, List.any_append, Bool.or_eq_true, List.any_eq_true]
  simp only [Bool.and_eq_true, decide_eq_true_eq, List.any_cons, List.any_nil, Bool.or_false, true_and]

theorem askAgain_of_awaited (h : m.seq = mget 0 s.fab.seqExp m.src) : askAgain m (keep m b s) = keep m b s := by
  rw [askAgain]
  exact if_neg fun hlt => absurd h hlt.1.ne'

theorem askAgain_of_missing (hlt : mget 0 s.fab.seqExp m.src < m.seq) (hmissing : ∀ x ∈ s.fab.inbox, x.1.src = m.src → x.1.seq ≠ mget 0 s.fab.seqExp m.src) :
    askAgain m (keep m b s) = emit (.again m.src (mget 0 s.fab.seqExp m.src)) (keep m b s) := by
  rw [askAgain]
  refine if_pos ⟨hlt, ?_⟩
  rw [Bool.not_eq_true', Bool.eq_false_iff]
  intro hany
  obtain ⟨x, hx, hsrc, hseq⟩ | hseq := (any_inbox_keep _).mp hany
  · exact hmissing x hx hsrc hseq
  · exact hlt.ne' hseq

theorem askAgain_of_found (hfound : ∃ x ∈ s.fab.inbox, x.1.src = m.src ∧ x.1.seq = mget 0 s.fab.seqExp m.src) :
    askAgain m (keep m b s) = keep m b s := by
  rw [askAgain]
  refine if_neg fun hmissing => ?_
  obtain ⟨-, hnone⟩ := hmissing
  rw [Bool.not_eq_true', Bool.eq_false_iff] at hnone
  exact hnone ((any_inbox_keep _).mpr (.inl hfound))

theorem isDue_eq_false_of_ahead (hlt : mget 0 s.fab.seqExp m.src < m.seq) : isDue s (m, b) = false := by
  rw [Bool.eq_false_iff]
  exact fun hdue => hlt.ne' ((isDue_iff m b s).mp hdue).1.1

/-- A new message of its sender, no kept one being due: performed, or kept with or without asking for what is missing. -/
theorem takeMsg_in_order (hnew : ¬ isKept m s) (hidle : s.fab.inbox.find? (isDue s) = none) :
    (m.seq = mget 0 s.fab.seqExp m.src → settled m s → mustWait m s = false →
      Host.Outcome.next (takeMsg m b s) = performed s (perform m b (awaitNext m s))) ∧
    (m.seq = mget 0 s.fab.seqExp m.src → ¬ settled m s ∨ mustWait m s = true → takeMsg m b s = askInbox (keep m b s)) ∧
    (mget 0 s.fab.seqExp m.src < m.seq → (∀ x ∈ s.fab.inbox, x.1.src = m.src → x.1.seq ≠ mget 0 s.fab.seqExp m.src) →
      takeMsg m b s = askInbox (emit (.again m.src (mget 0 s.fab.seqExp m.src)) (keep m b s))) ∧
    (mget 0 s.fab.seqExp m.src < m.seq → (∃ x ∈ s.fab.inbox, x.1.src = m.src ∧ x.1.seq = mget 0 s.fab.seqExp m.src) →
      takeMsg m b s = askInbox (keep m b s)) := by
  refine ⟨fun hseq hsettled hready => ?_, fun hseq hwaits => ?_, fun hlt hmissing => ?_, fun hlt hfound => ?_⟩
  · rw [takeMsg_of_new hseq.ge hnew, askAgain_of_awaited hseq]
    exact serveAll_of_due hnew hidle ((isDue_iff m b s).mpr ⟨⟨hseq, hsettled⟩, hready⟩)
  · rw [takeMsg_of_new hseq.ge hnew, askAgain_of_awaited hseq]
    refine serveAll_of_waiting rfl (isDue_keep s) hidle (Bool.eq_false_iff.mpr fun hdue => ?_)
    obtain ⟨⟨-, hsettled⟩, hready⟩ := (isDue_iff m b s).mp hdue
    obtain hunsettled | hmust := hwaits
    · exact hunsettled hsettled
    · exact Bool.false_ne_true (hready.symm.trans hmust)
  · rw [takeMsg_of_new hlt.le hnew, askAgain_of_missing hlt hmissing]
    exact serveAll_of_waiting rfl ((isDue_emit _ _).trans (isDue_keep s)) hidle (isDue_eq_false_of_ahead hlt)
  · rw [takeMsg_of_new hlt.le hnew, askAgain_of_found hfound]
    exact serveAll_of_waiting rfl (isDue_keep s) hidle (isDue_eq_false_of_ahead hlt)

end

end Sys2Proof.Proofs
end

section
/-! PROOFS. Ethernet frames (17 R427, R434, R435). -/
namespace Sys2Proof.Proofs
open Sys2Proof Sys2Proof.Machine Sys2Proof.Laws Sys2Proof.Claims

theorem portOn_of_open {port : Nat} {s : State} (h : portOpen port s) : portOn port s = true := by
  obtain ⟨hport, hopen⟩ := h
  rw [portOn, nbit, portsOn]
  split
  · interval_cases port <;> rfl
  · next hsafe =>
    have hbit := hopen.resolve_left hsafe
    rw [BitVec.getLsbD] at hbit
    rw [nb, Nat.pow_zero, Nat.div_one, Nat.testBit_mod_two_pow, hbit]
    simpa using hport

section
variable {port p a : Nat} {m : PvlMsg} {b : PvlBody} {d : List Byte} {s : State}

theorem answersFor_of_mem (h : (port, a) ∈ s.netAddrs) : answersFor port a s = true := by
  rw [answersFor, List.contains_iff_mem.mpr h, Bool.true_or]

theorem answersFor_of_not_mem (h : (port, a) ∉ s.netAddrs) (hsafe : s.mgt.safe = false) : answersFor port a s = false := by
  rw [answersFor, hsafe, Bool.false_and, Bool.or_false, Bool.eq_false_iff]
  exact fun hmem => h (List.contains_iff_mem.mp hmem)

variable (hport : portOpen port s)
include hport

theorem exec_ethernetFrame_pvl :
    exec (.ethernetFrame port (.pvl p m b)) s = if p = pvlPort s then receive m b s else .next (countDrop s) := by
  have harm : exec (.ethernetFrame port (.pvl p m b)) s = execEthernetFrame port (.pvl p m b) s := rfl
  rw [harm, execEthernetFrame, portOn_of_open hport]
  rfl

theorem exec_ethernetFrame_arp :
    exec (.ethernetFrame port (.arp a)) s = if s.netAddrs.contains (port, a) then .next (emit (.arpReply port a) s) else .next (countDrop s) := by
  have harm : exec (.ethernetFrame port (.arp a)) s = execEthernetFrame port (.arp a) s := rfl
  rw [harm, execEthernetFrame, portOn_of_open hport]
  rfl

theorem exec_ethernetFrame_neighbour :
    exec (.ethernetFrame port (.neighbour a)) s = if answersFor port a s then .next (emit (.neighbourReply port a) s) else .next (countDrop s) := by
  have harm : exec (.ethernetFrame port (.neighbour a)) s = execEthernetFrame port (.neighbour a) s := rfl
  rw [harm, execEthernetFrame, portOn_of_open hport]
  rfl

theorem exec_ethernetFrame_echo :
    exec (.ethernetFrame port (.echo a d)) s = if answersFor port a s then .next (emit (.echoReply port d) s) else .next (countDrop s) := by
  have harm : exec (.ethernetFrame port (.echo a d)) s = execEthernetFrame port (.echo a d) s := rfl
  rw [harm, execEthernetFrame, portOn_of_open hport]
  rfl

theorem exec_ethernetFrame_other : exec (.ethernetFrame port .other) s = .next (countDrop s) := by
  have harm : exec (.ethernetFrame port .other) s = execEthernetFrame port .other s := rfl
  rw [harm, execEthernetFrame, portOn_of_open hport]
  rfl

theorem exec_ethernetFrame_ptp (x : PtpMsg) : exec (.ethernetFrame port (.ptp x)) s = execPtpMessage x s := by
  have harm : exec (.ethernetFrame port (.ptp x)) s = execEthernetFrame port (.ptp x) s := rfl
  rw [harm, execEthernetFrame, portOn_of_open hport]
  rfl

/-- Requests for an address of the port are answered. -/
theorem exec_ethernetFrame_own (ha : (port, a) ∈ s.netAddrs) :
    exec (.ethernetFrame port (.arp a)) s = .next (emit (.arpReply port a) s) ∧
      exec (.ethernetFrame port (.neighbour a)) s = .next (emit (.neighbourReply port a) s) ∧
      exec (.ethernetFrame port (.echo a d)) s = .next (emit (.echoReply port d) s) := by
  rw [exec_ethernetFrame_arp hport, exec_ethernetFrame_neighbour hport, exec_ethernetFrame_echo hport, answersFor_of_mem ha]
  exact ⟨if_pos (List.contains_iff_mem.mpr ha), if_pos rfl, if_pos rfl⟩

/-- Requests for another address are dropped and counted. -/
theorem exec_ethernetFrame_foreign (ha : (port, a) ∉ s.netAddrs) (hsafe : s.mgt.safe = false) :
    exec (.ethernetFrame port (.arp a)) s = .next (countDrop s) ∧ exec (.ethernetFrame port (.neighbour a)) s = .next (countDrop s) ∧
      exec (.ethernetFrame port (.echo a d)) s = .next (countDrop s) := by
  rw [exec_ethernetFrame_arp hport, exec_ethernetFrame_neighbour hport, exec_ethernetFrame_echo hport, answersFor_of_not_mem ha hsafe]
  exact ⟨if_neg fun h => ha (List.contains_iff_mem.mp h), if_neg Bool.false_ne_true, if_neg Bool.false_ne_true⟩

end

theorem pvlPort_of_not_safe {s : State} (h : s.mgt.safe = false) : pvlPort s = nb (preg s 0x18).toNat 31 16 := by
  rw [pvlPort, h]
  rfl

/-- Settles O46: a frame by the lemma of its kind, a message by `receive_of_heard` and `takeMsg_in_order` or by the answer it is refused with. -/
theorem ethernetFrames : Obligations.EthernetFrames := by
  unfold Obligations.EthernetFrames
  refine ⟨fun port p a off m b d s => ⟨fun hport => ⟨fun hsafe hp => ?_, fun hsafe hp => ?_, exec_ethernetFrame_own hport, exec_ethernetFrame_foreign hport,
    exec_ethernetFrame_other hport, exec_ethernetFrame_ptp hport _⟩, rfl⟩, fun i type m b s hi htype => ?_⟩
  · rw [exec_ethernetFrame_pvl hport, pvlPort_of_not_safe hsafe, if_pos hp]
  · rw [exec_ethernetFrame_pvl hport, pvlPort_of_not_safe hsafe, if_neg hp]
    rfl
  · obtain ⟨hexec, hresp⟩ := exec_messageOf (s := s) hi htype
    subst htype
    rw [hexec]
    refine ⟨receive_of_not_admitted, receive_in_safe_state, fun hadm hheard => receive_of_stranger hadm hheard hresp, fun hadm hheard hsafe => ?_,
      fun r hr hadm => ?_⟩
    · rw [receive_of_heard hadm hheard hsafe hresp]
      refine ⟨fun hold => by rw [takeMsg_of_old hold], fun hnew hidle => ?_⟩
      obtain ⟨hdue, hwaits, hmissing, hfound⟩ := takeMsg_in_order (b := b) hnew hidle
      exact ⟨hdue, fun hseq h => congrArg Host.Outcome.next (hwaits hseq h), fun hlt h => congrArg Host.Outcome.next (hmissing hlt h),
        fun hlt h => congrArg Host.Outcome.next (hfound hlt h)⟩
    · have harm : exec (.resp r) s = receive r .plain s := if_pos hr
      rw [harm]
      refine ⟨fun hsafe => receive_resp hadm hsafe hr, fun hsafe => receive_in_safe_state hadm hsafe ?_⟩
      rw [hr]
      decide

end Sys2Proof.Proofs
end
